-- ==== Sys2Proof/Word.lean ====
section
/-! DEFINITION. The word types of the Karpaux P64 (R6, R20, R48): plain names for bit vectors. -/

namespace Sys2Proof

/-- A byte of scratchpad, of a module or of a table (R6). -/
abbrev Byte := BitVec 8
/-- A 32-bit code, header, handler, constant, configuration or image word (R37, R42). -/
abbrev W32 := BitVec 32
/-- Lane 0 of a register, a scratchpad word, an address (R48, R212). -/
abbrev W64 := BitVec 64
/-- A whole register of the main, operand or last-result file (R101). -/
abbrev V256 := BitVec 256
/-- An operand specifier (Table 02.5). -/
abbrev Spec := BitVec 6
/-- A cell's name: logical die in [19:14], logical cell index in [13:0] (R20). -/
abbrev Name := BitVec 20
/-- Index of a thread of a cell, T0 to T7 (R57). -/
abbrev TIdx := Fin 8
/-- Physical die site, y × 8 + x (R14). -/
abbrev DieSite := BitVec 6
/-- Tumbler in its die, (ty div 2) × 8 + tx div 2 (Table 15.6). -/
abbrev TumIdx := BitVec 6
/-- Partition number, 0 to 63 (R24). -/
abbrev PartIdx := BitVec 6

end Sys2Proof
end

