-- ==== Sys2Proof/Syntax.lean ====
section
/-! DEFINITION. The one inductive of the model: every instruction word of the opcode map (Table 02.8) and every
event of the part that spec/opcode_table.json lists, one constructor per row, in the table's order.
An instruction carries the fields of its layout (Tables 02.4, 02.6); an event carries what tells it apart from
another event of its kind: the cell, the thread, the entry of a queue or of a link, the record it brings in. -/

namespace Sys2Proof

/-- The part of a first word that every instruction has (Table 02.4): the wait marker W, guard negate GN and
guard predicate GP. -/
structure Hdr where
  w  : Bool
  gn : Bool
  gp : BitVec 3
  deriving DecidableEq, Repr

/-- A host port (R377). -/
inductive Port where
  | a
  | b
  deriving DecidableEq, Repr

/-- Power states of a cell or an island (Table 15.2). -/
inductive PowerState where
  | run
  | slow
  | drowsy
  | retain
  | gated
  deriving DecidableEq, Repr

/-- What the management port can read (R387). -/
inductive MgmtItem where
  | defectMap
  | gradeShortfall
  | errorCounters
  | crossingCounters
  | sensors
  deriving DecidableEq, Repr

/-- A request that a Dziham port takes (Table 11.6); the number of frame replays that failed comes with it. -/
inductive DzihamReq where
  | readLine (addr : BitVec 39) (failedReplays : Nat)
  | readRange (addr : BitVec 39) (len : Nat) (failedReplays : Nat)
  | writeLine (addr : BitVec 39) (bytes : List (Option Byte)) (failedReplays : Nat)
  deriving DecidableEq, Repr

/-- A tag as the panel behind a link has set it (R300, R386): word 0 of its bucket record (Table 12.2), and the parent and label of each
node of its tree whose parent is across the link. -/
structure LinkTag where
  word : W32
  ups  : List (Name × BitVec 3)
  deriving DecidableEq, Repr

/-- A contribution or a result on a panel link: its epoch, its flags and its data (R293). -/
structure LinkPart where
  epoch   : BitVec 16
  empty   : Bool
  partial_ : Bool
  nan     : Bool
  missing : BitVec 16
  data    : List V256
  deriving DecidableEq, Repr

/-- An S-plane packet that arrives by a panel link (R300): a contribution of a far node to its parent here, with its label; a credit,
or a result, for a node here whose parent is far. -/
inductive LinkFrame where
  | contrib (tag : BitVec 12) (child node : Name) (lbl : BitVec 3) (k : LinkPart)
  | credit (tag : BitVec 12) (node : Name)
  | result (tag : BitVec 12) (node : Name) (k : LinkPart)
  deriving DecidableEq, Repr

/-- What a panel link brings: the tags that the panel behind it has set (R386), and S-plane packets (R300). -/
structure LinkInput where
  tags   : List LinkTag
  frames : List LinkFrame
  deriving DecidableEq, Repr

/-- Every row of spec/opcode_table.json. -/
inductive Instr where
  /-- NOP (R90): Does nothing; with W set it parks the thread until its outstanding long-latency results are written. -/
  | nop (h : Hdr)
  /-- BR (R91): Branches to the instruction's own address plus a signed 18-bit word offset. -/
  | br (h : Hdr) (o : BitVec 18)
  /-- CALL (R91): Branches by a signed word offset and links the return address into g31. -/
  | call (h : Hdr) (o : BitVec 18)
  /-- JMP (R92): Jumps to the word address held in lane 0 of A. -/
  | jmp (h : Hdr) (a : Spec)
  /-- CALLR (R92): Jumps to the address in A and links pc+1 into g31. -/
  | callr (h : Hdr) (a : Spec)
  /-- RET (R92): Returns to the address in A, g31 by default, as a fetch hint form of JMP. -/
  | ret (h : Hdr) (a : Spec)
  /-- LOOP (R93): Opens outer or inner hardware loop level with a body length and count, or skips the body when the count is zero. -/
  | loop (h : Hdr) (a : Spec) (len : BitVec 6) (x : BitVec 1)
  /-- STOP (R94): Stops the lead or ends the micro-thread's block once its outstanding results are written. -/
  | stop (h : Hdr)
  /-- BCAST (R97): Reserves the masked micro-threads and parks the lead until it can deliver a 1-8 word block to all of them. -/
  | bcast (h : Hdr) (mask : BitVec 7) (len : BitVec 3) (off : BitVec 8)
  /-- FETCHB (R98): Loads the next block into the micro-thread's block buffer and continues at its word 0. -/
  | fetchb (h : Hdr) (a : Spec)
  /-- JOINM (R99): Parks the lead until every masked micro-thread is free, stopped or faulted, then writes the faulted mask. -/
  | joinm (h : Hdr) (d : Spec) (a : Spec)
  /-- JOINM.F (R99): As JOINM, and then frees every stopped thread of the mask. -/
  | joinmF (h : Hdr) (d : Spec) (a : Spec)
  /-- YIELD (R96): Makes the thread ineligible in the next cycle while keeping its place in round-robin order. -/
  | yield (h : Hdr)
  /-- HRET (R95): Ends the handler and frees the thread once its outstanding results are written. -/
  | hret (h : Hdr)
  /-- TRAP (R371): Faults with cause TRAP, the code as INFO and the operand as FADDR, resuming after the TRAP. -/
  | trap (h : Hdr) (a : Spec) (code : BitVec 6)
  /-- BRK (R371): Faults with cause BRK, a lead fault under the debug flag, resuming at the BRK itself. -/
  | brk (h : Hdr) (a : Spec) (code : BitVec 6)
  /-- TCTL.RESUME (R100): Restarts a faulted micro-thread at its sys.FPC. -/
  | tctlResume (h : Hdr) (a : Spec)
  /-- TCTL.KILL (R100): Stops a micro-thread at its instruction boundary, parks the lead until its results are written, and frees it. -/
  | tctlKill (h : Hdr) (a : Spec)
  /-- TCTL.RESET (R100): Kills a micro-thread and clears its registers, predicates, prefix, loops, links, formats, seed and stream bindings. -/
  | tctlReset (h : Hdr) (a : Spec)
  /-- SYSRD (R126): Reads a system register into lane 0 of D. -/
  | sysrd (h : Hdr) (d : Spec) (n : BitVec 12)
  /-- SYSWR (R127): Writes lane 0 of D into a system register under the access codes of its fields. -/
  | syswr (h : Hdr) (d : Spec) (n : BitVec 12)
  /-- FPC_WRITE (R368): A SYSWR to sys.FPC rewrites the FPC of the selected faulted thread and clears its PP and END, within the block limits. -/
  | fpcWrite (h : Hdr) (d : Spec)
  /-- ADD (R111): Adds two 64-bit scalars modulo 2^64. -/
  | add (h : Hdr) (d : Spec) (a : Spec) (b : Spec) (x : BitVec 2)
  /-- SUB (R111): Subtracts two 64-bit scalars modulo 2^64. -/
  | sub (h : Hdr) (d : Spec) (a : Spec) (b : Spec) (x : BitVec 2)
  /-- MUL (R111): Multiplies two 64-bit scalars keeping the low 64 bits. -/
  | mul (h : Hdr) (d : Spec) (a : Spec) (b : Spec) (x : BitVec 2)
  /-- MULH (R112): Writes the high half of the signed or unsigned 128-bit product. -/
  | mulh (h : Hdr) (d : Spec) (a : Spec) (b : Spec) (x : BitVec 1)
  /-- DIV (R112): Starts a long-latency signed or unsigned divide on the cell's divider. -/
  | div (h : Hdr) (d : Spec) (a : Spec) (b : Spec) (x : BitVec 1)
  /-- REM (R112): Starts a long-latency signed or unsigned remainder on the cell's divider. -/
  | rem (h : Hdr) (d : Spec) (a : Spec) (b : Spec) (x : BitVec 1)
  /-- AND (R111): Bitwise AND of two 64-bit scalars. -/
  | and (h : Hdr) (d : Spec) (a : Spec) (b : Spec) (x : BitVec 2)
  /-- OR (R111): Bitwise OR of two 64-bit scalars. -/
  | or (h : Hdr) (d : Spec) (a : Spec) (b : Spec) (x : BitVec 2)
  /-- XOR (R111): Bitwise XOR of two 64-bit scalars. -/
  | xor (h : Hdr) (d : Spec) (a : Spec) (b : Spec) (x : BitVec 2)
  /-- ANDN (R111): Bitwise AND of A with the complement of B. -/
  | andn (h : Hdr) (d : Spec) (a : Spec) (b : Spec) (x : BitVec 2)
  /-- SHL (R111): Shifts lane 0 left by an unsigned count, giving 0 for counts of 64 or more. -/
  | shl (h : Hdr) (d : Spec) (a : Spec) (b : Spec) (x : BitVec 2)
  /-- SHR (R113): Shifts lane 0 right logically or arithmetically by a register or immediate count. -/
  | shr (h : Hdr) (d : Spec) (a : Spec) (b : Spec) (x : BitVec 2)
  /-- MIN (R114): Writes the signed lesser of two scalars. -/
  | min (h : Hdr) (d : Spec) (a : Spec) (b : Spec)
  /-- MAX (R114): Writes the signed greater of two scalars. -/
  | max (h : Hdr) (d : Spec) (a : Spec) (b : Spec)
  /-- MINU (R114): Writes the unsigned lesser of two scalars. -/
  | minu (h : Hdr) (d : Spec) (a : Spec) (b : Spec)
  /-- MAXU (R114): Writes the unsigned greater of two scalars. -/
  | maxu (h : Hdr) (d : Spec) (a : Spec) (b : Spec)
  /-- BITC (R115): Counts leading or trailing zeros, counts ones, or reverses the bits of lane 0. -/
  | bitc (h : Hdr) (d : Spec) (a : Spec) (x : BitVec 2)
  /-- EXT (R116): Zero- or sign-extends a byte, half or word of lane 0. -/
  | ext (h : Hdr) (d : Spec) (a : Spec) (sgn : BitVec 6) (x : BitVec 2)
  /-- MOV (R117): Copies a whole 256-bit register, or lane 0 only with .L0. -/
  | mov (h : Hdr) (d : Spec) (a : Spec) (x : BitVec 2)
  /-- CMP (R118): Compares two integers under a condition and writes a predicate. -/
  | cmp (h : Hdr) (cond : BitVec 3) (pd : BitVec 3) (a : Spec) (b : Spec) (x : BitVec 2)
  /-- FCMP (R119): Compares two FP32 values under a condition and writes a predicate. -/
  | fcmp (h : Hdr) (cond : BitVec 3) (pd : BitVec 3) (a : Spec) (b : Spec)
  /-- PLOG (R121): Combines two optionally inverted predicates by AND, OR, XOR or ANDN. -/
  | plog (h : Hdr) (pd : BitVec 3) (na : BitVec 1) (pa : BitVec 3) (nb : BitVec 1) (pb : BitVec 3) (x : BitVec 2)
  /-- PSET (R122): Sets a predicate from a constant bit. -/
  | pset (h : Hdr) (pd : BitVec 3) (v : BitVec 1)
  /-- PSET.BIT (R122): Sets a predicate from one bit of a register. -/
  | psetBit (h : Hdr) (pd : BitVec 3) (a : Spec) (n : BitVec 6)
  /-- PSET.ALL (R122): Sets p1-p7 from bits 1-7 of a register. -/
  | psetAll (h : Hdr) (a : Spec)
  /-- PRD (R123): Reads all predicates into lane 0 of a register. -/
  | prd (h : Hdr) (d : Spec)
  /-- LD (R219): Loads 1-8 bytes zero-extended from scratchpad or the system window. -/
  | ld (h : Hdr) (d : Spec) (a : Spec) (off : BitVec 6) (x : BitVec 2)
  /-- LDS (R219): Loads 1-4 bytes sign-extended. -/
  | lds (h : Hdr) (d : Spec) (a : Spec) (off : BitVec 6) (x : BitVec 2)
  /-- ST (R219): Stores 1-8 bytes of a register into scratchpad. -/
  | st (h : Hdr) (d : Spec) (a : Spec) (off : BitVec 6) (x : BitVec 2)
  /-- LDV (R221): Loads one 32-byte granule into a register. -/
  | ldv (h : Hdr) (d : Spec) (a : Spec) (off : BitVec 6)
  /-- STV (R221): Stores a whole register as one 32-byte granule. -/
  | stv (h : Hdr) (d : Spec) (a : Spec) (off : BitVec 6)
  /-- LDV.BC (R221): Loads 4 bytes and broadcasts them to every 32-bit element. -/
  | ldvBc (h : Hdr) (d : Spec) (a : Spec) (off : BitVec 6)
  /-- AOP (R222): Performs an atomic read-modify-write on a scratchpad word and returns the old value. -/
  | aop (h : Hdr) (d : Spec) (a : Spec) (op : BitVec 6)
  /-- WAITA (R223): Sleeps until a scratchpad word satisfies a condition against a comparand, then returns the word. -/
  | waita (h : Hdr) (d : Spec) (a : Spec) (b : Spec) (x : BitVec 2)
  /-- VADD (R156): Adds vector elements, wrapping, saturating or rounding by format. -/
  | vadd (h : Hdr) (d : Spec) (a : Spec) (b : Spec) (x : BitVec 2)
  /-- VSUB (R156): Subtracts vector elements. -/
  | vsub (h : Hdr) (d : Spec) (a : Spec) (b : Spec) (x : BitVec 2)
  /-- VMUL (R156): Multiplies vector elements. -/
  | vmul (h : Hdr) (d : Spec) (a : Spec) (b : Spec) (x : BitVec 2)
  /-- VFMA (R157): Fused multiply-add, multiply-subtract or negated multiply-add per element with one rounding. -/
  | vfma (h : Hdr) (d : Spec) (a : Spec) (b : Spec) (x : BitVec 2)
  /-- VMINMAX (R158): Element-wise minimum or maximum, vector-vector or vector-scalar. -/
  | vminmax (h : Hdr) (d : Spec) (a : Spec) (b : Spec) (x : BitVec 2)
  /-- VUN (R159): Element-wise absolute value, negation, sign or class mask. -/
  | vun (h : Hdr) (d : Spec) (a : Spec) (x : BitVec 2)
  /-- VRED (R162): Reduces the register's elements by sum, max, min or absolute max into element 0. -/
  | vred (h : Hdr) (d : Spec) (a : Spec) (x : BitVec 2)
  /-- VCMP (R163): Compares elements into a mask register and optionally a predicate. -/
  | vcmp (h : Hdr) (pd : BitVec 3) (m : BitVec 3) (a : Spec) (b : Spec) (x : BitVec 2)
  /-- VSEL (R164): Selects elements of A or B under the mask held in D. -/
  | vsel (h : Hdr) (d : Spec) (a : Spec) (b : Spec) (x : BitVec 1)
  /-- VSHUF (R165): Permutes elements by indices from B, from A or also from D. -/
  | vshuf (h : Hdr) (d : Spec) (a : Spec) (b : Spec) (x : BitVec 1)
  /-- VBC (R166): Broadcasts one element of A to every element of D. -/
  | vbc (h : Hdr) (d : Spec) (a : Spec) (b : Spec) (x : BitVec 1)
  /-- VLOG (R168): Bitwise AND, OR, XOR or ANDN over 256 bits. -/
  | vlog (h : Hdr) (d : Spec) (a : Spec) (b : Spec) (x : BitVec 2)
  /-- VSH (R169): Element-wise shift left, logical or arithmetic shift right, or rotate. -/
  | vsh (h : Hdr) (d : Spec) (a : Spec) (b : Spec) (x : BitVec 2)
  /-- VLANE (R167): Extracts an element to lane 0 or inserts lane 0 bits as an element. -/
  | vlane (h : Hdr) (d : Spec) (a : Spec) (k : BitVec 6) (x : BitVec 2)
  /-- VSCALE (R160): Multiplies elements by powers of two from B. -/
  | vscale (h : Hdr) (d : Spec) (a : Spec) (b : Spec) (x : BitVec 1)
  /-- VRINT (R161): Rounds elements to integral values in the same format. -/
  | vrint (h : Hdr) (d : Spec) (a : Spec) (x : BitVec 2)
  /-- CVT (R170): Converts elements between formats, narrowing into or widening from a part. -/
  | cvt (h : Hdr) (d : Spec) (a : Spec) (t : BitVec 4) (r : BitVec 2) (x : BitVec 2)
  /-- QBLK (R171): Quantises 32 elements into one block-scaled block, computing or using a scale byte. -/
  | qblk (h : Hdr) (d : Spec) (a : Spec) (b : Spec) (x : BitVec 2)
  /-- DQBLK (R172): Dequantises one block-scaled or codebook block into wide floats. -/
  | dqblk (h : Hdr) (d : Spec) (a : Spec) (b : Spec) (x : BitVec 2)
  /-- VSPEC (R173): Starts a long-latency special function on each element. -/
  | vspec (h : Hdr) (d : Spec) (a : Spec) (fn : BitVec 6)
  /-- PFX (R51): Writes format, scale and rounding overrides into the thread's prefix latch. -/
  | pfx (h : Hdr) (fs : BitVec 4) (fd : BitVec 4) (sc : BitVec 6) (rs : BitVec 2)
  /-- SETFMT (R176): Writes EF, RF, SC and RS of the thread's sys.FMT. -/
  | setfmt (h : Hdr) (sc : BitVec 6) (ef : BitVec 4) (rf : BitVec 4) (rs : BitVec 2)
  /-- SETFMT.F (R176): Writes EF and RF of the thread's sys.FMT only. -/
  | setfmtF (h : Hdr) (ef : BitVec 4) (rf : BitVec 4)
  /-- MLEASE (R183): Requests a set of accumulator tiles and parks until granted. -/
  | mlease (h : Hdr) (d : Spec) (m : BitVec 4)
  /-- MLEASE.TRY (R183): Takes a set of tiles only if grantable in the issue cycle, else returns 0. -/
  | mleaseTry (h : Hdr) (d : Spec) (m : BitVec 4)
  /-- MREL (R183): Releases held tiles through the matrix queue. -/
  | mrel (h : Hdr) (m : BitVec 4)
  /-- MZERO (R197): Queues a clear of the held tiles in the mask. -/
  | mzero (h : Hdr) (m : BitVec 4)
  /-- MMA (R195): Reads register operands and queues one dense, sparse or codebook multiply-accumulate step into a tile. -/
  | mma (h : Hdr) (t : BitVec 2) (m : BitVec 4) (a : Spec) (b : Spec) (x : BitVec 2)
  /-- MMR (R203): Queues one dense step and a torus exchange of the B run in a direction. -/
  | mmr (h : Hdr) (t : BitVec 2) (a : Spec) (b : Spec) (x : BitVec 2)
  /-- MST.S (R198): Queues a store of a tile to scratchpad in the store format. -/
  | mstS (h : Hdr) (t : BitVec 2) (a : Spec) (off : BitVec 6)
  /-- MST.R (R198): Queues a copy of a tile into a run of g registers. -/
  | mstR (h : Hdr) (d : Spec) (t : BitVec 2)
  /-- MST.L (R198): Queues a load of a tile from scratchpad in the load format. -/
  | mstL (h : Hdr) (t : BitVec 2) (a : Spec) (off : BitVec 6)
  /-- CBLOAD (R199): Queues a load of codebook entries and free-parity bits from scratchpad. -/
  | cbload (h : Hdr) (a : Spec)
  /-- MRED (R200): Queues a copy of a tile, or an EMPTY contribution, into the reduction output buffer, optionally zeroing the tile. -/
  | mred (h : Hdr) (t : BitVec 2) (a : Spec) (x : BitVec 1)
  /-- SBIND (R237): Binds a stream engine to q4-q7 from a descriptor. -/
  | sbind (h : Hdr) (d : Spec) (a : Spec)
  /-- SCTL.UNBIND (R238): Drains a write stream, ends the binding and restores the saved register. -/
  | sctlUnbind (h : Hdr) (d : Spec)
  /-- SCTL.DRAIN (R238): Parks until every pushed packet of the write stream is written. -/
  | sctlDrain (h : Hdr) (d : Spec)
  /-- SCTL.REWIND (R238): Drains, discards the buffer and restarts the stream at START. -/
  | sctlRewind (h : Hdr) (d : Spec)
  /-- CGET (R227): Takes a data entry and starts a copy from global memory to scratchpad. -/
  | cget (h : Hdr) (d : Spec) (a : Spec) (b : Spec) (x : BitVec 2)
  /-- CPUT (R227): Takes a data entry and starts a copy from scratchpad to global memory. -/
  | cput (h : Hdr) (d : Spec) (a : Spec) (b : Spec) (x : BitVec 2)
  /-- WOPEN (R240): Opens a watermark channel over a range, setting MARK to BASE. -/
  | wopen (h : Hdr) (a : Spec) (n : BitVec 3)
  /-- WOPEN.C (R240): Closes a watermark channel and releases threads parked on it. -/
  | wopenC (h : Hdr) (n : BitVec 3)
  /-- BINIT (R231): Sets a barrier's TARGET and GEN and clears ARR. -/
  | binit (h : Hdr) (a : Spec) (i : BitVec 4)
  /-- BARR (R231): Returns the barrier's GEN and arrives at it. -/
  | barr (h : Hdr) (d : Spec) (i : BitVec 4)
  /-- BARR.E (R232): Takes an engine arrival record that arrives once the thread's outstanding copies are freed. -/
  | barrE (h : Hdr) (i : BitVec 4)
  /-- BARR.P (R231): Reads a barrier's GEN, TARGET and ARR without arriving. -/
  | barrP (h : Hdr) (d : Spec) (i : BitVec 4)
  /-- BWAIT (R231): Sleeps until a barrier generation is complete. -/
  | bwait (h : Hdr) (d : Spec) (a : Spec) (i : BitVec 4)
  /-- SEND (R262): Builds an active message with 1-4 payload registers and enqueues it in egress. -/
  | send (h : Hdr) (d : Spec) (a : Spec) (b : Spec) (x : BitVec 2)
  /-- RATOM (R264): Issues a remote atomic on a global address with a long-latency result. -/
  | ratom (h : Hdr) (d : Spec) (a : Spec) (cls : BitVec 4) (x : BitVec 2)
  /-- CLMASK (R265): Sets, clears or writes the cell's class mask and returns the old mask. -/
  | clmask (h : Hdr) (d : Spec) (a : Spec) (x : BitVec 2)
  /-- LREL (R277): Releases a HELD landing slot, re-arms it, reopens its watermark and latches a release report. -/
  | lrel (h : Hdr) (n : BitVec 3)
  /-- LREL.R (R277): Releases the landing slot named by a register. -/
  | lrelR (h : Hdr) (a : Spec)
  /-- RDCON (R304): Places a one-granule contribution to a bucket in the output buffer and returns its epoch. -/
  | rdcon (h : Hdr) (d : Spec) (a : Spec) (b : Spec)
  /-- RDCON.E (R304): Places an EMPTY contribution to a bucket and returns its epoch. -/
  | rdconE (h : Hdr) (d : Spec) (a : Spec)
  /-- TIME.TNOW (R344): Returns sys.LVT. -/
  | timeTnow (h : Hdr) (d : Spec)
  /-- TIME.TGVT (R344): Returns sys.GVT. -/
  | timeTgvt (h : Hdr) (d : Spec)
  /-- TIME.TDEFER (R344): Appends a defer pair for a message released at commit, or sends it at once when unjournaled. -/
  | timeTdefer (h : Hdr) (d : Spec) (a : Spec) (b : Spec)
  /-- FENCE (R314): Parks until the thread's earlier operations reach the state its kind and scope require. -/
  | fence (h : Hdr) (kind : BitVec 6) (x : BitVec 2)
  /-- MOVI (R124): Loads a 32-bit immediate zero- or sign-extended, or into the high half. -/
  | movi (h : Hdr) (d : Spec) (x : BitVec 2) (imm : BitVec 32)
  /-- ADDI (R124): Adds a 32-bit immediate. -/
  | addi (h : Hdr) (d : Spec) (a : Spec) (x : BitVec 2) (imm : BitVec 32)
  /-- ANDI (R124): ANDs with a 32-bit immediate. -/
  | andi (h : Hdr) (d : Spec) (a : Spec) (x : BitVec 2) (imm : BitVec 32)
  /-- ORI (R124): ORs with a 32-bit immediate. -/
  | ori (h : Hdr) (d : Spec) (a : Spec) (x : BitVec 2) (imm : BitVec 32)
  /-- BFX (R125): Extracts a bit field zero- or sign-extended. -/
  | bfx (h : Hdr) (d : Spec) (a : Spec) (x : BitVec 2) (lsb : BitVec 6) (wm1 : BitVec 6)
  /-- BFI (R125): Inserts low bits of A into a bit field of D. -/
  | bfi (h : Hdr) (d : Spec) (a : Spec) (lsb : BitVec 6) (wm1 : BitVec 6)
  /-- LD.L (R220): Loads with a signed 32-bit offset. -/
  | ldL (h : Hdr) (d : Spec) (a : Spec) (sgn : BitVec 6) (x : BitVec 2) (imm : BitVec 32)
  /-- ST.L (R220): Stores with a signed 32-bit offset. -/
  | stL (h : Hdr) (d : Spec) (a : Spec) (x : BitVec 2) (imm : BitVec 32)
  /-- MMA.L (R196): Queues up to 256 multiply-accumulate steps from descriptors or streams, with optional skip walk. -/
  | mmaL (h : Hdr) (t : BitVec 2) (a : Spec) (b : Spec) (x : BitVec 2) (steps : BitVec 8) (skip : BitVec 1) (mbase : BitVec 15)
  /-- MMR.L (R203): Queues multiple multiply-and-rotate steps with a long-form A source. -/
  | mmrL (h : Hdr) (t : BitVec 2) (a : Spec) (b : Spec) (x : BitVec 2) (steps : BitVec 8)
  /-- SBIND.L (R237): Binds a stream from a descriptor offset with a START skip. -/
  | sbindL (h : Hdr) (d : Spec) (doff : BitVec 15) (start : BitVec 16)
  /-- CGET.L (R227): Starts a strided multi-row copy from global memory to scratchpad. -/
  | cgetL (h : Hdr) (d : Spec) (a : Spec) (b : Spec) (x : BitVec 2) (rows : BitVec 12) (gstr : BitVec 20)
  /-- CPUT.L (R227): Starts a strided multi-row copy from scratchpad to global memory. -/
  | cputL (h : Hdr) (d : Spec) (a : Spec) (b : Spec) (x : BitVec 2) (rows : BitVec 12) (gstr : BitVec 20)
  /-- SEND.L (R263): Sends a message with name, channel and class from word 1. -/
  | sendL (h : Hdr) (a : Spec) (b : Spec) (x : BitVec 2) (name : BitVec 20) (chan : BitVec 6) (cls : BitVec 4)
  /-- RATOM.L (R264): Issues any remote atomic operation, optionally posted. -/
  | ratomL (h : Hdr) (d : Spec) (a : Spec) (opc : BitVec 4) (cls : BitVec 4) (post : BitVec 1)
  /-- RDCON.L (R304): Contributes WIDTH granules from scratchpad to a bucket. -/
  | rdconL (h : Hdr) (d : Spec) (a : Spec) (x : BitVec 2) (loff : BitVec 15) (wm1 : BitVec 3)
  /-- LONG_LATENCY_WRITEBACK (R65): A long-latency result is written to its register, unparking a waiting thread and letting STOP, HRET or KILL complete. -/
  | longLatencyWriteback (c : Name) (t : TIdx) (k : Nat)
  /-- LEAD_FAULT (R370): The cell reports a lead fault to the controller, which saves or discards the partition and reports to the launching port. -/
  | leadFault (c : Name)
  /-- BCAST_DELIVERY (R70): Once all targets are free or stopped, the block is copied to every target in one cycle and the lead continues. -/
  | bcastDelivery (c : Name)
  /-- JOINM_COMPLETE (R99): When every masked thread is free, stopped or faulted, JOINM writes the faulted mask and the lead resumes. -/
  | joinmComplete (c : Name)
  /-- MESSAGE_ARRIVAL (R79): An arriving message or event binds a free thread, is spilled, waits in the ingress buffer or is refused. -/
  | messageArrival (k : Nat)
  /-- SPILL_QUEUE_BIND (R79): When an allowed thread frees, the oldest spill entry binds it. -/
  | spillQueueBind (c : Name)
  /-- INGRESS_TO_SPILL (R80): A message in the ingress buffer enters the spill queue as an entry frees. -/
  | ingressToSpill (c : Name)
  /-- LATCHED_EVENT_ENTRY (R83): A latched in-cell event enters the ingress buffer as room frees, ahead of waiting messages. -/
  | latchedEventEntry (c : Name)
  /-- DEPOSIT_COMPLETE (R77): The deposit of payload and head into the bound thread ends and the handler or block starts. -/
  | depositComplete (c : Name) (t : TIdx)
  /-- ROUTER_FORWARD (R26): An M-plane router forwards a packet by name table, die order, row shift or rotation state, or returns an error. -/
  | routerForward (k : Nat)
  /-- NAME_TABLE_AGEING (R25): Every 4,096 reference cycles each valid entry ages and entries reaching 15 become invalid. -/
  | nameTableAgeing (die : DieSite)
  /-- ROTATION_NOTICE (R25): A rotation notice invalidates router name-table entries of names in the rotated tumbler. -/
  | rotationNotice (die : DieSite) (u : TumIdx)
  /-- EGRESS_INJECT (R251): The egress injects its oldest packet whose path is not busy and marks the path busy. -/
  | egressInject (c : Name)
  /-- ACKNOWLEDGEMENT (R252): A KIND 4 acknowledgement reaches the source and clears its path's busy bit. -/
  | acknowledgement (k : Nat)
  /-- REMOTE_ATOMIC_PERFORM (R259): The owner performs a remote atomic at one point of its scratchpad order and returns a response. -/
  | remoteAtomicPerform (k : Nat)
  /-- ATOMIC_RESPONSE (R264): A KIND 3 response writes the RATOM's old value and status or posts an error for a posted form. -/
  | atomicResponse (k : Nat)
  /-- TORUS_EXCHANGE_ARRIVAL (R203): A ring neighbour's exchange arrives in the torus input buffer, letting a waiting MMR proceed. -/
  | torusExchangeArrival (k : Nat)
  /-- MATRIX_EXECUTE (R179): The matrix unit executes the next queued instruction in cell issue order. -/
  | matrixExecute (c : Name)
  /-- LEASE_GRANT (R182): When tiles free, waiting lease requests are granted oldest first under the two conditions. -/
  | leaseGrant (c : Name)
  /-- REDUCTION_OUTPUT_DRAIN (R289): The reduction output buffer drains to the parent once the needed credit is held. -/
  | reductionOutputDrain (c : Name)
  /-- CONTRIBUTION_ARRIVAL (R291): A contribution or partial arrives at a reduction slot, which closes and combines when every child has arrived. -/
  | contributionArrival (k : Nat)
  /-- SLOT_TIMEOUT (R294): 2^TOK reference cycles after an epoch's first contribution, the slot closes with missing children. -/
  | slotTimeout (c : Name) (tag : BitVec 12)
  /-- CREDIT_RETURN (R289): A credit from the parent arrives on the down channel, allowing the next epoch's contribution. -/
  | creditReturn (k : Nat)
  /-- RESULT_DELIVERY (R296): A bucket result reaches a receiving cell, is written to its result area and raises a channel 56 event. -/
  | resultDelivery (k : Nat)
  /-- COPY_TRANSFER (R226): The copy engine moves up to 32 bytes of a queued copy, translating pages through the RTU. -/
  | copyTransfer (c : Name) (e : Nat)
  /-- COPY_COMPLETION_WRITE (R228): After all payload bytes land, the engine writes the completion word through a signal entry. -/
  | copyCompletionWrite (c : Name) (e : Nat)
  /-- COPY_ERROR (R229): A copy stops at its first imprecise error and reports it by completion word or channel 61 event. -/
  | copyError (c : Name) (e : Nat)
  /-- ENGINE_ARRIVAL_FIRE (R232): When an arrival record's mask empties, it takes a signal entry and arrives at its barrier. -/
  | engineArrivalFire (c : Name) (r : Nat)
  /-- STREAM_REFILL (R233): A read stream engine fetches its next packet into its buffer. -/
  | streamRefill (c : Name) (n : Fin 4)
  /-- STREAM_WRITE_OUT (R233): A write stream engine writes out its oldest pushed packet. -/
  | streamWriteOut (c : Name) (n : Fin 4)
  /-- PAGE_WALK_COMPLETE (R33): A page walk ends, installs its entry or returns the fault to every joined request. -/
  | pageWalkComplete (k : Nat)
  /-- SHOOTDOWN (R34): Firmware invalidates RTU entries for a VA range or the whole partition. -/
  | shootdown (part : PartIdx) (lo : BitVec 45) (hi : BitVec 45)
  /-- SHOOTDOWN_ACKNOWLEDGE (R34): An RTU acknowledges once matching entries are invalid and their requests issued. -/
  | shootdownAcknowledge (die : DieSite) (rtu : BitVec 4)
  /-- CIRCUIT_SOURCE_READ (R257): The source engine reads and sends the next circuit granule when PCNT and credit allow. -/
  | circuitSourceRead (c : Name) (id : BitVec 8)
  /-- CIRCUIT_LAND (R257): A circuit granule lands in its ring slot and LCNT is written. -/
  | circuitLand (k : Nat)
  /-- CIRCUIT_CREDIT (R257): A credit flit carrying a new CCNT reaches the source engine. -/
  | circuitCredit (k : Nat)
  /-- BLOCK_SEND (R276): A light source sends block k once every member has released block k-NSLOT. -/
  | blockSend (part : PartIdx) (key : BitVec 8)
  /-- LIGHT_FRAME_LANDING (R273): A frame of a light block lands at each member slot, filling granules and making the slot HELD at block end. -/
  | lightFrameLanding (c : Name) (n : Fin 8) (i : Nat) (good : Bool)
  /-- RELEASE_REPORT (R277): Once prior reads of a released slot complete, the member sends its release count up the tree. -/
  | releaseReport (c : Name) (n : Fin 8)
  /-- RELEASE_COMBINE (R276): A release combiner takes a child's count, START or repair request and forwards the new minimum. -/
  | releaseCombine (k : Nat)
  /-- SOURCE_COUNT_RECEIPT (R276): The source receives a minimum release count, START or repair request from the root. -/
  | sourceCountReceipt (k : Nat)
  /-- RING_RETUNE (R267): A drop ring finishes retuning to its light channel after 2 µs. -/
  | ringRetune (part : PartIdx) (i : Nat)
  /-- ROUND_END_TOKEN (R39): The round-end token passes a done cell, which applies its round action. -/
  | roundEndToken (c : Name)
  /-- HELD_SWAP_APPLY (R39): A cell holding a SWAP token applies it once its idle bank becomes READY and kept writes apply. -/
  | heldSwapApply (c : Name)
  /-- BANK_CLEAR (R38): A bank leaving the active role is cleared and held configuration writes then proceed. -/
  | bankClear (c : Name)
  /-- START_COMMAND (R39): A controller start command carrying REPEAT or SWAP starts a paused partition's next round. -/
  | startCommand (part : PartIdx)
  /-- COMPLETION_WAVE_START (R88): The partition root, once done, sends a completion wave down tree 0. -/
  | completionWaveStart (part : PartIdx)
  /-- COMPLETION_WAVE_ANSWER (R88): A cell answers a wave with its status word once it is done. -/
  | completionWaveAnswer (c : Name)
  /-- COMPLETION_WAVE_RESULT (R88): The root judges the wave totals and starts another wave, a final GVT computation or the token. -/
  | completionWaveResult (part : PartIdx)
  /-- TIMED_MESSAGE_BIND (R323): The lowest unprocessed timed message binds when no timed handler runs and no rollback is in progress. -/
  | timedMessageBind (c : Name)
  /-- TIMED_QUEUE_ENTRY (R326): A timed message enters the timed input queue from the ingress buffer when an entry is free. -/
  | timedQueueEntry (c : Name)
  /-- ANTI_MESSAGE_ARRIVAL (R333): An anti-message annihilates its positive, rolls back first, or is discarded as orphan. -/
  | antiMessageArrival (k : Nat)
  /-- GVT_INTERVAL (R337): Every 2^GINT reference cycles the root starts a GVT computation. -/
  | gvtInterval (part : PartIdx)
  /-- GVT_REQUEST (R337): A cell with a full journal or waiting timed message requests a GVT computation over tree 0. -/
  | gvtRequest (c : Name)
  /-- GVT_START (R336): START(n) reaches a cell, which flips colour, resets RMIN and contributes its minimum and count difference. -/
  | gvtStart (c : Name)
  /-- GVT_PASS_RESULT (R336): The root receives a pass result and either starts another pass or sends COMMIT. -/
  | gvtPassResult (part : PartIdx)
  /-- GVT_COMMIT (R338): COMMIT sets GVT, reclaims journal entries, releases defer pairs and held faults and raises channel 58. -/
  | gvtCommit (c : Name)
  /-- CAUSAL_STAMP (R318): A cross-die packet is stamped with origin sequence and deltas at its first hinge gate. -/
  | causalStamp (k : Nat)
  /-- CAUSAL_ARRIVAL (R319): A causal packet reaches the destination die and is held until its vector is satisfied. -/
  | causalArrival (k : Nat)
  /-- CAUSAL_RELEASE (R319): A held causal packet whose conditions are met is released into the die. -/
  | causalRelease (t : BitVec 6) (k : Nat)
  /-- CAUSAL_APPLIED (R319): The destination cell reports a packet applied, updating the applied and knowledge vectors. -/
  | causalApplied (t : BitVec 6) (k : Nat)
  /-- CAUSAL_QUERY (R319): A packet held 256 link cycles triggers a KIND 7 query to the blocking die. -/
  | causalQuery (t : BitVec 6) (k : Nat) (e : BitVec 6)
  /-- CAUSAL_NOTICE (R319): A KIND 6 notice advances the applied vector for a die that sends nothing further. -/
  | causalNotice (k : Nat)
  /-- HOLD_TIMEOUT (R320): A full hold memory with nothing releasable for 2^20 cycles ends the partition's round. -/
  | holdTimeout (t : BitVec 6)
  /-- TUMBLER_INTERVAL (R357): At each interval the tumbler reads sensors, starts a rotation or adjusts its duty. -/
  | tumblerInterval (die : DieSite) (u : TumIdx) (t0 : BitVec 8) (t1 : BitVec 8) (t2 : BitVec 8) (t3 : BitVec 8)
  /-- ROTATION_ABANDON (R358): A rotation step exceeding its bound abandons the rotation and counts ABORT. -/
  | rotationAbandon (die : DieSite) (u : TumIdx)
  /-- ROTATION_MOVE_DONE (R358): The state move ends and held traffic, sources and issue resume. -/
  | rotationMoveDone (die : DieSite) (u : TumIdx)
  /-- DROWSY_ENTRY (R350): After 64 idle cycles a cell enters Drowsy. -/
  | drowsyEntry (c : Name)
  /-- DROWSY_WAKE (R350): Traffic or a request wakes a Drowsy cell. -/
  | drowsyWake (c : Name)
  /-- ISLAND_STATE_CHANGE (R351): The controller moves an island to Retain, Gated or back to Run or Slow. -/
  | islandStateChange (die : DieSite) (east : Bool) (target : PowerState)
  /-- POWER_MEASURE (R353): Every 10 µs the controller measures power and meters partitions over their share. -/
  | powerMeasure (part : PartIdx) (excess : Bool)
  /-- THROTTLE_STEP (R354): Every 100 µs the controller applies or relaxes the half-row throttle or clock mask duty. -/
  | throttleStep (part : PartIdx) (excess : Bool)
  /-- PAD (R42): Configuration command with no effect. -/
  | pad (w0 : W32)
  /-- SPAN (R42): Selects the names of live partition cells in a range. -/
  | span (w0 : W32) (w1 : W32)
  /-- SELECT (R42): Sets the cursor to a bank, structure and offset. -/
  | select (w0 : W32)
  /-- FIELD (R42): Writes a bit field of one word in each selected cell. -/
  | field (w0 : W32) (w1 : W32)
  /-- BURST (R42): Writes COUNT words from the cursor in each selected cell. -/
  | burst (w0 : W32) (ws : List W32)
  /-- SEAL (R38): Seals the idle bank of each selected cell as READY if its header is well formed. -/
  | sealRec (w0 : W32)
  /-- GLOBAL_KEYRING (R268): Hands keyring entry records to the partition. -/
  | globalKeyring (w0 : W32) (ws : List W32)
  /-- GLOBAL_TREE (R284): Hands spanning tree records to the partition. -/
  | globalTree (w0 : W32) (ws : List W32)
  /-- GLOBAL_BUCKET (R286): Hands bucket records to the partition. -/
  | globalBucket (w0 : W32) (ws : List W32)
  /-- GLOBAL_CIRCUIT (R256): Hands circuit records to the partition. -/
  | globalCircuit (w0 : W32) (ws : List W32)
  /-- GLOBAL_STREAM_PLAN (R270): Hands stream plan records to the partition. -/
  | globalStreamPlan (w0 : W32) (ws : List W32)
  /-- END (R44): Ends the image and runs the end-of-image checks. -/
  | imageEnd (w0 : W32)
  /-- HASP_ACQ (R378): A port requests the hasp. -/
  | haspAcq (port : Port)
  /-- HASP_REL (R378): The holding port releases the hasp. -/
  | haspRel (port : Port)
  /-- HASP_LINK_DOWN (R378): The holder's link down for 10 ms frees the hasp. -/
  | haspLinkDown
  /-- LAUNCH (R382): Creates a partition, applies its image and sends the first start command. -/
  | launch (port : Port)
  /-- NEXT (R382): Streams an image into idle banks and stages bank 2 writes while rounds run. -/
  | next (port : Port)
  /-- ROUND (R382): Sets the round action and sends a start command after a PAUSE. -/
  | round (port : Port)
  /-- PREEMPT (R372): Stops, drains and saves a partition into its context area. -/
  | preempt (port : Port)
  /-- PREEMPT_DRAIN_BOUND (R372): After 1 ms of draining, packets still in link buffers are removed as residual packets. -/
  | preemptDrainBound (part : PartIdx)
  /-- RESTORE (R375): Checks a context area and restores a partition onto free dies. -/
  | restore (port : Port)
  /-- RELEASE (R382): Discards a partition's load and frees its dies. -/
  | release (port : Port)
  /-- POWER (R382): Applies spines, voltages, tolerance and rotation parameters to a partition's dies. -/
  | power (port : Port)
  /-- GATEWAY (R380): Configures a hinge gateway for bucket tags between a partition and a panel link. -/
  | gateway (port : Port)
  /-- HOST_TOKEN (R383): A 32-byte write to TOKEN sends a channel 57 message or is discarded. -/
  | hostToken (port : Port) (data : V256) (whole : Bool)
  /-- BAR2_WRITE (R377): A host write through BAR2 is translated and takes its point at its destination. -/
  | bar2Write (port : Port) (off : BitVec 36) (bytes : List Byte)
  /-- BAR2_READ (R377): A host read through BAR2 is translated and returns data or Unsupported Request. -/
  | bar2Read (port : Port) (off : BitVec 36) (len : Nat)
  /-- HOST_REGISTER_WRITE (R377): A write to a BAR0 register with no row of its own, such as WINSEL, STATUS or LAUNCH. -/
  | hostRegisterWrite (port : Port) (off : BitVec 16) (bytes : List Byte)
  /-- POWER_UP (R385): After power-up the controller tests, merges the defect map, names cells, clears scratchpads and opens the ports. -/
  | powerUp (failed : List DieSite)
  /-- DELTA_RECORD_APPEND (R17): A delta record is appended when a self-test or error threshold condemns a unit. -/
  | deltaRecordAppend (r : W64)
  /-- MANAGEMENT_READ (R387): The management port reads the defect map, counters or sensors. -/
  | managementRead (what : MgmtItem)
  /-- MANAGEMENT_CLEAR_HASP (R387): The management port clears the hasp. -/
  | managementClearHasp
  /-- MANAGEMENT_FIRMWARE_UPDATE (R387): The management port updates controller firmware for the next boot. -/
  | managementFirmwareUpdate (v : W32)
  /-- CONTROLLER_WATCHDOG (R387): A 100 ms watchdog restarts controller firmware, ending requests in progress with BUSY. -/
  | controllerWatchdog
  /-- DZIHAM_REQUEST (R283): A weight-store module serves a read or masked write request, replaying failed frames. -/
  | dzihamRequest (m : BitVec 4) (req : DzihamReq)
  /-- PANEL_GATEWAY_EXCHANGE (R386): Linked controllers exchange gateway settings and report mismatches as RANGE. -/
  | panelGatewayExchange (link : BitVec 4) (remote : LinkInput)
  /-- CAUSAL_QUERY_ANSWER (R319): A KIND 7 query reaching die e is answered by that die's causal unit with a KIND 6 notice that carries K[e] and the last OSEQ sent to the asking die. -/
  | causalQueryAnswer (k : Nat)
  /-- CAUSAL_ACKNOWLEDGEMENT (R318): The destination's acknowledgement of an applied causal packet reaches the origin unit and advances its stamping window, so packets waiting at the 2^14 limit can be stamped. -/
  | causalAcknowledgement (k : Nat)
  /-- WEIGHT_CACHE_INVALIDATE (R282): Firmware, through the controller, invalidates the weight-cache lines of a cacheable page before changing its contents or mapping. -/
  | weightCacheInvalidate (die : DieSite) (lo : BitVec 45) (hi : BitVec 45)
  /-- PAGE_TABLE_UPDATE (R31): Firmware rewrites level-1 or level-2 entries in every live die's copy of a partition's page tables, as when it retires a cell or maps a page in answer to faults. -/
  | pageTableUpdate (part : PartIdx) (off : BitVec 28) (val : W64)
  deriving DecidableEq, Repr

end Sys2Proof
end

