-- ==== Sys2Proof/WellFormed.lean ====
section
/-! DEFINITION. Which values of an instruction's fields its encoding admits (Tables 02.4 to 02.8, R47, R50): what
decoding checks of the word. An event of the part has no word. -/

namespace Sys2Proof

/-- The field values that an instruction's encoding admits; false of an event, which has no encoding. -/
def wellFormed (i : Instr) : Bool :=
  match i with
  | .nop h => decide (¬(h.gn = true ∧ h.gp = 0))
  | .br h _ => decide (¬(h.gn = true ∧ h.gp = 0))
  | .call h _ => decide (¬(h.gn = true ∧ h.gp = 0))
  | .jmp h _ => decide (¬(h.gn = true ∧ h.gp = 0))
  | .callr h _ => decide (¬(h.gn = true ∧ h.gp = 0))
  | .ret h _ => decide (¬(h.gn = true ∧ h.gp = 0))
  | .loop h _ _ _ => decide (¬(h.gn = true ∧ h.gp = 0))
  | .stop h => decide (¬(h.gn = true ∧ h.gp = 0))
  | .bcast h _ _ _ => decide (¬(h.gn = true ∧ h.gp = 0))
  | .fetchb h _ => decide (¬(h.gn = true ∧ h.gp = 0))
  | .joinm h _ _ => decide (¬(h.gn = true ∧ h.gp = 0))
  | .joinmF h _ _ => decide (¬(h.gn = true ∧ h.gp = 0))
  | .yield h => decide (¬(h.gn = true ∧ h.gp = 0))
  | .hret h => decide (¬(h.gn = true ∧ h.gp = 0))
  | .trap h _ _ => decide (¬(h.gn = true ∧ h.gp = 0))
  | .brk h _ _ => decide (¬(h.gn = true ∧ h.gp = 0))
  | .tctlResume h _ => decide (¬(h.gn = true ∧ h.gp = 0))
  | .tctlKill h _ => decide (¬(h.gn = true ∧ h.gp = 0))
  | .tctlReset h _ => decide (¬(h.gn = true ∧ h.gp = 0))
  | .sysrd h _ _ => decide (¬(h.gn = true ∧ h.gp = 0))
  | .syswr h _ n => decide (¬(h.gn = true ∧ h.gp = 0) ∧ n ≠ 0x041)
  | .fpcWrite h _ => decide (¬(h.gn = true ∧ h.gp = 0))
  | .add h _ _ _ x => decide (¬(h.gn = true ∧ h.gp = 0) ∧ x ≠ 3)
  | .sub h _ _ _ x => decide (¬(h.gn = true ∧ h.gp = 0) ∧ x ≠ 3)
  | .mul h _ _ _ x => decide (¬(h.gn = true ∧ h.gp = 0) ∧ x ≠ 3)
  | .mulh h _ _ _ _ => decide (¬(h.gn = true ∧ h.gp = 0))
  | .div h _ _ _ _ => decide (¬(h.gn = true ∧ h.gp = 0))
  | .rem h _ _ _ _ => decide (¬(h.gn = true ∧ h.gp = 0))
  | .and h _ _ _ x => decide (¬(h.gn = true ∧ h.gp = 0) ∧ x ≠ 3)
  | .or h _ _ _ x => decide (¬(h.gn = true ∧ h.gp = 0) ∧ x ≠ 3)
  | .xor h _ _ _ x => decide (¬(h.gn = true ∧ h.gp = 0) ∧ x ≠ 3)
  | .andn h _ _ _ x => decide (¬(h.gn = true ∧ h.gp = 0) ∧ x ≠ 3)
  | .shl h _ _ _ x => decide (¬(h.gn = true ∧ h.gp = 0) ∧ x ≠ 3)
  | .shr h _ _ _ _ => decide (¬(h.gn = true ∧ h.gp = 0))
  | .min h _ _ _ => decide (¬(h.gn = true ∧ h.gp = 0))
  | .max h _ _ _ => decide (¬(h.gn = true ∧ h.gp = 0))
  | .minu h _ _ _ => decide (¬(h.gn = true ∧ h.gp = 0))
  | .maxu h _ _ _ => decide (¬(h.gn = true ∧ h.gp = 0))
  | .bitc h _ _ _ => decide (¬(h.gn = true ∧ h.gp = 0))
  | .ext h _ _ sgn x => decide (¬(h.gn = true ∧ h.gp = 0) ∧ sgn ≤ 1 ∧ x ≠ 3)
  | .mov h _ _ x => decide (¬(h.gn = true ∧ h.gp = 0) ∧ x ≤ 1)
  | .cmp h _ _ _ _ x => decide (¬(h.gn = true ∧ h.gp = 0) ∧ x ≠ 3)
  | .fcmp h _ _ _ _ => decide (¬(h.gn = true ∧ h.gp = 0))
  | .plog h _ _ _ _ _ _ => decide (¬(h.gn = true ∧ h.gp = 0))
  | .pset h _ _ => decide (¬(h.gn = true ∧ h.gp = 0))
  | .psetBit h _ _ _ => decide (¬(h.gn = true ∧ h.gp = 0))
  | .psetAll h _ => decide (¬(h.gn = true ∧ h.gp = 0))
  | .prd h _ => decide (¬(h.gn = true ∧ h.gp = 0))
  | .ld h _ _ _ _ => decide (¬(h.gn = true ∧ h.gp = 0))
  | .lds h _ _ _ x => decide (¬(h.gn = true ∧ h.gp = 0) ∧ x ≠ 3)
  | .st h _ _ _ _ => decide (¬(h.gn = true ∧ h.gp = 0))
  | .ldv h _ _ _ => decide (¬(h.gn = true ∧ h.gp = 0))
  | .stv h _ _ _ => decide (¬(h.gn = true ∧ h.gp = 0))
  | .ldvBc h _ _ _ => decide (¬(h.gn = true ∧ h.gp = 0))
  | .aop h _ _ op => decide (¬(h.gn = true ∧ h.gp = 0) ∧ op ≤ 9)
  | .waita h _ _ _ _ => decide (¬(h.gn = true ∧ h.gp = 0))
  | .vadd h _ _ _ _ => decide (¬(h.gn = true ∧ h.gp = 0))
  | .vsub h _ _ _ _ => decide (¬(h.gn = true ∧ h.gp = 0))
  | .vmul h _ _ _ _ => decide (¬(h.gn = true ∧ h.gp = 0))
  | .vfma h _ _ _ x => decide (¬(h.gn = true ∧ h.gp = 0) ∧ x ≠ 3)
  | .vminmax h _ _ _ _ => decide (¬(h.gn = true ∧ h.gp = 0))
  | .vun h _ _ _ => decide (¬(h.gn = true ∧ h.gp = 0))
  | .vred h _ _ _ => decide (¬(h.gn = true ∧ h.gp = 0))
  | .vcmp h _ _ _ _ _ => decide (¬(h.gn = true ∧ h.gp = 0))
  | .vsel h _ _ _ _ => decide (¬(h.gn = true ∧ h.gp = 0))
  | .vshuf h _ _ _ _ => decide (¬(h.gn = true ∧ h.gp = 0))
  | .vbc h _ _ _ _ => decide (¬(h.gn = true ∧ h.gp = 0))
  | .vlog h _ _ _ _ => decide (¬(h.gn = true ∧ h.gp = 0))
  | .vsh h _ _ _ _ => decide (¬(h.gn = true ∧ h.gp = 0))
  | .vlane h _ _ _ x => decide (¬(h.gn = true ∧ h.gp = 0) ∧ x ≠ 3)
  | .vscale h _ _ _ _ => decide (¬(h.gn = true ∧ h.gp = 0))
  | .vrint h _ _ _ => decide (¬(h.gn = true ∧ h.gp = 0))
  | .cvt h _ _ _ _ _ => decide (¬(h.gn = true ∧ h.gp = 0))
  | .qblk h _ _ _ _ => decide (¬(h.gn = true ∧ h.gp = 0))
  | .dqblk h _ _ _ _ => decide (¬(h.gn = true ∧ h.gp = 0))
  | .vspec h _ _ fn => decide (¬(h.gn = true ∧ h.gp = 0) ∧ fn ≤ 7)
  | .pfx h _ _ _ _ => decide (¬(h.gn = true ∧ h.gp = 0))
  | .setfmt h _ _ _ _ => decide (¬(h.gn = true ∧ h.gp = 0))
  | .setfmtF h _ _ => decide (¬(h.gn = true ∧ h.gp = 0))
  | .mlease h _ _ => decide (¬(h.gn = true ∧ h.gp = 0))
  | .mleaseTry h _ _ => decide (¬(h.gn = true ∧ h.gp = 0))
  | .mrel h _ => decide (¬(h.gn = true ∧ h.gp = 0))
  | .mzero h _ => decide (¬(h.gn = true ∧ h.gp = 0))
  | .mma h _ _ _ _ x => decide (¬(h.gn = true ∧ h.gp = 0) ∧ x ≠ 3)
  | .mmr h _ _ _ _ => decide (¬(h.gn = true ∧ h.gp = 0))
  | .mstS h _ _ _ => decide (¬(h.gn = true ∧ h.gp = 0))
  | .mstR h _ _ => decide (¬(h.gn = true ∧ h.gp = 0))
  | .mstL h _ _ _ => decide (¬(h.gn = true ∧ h.gp = 0))
  | .cbload h _ => decide (¬(h.gn = true ∧ h.gp = 0))
  | .mred h _ _ _ => decide (¬(h.gn = true ∧ h.gp = 0))
  | .sbind h _ _ => decide (¬(h.gn = true ∧ h.gp = 0))
  | .sctlUnbind h _ => decide (¬(h.gn = true ∧ h.gp = 0))
  | .sctlDrain h _ => decide (¬(h.gn = true ∧ h.gp = 0))
  | .sctlRewind h _ => decide (¬(h.gn = true ∧ h.gp = 0))
  | .cget h _ _ _ x => decide (¬(h.gn = true ∧ h.gp = 0) ∧ x ≠ 3)
  | .cput h _ _ _ x => decide (¬(h.gn = true ∧ h.gp = 0) ∧ x ≠ 3)
  | .wopen h _ _ => decide (¬(h.gn = true ∧ h.gp = 0))
  | .wopenC h _ => decide (¬(h.gn = true ∧ h.gp = 0))
  | .binit h _ _ => decide (¬(h.gn = true ∧ h.gp = 0))
  | .barr h _ _ => decide (¬(h.gn = true ∧ h.gp = 0))
  | .barrE h _ => decide (¬(h.gn = true ∧ h.gp = 0))
  | .barrP h _ _ => decide (¬(h.gn = true ∧ h.gp = 0))
  | .bwait h _ _ _ => decide (¬(h.gn = true ∧ h.gp = 0))
  | .send h _ _ _ _ => decide (¬(h.gn = true ∧ h.gp = 0))
  | .ratom h _ _ _ _ => decide (¬(h.gn = true ∧ h.gp = 0))
  | .clmask h _ _ x => decide (¬(h.gn = true ∧ h.gp = 0) ∧ x ≠ 3)
  | .lrel h _ => decide (¬(h.gn = true ∧ h.gp = 0))
  | .lrelR h _ => decide (¬(h.gn = true ∧ h.gp = 0))
  | .rdcon h _ _ _ => decide (¬(h.gn = true ∧ h.gp = 0))
  | .rdconE h _ _ => decide (¬(h.gn = true ∧ h.gp = 0))
  | .timeTnow h _ => decide (¬(h.gn = true ∧ h.gp = 0))
  | .timeTgvt h _ => decide (¬(h.gn = true ∧ h.gp = 0))
  | .timeTdefer h _ _ _ => decide (¬(h.gn = true ∧ h.gp = 0))
  | .fence h kind x => decide (¬(h.gn = true ∧ h.gp = 0) ∧ kind ≤ 2 ∧ x ≠ 3)
  | .movi h _ x _ => decide (¬(h.gn = true ∧ h.gp = 0) ∧ x ≠ 3)
  | .addi h _ _ x _ => decide (¬(h.gn = true ∧ h.gp = 0) ∧ x ≤ 1)
  | .andi h _ _ x _ => decide (¬(h.gn = true ∧ h.gp = 0) ∧ x ≤ 1)
  | .ori h _ _ x _ => decide (¬(h.gn = true ∧ h.gp = 0) ∧ x ≤ 1)
  | .bfx h _ _ x _ _ => decide (¬(h.gn = true ∧ h.gp = 0) ∧ x ≤ 1)
  | .bfi h _ _ _ _ => decide (¬(h.gn = true ∧ h.gp = 0))
  | .ldL h _ _ sgn x _ => decide (¬(h.gn = true ∧ h.gp = 0) ∧ sgn ≤ 1 ∧ ¬(sgn = 1 ∧ x = 3))
  | .stL h _ _ _ _ => decide (¬(h.gn = true ∧ h.gp = 0))
  | .mmaL h _ _ _ x _ _ _ => decide (¬(h.gn = true ∧ h.gp = 0) ∧ x ≠ 3)
  | .mmrL h _ _ _ _ _ => decide (¬(h.gn = true ∧ h.gp = 0))
  | .sbindL h _ _ _ => decide (¬(h.gn = true ∧ h.gp = 0))
  | .cgetL h _ _ _ x _ _ => decide (¬(h.gn = true ∧ h.gp = 0) ∧ x ≠ 3)
  | .cputL h _ _ _ x _ _ => decide (¬(h.gn = true ∧ h.gp = 0) ∧ x ≠ 3)
  | .sendL h _ _ _ _ _ _ => decide (¬(h.gn = true ∧ h.gp = 0))
  | .ratomL h _ _ _ _ _ => decide (¬(h.gn = true ∧ h.gp = 0))
  | .rdconL h _ _ x _ _ => decide (¬(h.gn = true ∧ h.gp = 0) ∧ x ≤ 1)
  | .longLatencyWriteback .. | .leadFault .. | .bcastDelivery .. | .joinmComplete .. | .messageArrival ..
  | .spillQueueBind .. | .ingressToSpill .. | .latchedEventEntry .. | .depositComplete .. | .routerForward ..
  | .nameTableAgeing .. | .rotationNotice .. | .egressInject .. | .acknowledgement .. | .remoteAtomicPerform ..
  | .atomicResponse .. | .torusExchangeArrival .. | .matrixExecute .. | .leaseGrant .. | .reductionOutputDrain ..
  | .contributionArrival .. | .slotTimeout .. | .creditReturn .. | .resultDelivery .. | .copyTransfer ..
  | .copyCompletionWrite .. | .copyError .. | .engineArrivalFire .. | .streamRefill .. | .streamWriteOut ..
  | .pageWalkComplete .. | .shootdown .. | .shootdownAcknowledge .. | .circuitSourceRead .. | .circuitLand ..
  | .circuitCredit .. | .blockSend .. | .lightFrameLanding .. | .releaseReport .. | .releaseCombine ..
  | .sourceCountReceipt .. | .ringRetune .. | .roundEndToken .. | .heldSwapApply .. | .bankClear .. | .startCommand ..
  | .completionWaveStart .. | .completionWaveAnswer .. | .completionWaveResult .. | .timedMessageBind ..
  | .timedQueueEntry .. | .antiMessageArrival .. | .gvtInterval .. | .gvtRequest .. | .gvtStart .. | .gvtPassResult ..
  | .gvtCommit .. | .causalStamp .. | .causalArrival .. | .causalRelease .. | .causalApplied .. | .causalQuery ..
  | .causalNotice .. | .holdTimeout .. | .tumblerInterval .. | .rotationAbandon .. | .rotationMoveDone .. | .drowsyEntry ..
  | .drowsyWake .. | .islandStateChange .. | .powerMeasure .. | .throttleStep .. | .pad .. | .span .. | .select ..
  | .field .. | .burst .. | .sealRec .. | .globalKeyring .. | .globalTree .. | .globalBucket .. | .globalCircuit ..
  | .globalStreamPlan .. | .imageEnd .. | .haspAcq .. | .haspRel .. | .haspLinkDown .. | .launch .. | .next .. | .round ..
  | .preempt .. | .preemptDrainBound .. | .restore .. | .release .. | .power .. | .gateway .. | .hostToken ..
  | .bar2Write .. | .bar2Read .. | .hostRegisterWrite .. | .powerUp .. | .deltaRecordAppend .. | .managementRead ..
  | .managementClearHasp .. | .managementFirmwareUpdate .. | .controllerWatchdog .. | .dzihamRequest ..
  | .panelGatewayExchange .. | .causalQueryAnswer .. | .causalAcknowledgement .. | .weightCacheInvalidate ..
  | .pageTableUpdate .. => false

/-- As a proposition. -/
abbrev WellFormed (i : Instr) : Prop := wellFormed i = true

end Sys2Proof
end

