-- ==== Sys2Proof/Decode.lean ====
section
/-! DEFINITION. The decoder and the encoder of the instruction word, from Tables 02.4 to 02.8 and the encodings of the
instructions' own entries. Decoding rejects by name: the reserved guard (R47), an unassigned opcode (R53), a nonzero
unused field (R47), a reserved value of a field (R50). Faults that an instruction's entry decides from its operand
specifiers belong to its meaning. -/

namespace Sys2Proof

/-- Why a word is no instruction; each is the fault ILLEGAL (R50). -/
inductive DecodeError where
  | reservedGuard
  | unassigned
  | nonzeroField
  | reservedValue
  deriving DecidableEq, Repr

namespace Decode

/-- W, GN and GP of a first word (Table 02.4). -/
def hdr (w : W32) : Hdr := ⟨w.getLsbD 31, w.getLsbD 30, w.extractLsb' 27 3⟩
/-- OP. -/
def op (w : W32) : BitVec 7 := w.extractLsb' 20 7
/-- D. -/
def fieldD (w : W32) : BitVec 6 := w.extractLsb' 14 6
/-- A. -/
def fieldA (w : W32) : BitVec 6 := w.extractLsb' 8 6
/-- B. -/
def fieldB (w : W32) : BitVec 6 := w.extractLsb' 2 6
/-- X. -/
def fieldX (w : W32) : BitVec 2 := w.extractLsb' 0 2

/-- A field that the instruction does not use must be zero (R47). -/
def unusedZero (c : Prop) [Decidable c] (i : Except DecodeError Instr) : Except DecodeError Instr :=
  if c then i else .error .nonzeroField

/-- A reserved value of a field the instruction uses (R50). -/
def allowed (c : Prop) [Decidable c] (i : Except DecodeError Instr) : Except DecodeError Instr :=
  if c then i else .error .reservedValue

/-- OP 0x00 to 0x0f: control, thread and system-register instructions. -/
def decControl (o : Nat) (h : Hdr) (d a b : BitVec 6) (x : BitVec 2) (w0 : W32) : Except DecodeError Instr :=
  match o with
  | 0x00 => allowed (x = 0) (unusedZero (d = 0 ∧ a = 0 ∧ b = 0) (.ok (.nop h)))
  | 0x01 => unusedZero (x = 0) (.ok (.br h (d ++ a ++ b)))
  | 0x02 => unusedZero (x = 0) (.ok (.call h (d ++ a ++ b)))
  | 0x03 =>
      if x = 0 then unusedZero (d = 0 ∧ b = 0) (.ok (.jmp h a)) else
      if x = 1 then unusedZero (d = 0 ∧ b = 0) (.ok (.callr h a)) else
      if x = 2 then unusedZero (d = 0 ∧ b = 0) (.ok (.ret h a)) else
      .error .reservedValue
  | 0x04 => allowed ((x.extractLsb' 1 1) = 0) (unusedZero (d = 0) (.ok (.loop h a b (x.extractLsb' 0 1))))
  | 0x05 => allowed (x = 0) (unusedZero (d = 0 ∧ a = 0 ∧ b = 0) (.ok (.stop h)))
  | 0x06 => unusedZero (x = 0) (.ok (.bcast h (w0.extractLsb' 13 7) (w0.extractLsb' 10 3) (w0.extractLsb' 2 8)))
  | 0x07 => allowed (x = 0) (unusedZero (d = 0 ∧ b = 0) (.ok (.fetchb h a)))
  | 0x08 =>
      if x = 0 then unusedZero (b = 0) (.ok (.joinm h d a)) else
      if x = 1 then unusedZero (b = 0) (.ok (.joinmF h d a)) else
      .error .reservedValue
  | 0x09 => allowed (x = 0) (unusedZero (d = 0 ∧ a = 0 ∧ b = 0) (.ok (.yield h)))
  | 0x0a => allowed (x = 0) (unusedZero (d = 0 ∧ a = 0 ∧ b = 0) (.ok (.hret h)))
  | 0x0b => allowed (x = 0) (unusedZero (d = 0) (.ok (.trap h a b)))
  | 0x0c => allowed (x = 0) (unusedZero (d = 0) (.ok (.brk h a b)))
  | 0x0d =>
      if x = 0 then unusedZero (d = 0 ∧ b = 0) (.ok (.tctlResume h a)) else
      if x = 1 then unusedZero (d = 0 ∧ b = 0) (.ok (.tctlKill h a)) else
      if x = 2 then unusedZero (d = 0 ∧ b = 0) (.ok (.tctlReset h a)) else
      .error .reservedValue
  | 0x0e => unusedZero (x = 0) (.ok (.sysrd h d (a ++ b)))
  | 0x0f => unusedZero (x = 0) (if a ++ b = 0x041#12 then .ok (.fpcWrite h d) else .ok (.syswr h d (a ++ b)))
  | _ => .error .unassigned

/-- OP 0x10 to 0x27: scalar and predicate instructions. -/
def decScalar (o : Nat) (h : Hdr) (d a b : BitVec 6) (x : BitVec 2) : Except DecodeError Instr :=
  match o with
  | 0x10 => allowed (x ≠ 3) (.ok (.add h d a b x))
  | 0x11 => allowed (x ≠ 3) (.ok (.sub h d a b x))
  | 0x12 => allowed (x ≠ 3) (.ok (.mul h d a b x))
  | 0x13 => allowed ((x.extractLsb' 1 1) = 0) (.ok (.mulh h d a b (x.extractLsb' 0 1)))
  | 0x14 => allowed ((x.extractLsb' 1 1) = 0) (.ok (.div h d a b (x.extractLsb' 0 1)))
  | 0x15 => allowed ((x.extractLsb' 1 1) = 0) (.ok (.rem h d a b (x.extractLsb' 0 1)))
  | 0x16 => allowed (x ≠ 3) (.ok (.and h d a b x))
  | 0x17 => allowed (x ≠ 3) (.ok (.or h d a b x))
  | 0x18 => allowed (x ≠ 3) (.ok (.xor h d a b x))
  | 0x19 => allowed (x ≠ 3) (.ok (.andn h d a b x))
  | 0x1a => allowed (x ≠ 3) (.ok (.shl h d a b x))
  | 0x1b => .ok (.shr h d a b x)
  | 0x1c =>
      if x = 0 then .ok (.min h d a b) else
      if x = 1 then .ok (.max h d a b) else
      if x = 2 then .ok (.minu h d a b) else
      if x = 3 then .ok (.maxu h d a b) else
      .error .reservedValue
  | 0x1d => unusedZero (b = 0) (.ok (.bitc h d a x))
  | 0x1e => allowed (b ≤ 1 ∧ x ≠ 3) (.ok (.ext h d a b x))
  | 0x1f => unusedZero (b = 0) (allowed (x ≤ 1) (.ok (.mov h d a x)))
  | 0x20 => allowed (x ≠ 3) (.ok (.cmp h (d.extractLsb' 3 3) (d.extractLsb' 0 3) a b x))
  | 0x21 => allowed (x = 0) (.ok (.fcmp h (d.extractLsb' 3 3) (d.extractLsb' 0 3) a b))
  | 0x22 => unusedZero ((d.extractLsb' 3 3) = 0 ∧ (a.extractLsb' 4 2) = 0 ∧ (b.extractLsb' 4 2) = 0) (.ok (.plog h
        (d.extractLsb' 0 3) (a.extractLsb' 3 1) (a.extractLsb' 0 3) (b.extractLsb' 3 1) (b.extractLsb' 0 3) x))
  | 0x23 =>
      if x = 0 then unusedZero ((d.extractLsb' 3 3) = 0 ∧ a = 0 ∧ (b.extractLsb' 1 5) = 0) (.ok (.pset h
        (d.extractLsb' 0 3) (b.extractLsb' 0 1))) else
      if x = 1 then unusedZero ((d.extractLsb' 3 3) = 0) (.ok (.psetBit h (d.extractLsb' 0 3) a b)) else
      if x = 2 then unusedZero (d = 0 ∧ b = 0) (.ok (.psetAll h a)) else
      .error .reservedValue
  | 0x24 => allowed (x = 0) (unusedZero (a = 0 ∧ b = 0) (.ok (.prd h d)))
  | _ => .error .unassigned

/-- OP 0x28 to 0x2f: scratchpad instructions. -/
def decMemory (o : Nat) (h : Hdr) (d a b : BitVec 6) (x : BitVec 2) : Except DecodeError Instr :=
  match o with
  | 0x28 => .ok (.ld h d a b x)
  | 0x29 => allowed (x ≠ 3) (.ok (.lds h d a b x))
  | 0x2a => .ok (.st h d a b x)
  | 0x2b =>
      if x = 0 then .ok (.ldv h d a b) else
      if x = 1 then .ok (.stv h d a b) else
      if x = 2 then .ok (.ldvBc h d a b) else
      .error .reservedValue
  | 0x2c => allowed (x = 0) (allowed (b ≤ 9) (.ok (.aop h d a b)))
  | 0x2d => .ok (.waita h d a b x)
  | _ => .error .unassigned

/-- OP 0x30 to 0x47: vector, conversion and format instructions. -/
def decVector (o : Nat) (h : Hdr) (d a b : BitVec 6) (x : BitVec 2) (w0 : W32) : Except DecodeError Instr :=
  match o with
  | 0x30 => .ok (.vadd h d a b x)
  | 0x31 => .ok (.vsub h d a b x)
  | 0x32 => .ok (.vmul h d a b x)
  | 0x33 => allowed (x ≠ 3) (.ok (.vfma h d a b x))
  | 0x34 => .ok (.vminmax h d a b x)
  | 0x35 => unusedZero (b = 0) (.ok (.vun h d a x))
  | 0x36 => unusedZero (b = 0) (.ok (.vred h d a x))
  | 0x37 => .ok (.vcmp h (d.extractLsb' 3 3) (d.extractLsb' 0 3) a b x)
  | 0x38 => allowed ((x.extractLsb' 1 1) = 0) (.ok (.vsel h d a b (x.extractLsb' 0 1)))
  | 0x39 => allowed ((x.extractLsb' 1 1) = 0) (.ok (.vshuf h d a b (x.extractLsb' 0 1)))
  | 0x3a => allowed ((x.extractLsb' 1 1) = 0) (.ok (.vbc h d a b (x.extractLsb' 0 1)))
  | 0x3b => .ok (.vlog h d a b x)
  | 0x3c => .ok (.vsh h d a b x)
  | 0x3d => allowed (x ≠ 3) (.ok (.vlane h d a b x))
  | 0x3e => allowed ((x.extractLsb' 1 1) = 0) (.ok (.vscale h d a b (x.extractLsb' 0 1)))
  | 0x3f => unusedZero (b = 0) (.ok (.vrint h d a x))
  | 0x40 => .ok (.cvt h d a (b.extractLsb' 2 4) (b.extractLsb' 0 2) x)
  | 0x41 => .ok (.qblk h d a b x)
  | 0x42 => .ok (.dqblk h d a b x)
  | 0x43 => allowed (x = 0) (allowed (b ≤ 7) (.ok (.vspec h d a b)))
  | 0x44 => unusedZero (w0.extractLsb' 0 4 = 0) (.ok (.pfx h (w0.extractLsb' 16 4) (w0.extractLsb' 12 4)
        (w0.extractLsb' 6 6) (w0.extractLsb' 4 2)))
  | 0x45 =>
      if x = 0 then unusedZero ((a.extractLsb' 4 2) = 0) (.ok (.setfmt h d (a.extractLsb' 0 4) (b.extractLsb' 2 4)
        (b.extractLsb' 0 2))) else
      if x = 1 then unusedZero (d = 0 ∧ (a.extractLsb' 4 2) = 0 ∧ (b.extractLsb' 0 2) = 0) (.ok (.setfmtF h
        (a.extractLsb' 0 4) (b.extractLsb' 2 4))) else
      .error .reservedValue
  | _ => .error .unassigned

/-- OP 0x48 to 0x4f: matrix instructions. -/
def decMatrix (o : Nat) (h : Hdr) (d a b : BitVec 6) (x : BitVec 2) : Except DecodeError Instr :=
  match o with
  | 0x48 =>
      if x = 0 then unusedZero (a = 0 ∧ (b.extractLsb' 4 2) = 0) (.ok (.mlease h d (b.extractLsb' 0 4))) else
      if x = 1 then unusedZero (a = 0 ∧ (b.extractLsb' 4 2) = 0) (.ok (.mleaseTry h d (b.extractLsb' 0 4))) else
      .error .reservedValue
  | 0x49 => allowed (x = 0) (unusedZero (d = 0 ∧ a = 0 ∧ (b.extractLsb' 4 2) = 0) (.ok (.mrel h (b.extractLsb' 0 4))))
  | 0x4a => allowed (x = 0) (unusedZero (d = 0 ∧ a = 0 ∧ (b.extractLsb' 4 2) = 0) (.ok (.mzero h
        (b.extractLsb' 0 4))))
  | 0x4b => allowed (x ≠ 3) (.ok (.mma h (d.extractLsb' 4 2) (d.extractLsb' 0 4) a b x))
  | 0x4c => unusedZero ((d.extractLsb' 0 4) = 0) (.ok (.mmr h (d.extractLsb' 4 2) a b x))
  | 0x4d =>
      if x = 0 then unusedZero ((d.extractLsb' 0 4) = 0) (.ok (.mstS h (d.extractLsb' 4 2) a b)) else
      if x = 1 then unusedZero (a = 0 ∧ (b.extractLsb' 2 4) = 0) (.ok (.mstR h d (b.extractLsb' 0 2))) else
      if x = 2 then unusedZero ((d.extractLsb' 0 4) = 0) (.ok (.mstL h (d.extractLsb' 4 2) a b)) else
      .error .reservedValue
  | 0x4e => allowed (x = 0) (unusedZero (d = 0 ∧ b = 0) (.ok (.cbload h a)))
  | 0x4f => allowed ((x.extractLsb' 1 1) = 0) (unusedZero ((d.extractLsb' 0 4) = 0 ∧ b = 0) (.ok (.mred h
        (d.extractLsb' 4 2) a (x.extractLsb' 0 1))))
  | _ => .error .unassigned

/-- OP 0x50 to 0x5f: copy, stream, barrier, message, light, reduction, time and fence instructions. -/
def decEngine (o : Nat) (h : Hdr) (d a b : BitVec 6) (x : BitVec 2) : Except DecodeError Instr :=
  match o with
  | 0x50 => allowed (x = 0) (unusedZero (b = 0) (.ok (.sbind h d a)))
  | 0x51 =>
      if x = 0 then unusedZero (a = 0 ∧ b = 0) (.ok (.sctlUnbind h d)) else
      if x = 1 then unusedZero (a = 0 ∧ b = 0) (.ok (.sctlDrain h d)) else
      if x = 2 then unusedZero (a = 0 ∧ b = 0) (.ok (.sctlRewind h d)) else
      .error .reservedValue
  | 0x52 => allowed (x ≠ 3) (.ok (.cget h d a b x))
  | 0x53 => allowed (x ≠ 3) (.ok (.cput h d a b x))
  | 0x54 =>
      if x = 0 then unusedZero (d = 0 ∧ (b.extractLsb' 3 3) = 0) (.ok (.wopen h a (b.extractLsb' 0 3))) else
      if x = 1 then unusedZero (d = 0 ∧ a = 0 ∧ (b.extractLsb' 3 3) = 0) (.ok (.wopenC h (b.extractLsb' 0 3))) else
      .error .reservedValue
  | 0x55 => allowed (x = 0) (unusedZero (d = 0 ∧ (b.extractLsb' 4 2) = 0) (.ok (.binit h a (b.extractLsb' 0 4))))
  | 0x56 =>
      if x = 0 then unusedZero (a = 0 ∧ (b.extractLsb' 4 2) = 0) (.ok (.barr h d (b.extractLsb' 0 4))) else
      if x = 1 then unusedZero (d = 0 ∧ a = 0 ∧ (b.extractLsb' 4 2) = 0) (.ok (.barrE h (b.extractLsb' 0 4))) else
      if x = 2 then unusedZero (a = 0 ∧ (b.extractLsb' 4 2) = 0) (.ok (.barrP h d (b.extractLsb' 0 4))) else
      .error .reservedValue
  | 0x57 => allowed (x = 0) (unusedZero ((b.extractLsb' 4 2) = 0) (.ok (.bwait h d a (b.extractLsb' 0 4))))
  | 0x58 => .ok (.send h d a b x)
  | 0x59 => unusedZero ((b.extractLsb' 4 2) = 0) (.ok (.ratom h d a (b.extractLsb' 0 4) x))
  | 0x5a => unusedZero (b = 0) (allowed (x ≠ 3) (.ok (.clmask h d a x)))
  | 0x5b =>
      if x = 0 then unusedZero (d = 0 ∧ a = 0 ∧ (b.extractLsb' 3 3) = 0) (.ok (.lrel h (b.extractLsb' 0 3))) else
      if x = 1 then unusedZero (d = 0 ∧ b = 0) (.ok (.lrelR h a)) else
      .error .reservedValue
  | 0x5c =>
      if x = 0 then .ok (.rdcon h d a b) else
      if x = 1 then unusedZero (b = 0) (.ok (.rdconE h d a)) else
      .error .reservedValue
  | 0x5d =>
      if x = 0 then unusedZero (a = 0 ∧ b = 0) (.ok (.timeTnow h d)) else
      if x = 1 then unusedZero (a = 0 ∧ b = 0) (.ok (.timeTgvt h d)) else
      if x = 2 then .ok (.timeTdefer h d a b) else
      .error .reservedValue
  | 0x5e => unusedZero (d = 0 ∧ a = 0) (allowed (b ≤ 2 ∧ x ≠ 3) (.ok (.fence h b x)))
  | _ => .error .unassigned

/-- OP 0x60 to 0x6f: long forms, with their second word. -/
def decLong (o : Nat) (h : Hdr) (d a b : BitVec 6) (x : BitVec 2) (w1 : W32) : Except DecodeError Instr :=
  match o with
  | 0x60 => unusedZero (a = 0 ∧ b = 0) (allowed (x ≠ 3) (.ok (.movi h d x w1)))
  | 0x61 => unusedZero (b = 0) (allowed (x ≤ 1) (.ok (.addi h d a x w1)))
  | 0x62 => unusedZero (b = 0) (allowed (x ≤ 1) (.ok (.andi h d a x w1)))
  | 0x63 => unusedZero (b = 0) (allowed (x ≤ 1) (.ok (.ori h d a x w1)))
  | 0x64 => unusedZero (b = 0 ∧ (w1.extractLsb' 12 20) = 0) (allowed (x ≤ 1) (.ok (.bfx h d a x
        (w1.extractLsb' 0 6) (w1.extractLsb' 6 6))))
  | 0x65 => allowed (x = 0) (unusedZero (b = 0 ∧ (w1.extractLsb' 12 20) = 0) (.ok (.bfi h d a (w1.extractLsb' 0 6)
        (w1.extractLsb' 6 6))))
  | 0x66 => allowed (b ≤ 1 ∧ ¬(b = 1 ∧ x = 3)) (.ok (.ldL h d a b x w1))
  | 0x67 => unusedZero (b = 0) (.ok (.stL h d a x w1))
  | 0x68 => unusedZero ((d.extractLsb' 0 4) = 0 ∧ (w1.extractLsb' 27 5) = 0 ∧ (w1.extractLsb' 9 3) = 0) (allowed
        (x ≠ 3) (.ok (.mmaL h (d.extractLsb' 4 2) a b x (w1.extractLsb' 0 8) (w1.extractLsb' 8 1)
        (w1.extractLsb' 12 15))))
  | 0x69 => unusedZero ((d.extractLsb' 0 4) = 0 ∧ (w1.extractLsb' 8 24) = 0) (.ok (.mmrL h
        (d.extractLsb' 4 2) a b x (w1.extractLsb' 0 8)))
  | 0x6a => allowed (x = 0) (unusedZero (a = 0 ∧ b = 0 ∧ (w1.extractLsb' 15 1) = 0) (.ok (.sbindL h d
        (w1.extractLsb' 0 15) (w1.extractLsb' 16 16))))
  | 0x6b => allowed (x ≠ 3) (.ok (.cgetL h d a b x (w1.extractLsb' 0 12) (w1.extractLsb' 12 20)))
  | 0x6c => allowed (x ≠ 3) (.ok (.cputL h d a b x (w1.extractLsb' 0 12) (w1.extractLsb' 12 20)))
  | 0x6d => unusedZero (d = 0 ∧ (w1.extractLsb' 30 2) = 0) (.ok (.sendL h a b x (w1.extractLsb' 0 20)
        (w1.extractLsb' 20 6) (w1.extractLsb' 26 4)))
  | 0x6e => allowed (x = 0) (unusedZero (b = 0 ∧ (w1.extractLsb' 9 23) = 0) (.ok (.ratomL h d a
        (w1.extractLsb' 0 4) (w1.extractLsb' 4 4) (w1.extractLsb' 8 1))))
  | 0x6f => unusedZero (b = 0 ∧ (w1.extractLsb' 19 13) = 0 ∧ (w1.extractLsb' 15 1) = 0) (allowed (x ≤ 1) (.ok
        (.rdconL h d a x (w1.extractLsb' 0 15) (w1.extractLsb' 16 3))))
  | _ => .error .unassigned

end Decode

open Decode in
/-- The instruction that a first word and the word after it hold (R46–R53). -/
def decode (w0 w1 : W32) : Except DecodeError Instr :=
  let h := hdr w0
  let o := (op w0).toNat
  let d := fieldD w0
  let a := fieldA w0
  let b := fieldB w0
  let x := fieldX w0
  if h.gn = true ∧ h.gp = 0 then .error .reservedGuard
  else if o < 0x10 then decControl o h d a b x w0
  else if o < 0x28 then decScalar o h d a b x
  else if o < 0x30 then decMemory o h d a b x
  else if o < 0x48 then decVector o h d a b x w0
  else if o < 0x50 then decMatrix o h d a b x
  else if o < 0x60 then decEngine o h d a b x
  else decLong o h d a b x w1

/-- A long form occupies two words (Table 02.6, layout L); a first word with OP 0x60 to 0x6F begins one. -/
def isLongWord (w0 : W32) : Bool := (Decode.op w0).toNat / 16 == 6

/-- The words of a list, as the code plane holds them, read as one instruction and the words after it. -/
def decodeWords : List W32 → Except DecodeError (Instr × List W32)
  | [] => .error .unassigned
  | [w] => if isLongWord w then .error .unassigned else (decode w 0).map fun i => (i, [])
  | w :: v :: r => (decode w v).map fun i => (i, if isLongWord w then r else v :: r)

/-- The instruction read from words numbered as spec/opcode_table.json numbers their bits: the first word in the low
32 bits, the second above it. -/
def decodeTableWord (_nbits w : Nat) : Option Instr :=
  match decode (BitVec.ofNat 32 w) (BitVec.ofNat 32 (w / 4294967296)) with
  | .ok i => some i
  | .error _ => none

namespace Encode

/-- Layouts S, I, C and word 0 of layout L (Tables 02.4, 02.6). -/
def word0 (h : Hdr) (o : BitVec 7) (d a b : BitVec 6) (x : BitVec 2) : W32 :=
  BitVec.ofBool h.w ++ BitVec.ofBool h.gn ++ h.gp ++ o ++ d ++ a ++ b ++ x
/-- Layout J. -/
def wordJ (h : Hdr) (o : BitVec 7) (off : BitVec 18) : W32 :=
  BitVec.ofBool h.w ++ BitVec.ofBool h.gn ++ h.gp ++ o ++ off ++ 0#2
/-- Layout K. -/
def wordK (h : Hdr) (o : BitVec 7) (mask : BitVec 7) (len : BitVec 3) (off : BitVec 8) : W32 :=
  BitVec.ofBool h.w ++ BitVec.ofBool h.gn ++ h.gp ++ o ++ mask ++ len ++ off ++ 0#2
/-- Layout Y. -/
def wordY (h : Hdr) (o : BitVec 7) (d : BitVec 6) (n : BitVec 12) : W32 :=
  BitVec.ofBool h.w ++ BitVec.ofBool h.gn ++ h.gp ++ o ++ d ++ n ++ 0#2
/-- Layout F (Table 02.7). -/
def wordF (h : Hdr) (fs fd : BitVec 4) (sc : BitVec 6) (rs : BitVec 2) : W32 :=
  BitVec.ofBool h.w ++ BitVec.ofBool h.gn ++ h.gp ++ 0x44#7 ++ fs ++ fd ++ sc ++ rs ++ 0#4

end Encode

open Encode in
/-- The words of an instruction, from the same tables; an event has none. -/
def encode (i : Instr) : List W32 :=
  match i with
  | .nop h => [word0 h 0x00#7 0#6 0#6 0#6 0#2]
  | .br h o => [wordJ h 0x01#7 o]
  | .call h o => [wordJ h 0x02#7 o]
  | .jmp h a => [word0 h 0x03#7 0#6 a 0#6 0#2]
  | .callr h a => [word0 h 0x03#7 0#6 a 0#6 1#2]
  | .ret h a => [word0 h 0x03#7 0#6 a 0#6 2#2]
  | .loop h a len x => [word0 h 0x04#7 0#6 a len (0#1 ++ x)]
  | .stop h => [word0 h 0x05#7 0#6 0#6 0#6 0#2]
  | .bcast h mask len off => [wordK h 0x06#7 mask len off]
  | .fetchb h a => [word0 h 0x07#7 0#6 a 0#6 0#2]
  | .joinm h d a => [word0 h 0x08#7 d a 0#6 0#2]
  | .joinmF h d a => [word0 h 0x08#7 d a 0#6 1#2]
  | .yield h => [word0 h 0x09#7 0#6 0#6 0#6 0#2]
  | .hret h => [word0 h 0x0a#7 0#6 0#6 0#6 0#2]
  | .trap h a code => [word0 h 0x0b#7 0#6 a code 0#2]
  | .brk h a code => [word0 h 0x0c#7 0#6 a code 0#2]
  | .tctlResume h a => [word0 h 0x0d#7 0#6 a 0#6 0#2]
  | .tctlKill h a => [word0 h 0x0d#7 0#6 a 0#6 1#2]
  | .tctlReset h a => [word0 h 0x0d#7 0#6 a 0#6 2#2]
  | .sysrd h d n => [wordY h 0x0e#7 d n]
  | .syswr h d n => [wordY h 0x0f#7 d n]
  | .fpcWrite h d => [wordY h 0x0f#7 d 0x041#12]
  | .add h d a b x => [word0 h 0x10#7 d a b x]
  | .sub h d a b x => [word0 h 0x11#7 d a b x]
  | .mul h d a b x => [word0 h 0x12#7 d a b x]
  | .mulh h d a b x => [word0 h 0x13#7 d a b (0#1 ++ x)]
  | .div h d a b x => [word0 h 0x14#7 d a b (0#1 ++ x)]
  | .rem h d a b x => [word0 h 0x15#7 d a b (0#1 ++ x)]
  | .and h d a b x => [word0 h 0x16#7 d a b x]
  | .or h d a b x => [word0 h 0x17#7 d a b x]
  | .xor h d a b x => [word0 h 0x18#7 d a b x]
  | .andn h d a b x => [word0 h 0x19#7 d a b x]
  | .shl h d a b x => [word0 h 0x1a#7 d a b x]
  | .shr h d a b x => [word0 h 0x1b#7 d a b x]
  | .min h d a b => [word0 h 0x1c#7 d a b 0#2]
  | .max h d a b => [word0 h 0x1c#7 d a b 1#2]
  | .minu h d a b => [word0 h 0x1c#7 d a b 2#2]
  | .maxu h d a b => [word0 h 0x1c#7 d a b 3#2]
  | .bitc h d a x => [word0 h 0x1d#7 d a 0#6 x]
  | .ext h d a sgn x => [word0 h 0x1e#7 d a sgn x]
  | .mov h d a x => [word0 h 0x1f#7 d a 0#6 x]
  | .cmp h cond pd a b x => [word0 h 0x20#7 (cond ++ pd) a b x]
  | .fcmp h cond pd a b => [word0 h 0x21#7 (cond ++ pd) a b 0#2]
  | .plog h pd na pa nb pb x => [word0 h 0x22#7 (0#3 ++ pd) (0#2 ++ na ++ pa) (0#2 ++ nb ++ pb) x]
  | .pset h pd v => [word0 h 0x23#7 (0#3 ++ pd) 0#6 (0#5 ++ v) 0#2]
  | .psetBit h pd a n => [word0 h 0x23#7 (0#3 ++ pd) a n 1#2]
  | .psetAll h a => [word0 h 0x23#7 0#6 a 0#6 2#2]
  | .prd h d => [word0 h 0x24#7 d 0#6 0#6 0#2]
  | .ld h d a off x => [word0 h 0x28#7 d a off x]
  | .lds h d a off x => [word0 h 0x29#7 d a off x]
  | .st h d a off x => [word0 h 0x2a#7 d a off x]
  | .ldv h d a off => [word0 h 0x2b#7 d a off 0#2]
  | .stv h d a off => [word0 h 0x2b#7 d a off 1#2]
  | .ldvBc h d a off => [word0 h 0x2b#7 d a off 2#2]
  | .aop h d a op => [word0 h 0x2c#7 d a op 0#2]
  | .waita h d a b x => [word0 h 0x2d#7 d a b x]
  | .vadd h d a b x => [word0 h 0x30#7 d a b x]
  | .vsub h d a b x => [word0 h 0x31#7 d a b x]
  | .vmul h d a b x => [word0 h 0x32#7 d a b x]
  | .vfma h d a b x => [word0 h 0x33#7 d a b x]
  | .vminmax h d a b x => [word0 h 0x34#7 d a b x]
  | .vun h d a x => [word0 h 0x35#7 d a 0#6 x]
  | .vred h d a x => [word0 h 0x36#7 d a 0#6 x]
  | .vcmp h pd m a b x => [word0 h 0x37#7 (pd ++ m) a b x]
  | .vsel h d a b x => [word0 h 0x38#7 d a b (0#1 ++ x)]
  | .vshuf h d a b x => [word0 h 0x39#7 d a b (0#1 ++ x)]
  | .vbc h d a b x => [word0 h 0x3a#7 d a b (0#1 ++ x)]
  | .vlog h d a b x => [word0 h 0x3b#7 d a b x]
  | .vsh h d a b x => [word0 h 0x3c#7 d a b x]
  | .vlane h d a k x => [word0 h 0x3d#7 d a k x]
  | .vscale h d a b x => [word0 h 0x3e#7 d a b (0#1 ++ x)]
  | .vrint h d a x => [word0 h 0x3f#7 d a 0#6 x]
  | .cvt h d a t r x => [word0 h 0x40#7 d a (t ++ r) x]
  | .qblk h d a b x => [word0 h 0x41#7 d a b x]
  | .dqblk h d a b x => [word0 h 0x42#7 d a b x]
  | .vspec h d a fn => [word0 h 0x43#7 d a fn 0#2]
  | .pfx h fs fd sc rs => [wordF h fs fd sc rs]
  | .setfmt h sc ef rf rs => [word0 h 0x45#7 sc (0#2 ++ ef) (rf ++ rs) 0#2]
  | .setfmtF h ef rf => [word0 h 0x45#7 0#6 (0#2 ++ ef) (rf ++ 0#2) 1#2]
  | .mlease h d m => [word0 h 0x48#7 d 0#6 (0#2 ++ m) 0#2]
  | .mleaseTry h d m => [word0 h 0x48#7 d 0#6 (0#2 ++ m) 1#2]
  | .mrel h m => [word0 h 0x49#7 0#6 0#6 (0#2 ++ m) 0#2]
  | .mzero h m => [word0 h 0x4a#7 0#6 0#6 (0#2 ++ m) 0#2]
  | .mma h t m a b x => [word0 h 0x4b#7 (t ++ m) a b x]
  | .mmr h t a b x => [word0 h 0x4c#7 (t ++ 0#4) a b x]
  | .mstS h t a off => [word0 h 0x4d#7 (t ++ 0#4) a off 0#2]
  | .mstR h d t => [word0 h 0x4d#7 d 0#6 (0#4 ++ t) 1#2]
  | .mstL h t a off => [word0 h 0x4d#7 (t ++ 0#4) a off 2#2]
  | .cbload h a => [word0 h 0x4e#7 0#6 a 0#6 0#2]
  | .mred h t a x => [word0 h 0x4f#7 (t ++ 0#4) a 0#6 (0#1 ++ x)]
  | .sbind h d a => [word0 h 0x50#7 d a 0#6 0#2]
  | .sctlUnbind h d => [word0 h 0x51#7 d 0#6 0#6 0#2]
  | .sctlDrain h d => [word0 h 0x51#7 d 0#6 0#6 1#2]
  | .sctlRewind h d => [word0 h 0x51#7 d 0#6 0#6 2#2]
  | .cget h d a b x => [word0 h 0x52#7 d a b x]
  | .cput h d a b x => [word0 h 0x53#7 d a b x]
  | .wopen h a n => [word0 h 0x54#7 0#6 a (0#3 ++ n) 0#2]
  | .wopenC h n => [word0 h 0x54#7 0#6 0#6 (0#3 ++ n) 1#2]
  | .binit h a i => [word0 h 0x55#7 0#6 a (0#2 ++ i) 0#2]
  | .barr h d i => [word0 h 0x56#7 d 0#6 (0#2 ++ i) 0#2]
  | .barrE h i => [word0 h 0x56#7 0#6 0#6 (0#2 ++ i) 1#2]
  | .barrP h d i => [word0 h 0x56#7 d 0#6 (0#2 ++ i) 2#2]
  | .bwait h d a i => [word0 h 0x57#7 d a (0#2 ++ i) 0#2]
  | .send h d a b x => [word0 h 0x58#7 d a b x]
  | .ratom h d a cls x => [word0 h 0x59#7 d a (0#2 ++ cls) x]
  | .clmask h d a x => [word0 h 0x5a#7 d a 0#6 x]
  | .lrel h n => [word0 h 0x5b#7 0#6 0#6 (0#3 ++ n) 0#2]
  | .lrelR h a => [word0 h 0x5b#7 0#6 a 0#6 1#2]
  | .rdcon h d a b => [word0 h 0x5c#7 d a b 0#2]
  | .rdconE h d a => [word0 h 0x5c#7 d a 0#6 1#2]
  | .timeTnow h d => [word0 h 0x5d#7 d 0#6 0#6 0#2]
  | .timeTgvt h d => [word0 h 0x5d#7 d 0#6 0#6 1#2]
  | .timeTdefer h d a b => [word0 h 0x5d#7 d a b 2#2]
  | .fence h kind x => [word0 h 0x5e#7 0#6 0#6 kind x]
  | .movi h d x imm => [word0 h 0x60#7 d 0#6 0#6 x, imm]
  | .addi h d a x imm => [word0 h 0x61#7 d a 0#6 x, imm]
  | .andi h d a x imm => [word0 h 0x62#7 d a 0#6 x, imm]
  | .ori h d a x imm => [word0 h 0x63#7 d a 0#6 x, imm]
  | .bfx h d a x lsb wm1 => [word0 h 0x64#7 d a 0#6 x, 0#20 ++ wm1 ++ lsb]
  | .bfi h d a lsb wm1 => [word0 h 0x65#7 d a 0#6 0#2, 0#20 ++ wm1 ++ lsb]
  | .ldL h d a sgn x imm => [word0 h 0x66#7 d a sgn x, imm]
  | .stL h d a x imm => [word0 h 0x67#7 d a 0#6 x, imm]
  | .mmaL h t a b x steps skip mbase => [word0 h 0x68#7 (t ++ 0#4) a b x, 0#5 ++ mbase ++ 0#3 ++ skip ++ steps]
  | .mmrL h t a b x steps => [word0 h 0x69#7 (t ++ 0#4) a b x, 0#24 ++ steps]
  | .sbindL h d doff start => [word0 h 0x6a#7 d 0#6 0#6 0#2, start ++ 0#1 ++ doff]
  | .cgetL h d a b x rows gstr => [word0 h 0x6b#7 d a b x, gstr ++ rows]
  | .cputL h d a b x rows gstr => [word0 h 0x6c#7 d a b x, gstr ++ rows]
  | .sendL h a b x name chan cls => [word0 h 0x6d#7 0#6 a b x, 0#2 ++ cls ++ chan ++ name]
  | .ratomL h d a opc cls post => [word0 h 0x6e#7 d a 0#6 0#2, 0#23 ++ post ++ cls ++ opc]
  | .rdconL h d a x loff wm1 => [word0 h 0x6f#7 d a 0#6 x, 0#13 ++ wm1 ++ 0#1 ++ loff]
  | .longLatencyWriteback .. | .leadFault .. | .bcastDelivery .. | .joinmComplete .. | .messageArrival ..
  | .spillQueueBind .. | .ingressToSpill .. | .latchedEventEntry .. | .depositComplete .. | .routerForward ..
  | .nameTableAgeing .. | .rotationNotice .. | .egressInject .. | .acknowledgement .. | .remoteAtomicPerform ..
  | .atomicResponse .. | .torusExchangeArrival .. | .matrixExecute .. | .leaseGrant .. | .reductionOutputDrain ..
  | .contributionArrival .. | .slotTimeout .. | .creditReturn .. | .resultDelivery .. | .copyTransfer ..
  | .copyCompletionWrite .. | .copyError .. | .engineArrivalFire .. | .streamRefill .. | .streamWriteOut ..
  | .pageWalkComplete .. | .shootdown .. | .shootdownAcknowledge .. | .circuitSourceRead .. | .circuitLand ..
  | .circuitCredit .. | .blockSend .. | .lightFrameLanding .. | .releaseReport .. | .releaseCombine ..
  | .sourceCountReceipt .. | .ringRetune .. | .roundEndToken .. | .heldSwapApply .. | .bankClear .. | .startCommand ..
  | .completionWaveStart .. | .completionWaveAnswer .. | .completionWaveResult .. | .timedMessageBind ..
  | .timedQueueEntry .. | .antiMessageArrival .. | .gvtInterval .. | .gvtRequest .. | .gvtStart .. | .gvtPassResult ..
  | .gvtCommit .. | .causalStamp .. | .causalArrival .. | .causalRelease .. | .causalApplied .. | .causalQuery ..
  | .causalNotice .. | .holdTimeout .. | .tumblerInterval .. | .rotationAbandon .. | .rotationMoveDone .. | .drowsyEntry ..
  | .drowsyWake .. | .islandStateChange .. | .powerMeasure .. | .throttleStep .. | .pad .. | .span .. | .select ..
  | .field .. | .burst .. | .sealRec .. | .globalKeyring .. | .globalTree .. | .globalBucket .. | .globalCircuit ..
  | .globalStreamPlan .. | .imageEnd .. | .haspAcq .. | .haspRel .. | .haspLinkDown .. | .launch .. | .next .. | .round ..
  | .preempt .. | .preemptDrainBound .. | .restore .. | .release .. | .power .. | .gateway .. | .hostToken ..
  | .bar2Write .. | .bar2Read .. | .hostRegisterWrite .. | .powerUp .. | .deltaRecordAppend .. | .managementRead ..
  | .managementClearHasp .. | .managementFirmwareUpdate .. | .controllerWatchdog .. | .dzihamRequest ..
  | .panelGatewayExchange .. | .causalQueryAnswer .. | .causalAcknowledgement .. | .weightCacheInvalidate ..
  | .pageTableUpdate .. => []

end Sys2Proof
end

