-- ==== Sys2Proof/Config.lean ====
section
/-! DEFINITION. What the manual leaves open as a value: constants with no body, so that no proof can see a number.
A statement that holds of the model holds whatever these are. Sizes and places that the manual fixes are definitions. -/

namespace Sys2Proof.Config

/-- A fresh free value, applied to `State.freeIx`, which each use advances (assumption 2): the value of a read that
the manual does not state (assumption 13). -/
opaque freeVal : Nat → V256

/-- A free choice among the members of a set whose order the manual leaves open (R5, R209, R226, R310), applied to
`State.freeIx` (assumption 2). -/
opaque pick : Nat → Nat

/-- How many counts of a die's reference clock (R36) pass in a step, applied to the die and to `State.tick`
(assumption 1). -/
opaque refTicks : Nat → Nat → W64

/-- Which of the results that R174 and R175 admit a special function gives for an input, counted from the least: a fixed function of
the function number and the input, the same in every cell (assumption 5). -/
opaque vspec : BitVec 3 → W32 → W32

/-- Whether a read of a weight-cache line meets a parity error (R282), applied to `State.freeIx` (assumption 2). -/
opaque parityErr : Nat → Bool

/-- Whether a write to a weight-store module fails after three replays (R283), applied to `State.freeIx` (assumption 2). -/
opaque frameLost : Nat → Bool

/-- The page tables that a LAUNCH writes, as (offset in a die's reservation, byte) pairs (R382; assumption 19), applied to
`State.freeIx`. -/
opaque launchTables : Nat → List (Nat × Byte)

/-- What the holder of the hasp has written, by the time it gives that up, into a port's access entry for a target: none, reads, or
reads and writes (R379; assumption 18), applied to `State.freeIx`, the port's number and the target. -/
opaque portEntry : Nat → Nat → Nat → Option Bool

/-- The rounding mode that a reserved DRND value names, as one of the five modes (Table 02.1; assumption 14). -/
opaque drndReserved : BitVec 3 → Nat

/-- How far a die's table reservation goes beyond one unit of 4 MiB, modulo 64: firmware chooses it (R31). -/
opaque reservation : Nat → Nat

/-- Bytes of a cell's scratchpad (R206). -/
def padBytes : Nat := 0x8000
/-- Base of the system window (Table 08.3). -/
def sysBase : Nat := 0x200000000000
/-- Bytes of the system window (Table 08.4). -/
def sysBytes : Nat := 0x428
/-- Bytes of a weight-store module, 512 GiB (R283). -/
def moduleBytes : Nat := 2 ^ 39
/-- Bytes of one die's table reservation at its largest, 64 × 4 MiB (R31). -/
def tableBytes : Nat := 2 ^ 28

end Sys2Proof.Config
end

