-- ==== Sys2Proof/Machine/Sparse.lean ====
section
/-! DEFINITION. Sparse maps in one canonical form: keys strictly rising, and, in a `Sparse` map of words, no entry
equal to the zero that an unlisted key reads as. Memories, code planes, codebooks and the tables of the panel are all
held so; equal contents are equal lists. -/

namespace Sys2Proof.Machine

/-- A finite map, keys strictly rising. -/
abbrev KMap (α : Type) := List (Nat × α)

/-- A map of words in which an unlisted key reads as zero. `Sparse 8` is a list of `Host.Cell`. -/
abbrev Sparse (w : Nat) := List (Nat × BitVec w)

/-- Bytes by address. -/
abbrev Memory := List Host.Cell

namespace KM

/-- The entry at a key. -/
def get {α : Type} : KMap α → Nat → Option α
  | [], _ => none
  | (k, v) :: r, a => if k = a then some v else if a < k then none else get r a

/-- Enter or replace. -/
def put {α : Type} : KMap α → Nat → α → KMap α
  | [], a, x => [(a, x)]
  | (k, v) :: r, a, x =>
    if a < k then (a, x) :: (k, v) :: r else if k = a then (a, x) :: r else (k, v) :: put r a x

/-- Remove. -/
def del {α : Type} : KMap α → Nat → KMap α
  | [], _ => []
  | (k, v) :: r, a => if k = a then r else if a < k then (k, v) :: r else (k, v) :: del r a

/-- Every key of the map is above `b`, and keys rise strictly. -/
def above {α : Type} (b : Nat) : KMap α → Bool
  | [] => true
  | (k, _) :: r => decide (b < k) && above k r

/-- Keys rise strictly. -/
def wf {α : Type} : KMap α → Bool
  | [] => true
  | (k, _) :: r => above k r

end KM

namespace Sp

/-- The word at a key; zero where nothing is listed. -/
def get {w : Nat} (m : Sparse w) (a : Nat) : BitVec w := (KM.get m a).getD 0

/-- Write one word; writing zero removes the entry. -/
def set {w : Nat} (m : Sparse w) (a : Nat) (x : BitVec w) : Sparse w :=
  if x = 0 then KM.del m a else KM.put m a x

/-- No entry is zero. -/
def nonzero {w : Nat} : Sparse w → Bool
  | [] => true
  | (_, v) :: r => decide (v ≠ 0) && nonzero r

/-- The canonical form. -/
def wf {w : Nat} (m : Sparse w) : Bool := KM.wf m && nonzero m

/-- Write words at rising keys. -/
def setMany {w : Nat} (m : Sparse w) : Nat → List (BitVec w) → Sparse w
  | _, [] => m
  | a, x :: r => setMany (set m a x) (a + 1) r

/-- `n` words from `a` upward. -/
def getMany {w : Nat} (m : Sparse w) (a : Nat) : Nat → List (BitVec w)
  | 0 => []
  | n + 1 => get m a :: getMany m (a + 1) n

end Sp

namespace Memory

/-- The canonical form of a byte memory. -/
def wf (m : Memory) : Bool := Sp.wf m

/-- `n` bytes from `a` as one little-endian number (R6). -/
def readNat (m : Memory) (a : Nat) : Nat → Nat
  | 0 => 0
  | n + 1 => (Sp.get m a).toNat + 256 * readNat m (a + 1) n

/-- `8 n` bits from `n` bytes, the lowest address in the low bits (R6). -/
def read (m : Memory) (a n : Nat) : BitVec (8 * n) := BitVec.ofNat _ (readNat m a n)

/-- Write the low `n` bytes of `v` at `a`, the low bits at the lowest address (R6). -/
def writeNat (m : Memory) (a : Nat) : Nat → Nat → Memory
  | 0, _ => m
  | n + 1, v => writeNat (Sp.set m a (BitVec.ofNat 8 v)) (a + 1) n (v / 256)

/-- Write a bit vector of whole bytes. -/
def write {w : Nat} (m : Memory) (a : Nat) (v : BitVec w) : Memory := writeNat m a (w / 8) v.toNat

end Memory

end Sys2Proof.Machine
end

