-- ==== Sys2Proof/Machine/Bits.lean ====
section
/-! DEFINITION. Fields, lanes and elements of words (Table 00.5, R6, R129). -/

namespace Sys2Proof.Machine

/-- Lane 0, bits [63:0] (R48). -/
def lane0 (v : V256) : W64 := v.extractLsb' 0 64
/-- Lane 1, bits [127:64]. -/
def lane1 (v : V256) : W64 := v.extractLsb' 64 64
/-- The register with lane 0 replaced; its other bits are unchanged (R48). -/
def setLane0 (v : V256) (x : W64) : V256 := v.extractLsb' 64 192 ++ x
/-- The register with its low 128 bits replaced (R264). -/
def setLanes01 (v : V256) (x y : W64) : V256 := v.extractLsb' 128 128 ++ y ++ x
/-- Zero-extension of lane 0 to a register. -/
def ofLane0 (x : W64) : V256 := x.setWidth 256
/-- A register from its two low lanes; the others are zero. -/
def ofLanes (x y : W64) : V256 := (y ++ x).setWidth 256

/-- Element `i` of width `w`, as an unsigned number: bits [w·i + w − 1 : w·i] (R129). -/
def el (v : V256) (w i : Nat) : Nat := v.toNat / 2 ^ (w * i) % 2 ^ w
/-- The elements `0 … n−1`. -/
def els (v : V256) (w n : Nat) : List Nat := (List.range n).map (el v w)
/-- The number whose `w`-bit digits, lowest first, are these. -/
def packNat (w : Nat) : List Nat → Nat
  | [] => 0
  | x :: r => x % 2 ^ w + 2 ^ w * packNat w r
/-- A register from elements, element 0 lowest (R129). -/
def pack (w : Nat) (xs : List Nat) : V256 := BitVec.ofNat 256 (packNat w xs)
/-- The register with bits [lo + n − 1 : lo] replaced by the low `n` bits of `x`. -/
def insBits {k : Nat} (v : BitVec k) (lo n x : Nat) : BitVec k :=
  BitVec.ofNat k (v.toNat % 2 ^ lo + 2 ^ lo * (x % 2 ^ n) + 2 ^ (lo + n) * (v.toNat / 2 ^ (lo + n)))
/-- Bits [lo + n − 1 : lo] of a number. -/
def bits (v lo n : Nat) : Nat := v / 2 ^ lo % 2 ^ n
/-- Bit `i` of a number. -/
def bitOf (v i : Nat) : Bool := v / 2 ^ i % 2 == 1
/-- A flag as a number. -/
def bit (b : Bool) : Nat := if b then 1 else 0
/-- Two's complement of width `w`. -/
def sintOf (w v : Nat) : Int := if v % 2 ^ w < 2 ^ (w - 1) then ((v % 2 ^ w : Nat) : Int) else (v % 2 ^ w : Nat) - (2 ^ w : Nat)
/-- A signed value modulo 2^w. -/
def wrapOf (w : Nat) (x : Int) : Nat := (x % (2 ^ w : Nat)).toNat

/-- Sign-extension to 64 bits. -/
def sx64 {n : Nat} (x : BitVec n) : W64 := x.signExtend 64
/-- Zero-extension to 64 bits. -/
def zx64 {n : Nat} (x : BitVec n) : W64 := x.setWidth 64

/-- Addition that stops at the largest value (R85, R214). -/
def satAdd {n : Nat} (x : BitVec n) (k : Nat) : BitVec n := BitVec.ofNat n (Nat.min (x.toNat + k) (2 ^ n - 1))
/-- One more, stopping at the largest value. -/
def satInc {n : Nat} (x : BitVec n) : BitVec n := satAdd x 1

/-- A list with entry `i` replaced. -/
def setAt {α : Type} : List α → Nat → α → List α
  | [], _, _ => []
  | _ :: r, 0, x => x :: r
  | y :: r, i + 1, x => y :: setAt r i x
/-- A list without entry `i`. -/
def dropAt {α : Type} : List α → Nat → List α
  | [], _ => []
  | _ :: r, 0 => r
  | y :: r, i + 1 => y :: dropAt r i
/-- The index of the first entry that meets a test. -/
def firstIx {α : Type} (f : α → Bool) : List α → Nat → Option Nat
  | [], _ => none
  | y :: r, i => if f y then some i else firstIx f r (i + 1)

/-- The thread indices in order. -/
def tids : List TIdx := [0, 1, 2, 3, 4, 5, 6, 7]
/-- The micro-threads in order (R57). -/
def micro : List TIdx := [1, 2, 3, 4, 5, 6, 7]
/-- Bit T−1 of a mask whose bit 0 is T1 (R97, R99). -/
def inMask (m : BitVec 7) (t : TIdx) : Bool := t.val != 0 && m.getLsbD (t.val - 1)

/-- A 32-byte granule's bytes as one register, and back (R6). -/
def granule (v : Nat) : V256 := BitVec.ofNat 256 v

end Sys2Proof.Machine
end

