-- ==== Sys2Proof/Machine/State.lean ====
section
/-! DEFINITION. The state of the panel as plain data: the threads and engines of a cell (R57, R101 and the chapters
of each unit), the mesh and its packets, the light sources, the translation units, the controller's partitions and the
host ports; and `State.reset`, the panel before its first boot (R385). INVENTORY.md lists every field with its rule. -/

namespace Sys2Proof.Machine

/-! ### Packets and results -/

/-- The CAUSAL field of a head flit with the vector entries that travel with it (Table 13.3, R318). -/
structure Causal where
  odie   : BitVec 6
  oseq   : BitVec 16
  prev   : BitVec 16
  deltas : List (Nat × BitVec 16)
  fv     : Bool
  deriving DecidableEq, Repr

/-- An M-plane packet: the head flit of Table 10.1 and its payload flits. `loc` marks an event raised within the
cell (R83). -/
structure Pkt where
  dest   : Name := 0
  src    : Name := 0
  stid   : TIdx := 0
  cls    : BitVec 4 := 0
  chan   : BitVec 6 := 0
  rch    : BitVec 6 := 0
  rset   : Bool := false
  tmd    : Bool := false
  anti   : Bool := false
  colour : Bool := false
  refok  : Bool := false
  vrt    : BitVec 48 := 0
  seq    : BitVec 16 := 0
  kind   : BitVec 4 := 0
  nolrn  : Bool := false
  post   : Bool := false
  loc    : Bool := false
  pay    : List V256 := []
  causal : Option Causal := none
  deriving DecidableEq, Repr

/-- What a long-latency result waits for (R65, R179); the divider's is told apart since a cell has one divider (R103). -/
inductive LongKind where
  | local_
  | divider
  | remote (seq : BitVec 16)
  | matrix (id : Nat)
  deriving DecidableEq, Repr

/-- An outstanding long-latency result (R65–R67): the register it goes to, the value, and how many of the register's
low bits it writes. `bad` is the address of a load whose data was uncorrectable (Table 08.2); `base` is what the register held before
the first short-latency write that it met while the result was outstanding (R68). -/
structure LongRes where
  d     : Spec
  bits  : Nat
  val   : V256
  ready : Bool
  kind  : LongKind
  bad   : Option W64 := none
  base  : Option V256 := none
  deriving DecidableEq, Repr

/-- A late result that was written within the instruction that a thread issues (R67): the register, what it held before, and which of the
instruction's reads of it still return that value (bit n for the read after n others, bit 3 for every later one too). -/
structure Cut where
  d     : Spec
  old   : V256
  stale : BitVec 4
  deriving DecidableEq, Repr

/-- A fault record as Table 16.2 lays it out. -/
structure FaultRec where
  cause : BitVec 8
  info  : BitVec 6 := 0
  defer : Bool := false
  endd  : Bool := false
  fpc   : BitVec 10
  faddr : W64 := 0
  deriving DecidableEq, Repr

/-- What a thread does once its outstanding results are written (R71, R94, R95, R100, R367). -/
inductive Finish where
  | stop
  | blockEnd
  | hret
  | kill (clear : Bool)
  | fault (r : FaultRec)
  deriving DecidableEq, Repr

/-- What an instruction that could not yet issue needs (R62, R103, R217, R225, R233, R314, R331). -/
inductive Need where
  | copyEntry
  | arrivalRecord
  | egressRoom
  | matrixRoom
  | outputRoom
  | journal (n : Nat)
  | unmarked (lo n : Nat)
  | engineFree (n : Fin 4)
  | packets (n : Fin 4) (k : Nat)
  | room (n : Fin 4)
  | drained (n : Fin 4)
  | torus (dir : BitVec 2)
  | fence (kind scope : BitVec 2)
  | divider
  deriving DecidableEq, Repr

/-- Why a thread is bound, parked or sleeping (Table 03.1). -/
inductive Wait where
  | none
  | marker
  | finish (f : Finish)
  | need (n : Need)
  | bcast (mask : BitVec 7) (at_ : BitVec 10) (len : BitVec 3)
  | joinm (mask : BitVec 7) (d : Spec) (free : Bool)
  | kill (t : TIdx)
  | lease (mask : BitVec 4) (d : Spec)
  | waita (addr : Nat) (c : W64) (x : BitVec 2) (d : Spec)
  | bwait (b : Fin 16) (g : W32) (d : Spec)
  | deposit (p : Pkt) (pc : BitVec 10) (prio : BitVec 2) (timed : Bool) (len : BitVec 2)
  deriving DecidableEq, Repr

/-! ### A thread -/

/-- Table 03.1. -/
inductive TState where
  | free
  | bound
  | running
  | parked
  | sleeping
  | stopped
  | faulted
  deriving DecidableEq, Repr

/-- A loop level (R93). -/
structure Loop where
  active : Bool := false
  start  : BitVec 10 := 0
  stop   : BitVec 10 := 0
  count  : W32 := 0
  deriving DecidableEq, Repr

/-- The state of one thread (R57, R101, Table 16.7). -/
structure Thread where
  st     : TState := .free
  wait   : Wait := .none
  wmark  : Bool := false
  g      : Vector V256 32 := Vector.replicate 32 0
  q      : Vector V256 8 := Vector.replicate 8 0
  y0     : V256 := 0
  y1     : V256 := 0
  p      : BitVec 8 := 0
  pc     : BitVec 10 := 0
  pp     : Bool := false
  pfx    : BitVec 20 := 0
  lp0    : Loop := {}
  lp1    : Loop := {}
  blk    : Vector W32 8 := Vector.replicate 8 0
  blkAt  : BitVec 10 := 0
  blkLen : BitVec 3 := 0
  fetched : Bool := false
  inh    : Bool := false
  inb    : Bool := false
  tmd    : Bool := false
  lvl    : BitVec 2 := 1
  link   : W32 := 0
  hsrc   : W64 := 0
  hchan  : W64 := 0
  hvrt   : W64 := 0
  hreply : W64 := 0
  fmt    : BitVec 16 := 0x2E00
  rseed  : W64 := 1
  mshape : BitVec 21 := 0x0BAE33
  sseq   : BitVec 16 := 0
  fcause : BitVec 17 := 0
  fpc    : BitVec 10 := 0
  faddr  : W64 := 0
  ftid   : BitVec 3 := 0
  starve : Nat := 0
  yielded : Bool := false
  outs   : List LongRes := []
  cuts   : List Cut := []
  deferred : Option W64 := none
  deriving DecidableEq, Repr

/-- RSEED's seed value (R109). -/
def Thread.seed (t : TIdx) (n : Name) : W64 := 0#40 ++ n ++ BitVec.ofNat 3 t.val ++ 1#1

/-- A thread before any round: T0 stopped, a micro-thread free; its seed and its own FTID (R109, R368). -/
def Thread.initial (t : TIdx) (n : Name) : Thread :=
  { st := if t = 0 then .stopped else .free, rseed := Thread.seed t n, ftid := BitVec.ofNat 3 t.val }

/-! ### The units of a cell -/

/-- One plane bank (R37); the cleared header is 0x400 (R38). -/
structure Bank where
  code     : Sparse 32 := []
  hdr0     : W32 := 0x400
  hdr1     : W32 := 0
  handlers : Sparse 32 := []
  consts   : Sparse 32 := []
  deriving DecidableEq, Repr

/-- Table 02.3a, IDLE. -/
inductive IdleState where
  | empty
  | loading
  | ready
  deriving DecidableEq, Repr

/-- Round actions (Table 02.2). -/
inductive Action where
  | repeat_
  | swap
  | pause
  deriving DecidableEq, Repr

/-- A bank 2 write kept for the next SWAP (R45). -/
structure KeptWrite where
  pad   : Bool
  off   : Nat
  lsb   : Nat
  width : Nat
  val   : W32
  deriving DecidableEq, Repr

/-- The code planes, the constants' shadow, the configuration words and the round (R37–R45). `ended` says that an image has passed its
END since the idle bank was sealed (R44). -/
structure Plane where
  bank0  : Bank := {}
  bank1  : Bank := {}
  act    : Bool := false
  idle   : IdleState := .empty
  clearing : Bool := false
  round  : BitVec 16 := 0
  shadow : Sparse 32 := []
  cstage : Bool := false
  cfg    : Sparse 32 := [(0, 0x107600), (2, 0xAAAAAA), (3, 0x80660)]
  live   : Sparse 32 := [(0, 0x107600), (2, 0xAAAAAA), (3, 0x80660)]
  kept   : List KeptWrite := []
  inRound : Bool := false
  loaded : Bool := false
  ended  : Bool := false
  deriving DecidableEq, Repr

/-- Scratchpad, its error marks, the codebook and the error counters (R206–R214). -/
structure Pad where
  mem    : Memory := []
  ecc1   : List Nat := []
  ecc2   : List Nat := []
  corr   : BitVec 16 := 0
  uncorr : BitVec 16 := 0
  last   : BitVec 15 := 0
  lv     : Bool := false
  cb     : Sparse 32 := []
  fp     : Sparse 1 := []
  deriving DecidableEq, Repr

/-- Arrival and binding (R74–R85). -/
structure Inbox where
  head    : BitVec 8 := 0
  occ     : BitVec 8 := 0
  hwm     : BitVec 8 := 0
  ibuf    : List Pkt := []
  rbuf    : List Pkt := []
  latches : List Pkt := []
  refused : BitVec 16 := 0
  nohdl   : BitVec 16 := 0
  spilled : BitVec 16 := 0
  sent    : W32 := 0
  recv    : W32 := 0
  dep     : List (Nat × V256) := []
  deriving DecidableEq, Repr

/-- Where a matrix operand comes from (R191, R192). -/
inductive MSrc where
  | regs (gs : List V256)
  | desc (base gstr sstr : Nat) (scb : Option Nat)
  | stream (n : Fin 4)
  deriving DecidableEq, Repr

/-- A queued matrix instruction with the operands it read at issue (R179, R191–R203). -/
inductive MOp where
  | lease (mask : BitVec 4) (d : Spec)
  | rel (mask : BitVec 4)
  | zero (mask : BitVec 4)
  | mma (t : Fin 4) (x : BitVec 2) (af bf : BitVec 4) (a b : MSrc) (sa sb : V256) (n2 : Bool) (meta_ : W64)
      (steps : Nat) (skip : Bool) (mbase : Option Nat)
  | mmr (t : Fin 4) (af bf : BitVec 4) (a : MSrc) (breg : Spec) (bval : List V256) (sa sb : V256) (dir : BitVec 2)
      (steps : Nat)
  | store (t : Fin 4) (o : Nat) (f : BitVec 4) (rs : BitVec 2)
  | toRegs (t : Fin 4) (d : Spec) (f : BitVec 4) (rs : BitVec 2)
  | load (t : Fin 4) (o : Nat) (f : BitVec 4)
  | cbload (off first count : Nat)
  | mred (t : Fin 4) (tag : BitVec 12) (empty z : Bool)
  deriving DecidableEq, Repr

/-- An entry of the matrix queue: its step, the index of its next B granules, whether an exchange is awaited, and the
watermark channels that a later LREL reopened over slots it reads (R277); `img` are the granules that an MST.S or MST.R has still to write, with their places (R198),
`got` those that the unit has read for it, each once (R194), `popped` the packets that it has popped for the step in hand (R192). -/
structure MEntry where
  id   : Nat
  t    : TIdx
  op   : MOp
  step : Nat := 0
  bix  : Nat := 0
  sent : Bool := false
  exempt : List Nat := []
  img : List (Nat × V256) := []
  got : KMap V256 := []
  popped : List V256 := []
  deriving DecidableEq, Repr

/-- A waiting lease request (R182). -/
structure LeaseReq where
  id   : Nat
  t    : TIdx
  mask : BitVec 4
  d    : Spec
  deriving DecidableEq, Repr

/-- The matrix unit (R178–R205). `leaving` marks a tile that an MREL has given back and that a queued instruction still names
(R181). -/
structure Matrix where
  tiles   : Vector (Sparse 32) 4 := Vector.replicate 4 []
  owner   : Vector (Option TIdx) 4 := Vector.replicate 4 none
  leaving : Vector Bool 4 := Vector.replicate 4 false
  leaseQ  : List LeaseReq := []
  queue   : List MEntry := []
  nextId  : Nat := 0
  mlcap   : BitVec 24 := 0x924924
  hstep   : BitVec 8 := 0
  vstep   : BitVec 8 := 0
  torIn   : Vector (Option (List V256)) 4 := Vector.replicate 4 none
  torOut  : Vector Bool 4 := Vector.replicate 4 false
  deriving DecidableEq, Repr

/-- A contribution or a combined partial with its flags (R293). -/
structure Partial where
  empty   : Bool := false
  partial_ : Bool := false
  nan     : Bool := false
  missing : BitVec 16 := 0
  data    : List V256 := []
  deriving DecidableEq, Repr

/-- An open reduction slot (R291–R294): who has arrived, by label, and when the first did. -/
structure RSlot where
  tag     : Nat
  epoch   : BitVec 16
  t0      : W64
  arrived : List (Nat × Partial)
  deriving DecidableEq, Repr

/-- A buffered contribution (R289). -/
structure Contribution where
  tag   : Nat
  epoch : BitVec 16
  part  : Partial
  deriving DecidableEq, Repr

/-- A cell's reduction state (R287–R303). -/
structure Reduce where
  buf     : Option Contribution := none
  epochs  : Sparse 16 := []
  localOut : List Nat := []
  upOut   : List Nat := []
  upq     : List Contribution := []
  slots   : List RSlot := []
  closed  : KMap (BitVec 16) := []
  drop    : BitVec 16 := 0
  tout    : BitVec 16 := 0
  deriving DecidableEq, Repr

/-- A watermark channel (Table 08.5) and, by granule, the bytes written since WOPEN (R216). -/
structure Watermark where
  base : BitVec 16 := 0
  end_ : BitVec 16 := 0
  mark : BitVec 16 := 0
  open_ : Bool := false
  done : Bool := false
  fill : Sparse 32 := []
  deriving DecidableEq, Repr

/-- The way of a packet to another logical die that carries what R316 lists: both dies, the CAUSAL field once it is stamped, and
whether the destination's unit has released it (R318, R319); `rid` and `after` as for a flight. -/
structure Crossing where
  src : Nat
  dst : Nat
  causal : Option Causal := none
  rel : Bool := false
  rid : Nat := 0
  after : List Nat := []
  deriving DecidableEq, Repr

/-- A piece of a copy: local offset, length, global address, its bytes once they are read, and whether a request for it is on its
way to another die (R316); it lies in one granule of each side (R226). `via` is the way of the answer that brought the bytes, while that
is applied only when they are written (R319). -/
structure Piece where
  loc : Nat
  len : Nat
  ga  : Nat
  buf : Option Nat := none
  out : Bool := false
  via : Option Crossing := none
  deriving DecidableEq, Repr

/-- A taken data entry of the copy queue (R225–R229); `exempt` are the watermark channels that a later LREL reopened over
slots it reads (R277); `begun` says that the copy has started (R241). -/
structure CopyEnt where
  t     : TIdx
  put   : Bool
  hint  : BitVec 2
  woff  : BitVec 16
  value : W32
  todo  : List Piece
  err   : Option (BitVec 8 × W64) := none
  exempt : List Nat := []
  begun : Bool := false
  deriving DecidableEq, Repr

/-- An engine arrival record (R232). -/
structure ARec where
  bar  : Fin 16
  mask : BitVec 16
  deriving DecidableEq, Repr

/-- A barrier object (R230). -/
structure Barrier where
  target : BitVec 16 := 0
  arr    : BitVec 16 := 0
  gen    : W32 := 0
  deriving DecidableEq, Repr

/-- A stream engine (R233–R239). `desc` is the descriptor as read at the bind; `fetch` counts the packets
fetched or pushed, START's among them; `skip` counts the present packets of a skip stream that START still passes over;
`acc` holds the elements read of the packet being fetched, or stands for those written of the packet being written out;
`fail` is an error on its way to ERR; `out` is the number of its request to another die (R316). -/
structure Stream where
  own   : TIdx := 0
  bound : Bool := false
  desc  : V256 := 0
  start : BitVec 16 := 0
  pos   : W32 := 0
  fetch : Nat := 0
  exh   : Bool := false
  ovr   : Bool := false
  err   : Bool := false
  buf   : List V256 := []
  skip  : Nat := 0
  acc   : List Nat := []
  fail  : Option (BitVec 8 × W64) := none
  out   : Option Nat := none
  deriving DecidableEq, Repr

/-- Copies, arrivals, barriers, streams and watermarks (R215–R241). `sigs` are the landing slots whose release holds a signal entry
(R225, R277); `req` numbers the requests to other dies. -/
structure Engines where
  ents  : Vector (Option CopyEnt) 16 := Vector.replicate 16 none
  recs  : Vector (Option ARec) 4 := Vector.replicate 4 none
  sigs  : List (Fin 8) := []
  req   : Nat := 0
  errs  : BitVec 16 := 0
  bars  : Vector Barrier 16 := Vector.replicate 16 {}
  strm  : Vector Stream 4 := Vector.replicate 4 {}
  wm    : Vector Watermark 8 := Vector.replicate 8 {}
  deriving DecidableEq, Repr

/-- An entry of the egress queue: a packet, or a remote atomic not yet translated (R251, R259, R264). -/
inductive EgItem where
  | msg (p : Pkt)
  | atom (t : TIdx) (seq : BitVec 16) (cls : BitVec 4) (opc : BitVec 4) (post : Bool) (ga : Nat) (v c : W64)
      (failed : Option (BitVec 8))
  deriving DecidableEq, Repr

/-- A path of a cell (R251): source thread, destination, class. -/
structure Path where
  t    : TIdx
  dest : Name
  cls  : BitVec 4
  deriving DecidableEq, Repr

/-- A circuit end of a cell (R257). -/
structure CircuitEnd where
  sent   : Nat := 0
  credit : Nat := 0
  landed : Nat := 0
  wrote  : Bool := false
  deriving DecidableEq, Repr

/-- A posted remote atomic that awaits its status (R264). -/
structure Posted where
  t   : TIdx
  seq : BitVec 16
  cls : BitVec 4
  ga  : W64
  deriving DecidableEq, Repr

/-- Messages (R242–R265). `atoms` are the busy paths that a remote atomic took. -/
structure Msgs where
  egress : List EgItem := []
  busy   : List Path := []
  atoms  : List Path := []
  posted : List Posted := []
  merr   : BitVec 16 := 0
  clmask : BitVec 16 := 0
  circ   : KMap CircuitEnd := []
  deriving DecidableEq, Repr

/-- A landing slot (R271–R277): `blk` is the block it holds or awaits, `got` the frames landed of it, `part` the granules landed of the
frames under way, as 8 × frame + granule, `fails` the frames that could not be corrected, one entry a failure. -/
structure Landing where
  armed : Bool := false
  held  : Bool := false
  lands : BitVec 16 := 0
  rels  : BitVec 16 := 0
  latch : Bool := false
  blk   : Nat := 0
  got   : List Nat := []
  part  : List Nat := []
  fails : List Nat := []
  deriving DecidableEq, Repr

/-- An entry of the timed input queue (R326): whether it has been bound since it was last unprocessed, whether RECV counts
it already (R89), and its overflow entry, if it has one. -/
structure TqEnt where
  p    : Pkt
  done : Bool
  counted : Bool := false
  slot : Option Nat := none
  deriving DecidableEq, Repr

/-- A rollback in progress (R332, R333): what it undoes is every start entry above `v` or, with `mark`, from the one whose
word 1 that is; `post` is the pair to annihilate at its end; `keep` is how many entries it leaves and the LVT that it ends with, once it
has read the journal down to the first start that stays (R211). -/
structure Rollback where
  v    : BitVec 48
  mark : Option W64 := none
  post : Option (Pkt × Pkt) := none
  keep : Option (Nat × BitVec 48) := none
  deriving DecidableEq, Repr

/-- The running timed handler (R323, R331, R340). -/
structure TimedRun where
  t    : TIdx
  p    : Pkt
  vrt  : BitVec 48
  unj  : Bool
  held : Bool := false
  deriving DecidableEq, Repr

/-- Timed mode (R323–R345). -/
structure Timed where
  lvt    : BitVec 48 := 0
  gvt    : BitVec 48 := 0
  gepoch : BitVec 16 := 0
  jhead  : Nat := 0
  jused  : Nat := 0
  jhwm   : BitVec 11 := 0
  jpages : W64 := 0
  rolls  : BitVec 16 := 0
  antis  : BitVec 16 := 0
  annih  : BitVec 16 := 0
  orph   : BitVec 16 := 0
  tq     : List TqEnt := []
  run    : Option TimedRun := none
  rbk    : Option Rollback := none
  antiw  : List Pkt := []
  col    : Bool := false
  sc0    : W64 := 0
  sc1    : W64 := 0
  rc0    : W64 := 0
  rc1    : W64 := 0
  rmin   : BitVec 48 := 0xFFFFFFFFFFFF
  deriving DecidableEq, Repr

/-- A lead fault on its way to the controller (R370). -/
structure LeadFault where
  t : TIdx
  r : FaultRec
  deriving DecidableEq, Repr

/-- One cell. `last` is R63's round-robin pointer: the thread issued most recently, which is the issuing thread while
an instruction takes effect. -/
structure Cell where
  name   : Name := 0
  part   : PartIdx := 0
  mapgen : W32 := 0
  last   : TIdx := 0
  thr    : Vector Thread 8 := #v[Thread.initial 0 name, Thread.initial 1 name, Thread.initial 2 name,
    Thread.initial 3 name, Thread.initial 4 name, Thread.initial 5 name, Thread.initial 6 name, Thread.initial 7 name]
  plane  : Plane := {}
  pad    : Pad := {}
  inbox  : Inbox := {}
  mx     : Matrix := {}
  red    : Reduce := {}
  eng    : Engines := {}
  msg    : Msgs := {}
  land   : Vector Landing 8 := Vector.replicate 8 {}
  tim    : Timed := {}
  flt    : BitVec 16 := 0
  lost61 : BitVec 16 := 0
  lead   : Option LeadFault := none
  drowsy : Bool := false
  idleCyc : Nat := 0
  deriving DecidableEq, Repr

/-! ### The mesh, the causal units and translation -/

/-- Where a packet in the network stands: on its way, or at the cell that accepts it. -/
inductive Phase where
  | moving
  | arrived
  deriving DecidableEq, Repr

/-- A packet in the M plane: the router it is at (die × 16384 + row × 128 + column), its virtual channel (Table 10.2),
whether its origin's causal unit has stamped it and its destination's has released it (R318, R319), whether it has moved north or
south (R245), whether it waits at the boundary of a rotating tumbler, whether it has waited at one (R260), the router of the cell that
flooded it (R252); a residual packet of a restore carries its number and those of the residual packets that R319 has it wait for
(R311, R375). -/
structure Flight where
  p     : Pkt
  pos   : Nat
  vc    : BitVec 2
  phase : Phase := .moving
  stamped : Bool := false
  rel   : Bool := false
  turned : Bool := false
  held : Bool := false
  kept : Bool := false
  flood : Option Nat := none
  rid : Nat := 0
  after : List Nat := []
  deriving DecidableEq, Repr

/-- An entry of a router's name table (R25): name, output port (0 local, 1 N, 2 E, 3 S, 4 W), age. -/
structure NameEnt where
  name : Name
  port : BitVec 3
  age  : BitVec 4
  deriving DecidableEq, Repr

/-- S-plane traffic (R276, R289, R296). `part` is the partition; `writing` is a result that its cell writes granule by granule
(R310). -/
inductive SMsg where
  | contrib (part : PartIdx) (node : Name) (lbl : Nat) (k : Contribution)
  | credit (part : PartIdx) (node : Name) (tag : Nat)
  | result (part : PartIdx) (node : Name) (k : Contribution)
  | writing (part : PartIdx) (node : Name) (k : Contribution) (left : List Nat)
  | relCount (part : PartIdx) (key : Nat) (node : Name) (child : Nat) (n : Nat)
  | relStart (part : PartIdx) (key : Nat) (node : Name) (child : Nat)
  | relRepair (part : PartIdx) (key : Nat) (node : Name) (child : Nat) (member : Name) (gran : Nat)
  | srcCount (part : PartIdx) (key : Nat) (n : Nat)
  | srcStart (part : PartIdx) (key : Nat)
  | srcRepair (part : PartIdx) (key : Nat) (member : Name) (gran : Nat)
  | crossing (x : Crossing) (m : SMsg)
  deriving DecidableEq, Repr

/-- Results of one tag reach a node in the order in which they were sent (R296). -/
def SMsg.resultKey : SMsg → Option (PartIdx × Name × Nat) | .result p n k => some (p, n, k.tag) | _ => none
/-- A result that another die has still to stamp. -/
def SMsg.leaving : SMsg → Option (PartIdx × Name × Nat)
  | .crossing x m => if x.causal.isNone && !x.rel then m.resultKey else none
  | _ => none
/-- A result on its last way, in the die of its node. -/
def SMsg.atDie : SMsg → Option (PartIdx × Name × Nat)
  | .crossing x m => if x.rel then m.resultKey else none
  | m => m.resultKey
/-- A node whose cell writes a result, and the result's tag. -/
def SMsg.writer : SMsg → Option (Name × Nat)
  | .writing _ n k _ => some (n, k.tag)
  | .crossing _ m => m.writer
  | _ => none

/-- A waiting engine or remote atomic (R33, R316). -/
inductive Waiter where
  | copy (c : Name) (e : Nat)
  | stream (c : Name) (n : Nat)
  | atom (c : Name) (t : TIdx) (seq : BitVec 16)
  deriving DecidableEq, Repr

/-- A request of a copy or a stream engine to a cell of another die, or its answer (R226, R316): who asks, the number of the request,
whether it writes, the cell and the granule there, and the pieces with their bytes. -/
structure Ask where
  who  : Waiter
  id   : Nat
  put  : Bool
  cell : Nat
  base : Nat
  ps   : List Piece
  deriving DecidableEq, Repr

/-- C-plane traffic (R203, R226, R257); an answer carries a cause code, or zero. -/
inductive CMsg where
  | torus (src dst : Name) (dir : BitVec 2) (gs : List V256)
  | granule (part : PartIdx) (id : Nat) (i : Nat) (v : V256)
  | ask (a : Ask)
  | answer (a : Ask) (cause : BitVec 8)
  | crossing (x : Crossing) (m : CMsg)
  deriving DecidableEq, Repr

/-- A packet in a hold memory (R319), of any plane. -/
inductive Held where
  | m (f : Flight)
  | s (x : Crossing) (m : SMsg)
  | c (x : Crossing) (m : CMsg)
  deriving DecidableEq, Repr

/-- The causal unit of one logical die (R317, R318): K and A; for each destination die the vector and OSEQ last sent to it;
its packets not yet acknowledged; the KIND 5 vectors that have arrived; for each origin the vector of the packet released
last; the hold memory; released packets with their vectors, and those of them that their cells have applied; notices that
wait for their PREV; since when the hold memory has been full. -/
structure CausalUnit where
  k       : Sparse 16 := []
  a       : Sparse 16 := []
  lastVec : KMap (Sparse 16) := []
  lastSeq : Sparse 16 := []
  unacked : List (Nat × BitVec 16) := []
  vecs    : List (Nat × BitVec 16 × Sparse 16) := []
  prevVec : KMap (Sparse 16) := []
  hold    : List Held := []
  released : List (Nat × BitVec 16 × Sparse 16) := []
  done    : List (Nat × BitVec 16) := []
  notices : List (Nat × BitVec 16 × BitVec 16) := []
  fullSince : Option W64 := none
  deriving DecidableEq, Repr

/-- A cached translation of an RTU (R33): the page's first address, whether its granule is 64 KiB, its level-2 entry. -/
structure RtuEnt where
  die  : Nat
  rtu  : Nat
  page : Nat
  g64  : Bool
  ent  : W64
  deriving DecidableEq, Repr

/-- A translation request (R33): who asks, for which address, and whether to write. -/
structure Asker where
  who  : Waiter
  va   : Nat
  wr   : Bool
  deriving DecidableEq, Repr

/-- A page walk in flight, the requests that have joined it, and whether a page walker serves it (R33). -/
structure Walk where
  die  : Nat
  rtu  : Nat
  va   : Nat
  who  : List Asker
  busy : Bool := false
  deriving DecidableEq, Repr

/-- A request that a walk's end has translated, with the entry that it was translated by, until its engine issues it (R33). -/
structure Xlated where
  who : Waiter
  ent : RtuEnt
  deriving DecidableEq, Repr

/-- A request in an RTU's miss queue (R33). -/
structure Miss where
  die  : Nat
  rtu  : Nat
  who  : Asker
  deriving DecidableEq, Repr

/-- What a module answered to the last request it served on its port (R283): a cause code or zero, and the data. -/
structure DzResp where
  status : BitVec 8
  data   : List Byte
  deriving DecidableEq, Repr

/-- A shootdown that some RTUs have not acknowledged (R34). -/
structure Shoot where
  part : PartIdx
  lo   : Nat
  hi   : Nat
  left : List (Nat × Nat)
  deriving DecidableEq, Repr

/-- A weight-cache line: die, first address, 256 bytes (R281). -/
structure CacheLine where
  die  : Nat
  addr : Nat
  data : BitVec 2048
  deriving DecidableEq, Repr

/-- A tumbler (R356–R361): rotation state, counters, the duty of R360 and the mask duty of R354 in 32nds, whether a rotation is
under way, since when it holds what is inbound (Table 15.4, step 2), whether a step of it has exceeded its bound (R358), when its last
interval was, sensors. -/
structure Tumbler where
  rot   : BitVec 2 := 0
  rcnt  : BitVec 16 := 0
  abort : BitVec 16 := 0
  duty  : Nat := 32
  mask  : Nat := 32
  busy  : Bool := false
  hold  : Option W64 := none
  late  : Bool := false
  since : W64 := 0
  t0    : BitVec 8 := 0
  t1    : BitVec 8 := 0
  t2    : BitVec 8 := 0
  t3    : BitVec 8 := 0
  deriving DecidableEq, Repr

/-- A voltage island (R346, R349): its voltage, and the one asked for, which it has when awake. -/
structure Island where
  volt : BitVec 8 := 40
  want : BitVec 8 := 40
  st   : PowerState := .run
  deriving DecidableEq, Repr

/-! ### Partitions and the controller -/

/-- A keyring entry (Table 11.1). -/
structure KeyEnt where
  skind : Bool
  sidx  : Nat
  wl    : Nat
  nslot : Nat
  blk   : Nat
  tree  : Nat
  tiles : List (Nat × Nat × Nat × Bool × W64)
  deriving DecidableEq, Repr

/-- A node of a spanning tree (Table 12.1). -/
structure TreeNode where
  name  : Name
  lbl   : Nat
  pname : Name
  loc   : Bool
  plink : Nat
  xp    : Bool
  deriving DecidableEq, Repr

/-- A bucket (Table 12.2). -/
structure Bucket where
  op    : Nat
  sup   : Bool
  all   : Bool
  width : Nat
  tok   : Nat
  tree  : Nat
  rbase : Nat
  deriving DecidableEq, Repr

/-- A circuit (Table 10.6). -/
structure Circuit where
  sname : Name
  dname : Name
  sbase : Nat
  dbase : Nat
  size  : Nat
  pidx  : Nat
  lidx  : Nat
  deriving DecidableEq, Repr

/-- A stream plan (Table 11.2). -/
structure Plan where
  nblk  : Nat
  gaddr : Nat
  gstr  : Nat
  deriving DecidableEq, Repr

/-- The load structures that GLOBAL commands fill (R42). -/
structure Globals where
  keys  : KMap KeyEnt := []
  trees : KMap (List TreeNode) := []
  bucks : KMap Bucket := []
  circs : KMap Circuit := []
  plans : KMap Plan := []
  twice : Bool := false
  deriving DecidableEq, Repr

/-- A block on the light path (R273, R274): its number, its granules, the frames that were unreadable, the (member, frame) pairs under
way, and those that wait for a repair request. -/
structure Block where
  k       : Nat
  owed    : List (Nat × Nat) := []
  lost    : List (Nat × Nat) := []
  data    : List V256 := []
  bad     : List Nat := []
  deriving DecidableEq, Repr

/-- A light source at work (R274, R276): the minimum count, the next block, and the blocks on the light path, oldest first. -/
structure Source where
  started : Bool := false
  m       : Nat := 0
  k       : Nat := 0
  reads   : List (Nat × Option V256) := []
  air     : List Block := []
  deriving DecidableEq, Repr

/-- A release combiner (R276): for each child, its START and its last count; the minimum last sent. -/
structure Combiner where
  starts : List Nat := []
  counts : KMap Nat := []
  sent   : Nat := 0
  deriving DecidableEq, Repr

/-- A completion wave (R88): the cells still to answer and the totals. -/
structure Wave where
  left : List Nat
  sent : W32 := 0
  recv : W32 := 0
  deriving DecidableEq, Repr

/-- A GVT computation (R336, R341): the cells still to contribute to the pass under way, the pass's sums, and the cells that
COMMIT has still to pass. -/
structure GvtRun where
  n     : Nat
  left  : List Nat
  first : Bool := true
  min   : BitVec 48 := 0xFFFFFFFFFFFF
  sum   : W64 := 0
  commit : Option (BitVec 48) := none
  todo  : List Nat := []
  final : Bool := false
  released : Bool := false
  deriving DecidableEq, Repr

/-- Throttle in force (R354). -/
inductive Throttle where
  | none
  | halfRow
  | mask
  deriving DecidableEq, Repr

/-- A round-end token or a start command on its way (R39, R88): its action, the cells it has still to pass, those that hold
it for a bank, and whether it ends a round. -/
structure Token where
  act  : Action
  left : List Nat
  held : List Nat := []
  ends : Bool := true
  deriving DecidableEq, Repr

/-- A pre-emption in progress (R370, R372): the port that asked, if one did, and the cause of a lead fault or HOLD_TIMEOUT, and every die's count when it began (R301). -/
structure Preempt where
  port  : Option Port
  cause : BitVec 8 := 0
  since : Sparse 64 := []
  deriving DecidableEq, Repr

/-- A partition (R24, R381, R382): its live dies, and every site of its rectangle. `nextGlobals` are the structures that images have written for the load that the
next SWAP brings in; `endGlobals` and `nextTimed` are what the last image to pass END left of them; `loadOk` says that no image has
started since. `swapDue` says that a SWAP is on its way and no cell has applied it. `faults`
are the cells that have raised a lead fault. -/
structure Part where
  port    : Port
  dies    : List Nat
  sites   : List Nat := []
  debug   : Bool := false
  action  : Action := .repeat_
  strel   : Bool := false
  strm    : BitVec 16 := 0
  tol     : BitVec 16 := 0
  ctx     : W64 := 0
  rounds  : W32 := 0
  count   : Nat := 0
  rotMs   : Nat := 8
  rotTh   : Nat := 6
  rotEn   : Bool := true
  loaded  : Bool := false
  paused  : Bool := true
  timed   : Bool := false
  globals : Globals := {}
  nextGlobals : Option Globals := none
  endGlobals : Option Globals := none
  nextTimed : Bool := false
  loadOk  : Bool := false
  swapDue : Bool := false
  wave    : Option Wave := none
  lastTot : Option (W32 × W32) := none
  gvt     : Option GvtRun := none
  gvtN    : Nat := 0
  gvtEnd  : W64 := 0
  gvtReq  : Bool := false
  finalDone : Bool := false
  token   : Option Token := none
  startAct : Option Action := none
  srcs    : KMap Source := []
  combs   : KMap Combiner := []
  metered : Bool := false
  thr     : Throttle := .none
  preempt : Option Preempt := none
  faults  : List Nat := []
  roundNo : BitVec 16 := 0
  deriving DecidableEq, Repr

/-- An image that the controller applies (R42, R44): for a LAUNCH or a NEXT; the index of its next word; its span; its cursor,
as bank, structure and offset. -/
structure Image where
  port   : Port
  part   : PartIdx
  next   : Bool
  words  : List W32
  idx    : Nat := 0
  first  : Name := 1
  last   : Name := 0
  cursor : Option (BitVec 2 × BitVec 4 × Nat) := none
  deriving DecidableEq, Repr

/-- A host port's registers (Table 17.1), a request it accepted that waits (R363, R372), and what it has seen. -/
structure PortSt where
  code   : BitVec 8 := 0
  done   : Bool := false
  busy   : Bool := true
  herr   : BitVec 16 := 0
  winPart : PartIdx := 0
  winBase : BitVec 9 := 0
  report : V256 := 0
  launch : BitVec 512 := 0
  pend : Option (BitVec 512) := none
  tokens : BitVec 16 := 0
  msix   : List Nat := []
  reads  : List (Option (List Byte)) := []
  deriving DecidableEq, Repr

/-- A gateway (R380). -/
structure Gateway where
  part : PartIdx
  link : Nat
  tags : List Nat
  deriving DecidableEq, Repr

/-- A saved partition section (R373): the partition's record, its tables, its round state, and what step 4 took out of the link
buffers. -/
structure SavedPart where
  num   : Nat
  ctx   : W64
  part  : Part
  tabs  : Memory
  resid : List Flight
  sres  : List SMsg
  cres  : List CMsg
  deriving DecidableEq, Repr

/-- Whose turn the next step is, when the agenda is empty (assumption 2). -/
inductive Turn where
  | issue
  | engines
  deriving DecidableEq, Repr

/-- The panel. `parity` counts the parity errors of each slice (die × 16 + slice, R282), `refused` the accesses that an access
table refused, by target: a module, or 64 + a partition, or 128 for the controller (R379), `crossing` the packets dropped at a hinge (die × 4 + edge, R24, R380). `access` holds the access-table entries of the partitions (partition, module, writes too), `portAccess` those of the
host ports: a port, a partition or 64 + a module, and whether the entry grants writes too (R379); `linkAccess` those of the panel
links (link, partition), `mgmtAccess` that of the management port, which reads the controller and nothing else (128; R387). -/
structure State where
  cur    : Nat := 0
  cell   : Cell := {}
  others : KMap Cell := []
  agenda : List Instr := []
  turn   : Turn := .issue
  tick   : Nat := 0
  freeIx : Nat := 0
  dieCycle : Sparse 64 := []
  booted : Bool := false
  factory : List W64 := []
  delta  : List W64 := []
  taken  : Nat := 0
  mapgen : W32 := 1
  merged : List W64 := []
  grade  : Bool := false
  gradeLow : Bool := false
  dieMap : List Nat := []
  failed : List Nat := []
  routers : KMap (List NameEnt) := []
  mnet   : List Flight := []
  undelivered : Sparse 32 := []
  discarded : Sparse 32 := []
  snet   : List SMsg := []
  linkOut : List (Nat × SMsg) := []
  cnet   : List CMsg := []
  causal : KMap CausalUnit := []
  cacks  : List (Nat × Nat × BitVec 16) := []
  rtu    : List RtuEnt := []
  walks  : List Walk := []
  missQ  : List Miss := []
  walkTurn : Sparse 4 := []
  xlated : List Xlated := []
  shoot  : List Shoot := []
  tables : Memory := []
  store  : Memory := []
  wcache : List CacheLine := []
  parity : Sparse 32 := []
  refused : Sparse 32 := []
  dzResp : KMap DzResp := []
  dzBad  : List Nat := []
  parts  : KMap Part := []
  rings  : List (Nat × Nat × Bool) := []
  tumblers : KMap Tumbler := []
  islands : KMap Island := []
  spines : KMap Nat := []
  portA  : PortSt := {}
  portB  : PortSt := {}
  hasp   : Option Port := none
  haspLast : Port := .b
  images : List Image := []
  hostMem : Memory := []
  access : List (Nat × Nat × Bool) := []
  portAccess : List (Port × Nat × Bool) := (List.range 80).flatMap fun k => [(.a, k, true), (.b, k, true)]
  linkAccess : List (Nat × Nat × Bool) := (List.range 1024).map fun k => (k / 64, k % 64, true)
  mgmtAccess : List (Nat × Bool) := [(128, true)]
  gateways : List Gateway := []
  crossing : Sparse 32 := []
  firmware : W32 := 0
  fwNew  : Option W32 := none
  saved  : List Cell := []
  savedParts : List SavedPart := []
  mgmt   : List W64 := []
  deriving DecidableEq, Repr

/-- How a step stops. -/
inductive Fault where
  /-- Raised by no instruction: a context area whose opaque sections (types 4–10, whose layout R374 leaves to CTXVER) the host has
  altered is restored with a free state in their place (R4, assumption 10). Safe: no step of this model ends so. -/
  | opaqueContextAltered
  deriving DecidableEq, Repr

/-- An instruction with no meaning. -/
inductive Refusal where
  /-- Raised by an arm of `exec` whose instruction has no meaning yet, with its mnemonic. Safe: nothing is claimed of
  it. No arm of this model answers so. -/
  | notModelled (mnemonic : String)
  deriving DecidableEq, Repr

/-- The panel after power is applied and before boot (R385): no die numbered, no cell named, no partition, both ports
busy, every register at the value INVENTORY.md gives it. -/
def State.reset : State := {}

end Sys2Proof.Machine
end

