-- ==== Sys2Proof/Machine/Space.lean ====
section
/-! DEFINITION. Where a name is (R14–R24, R356, R361): the defect map, row shift, tumbler rotation, partitions; and the
focus: the one cell in hand of `State.cell` and the others beside it. -/

namespace Sys2Proof.Machine

/-! ### The defect map -/

/-- KIND of a defect record (Table 01.2). -/
def recKind (r : W64) : Nat := (r.extractLsb' 0 4).toNat
/-- DIE. -/
def recDie (r : W64) : Nat := (r.extractLsb' 4 6).toNat
/-- CELL. -/
def recCell (r : W64) : Nat := (r.extractLsb' 10 14).toNat
/-- A reserved KIND or a nonzero reserved field is skipped (R17). -/
def recOk (r : W64) : Bool := decide (1 ≤ recKind r ∧ recKind r ≤ 4) && r.extractLsb' 24 8 == 0

/-- Defective or lane-fused cells of a die (KIND 0x1, 0x2), as row × 128 + column (R18). -/
def badCells (s : State) (die : Nat) : List Nat :=
  (s.merged.filter fun r => (recKind r == 1 || recKind r == 2) && recDie r == die).map recCell
/-- Defective columns of a die cell row. -/
def badCols (s : State) (die row : Nat) : List Nat :=
  ((badCells s die).filter fun c => c / 128 == row).map (· % 128)
/-- The lowest of some columns; 128 when there is none. -/
def lowest (l : List Nat) : Nat := l.foldl Nat.min 128

/-- The column of a logical column in a row with these defects; none where the name is absent (R21). -/
def shiftCol (bad : List Nat) (col : Nat) : Option Nat :=
  if col < lowest bad then some col
  else if lowest bad = 128 then some col
  else if col = 127 then none
  else if bad.contains (col + 1) then none else some (col + 1)
/-- The logical column that sits at a column; none at a fenced cell (R21). -/
def unshiftCol (bad : List Nat) (col : Nat) : Option Nat :=
  if bad.contains col then none else if col < lowest bad then some col else some (col - 1)
/-- Names that a die would lack (R19). -/
def absentNames (s : State) (die : Nat) : Nat := (badCells s die).eraseDups.length

/-! ### Names and positions -/

/-- Logical die of a name (R20). -/
def nameDie (n : Nat) : Nat := n / 2 ^ 14 % 64
/-- Nominal die cell row of a name (R14, R20). -/
def nomRow (n : Nat) : Nat := n / 2 ^ 10 % 16 * 8 + n / 8 % 8
/-- Nominal die cell column. -/
def nomCol (n : Nat) : Nat := n / 2 ^ 6 % 16 * 8 + n % 8
/-- The logical cell index of a nominal row and column (R20). -/
def idxOf (row col : Nat) : Nat := row / 8 * 1024 + col / 8 * 64 + row % 8 * 8 + col % 8

/-- A physical position: physical die index y × 8 + x, die cell row, die cell column (R14). -/
structure Pos where
  die : Nat
  row : Nat
  col : Nat
  deriving DecidableEq, Repr

/-- Physical die of a logical die (R19). -/
def physDie (s : State) (l : Nat) : Option Nat := s.dieMap[l]?
/-- Logical die of a physical die. -/
def logDie (s : State) (d : Nat) : Option Nat := firstIx (· == d) s.dieMap 0

/-- The position of a name at boot (R20, R21); none when the name is absent. -/
def bootPos (s : State) (n : Nat) : Option Pos :=
  match physDie s (nameDie n) with
  | none => none
  | some d => (shiftCol (badCols s d (nomRow n)) (nomCol n)).map fun c => ⟨d, nomRow n, c⟩

/-- Tumbler of a position within its die (Table 15.6, TIDX). -/
def tumOf (row col : Nat) : Nat := row / 16 * 8 + col / 16
/-- Key of a tumbler in `State.tumblers`. -/
def tumKey (die t : Nat) : Nat := die * 64 + t
/-- A tumbler's state; one never touched is at its boot values (R361). -/
def tumbler (s : State) (die t : Nat) : Tumbler := (KM.get s.tumblers (tumKey die t)).getD {}
/-- Write a tumbler. -/
def setTumbler (s : State) (die t : Nat) (x : Tumbler) : State := { s with tumblers := KM.put s.tumblers (tumKey die t) x }
/-- Position 0 to 3 of a tile in its tumbler, clockwise from the north-west (R356). -/
def tilePos (row col : Nat) : Nat :=
  if row / 8 % 2 = 0 then (if col / 8 % 2 = 0 then 0 else 1) else (if col / 8 % 2 = 0 then 3 else 2)
/-- The place (row, column) at tile position `p` of the tumbler that holds (row, col), same cell of the tile. -/
def atTilePos (row col p : Nat) : Nat × Nat :=
  (row / 16 * 16 + (if p % 4 ≥ 2 then 8 else 0) + row % 8, col / 16 * 16 + (if p % 4 = 1 ∨ p % 4 = 2 then 8 else 0) + col % 8)
/-- Turned clockwise by `k` places (R361). -/
def turnPos (k row col : Nat) : Nat × Nat := atTilePos row col (tilePos row col + k)

/-- Where a name is now (R361). -/
def curPos (s : State) (n : Nat) : Option Pos :=
  (bootPos s n).map fun p =>
    let q := turnPos (tumbler s p.die (tumOf p.row p.col)).rot.toNat p.row p.col
    ⟨p.die, q.1, q.2⟩
/-- The name that a position holds now; none at a fenced cell or an unnumbered die. -/
def nameAt (s : State) (p : Pos) : Option Nat :=
  let q := turnPos (4 - (tumbler s p.die (tumOf p.row p.col)).rot.toNat) p.row p.col
  match logDie s p.die with
  | none => none
  | some l => (unshiftCol (badCols s p.die q.1) q.2).map fun c => l * 2 ^ 14 + idxOf q.1 c

/-- CELLID of a position (Table 01.1). -/
def cellId (p : Pos) : Nat :=
  p.die / 8 * 2 ^ 17 + p.die % 8 * 2 ^ 14 + p.row / 8 * 2 ^ 10 + p.col / 8 * 2 ^ 6 + p.row % 8 * 8 + p.col % 8
/-- The router at a position, as one number. -/
def routerOf (p : Pos) : Nat := p.die * 16384 + p.row * 128 + p.col
/-- A router's position. -/
def posOf (r : Nat) : Pos := ⟨r / 16384, r / 128 % 128, r % 128⟩
/-- Region translation unit of a position (R14). -/
def rtuOf (row col : Nat) : Nat := row / 32 * 4 + col / 32

/-- A name that a live cell holds (R19–R21). -/
def isName (s : State) (n : Nat) : Bool := decide (n < 2 ^ 20) && (bootPos s n).isSome

/-! ### Partitions (R24) -/

/-- The partition that owns a physical die. -/
def partOfDie (s : State) (d : Nat) : Option Nat := (s.parts.find? fun e => e.2.dies.contains d).map (·.1)
/-- The partition of a name. -/
def partOfName (s : State) (n : Nat) : Option Nat :=
  match physDie s (nameDie n) with
  | none => none
  | some d => partOfDie s d
/-- Whether a name's die belongs to a partition (R254, R30). -/
def dieInPart (s : State) (n p : Nat) : Bool := partOfName s n == some p
/-- A partition's record. -/
def part (s : State) (p : Nat) : Option Part := KM.get s.parts p
/-- Change a partition's record. -/
def modPart (s : State) (p : Nat) (f : Part → Part) : State :=
  match KM.get s.parts p with
  | none => s
  | some x => { s with parts := KM.put s.parts p (f x) }

/-! ### Cells -/

/-- A cell as it is when it is first named: firmware's configuration words, cleared scratchpad; MAPGEN 0 where it has no name
(R22, R207). -/
def freshCell (s : State) (n : Nat) : Cell :=
  { name := BitVec.ofNat 20 n, part := BitVec.ofNat 6 ((partOfName s n).getD 0), mapgen := if isName s n then s.mapgen else 0 }
/-- The cell that holds a name. -/
def getCell (s : State) (n : Nat) : Cell :=
  if s.cur = n then s.cell else (KM.get s.others n).getD (freshCell s n)
/-- Take a cell in hand. -/
def focus (s : State) (n : Nat) : State :=
  if s.cur = n then s
  else { s with cur := n, cell := getCell s n, others := KM.del (KM.put s.others s.cur s.cell) n }
/-- Write a cell, in hand or not. -/
def putCell (s : State) (n : Nat) (c : Cell) : State :=
  if s.cur = n then { s with cell := c } else { s with others := KM.put s.others n c }
/-- Change a cell. -/
def modCell (s : State) (n : Nat) (f : Cell → Cell) : State := putCell s n (f (getCell s n))
/-- Change the cell in hand. -/
def modFocus (s : State) (f : Cell → Cell) : State := { s with cell := f s.cell }
/-- Run an operation with a cell in hand, and put the former one back. -/
def within (s : State) (n : Nat) (f : State → State) : State := focus (f (focus s n)) s.cur

/-- Names of the cells that the state lists, in rising order. -/
def listedCells (s : State) : List Nat := (KM.put s.others s.cur s.cell).map (·.1)
/-- The listed cells that belong to a partition and hold a name. -/
def partCells (s : State) (p : Nat) : List Nat :=
  (listedCells s).filter fun n => isName s n && dieInPart s n p
/-- Every name of a partition, in rising order (R24). -/
def partNames (s : State) (p : Nat) : List Nat :=
  match part s p with
  | none => []
  | some x => ((List.range s.dieMap.length).filter fun l => x.dies.contains ((s.dieMap[l]?).getD 64)).flatMap fun l =>
      ((List.range 16384).map (l * 16384 + ·)).filter (isName s)

/-- A fresh free value, and the state in which the next one differs (assumption 2). -/
def fresh (s : State) : State := { s with freeIx := s.freeIx + 1 }
/-- A free choice below `n`; no choice is drawn among one (assumption 2). -/
def choose (s : State) (n : Nat) : Nat := if n ≤ 1 then 0 else Config.pick s.freeIx % n

/-- Count of the die that holds a name (R36). -/
def cycleOf (s : State) (n : Nat) : W64 := Sp.get s.dieCycle ((physDie s (nameDie n)).getD 0)

end Sys2Proof.Machine
end

