-- ==== Sys2Proof/Machine/Regs.lean ====
section
/-! DEFINITION. Threads and registers of the cell in hand: access to a thread, reading and writing a register by its
specifier (Table 02.5), link registers (R73), constants (R41), stream registers (R233), and where a thread goes when an
instruction falls through (R46, R71, R93). -/

namespace Sys2Proof.Machine

/-! ### Threads -/

/-- A thread of a cell. -/
def Cell.th (c : Cell) (t : TIdx) : Thread := c.thr[t]
/-- Write a thread of a cell. -/
def Cell.setTh (c : Cell) (t : TIdx) (x : Thread) : Cell := { c with thr := c.thr.set t.val x t.isLt }
/-- Change a thread of a cell. -/
def Cell.modTh (c : Cell) (t : TIdx) (f : Thread → Thread) : Cell := c.setTh t (f (c.th t))
/-- The issuing thread of the cell in hand (R63). -/
def State.me (s : State) : Thread := s.cell.th s.cell.last
/-- Change the issuing thread. -/
def State.modMe (s : State) (f : Thread → Thread) : State := { s with cell := s.cell.modTh s.cell.last f }
/-- Change a thread of the cell in hand. -/
def State.modTh (s : State) (t : TIdx) (f : Thread → Thread) : State := { s with cell := s.cell.modTh t f }

/-- A predicate; p0 reads true (R47). -/
def Thread.pred (x : Thread) (n : BitVec 3) : Bool := n == 0 || x.p.getLsbD n.toNat
/-- Write a predicate; p0 is not written. -/
def Thread.setPred (x : Thread) (n : BitVec 3) (b : Bool) : Thread :=
  if n = 0 then x else { x with p := insBits x.p n.toNat 1 (if b then 1 else 0) }
/-- The guard of an instruction (R47). -/
def Thread.guard (x : Thread) (h : Hdr) : Bool := x.pred h.gp != h.gn

/-! ### The active plane (R37) -/

/-- The active bank. -/
def Plane.active (p : Plane) : Bank := if p.act then p.bank1 else p.bank0
/-- The idle bank. -/
def Plane.idleBank (p : Plane) : Bank := if p.act then p.bank0 else p.bank1
/-- Write the active bank. -/
def Plane.setActive (p : Plane) (b : Bank) : Plane := if p.act then { p with bank1 := b } else { p with bank0 := b }
/-- Write the idle bank. -/
def Plane.setIdle (p : Plane) (b : Bank) : Plane := if p.act then { p with bank0 := b } else { p with bank1 := b }
/-- ENTRY of a header (Table 02.1). -/
def Bank.entry (b : Bank) : BitVec 10 := b.hdr0.extractLsb' 0 10
/-- LPRIO. -/
def Bank.lprio (b : Bank) : BitVec 2 := b.hdr0.extractLsb' 10 2
/-- DRND. -/
def Bank.drnd (b : Bank) : BitVec 3 := b.hdr0.extractLsb' 12 3
/-- A constant register: words 8n to 8n + 7, the lowest in the low bits (R37). -/
def constOf (m : Sparse 32) (n : Nat) : V256 :=
  pack 32 ((Sp.getMany m (8 * n) 8).map (·.toNat))

/-! ### Registers -/

/-- A specifier that may be written (R48): g, q, y, or zero. -/
def dstOk (d : Spec) : Bool := decide (d.toNat < 0x2A) || d == 0x2E
/-- A specifier that may be read (R48): any but 0x2F. -/
def srcOk (a : Spec) : Bool := a != 0x2F
/-- A g register. -/
def isG (a : Spec) : Bool := decide (a.toNat < 32)

/-- The value a specifier names in a thread of a cell, a bound stream register apart (Table 02.5, R73). -/
def Cell.reg (c : Cell) (t : TIdx) (a : Spec) : V256 :=
  let n := a.toNat
  let x := c.th t
  if h : n < 32 then x.g[n]
  else if h : n < 40 then x.q[n - 32]
  else if n = 40 then x.y0
  else if n = 41 then x.y1
  else if n < 46 then
    let m := x.link.toNat / 2 ^ (8 * (n - 42))
    (c.th ⟨m % 8, Nat.mod_lt _ (by decide)⟩).g[m / 8 % 32]'(Nat.mod_lt _ (by decide))
  else if n < 48 then 0
  else constOf c.plane.active.consts (n - 48)

/-- A register of a thread takes a value; a specifier that cannot be written discards (R48). -/
def Thread.putReg (x : Thread) (d : Spec) (v : V256) : Thread :=
  let n := d.toNat
  if h : n < 32 then { x with g := x.g.set n v h }
  else if h : n < 40 then { x with q := x.q.set (n - 32) v (by omega) }
  else if n = 40 then { x with y0 := v }
  else if n = 41 then { x with y1 := v }
  else x
/-- What a register of a thread holds, links and constants apart. -/
def Thread.ownReg (x : Thread) (d : Spec) : V256 :=
  let n := d.toNat
  if h : n < 32 then x.g[n]
  else if h : n < 40 then x.q[n - 32]
  else if n = 40 then x.y0
  else x.y1
/-- An outstanding result for a register keeps what the register held before a short-latency write (R68). -/
def LongRes.keepBase (o : LongRes) (d : Spec) (v : V256) : LongRes :=
  if o.d = d ∧ d.toNat < 42 ∧ o.base.isNone then { o with base := some v } else o
/-- A short-latency write of a whole register; a long-latency result still outstanding for it will give the value it would have
given without this write (R68). -/
def Thread.setReg (x : Thread) (d : Spec) (v : V256) : Thread :=
  { x.putReg d v with outs := x.outs.map (·.keepBase d (x.ownReg d)) }

/-! ### Stream registers (R233, R235) -/

/-- The stream engine that serves a specifier in a thread, if it is bound there. -/
def Cell.bound (c : Cell) (t : TIdx) (a : Spec) : Option (Fin 4) :=
  let n := a.toNat
  if h : 36 ≤ n ∧ n < 40 then
    let e : Fin 4 := ⟨n - 36, by omega⟩
    if c.eng.strm[e].bound ∧ c.eng.strm[e].own = t then some e else none
  else none
/-- KIND of a bound stream (Table 09.6). -/
def Stream.kind (x : Stream) : Nat := x.desc.toNat % 16
/-- A write stream. -/
def Stream.isWrite (x : Stream) : Bool := x.kind == 1 || x.kind == 3
/-- Change a stream engine. -/
def Cell.modStrm (c : Cell) (e : Fin 4) (f : Stream → Stream) : Cell :=
  { c with eng := { c.eng with strm := c.eng.strm.set e.val (f c.eng.strm[e]) e.isLt } }

/-- Number of elements E of a stream (R235). -/
def Stream.elements (x : Stream) : Nat :=
  (bits x.desc.toNat 32 16 + 1) * (bits x.desc.toNat 48 16 + 1) * (bits x.desc.toNat 64 16 + 1)
/-- Element size ES. -/
def Stream.esize (x : Stream) : Nat := 2 ^ bits x.desc.toNat 4 3
/-- Elements of a packet. -/
def Stream.perPacket (x : Stream) : Nat := 32 / x.esize
/-- Packets of the pattern. -/
def Stream.packets (x : Stream) : Nat := (x.elements + x.perPacket - 1) / x.perPacket

/-- A read stream with nothing to deliver now and more to come (R233). -/
def Stream.popBlocked (x : Stream) : Bool := !x.isWrite && x.buf.isEmpty && !x.err && !x.exh
/-- A read stream that has fewer than `k` packets now and more to come (R233). -/
def Stream.popBlockedBy (x : Stream) (k : Nat) : Bool :=
  x.popBlocked || (!x.isWrite && decide (x.buf.length < k) && !x.err && !x.exh && decide (x.fetch < x.packets))
/-- Long-latency results of a thread that are to be pushed to an engine's stream. -/
def Cell.pushesDue (c : Cell) (t : TIdx) (e : Fin 4) : Nat := ((c.th t).outs.filter fun o => o.d.toNat == 36 + e.val).length
/-- A write stream whose buffer is full, or will be once the results due to it are pushed (R233). -/
def Cell.pushBlocked (c : Cell) (t : TIdx) (e : Fin 4) : Bool :=
  let x := c.eng.strm[e]
  x.isWrite && decide (4 ≤ x.buf.length + c.pushesDue t e) && !x.err && !x.exh

/-- Pop one packet (R233, R235, R236). A write stream pops nothing. -/
def Stream.pop (x : Stream) : Stream :=
  if x.isWrite then x
  else match x.buf with
    | [] => { x with ovr := x.ovr || x.exh }
    | _ :: r => { x with buf := r, pos := x.pos + 1, exh := r.isEmpty && decide (x.packets ≤ x.fetch) }
/-- Push one packet (R233, R235, R236): one past the pattern's last is discarded and sets OVR, also while packets before it are still to
be written (assumption 112). A read stream takes nothing. -/
def Stream.push (x : Stream) (v : V256) : Stream :=
  if !x.isWrite || x.err then x
  else if x.exh ∨ x.packets ≤ x.fetch then { x with ovr := true }
  else { x with buf := x.buf ++ [v], pos := x.pos + 1, fetch := x.fetch + 1 }

/-- What the instruction's read of a register after `n` others of it gives, of its value now: with late results written within the
instruction, the latest first, what it held before one where that read comes before it (R67). -/
def asOf (a : Spec) (n : Nat) : List Cut → V256 → V256
  | [], v => v
  | k :: l, v => if k.d = a then (if k.stale.getLsbD (min n 3) then asOf a n l k.old else v) else asOf a n l v
/-- What a read of a specifier gives: the front packet of a read stream, zero when it has none left; what a write
stream gives to a reader the manual does not say (assumption 13). -/
def State.src (s : State) (a : Spec) : V256 :=
  match s.cell.bound s.cell.last a with
  | none => asOf a 0 s.me.cuts (s.cell.reg s.cell.last a)
  | some e => if s.cell.eng.strm[e].isWrite then Config.freeVal s.freeIx else s.cell.eng.strm[e].buf.headD 0
/-- Lane 0 of a source. -/
def State.src0 (s : State) (a : Spec) : W64 := lane0 (s.src a)

/-- What a read of a specifier gives after reads of others in the same instruction (R67). -/
def State.srcAfter (s : State) (before : List Spec) (a : Spec) : V256 :=
  match s.cell.bound s.cell.last a with
  | none => asOf a (before.count a) s.me.cuts (s.cell.reg s.cell.last a)
  | some _ => s.src a
/-- Lane 0 of such a source. -/
def State.src0After (s : State) (before : List Spec) (a : Spec) : W64 := lane0 (s.srcAfter before a)
/-- The registers of a run. -/
def runOf (a : Spec) (n : Nat) : List Spec := (List.range n).map fun i => BitVec.ofNat 6 (a.toNat + i)
/-- What reads of a run of registers give after reads of others (R67); the specifier zero is a run of zeros. -/
def State.runAfter (s : State) (before : List Spec) (a : Spec) (n : Nat) : List V256 :=
  (runOf a n).map fun r => if a = 0x2E then 0 else s.srcAfter before r

/-- The engines that a list of specifiers names, one for each naming: each read of a stream register pops (R101, R233). A vector
instruction gives its specifiers without repeats (R151). -/
def Cell.boundOf (c : Cell) (t : TIdx) (l : List Spec) : List (Fin 4) := l.filterMap (c.bound t)
/-- How often a list names an engine. -/
def timesIn (l : List (Fin 4)) (e : Fin 4) : Nat := (l.filter (· == e)).length
/-- The first reason why a stream register named as a source or as the destination is not ready (R233). -/
def State.streamNeed (s : State) (srcs dsts : List Spec) : Option Need :=
  let l := s.cell.boundOf s.cell.last srcs
  match l.find? (fun e => s.cell.eng.strm[e].popBlockedBy (timesIn l e)) with
  | some e => some (.packets e (timesIn l e))
  | none => ((s.cell.boundOf s.cell.last dsts).find? (s.cell.pushBlocked s.cell.last)).map .room
/-- Pop the streams that an instruction reads, once for each read (R101, R233). -/
def State.popAll (s : State) (srcs : List Spec) : State :=
  match s.cell.boundOf s.cell.last srcs with
  | [] => s
  | l => { s with cell := l.foldl (fun c e => c.modStrm e Stream.pop) s.cell, freeIx := s.freeIx + 1 }
/-- Such a read where every read of a stream register pops: the next packet where it names a stream that one of the others has popped
(R101, R233; assumption 31). -/
def State.srcNext (s : State) (before : List Spec) (a : Spec) : V256 := (s.popAll before).srcAfter before a
/-- Lane 0 of such a source. -/
def State.src0Next (s : State) (before : List Spec) (a : Spec) : W64 := lane0 (s.srcNext before a)

/-- What an instruction gives its destination: all of it, or its low bits (R48, R264). -/
inductive Res where
  | whole (v : V256)
  | low (x : W64)
  | low2 (x y : W64)
  deriving DecidableEq, Repr

/-- The register a result leaves, over what it held. -/
def Res.over (r : Res) (old : V256) : V256 :=
  match r with
  | .whole v => v
  | .low x => setLane0 old x
  | .low2 x y => setLanes01 old x y

/-- The whole value that a result leaves in its destination (R105): over the register's own bits; over zero for the
specifier zero; over free bits for a stream register, whose other bits the manual does not state (assumption 13). -/
def Cell.resVal (c : Cell) (t : TIdx) (ix : Nat) (d : Spec) (r : Res) : V256 :=
  match c.bound t d with
  | some _ => r.over (Config.freeVal ix)
  | none => r.over (if d = 0x2E then 0 else c.reg t d)
/-- Write a destination of a thread: a push for a stream register, else the register (R48, R151, R233). -/
def Cell.write (c : Cell) (t : TIdx) (d : Spec) (v : V256) : Cell :=
  match c.bound t d with
  | some e => c.modStrm e (·.push v)
  | none => c.modTh t (·.setReg d v)
/-- Enter a result into the last-result file unless its destination is y0 or y1 (R105): short-latency writes of both (R68). -/
def Thread.last (x : Thread) (d : Spec) (v : V256) : Thread :=
  if d = 0x28 ∨ d = 0x29 then x else (x.setReg 0x29 x.y0).setReg 0x28 v

/-- A result that does not enter the last-result file. -/
def State.putRes (s : State) (d : Spec) (r : Res) : State :=
  { s with cell := s.cell.write s.cell.last d (s.cell.resVal s.cell.last s.freeIx d r),
           freeIx := if (s.cell.bound s.cell.last d).isSome then s.freeIx + 1 else s.freeIx }
/-- A result of a result producer (R105): the destination, then the last-result file. -/
def State.produce (s : State) (d : Spec) (r : Res) : State :=
  (s.putRes d r).modMe (·.last d (s.cell.resVal s.cell.last s.freeIx d r))

/-! ### Where a thread goes next -/

/-- What follows an instruction that falls through. -/
inductive Next where
  | at_ (pc : BitVec 10) (l0 l1 : Loop)
  | blockEnd
  | past
  deriving DecidableEq, Repr

/-- An active level whose end is this word (R93). -/
def Loop.endsAt (l : Loop) (a : Nat) : Bool := l.active && l.stop.toNat == a
/-- One pass of a level fewer: it goes on, or closes (R93). -/
def Loop.dec (l : Loop) : Loop := if 1 < l.count.toNat then { l with count := l.count - 1 } else { l with active := false, count := 0 }

/-- The outer level, then the next word (R93, R46). -/
def nextOuter (l0 l1 : Loop) (last : Nat) : Next :=
  if l0.endsAt last then
    if l0.dec.active then .at_ l0.start l0.dec l1
    else if last = 1023 then .past else .at_ (BitVec.ofNat 10 (last + 1)) l0.dec l1
  else if last = 1023 then .past else .at_ (BitVec.ofNat 10 (last + 1)) l0 l1

/-- Where a thread goes after an instruction whose last word is `last` falls through: the loop levels, inner first
(R93); the end of a block (R71); the end of the plane (R46). -/
def Thread.next (x : Thread) (last : Nat) : Next :=
  if x.inb then
    if last = x.blkAt.toNat + x.blkLen.toNat then .blockEnd else .at_ (BitVec.ofNat 10 (last + 1)) x.lp0 x.lp1
  else if x.lp1.endsAt last then
    if x.lp1.dec.active then .at_ x.lp1.start x.lp0 x.lp1.dec else nextOuter x.lp0 x.lp1.dec last
  else nextOuter x.lp0 x.lp1 last

/-- Inside a level. -/
def Loop.holds (l : Loop) (a : Nat) : Bool := decide (l.start.toNat ≤ a ∧ a ≤ l.stop.toNat)
/-- A taken transfer of control to an address (R93): a level it leaves becomes inactive, level 1 with level 0. -/
def Thread.jump (x : Thread) (a : BitVec 10) : Thread :=
  let l0 : Loop := if x.lp0.active && !x.lp0.holds a.toNat then { x.lp0 with active := false } else x.lp0
  let l1 : Loop := if (x.lp1.active && !x.lp1.holds a.toNat) || (x.lp0.active && !l0.active) then { x.lp1 with active := false } else x.lp1
  { x with pc := a, lp0 := l0, lp1 := l1 }

end Sys2Proof.Machine
end

