-- ==== Sys2Proof/Machine/Ops.lean ====
section
/-! DEFINITION. The named operations over scratchpad and threads: reading and writing scratchpad with its check bits
(R211) and its WAITA watches (R223); arrival and binding (R74–R83); taking an exception (R365–R370) and coming back
from one; what a thread does when its outstanding results are written (R66, R71, R94, R95). -/

namespace Sys2Proof.Machine

/-! ### Scratchpad -/

/-- Change the scratchpad of a cell. -/
def Cell.modPad (c : Cell) (f : Pad → Pad) : Cell := { c with pad := f c.pad }
/-- Bytes of a scratchpad as a number, check bits apart (R6). -/
def Cell.bytes (c : Cell) (a n : Nat) : Nat := Memory.readNat c.pad.mem a n
/-- The granule at an offset (R6, R206). -/
def Cell.gran (c : Cell) (a : Nat) : V256 := BitVec.ofNat 256 (c.bytes a 32)
/-- The 64-bit words that bytes touch, by offset (R206). -/
def wordsOf (a n : Nat) : List Nat :=
  if n = 0 then [] else (List.range ((a + n - 1) / 8 - a / 8 + 1)).map fun i => (a / 8 + i) * 8
/-- The granules that bytes touch, by offset. -/
def gransOf (a n : Nat) : List Nat :=
  if n = 0 then [] else (List.range ((a + n - 1) / 32 - a / 32 + 1)).map fun i => (a / 32 + i) * 32
/-- Whether a read of bytes meets a word with an uncorrectable error (R211). -/
def Cell.badRead (c : Cell) (a n : Nat) : Option Nat := (wordsOf a n).find? fun w => c.pad.ecc2.contains w
/-- What a read leaves behind (R211): corrected words written back and counted; each uncorrectable word counted and the
last one recorded. -/
def Pad.touch (p : Pad) (ws : List Nat) : Pad :=
  let one := ws.filter p.ecc1.contains
  let two := ws.filter p.ecc2.contains
  { p with ecc1 := p.ecc1.filter fun w => !one.contains w,
           corr := satAdd p.corr one.length, uncorr := satAdd p.uncorr two.length,
           last := match two.getLast? with | some w => BitVec.ofNat 15 w | none => p.last,
           lv := p.lv || !two.isEmpty }
/-- Count a read of bytes. -/
def Cell.touched (c : Cell) (a n : Nat) : Cell := c.modPad (·.touch (wordsOf a n))
/-- Write bytes; a word written whole gets fresh check bits (R211). -/
def Pad.write (p : Pad) (a n v : Nat) : Pad :=
  let whole := (wordsOf a n).filter fun w => decide (a ≤ w ∧ w + 8 ≤ a + n)
  { p with mem := Memory.writeNat p.mem a n v,
           ecc1 := p.ecc1.filter fun w => !whole.contains w, ecc2 := p.ecc2.filter fun w => !whole.contains w }

/-- The condition of a WAITA (Table 08.9). -/
def waitaCond (x : BitVec 2) (w c : W64) : Bool :=
  if x = 0 then w == c
  else if x = 1 then w != c
  else if x = 2 then decide (c.toNat ≤ w.toNat)
  else decide ((w.extractLsb' 0 32 - c.extractLsb' 0 32).toNat < 2 ^ 31)

/-! ### Falling through -/

/-- Park on the wait marker, or go on (R66). -/
def Thread.marker (x : Thread) (w : Bool) : Thread :=
  if w && !x.outs.isEmpty then { x with st := .parked, wait := .marker, wmark := false }
  else { x with st := .running, wait := .none, wmark := false }
/-- A thread that stops once its outstanding results are written (R71, R94, R95, R100, R367). -/
def Thread.finishing (x : Thread) (f : Finish) : Thread := { x with st := .parked, wait := .finish f, wmark := false }
/-- The record of a precise fault at an address of code (R365, R367). -/
def faultAt (cause : BitVec 8) (pc : BitVec 10) (addr : W64) : FaultRec := { cause := cause, fpc := pc, faddr := addr }

/-- An instruction of `len` words at the thread's pc falls through; `w` is its wait marker (R46, R66, R71, R93). -/
def Thread.fall (x : Thread) (len : Nat) (w : Bool) : Thread :=
  match x.next (x.pc.toNat + len - 1) with
  | .at_ pc l0 l1 => ({ x with pc := pc, lp0 := l0, lp1 := l1 } : Thread).marker w
  | .blockEnd => x.finishing .blockEnd
  | .past => x.finishing (.fault (faultAt 0x01 x.pc 0))

/-! ### WAITA sleepers (R223) -/

/-- Threads that sleep in WAITA. -/
def Cell.sleepers (c : Cell) : List TIdx := tids.filter fun t => match (c.th t).wait with | .waita .. => true | _ => false
/-- One sleeper tests a write of `n` bytes at `lo`: it goes on with the observed word in D when its condition holds, and
with ECC_UNCORRECTED to raise at its next boundary when the word is uncorrectable (R223, Table 08.2); its read scrubs (R211), and a load's
earlier failure stays (R367). -/
def Cell.wakeOne (c : Cell) (lo n : Nat) (t : TIdx) : Cell :=
  match (c.th t).wait with
  | .waita a v x d =>
    if (wordsOf lo n).contains a then
      let c' := c.touched a 8
      if c.pad.ecc2.contains a then
        c'.modTh t fun th => { th.fall 1 th.wmark with deferred := th.deferred.or (some (BitVec.ofNat 64 a)) }
      else if waitaCond x (BitVec.ofNat 64 (c.bytes a 8)) v then
        (c'.write t d (c'.resVal t 0 d (.low (BitVec.ofNat 64 (c.bytes a 8))))).modTh t fun th => th.fall 1 th.wmark
      else c'
    else c
  | _ => c
/-- A write to scratchpad at its point: bytes, check bits, sleepers (R209, R211, R223). -/
def Cell.store (c : Cell) (a n v : Nat) : Cell :=
  let c1 := c.modPad (·.write a n v)
  c1.sleepers.foldl (fun c t => c.wakeOne a n t) c1

/-! ### The handler table (R74, R75) -/

/-- Word 0 of a handler entry. -/
def Cell.hword (c : Cell) (ch : Nat) : W32 := Sp.get c.plane.active.handlers (2 * ch)
/-- Word 1. -/
def Cell.hword1 (c : Cell) (ch : Nat) : W32 := Sp.get c.plane.active.handlers (2 * ch + 1)
/-- PRIO. -/
def hPrio (w : W32) : BitVec 2 := w.extractLsb' 10 2
/-- MASK. -/
def hMask (w : W32) : BitVec 7 := w.extractLsb' 12 7
/-- TIMED. -/
def hTimed (w : W32) : Bool := w.getLsbD 19
/-- REFUSE. -/
def hRefuse (w : W32) : Bool := w.getLsbD 20
/-- An entry that can be bound (R75); the one for channel 63 is ignored (R12). -/
def Cell.usable (c : Cell) (ch : Nat) : Bool :=
  let w := c.hword ch
  ch != 63 && w.getLsbD 23 && hMask w != 0 && w.extractLsb' 24 8 == 0 && c.hword1 ch == 0

/-! ### Binding (R76, R77) -/

/-- Reserved by a waiting BCAST (R70). -/
def Cell.reserved (c : Cell) (t : TIdx) : Bool :=
  match (c.th 0).wait with | .bcast m _ _ => inMask m t | _ => false
/-- The thread that an entry's message would bind (R76): none where the entry is unusable (R75). -/
def Cell.bindable (c : Cell) (ch : Nat) : Option TIdx :=
  micro.find? fun t => c.usable ch && inMask (hMask (c.hword ch)) t && (c.th t).st == .free && !c.reserved t
/-- Whether RECV counts a packet (R89). -/
def Pkt.counts (p : Pkt) : Bool := !p.loc && p.kind == 0 && decide (p.chan.toNat < 48)
/-- Count a packet's disposal in RECV (R89). -/
def Cell.received (c : Cell) (p : Pkt) : Cell :=
  if p.counts then { c with inbox := { c.inbox with recv := c.inbox.recv + 1 } } else c
/-- Binding makes the thread bound; the deposit follows (R76, R77). -/
def Cell.bind (c : Cell) (t : TIdx) (p : Pkt) : Cell :=
  let w := c.hword p.chan.toNat
  c.modTh t fun x => { x with st := .bound, wait := .deposit p (w.extractLsb' 0 10) (hPrio w) (hTimed w) (w.extractLsb' 21 2) }
/-- The head registers of a deposit (Table 03.9). -/
def Thread.heads (x : Thread) (p : Pkt) : Thread :=
  { x with hsrc := 0#43 ++ BitVec.ofBool p.loc ++ p.src,
           hchan := 0#32 ++ p.seq ++ 0#4 ++ BitVec.ofBool p.anti ++ BitVec.ofBool p.tmd ++ p.cls ++ p.chan,
           hvrt := 0#16 ++ p.vrt, hreply := 0#58 ++ p.rch }
/-- The deposit (R77): payload into g0 … g(LEN), head registers, predicates and y cleared, loop levels inactive, INH set;
the handler starts at its entry's PC at its PRIO. -/
def Thread.deposit (x : Thread) (p : Pkt) (pc : BitVec 10) (prio : BitVec 2) (timed : Bool) (len : BitVec 2) : Thread :=
  let pay (i : Nat) : V256 := (p.pay[i]?).getD 0
  let y := (x.heads p).setReg 0 (pay 0)
  let y := if 1 ≤ len.toNat then y.setReg 1 (pay 1) else y
  let y := if 2 ≤ len.toNat then y.setReg 2 (pay 2) else y
  let y := if 3 ≤ len.toNat then y.setReg 3 (pay 3) else y
  { y with p := 0, y0 := 0, y1 := 0, lp0 := { y.lp0 with active := false }, lp1 := { y.lp1 with active := false },
           inh := true, tmd := timed, lvl := prio, pc := pc, st := .running, wait := .none }

/-! ### The spill queue (R78, R79, Table 03.8) -/

/-- SQBASE of the word in force (Table 03.7). -/
def Cell.sqBase (c : Cell) : Nat := bits (Sp.get c.plane.live 0).toNat 0 16
/-- SQENT. -/
def Cell.sqEnt (c : Cell) : Nat := bits (Sp.get c.plane.live 0).toNat 16 8
/-- Offset of a spill entry by its index in the ring. -/
def Cell.sqAt (c : Cell) (i : Nat) : Nat := c.sqBase + 160 * (i % Nat.max 1 c.sqEnt)
/-- Offset of the oldest spill entry. -/
def Cell.sqHead (c : Cell) : Nat := c.sqAt c.inbox.head.toNat
/-- The 160 bytes of a packet in the spill ring or the timed overflow; `extra` is byte 7's bits [7:2]. -/
def Pkt.entryBytes (p : Pkt) (extra : Nat) : Nat :=
  packNat 32 [p.src.toNat + 2 ^ 20 * p.chan.toNat + 2 ^ 26 * p.cls.toNat + 2 ^ 30 * (if p.tmd then 1 else 0) +
      2 ^ 31 * (if p.loc then 1 else 0),
    p.seq.toNat + 2 ^ 16 * p.rch.toNat + 2 ^ 24 * (p.pay.length - 1 + 4 * extra)] +
  2 ^ 64 * p.vrt.toNat + 2 ^ 256 * packNat 256 ((p.pay.take 4).map (·.toNat))
/-- A packet read back from an entry at an offset; a payload register with an uncorrectable word is zero (Table 08.2). -/
def Cell.entryPkt (c : Cell) (a : Nat) : Pkt :=
  let w := c.bytes a 4
  let v := c.bytes (a + 4) 4
  let n := bits v 24 2 + 1
  { dest := c.name, src := BitVec.ofNat 20 w, chan := BitVec.ofNat 6 (bits w 20 6), cls := BitVec.ofNat 4 (bits w 26 4),
    tmd := bitOf w 30, loc := bitOf w 31, seq := BitVec.ofNat 16 v, rch := BitVec.ofNat 6 (bits v 16 6),
    vrt := BitVec.ofNat 48 (c.bytes (a + 8) 6),
    pay := (List.range n).map fun i => if (c.badRead (a + 32 + 32 * i) 32).isSome then 0 else c.gran (a + 32 + 32 * i) }
/-- A deposit of an entry of 160 bytes: its granules are written each at a point of its own (R209, R310). -/
def Cell.deposit (c : Cell) (a v : Nat) : Cell :=
  { c with inbox := { c.inbox with dep := c.inbox.dep ++ (List.range 5).map fun i => (a + 32 * i, BitVec.ofNat 256 (v / 2 ^ (256 * i))) } }
/-- Some granule of an entry is still to be written. -/
def Cell.depositing (c : Cell) (a : Nat) : Bool := c.inbox.dep.any fun g => decide (a ≤ g.1 ∧ g.1 < a + 160)
/-- Bytes of the spill ring as its deposits leave them: what the cell has of an entry before it is written. -/
def Cell.ringBytes (c : Cell) (a n : Nat) : Nat := (c.inbox.dep.foldl (fun c g => c.modPad (·.write g.1 32 g.2.toNat)) c).bytes a n
/-- Room in the spill queue (R78). -/
def Cell.spillRoom (c : Cell) : Bool := decide (c.inbox.occ.toNat < c.sqEnt)
/-- Append an arrival to the spill queue (R79). -/
def Cell.spill (c : Cell) (p : Pkt) : Cell :=
  let c := c.deposit (c.sqAt (c.inbox.head.toNat + c.inbox.occ.toNat)) (p.entryBytes 0)
  let i := c.inbox
  { c with inbox := { i with occ := i.occ + 1, spilled := satInc i.spilled,
                             hwm := if i.hwm.toNat < i.occ.toNat + 1 then i.occ + 1 else i.hwm } }
/-- A masked class never binds directly (R250); events raised within the cell are never masked. -/
def Cell.masked (c : Cell) (p : Pkt) : Bool := !p.loc && c.msg.clmask.getLsbD p.cls.toNat
/-- A new arrival may bind ahead of the queue only when its PRIO is higher than the oldest entry's (R79). -/
def Cell.mayPass (c : Cell) (p : Pkt) : Bool :=
  c.inbox.occ == 0 ||
    decide ((hPrio (c.hword (bits (c.ringBytes c.sqHead 4) 20 6))).toNat < (hPrio (c.hword p.chan.toNat)).toNat)

/-! ### The disposal of an arrival (R75, R79, R80, R326) -/

/-- What becomes of an arrival at the head of the ingress buffer. -/
inductive Disposal where
  | discard
  | bind (t : TIdx)
  | spill
  | refuse
  | stay
  deriving DecidableEq, Repr

/-- A cell with a load between rounds: it stays done, so nothing binds in it (Table 02.2, R59). -/
def Cell.pausing (c : Cell) : Bool := c.plane.loaded && !c.plane.inRound
/-- The disposal of an arrival (R75, R79, R80, R250, R326): discarded where no entry can take it, bound, spilled, refused,
or kept in the ingress buffer. A timed message of a timed channel stays for the timed input queue. -/
def Cell.disposal (c : Cell) (p : Pkt) : Disposal :=
  let ch := p.chan.toNat
  if !c.usable ch then .discard
  else if c.pausing then .stay
  else if hTimed (c.hword ch) then (if p.tmd then .stay else .discard)
  else if !c.masked p && c.mayPass p && (c.bindable ch).isSome then .bind ((c.bindable ch).getD 1)
  else if c.spillRoom then .spill
  else if !p.loc && hRefuse (c.hword ch) && p.refok && p.chan != 60 then .refuse
  else .stay

/-- The refusal reply of R81. -/
def refusal (c : Cell) (p : Pkt) : Pkt :=
  { dest := p.src, src := c.name, stid := p.stid, cls := p.cls, chan := 60, rset := true, kind := 2,
    pay := [ofLanes (BitVec.ofNat 64 (c.name.toNat + 2 ^ 20 * p.chan.toNat + 2 ^ 32 * p.seq.toNat)) (lane0 (p.pay.headD 0))] }
/-- REFOK of a class (Table 10.3). -/
def Cell.refok (c : Cell) (cls : BitVec 4) : Bool := decide (4 ≤ cls.toNat) && bitOf (Sp.get c.plane.live 2).toNat (2 * (cls.toNat - 4) + 1)
/-- NOLRN of a class: 0 for the classes that Table 10.3 has no bit for, whose packets use name tables and write no entry (R248; assumption
118). -/
def Cell.nolrn (c : Cell) (cls : BitVec 4) : Bool := decide (4 ≤ cls.toNat) && bitOf (Sp.get c.plane.live 2).toNat (2 * (cls.toNat - 4))
/-- The class attributes that a cell copies into a head (R249). -/
def Cell.stampClass (c : Cell) (p : Pkt) : Pkt := { p with refok := c.refok p.cls, nolrn := c.nolrn p.cls }
/-- A packet of any kind enters the network at the router of its source on a virtual channel, with its class's attributes (R249,
Table 10.2). -/
def State.inject (s : State) (p : Pkt) (vc : BitVec 2) : State :=
  match curPos s p.src.toNat with
  | none => s
  | some q => { s with mnet := s.mnet ++ [{ p := (getCell s p.src.toNat).stampClass p, pos := routerOf q, vc := vc }] }
/-- Change the arrival state of the cell in hand. -/
def State.modInbox (s : State) (f : Inbox → Inbox) : State := modFocus s fun c => { c with inbox := f c.inbox }
/-- Dispose of an arrival of the cell in hand. -/
def State.dispose (s : State) (p : Pkt) (d : Disposal) : State :=
  match d with
  | .discard => (modFocus s (·.received p)).modInbox fun i => { i with nohdl := satInc i.nohdl }
  | .bind t => modFocus s fun c => (c.received p).bind t p
  | .spill => modFocus s (·.spill p)
  | .refuse => ((modFocus s (·.received p)).modInbox fun i => { i with refused := satInc i.refused }).inject (refusal s.cell p) 3
  | .stay => s.modInbox fun i => { i with ibuf := i.ibuf ++ [p] }

/-- A cell in its Run state (R350). -/
def Cell.awake (c : Cell) : Cell := { c with drowsy := false, idleCyc := 0 }
/-- An event raised within the cell (R83); it wakes a Drowsy one (R350): discarded, bound or spilled at once when nothing waits ahead of it; else into
the ingress buffer or its latch; between rounds into its latch, since a round starts with the buffer empty (R59). -/
def State.raise (s : State) (ch : BitVec 6) (v : V256) : State :=
  let s := modFocus s Cell.awake
  let p : Pkt := { dest := s.cell.name, src := s.cell.name, loc := true, chan := ch, pay := [v] }
  let i := s.cell.inbox
  if !s.cell.usable ch.toNat then s.dispose p .discard
  else if i.latches.isEmpty ∧ i.ibuf.isEmpty ∧ s.cell.disposal p ≠ .stay then s.dispose p (s.cell.disposal p)
  else if i.latches.isEmpty ∧ i.ibuf.length < 4 ∧ s.cell.pausing = false then s.dispose p .stay
  else s.modInbox fun i => { i with latches := i.latches ++ [p] }
/-- Channel 61 events of the cell that have not bound (R376). -/
def Cell.unbound61 (c : Cell) : Nat :=
  ((c.inbox.ibuf ++ c.inbox.latches).filter fun p => p.loc && p.chan == 61).length +
  ((List.range c.inbox.occ.toNat).filter fun i =>
    let w := c.ringBytes (c.sqAt (c.inbox.head.toNat + i)) 4
    bitOf w 31 && bits w 20 6 == 61).length
/-- An event on channel 61 (R229, R376): at most four unbound; a further one is counted in LOST61. -/
def State.raise61 (s : State) (v : V256) : State :=
  if s.cell.unbound61 < 4 then s.raise 61 v else modFocus s fun c => { c with lost61 := satInc c.lost61 }
/-- ERRS counts an error (R229). -/
def Cell.countErr (c : Cell) : Cell := { c with eng := { c.eng with errs := satInc c.eng.errs } }
/-- An error of an engine whose errors ERRS does not count: a further one beyond the four is counted there too (R376). -/
def State.further61 (s : State) (v : V256) : State :=
  if s.cell.unbound61 < 4 then s.raise61 v else modFocus (s.raise61 v) Cell.countErr

/-! ### Taking an exception (R365–R370) -/

/-- Words of sys.FCAUSE for a record with VALID set (Table 16.2). -/
def FaultRec.word (r : FaultRec) : BitVec 17 :=
  BitVec.ofBool r.endd ++ 1#1 ++ BitVec.ofBool r.defer ++ r.info ++ r.cause
/-- The channel 62 payload (R369). -/
def FaultRec.event (r : FaultRec) (t : TIdx) : V256 :=
  ofLanes (BitVec.ofNat 64 (r.cause.toNat + 2 ^ 8 * r.info.toNat + 2 ^ 14 * (if r.defer then 1 else 0) +
    2 ^ 15 * (if r.endd then 1 else 0) + 2 ^ 16 * t.val + 2 ^ 19 * r.fpc.toNat)) r.faddr
/-- The record that a thread's fault registers hold (Table 16.2). -/
def Thread.record (x : Thread) : FaultRec :=
  { cause := x.fcause.extractLsb' 0 8, info := x.fcause.extractLsb' 8 6, defer := x.fcause.getLsbD 14,
    endd := x.fcause.getLsbD 16, fpc := x.fpc, faddr := x.faddr }
/-- A thread writes its record and enters faulted; PP and the prefix latch stay (R367). An error that a load met before a precise fault
is still to be raised at a later boundary (R365, Table 08.2). -/
def Thread.faulted (x : Thread) (r : FaultRec) : Thread :=
  { x with st := .faulted, wait := .none, fcause := r.word, fpc := r.fpc, faddr := r.faddr,
           deferred := if r.defer then none else x.deferred }
/-- The debug flag of the partition of the cell in hand (R370). -/
def State.debug (s : State) : Bool :=
  match part s s.cell.part.toNat with | some p => p.debug | none => false
/-- Whether a fault of a thread is held: a journaled timed handler above GVT (R340). -/
def Cell.holdsFault (c : Cell) (t : TIdx) : Bool :=
  match c.tim.run with
  | some r => r.t == t && !r.unj && decide (c.tim.gvt.toNat < r.vrt.toNat)
  | none => false
/-- The lead fault on its way to the controller; a first one stays (R370). -/
def Cell.leadFault (c : Cell) (t : TIdx) (r : FaultRec) : Cell :=
  match c.lead with | none => { c with lead := some ⟨t, r⟩ } | some _ => c
/-- A faulted thread whose fault is not held (R87, R340). -/
def Cell.plainFaulted (c : Cell) (t : TIdx) : Bool :=
  (c.th t).st == .faulted && !(match c.tim.run with | some r => r.t == t && r.held | none => false)
/-- T0 stopped while a micro-thread is faulted: a lead fault with that thread's cause (R87). -/
def Cell.stopFault (c : Cell) : Cell :=
  if (c.th 0).st = .stopped then
    match micro.find? c.plainFaulted with | some t => c.leadFault t (c.th t).record | none => c
  else c
/-- What follows the record: held, with the thread's own number in its FTID (R340, assumption 83), a lead fault (R370), or an event on channel 62 (R369). -/
def State.reportFault (s : State) (t : TIdx) (r : FaultRec) : State :=
  if s.cell.holdsFault t then
    modFocus s fun c => { c.modTh t (fun x => { x with ftid := BitVec.ofNat 3 t.val }) with
      tim := { c.tim with run := c.tim.run.map fun x => { x with held := true } } }
  else if t = 0 ∨ r.cause = 0x07 ∨ (r.cause = 0x09 ∧ s.debug = true) then modFocus s (·.leadFault t r)
  else modFocus (s.raise 62 (r.event t)) (·.stopFault)
/-- Taking an exception, once the thread's outstanding results are written: the record, FLT, and the report
(R367–R370). -/
def State.takeFault (s : State) (t : TIdx) (r : FaultRec) : State :=
  (modFocus s fun c => { c.modTh t (·.faulted r) with flt := satInc c.flt }).reportFault t r
/-- T0 waits in a BCAST that names a thread (R97). -/
def Cell.bcastAwaits (c : Cell) (t : TIdx) : Bool :=
  match (c.th 0).wait with | .bcast m _ _ => inMask m t | _ => false
/-- Taking an exception; where T0 waits in a BCAST for the thread, the BCAST raises WAIT_DEADLOCK, at once or, while T0 has results
outstanding, when they are written (R97, R367). -/
def State.enterFault (s : State) (t : TIdx) (r : FaultRec) : State :=
  let s' := s.takeFault t r
  if s.cell.bcastAwaits t then
    let f := faultAt 0x07 (s'.cell.th 0).pc 0
    if (s'.cell.th 0).outs.isEmpty then s'.takeFault 0 f else s'.modTh 0 (·.finishing (.fault f))
  else s'

/-! ### What a thread does when its results are written -/

/-- The leases of a thread end (R181). -/
def Cell.dropLeases (c : Cell) (t : TIdx) : Cell :=
  { c with mx := { c.mx with
      owner := c.mx.owner.map (fun o => if o = some t then none else o)
      leaving := Vector.ofFn (fun i => c.mx.leaving[i] && c.mx.owner[i] != some t) } }
/-- The key of a timed message (R333). -/
def Pkt.sameMsg (p q : Pkt) : Bool := p.src == q.src && p.stid == q.stid && p.seq == q.seq && p.chan == q.chan
/-- Remove the first queue entry that a test meets. -/
def dropFirst {α : Type} (f : α → Bool) : List α → List α
  | [] => []
  | x :: r => if f x then r else x :: dropFirst f r
/-- The timed handler ends with its thread: a journaled one's entry is retained, an unjournaled one's is freed (R323). -/
def Cell.endTimed (c : Cell) (t : TIdx) : Cell :=
  match c.tim.run with
  | some r =>
    if r.t = t then
      { c with tim := { c.tim with run := none,
                                   tq := if r.unj then dropFirst (fun e => e.done && e.p.sameMsg r.p) c.tim.tq else c.tim.tq } }
    else c
  | none => c
/-- Table 03.12, RESET: registers, predicates, prefix, loops and links cleared, formats and seed at their reset values. -/
def Thread.cleared (x : Thread) (t : TIdx) (n : Name) : Thread :=
  { x with g := Vector.replicate 32 0, q := Vector.replicate 8 0, y0 := 0, y1 := 0, p := 0, pp := false, pfx := 0,
           lp0 := {}, lp1 := {}, link := 0, fmt := 0x2E00, mshape := 0x0BAE33, rseed := Thread.seed t n }
/-- A thread that the lead killed becomes free (Table 03.12). -/
def Thread.killed (x : Thread) : Thread :=
  { x with st := .free, wait := .none, inh := false, inb := false, tmd := false, fcause := insBits x.fcause 15 1 0,
           deferred := none, wmark := false, outs := [] }
/-- The binding of an engine ends and its buffer is discarded; the register shows its own value again (R233, R238). -/
def Stream.unbound (x : Stream) : Stream := { x with bound := false, buf := [], out := none }
/-- Every stream binding of a thread ends (R238, Table 03.12). -/
def Cell.unbindAll (c : Cell) (t : TIdx) : Cell :=
  { c with eng := { c.eng with strm := c.eng.strm.map fun x => if x.bound ∧ x.own = t then x.unbound else x } }
/-- Requests that are asked no more leave the walks and the miss queues, translated or not: a later request of the same engine is another (R229, R236,
R376). -/
def State.dropAskers (s : State) (gone : Waiter → Bool) : State :=
  { s with walks := s.walks.map fun w => { w with who := w.who.filter fun a => !gone a.who },
           missQ := s.missQ.filter fun m => !gone m.who.who, xlated := s.xlated.filter fun x => !gone x.who }
/-- What an engine asked of its RTU is asked no more once its binding ends or starts again (R236, R376). -/
def State.forgetStream (s : State) (n : Fin 4) : State := s.dropAskers (· == .stream s.cell.name n.val)
/-- What the engines that a thread holds asked is asked no more. -/
def State.forgetStreams (s : State) (t : TIdx) : State :=
  ([0, 1, 2, 3] : List (Fin 4)).foldl (fun s n => if s.cell.eng.strm[n].bound ∧ s.cell.eng.strm[n].own = t then s.forgetStream n else s) s

/-- What a thread was to do once its results were written (R71, R94, R95, R100, R367). A deferred error comes first
(Table 08.2); a pending prefix at the end of a block is ILLEGAL at the PFX, its last word (R52). -/
def State.finish (s : State) (t : TIdx) (f : Finish) : State :=
  let x := s.cell.th t
  match f, x.deferred with
  | .fault r, _ => s.enterFault t r
  | .kill clear, _ =>
    let c := ((s.cell.endTimed t).dropLeases t).modTh t Thread.killed
    let c := if clear then (c.unbindAll t).modTh t (·.cleared t c.name) else c
    { (if clear then s.forgetStreams t else s) with cell := (c.modTh 0 fun z => if z.wait = .kill t then z.fall 1 z.wmark else z).stopFault }
  | .blockEnd, some a =>
    s.enterFault t { cause := 0x0A, defer := true, fpc := x.blkAt + x.blkLen.setWidth 10 + 1, faddr := a }
  | _, some a => s.enterFault t { cause := 0x0A, defer := true, fpc := x.pc + 1, faddr := a }
  | .blockEnd, none =>
    if x.pp then s.enterFault t (faultAt 0x01 (x.blkAt + x.blkLen.setWidth 10) 0)
    else modFocus s fun c => (c.dropLeases t).modTh t fun x => { x with st := .stopped, wait := .none, inb := false }
  | .stop, none =>
    modFocus s fun c => ((c.dropLeases t).modTh t fun x => { x with st := .stopped, wait := .none, inb := false }).stopFault
  | .hret, none =>
    modFocus s fun c => ((c.endTimed t).dropLeases t).modTh t fun x =>
      { x with st := .free, wait := .none, inh := false, tmd := false }
/-- TCTL.RESET undoes stream bindings as SCTL.UNBIND does: write streams drain first (R238, Table 03.12). -/
def Cell.drainsFirst (c : Cell) (t : TIdx) (f : Finish) : Bool :=
  f == .kill true && c.eng.strm.toList.any fun x => x.bound && x.own == t && x.isWrite && !x.buf.isEmpty && !x.err
/-- A lead that a KILL or RESET lets go on may fall past word 1023 (R46). -/
def State.leadOn (s : State) (f : Finish) : State :=
  match f, (s.cell.th 0).wait with
  | .kill _, .finish g => if (s.cell.th 0).outs.isEmpty then s.finish 0 g else s
  | _, _ => s
/-- Carry out what a thread waits to do, once nothing of it is outstanding. -/
def State.settle (s : State) (t : TIdx) : State :=
  match (s.cell.th t).wait with
  | .finish f => if (s.cell.th t).outs.isEmpty && !s.cell.drainsFirst t f then (s.finish t f).leadOn f else s
  | .marker => if (s.cell.th t).outs.isEmpty then s.modTh t fun x => { x with st := .running, wait := .none } else s
  | _ => s
/-- Settle each of some threads. -/
def State.settleAll (s : State) (l : List TIdx) : State := l.foldl State.settle s
/-- A write to the scratchpad of the cell in hand, and what the sleepers it wakes go on to (R209, R223); it wakes a Drowsy cell
(R350). -/
def State.padStore (s : State) (a n v : Nat) : State :=
  (modFocus s fun c => (c.store a n v).awake).settleAll s.cell.sleepers
/-- A thread faults (R367): it stops, waits for its outstanding results, and takes the exception. -/
def State.fault (s : State) (t : TIdx) (r : FaultRec) : State := (s.modTh t (·.finishing (.fault r))).settle t
/-- A thread ends its work so, once its outstanding results are written. -/
def State.endWith (s : State) (t : TIdx) (f : Finish) : State := (s.modTh t (·.finishing f)).settle t
/-- An instruction of a thread falls through (R46, R66, R71, R93). -/
def State.fall (s : State) (t : TIdx) (len : Nat) (w : Bool) : State := (s.modTh t (·.fall len w)).settle t

/-! ### Coming back from an exception (R369, R371) -/

/-- The words of a thread's block hold an address (R368). -/
def Thread.blockHolds (x : Thread) (a : Nat) : Bool := decide (x.blkAt.toNat ≤ a ∧ a ≤ x.blkAt.toNat + x.blkLen.toNat)
/-- TCTL.RESUME of a faulted thread: VALID clears and it runs at its FPC, inside its block or handler (R368, R369). With END set its
block ends, or past word 1023 it raises ILLEGAL there (R371); a block all of whose instructions have issued ends too (assumption
84). -/
def State.resume (s : State) (t : TIdx) : State :=
  let x := s.cell.th t
  let y : Thread := { x with fcause := insBits x.fcause 15 1 0, pc := x.fpc }
  if x.inb && (x.fcause.getLsbD 16 || !x.blockHolds x.fpc.toNat) then (s.modTh t fun _ => y).endWith t .blockEnd
  else if x.fcause.getLsbD 16 then (s.modTh t fun _ => y).fault t (faultAt 0x01 1023 0)
  else s.modTh t fun _ => { y with st := .running, wait := .none }

end Sys2Proof.Machine
end

