-- ==== Sys2Proof/Machine/Flags.lean ====
section
/-! DEFINITION. The conditions and predicates of the cell: it has no flags (R110), and every condition ends in a
predicate register (R47, R118–R122). -/

namespace Sys2Proof.Machine

/-- CMP's condition on two scalars (Table 04.8). -/
def cmpCond (cond : BitVec 3) (a b : W64) : Bool :=
  match cond.toNat with
  | 0 => a == b
  | 1 => a != b
  | 2 => a.slt b
  | 3 => a.sle b
  | 4 => a.ult b
  | 5 => a.ule b
  | 6 => b.slt a
  | _ => b.sle a

/-- A NaN of FP32 (R130). -/
def isNaN32 (v : W32) : Bool := v.extractLsb' 23 8 == 0xFF && v.extractLsb' 0 23 != 0
/-- The order of finite and infinite FP32 values, both zeros equal: sign and magnitude as one integer (R119). -/
def ord32 (v : W32) : Int := if v.getLsbD 31 then -((v.extractLsb' 0 31).toNat : Int) else ((v.extractLsb' 0 31).toNat : Int)
/-- FCMP's condition (Table 04.9). -/
def fcmpCond (cond : BitVec 3) (a b : W32) : Bool :=
  if isNaN32 a || isNaN32 b then cond == 1 || cond == 6
  else
    match cond.toNat with
    | 0 => ord32 a == ord32 b
    | 1 => ord32 a != ord32 b
    | 2 => decide (ord32 a < ord32 b)
    | 3 => decide (ord32 a ≤ ord32 b)
    | 4 => decide (ord32 b < ord32 a)
    | 5 => decide (ord32 b ≤ ord32 a)
    | 6 => false
    | _ => true

/-- PLOG's operation (R121). -/
def plogOp (x : BitVec 2) (u v : Bool) : Bool :=
  match x.toNat with
  | 0 => u && v
  | 1 => u || v
  | 2 => u != v
  | _ => u && !v

/-- All eight predicates as PRD reads them: p0 reads true (R123). -/
def Thread.preds (x : Thread) : BitVec 8 := x.p.extractLsb' 1 7 ++ 1#1
/-- Write p1 … p7 from bits 1 to 7 (R122). -/
def Thread.setPreds (x : Thread) (v : BitVec 8) : Thread := { x with p := v.extractLsb' 1 7 ++ 0#1 }

end Sys2Proof.Machine
end

