-- ==== Sys2Proof/Machine/Operands.lean ====
section
/-! DEFINITION. How an instruction issues: the checks of its encoding and context (R48, R50, R52, R60), its guard (R47),
what its body asks for, and what follows (R46, R51, R66, R93). Every operand form of layouts S, I, C and L. -/

namespace Sys2Proof.Machine

/-- The answer of every meaning. -/
abbrev Answer := Host.Outcome State Fault Refusal

/-- What the body of an instruction asks for, once its guard has passed. -/
inductive Ctl where
  /-- It has its effect and falls through. -/
  | done (s : State)
  /-- It transfers control. -/
  | goto (pc : BitVec 10) (s : State)
  /-- It continues at the word after this one, as if a body ending there had run (R93). -/
  | skip (last : Nat) (s : State)
  /-- It has issued and its thread waits at it. -/
  | hold (st : TState) (w : Wait) (s : State)
  /-- It cannot issue yet (R62). -/
  | need (n : Need)
  /-- Its thread ends its work (R71, R94, R95). -/
  | ends (f : Finish) (s : State)
  /-- It raises a precise fault (R365). -/
  | fault (cause : BitVec 8) (addr : W64)
  /-- It raises TRAP or BRK, with a record of its own (R371). -/
  | trap (r : FaultRec)

/-- The ILLEGAL fault of the instruction at the thread's pc (R46, R50). -/
def State.illegal (s : State) : State := s.fault s.cell.last (faultAt 0x01 s.me.pc 0)
/-- The prefix is consumed, whether or not the guard passes (R51). -/
def State.usePfx (s : State) : State := s.modMe fun x => { x with pp := false }

/-- Carry out what a body asked for. A thread whose instruction needs something parks and keeps its prefix; it issues
when the need is met (R62). -/
def State.after (s : State) (h : Hdr) (len : Nat) (c : Ctl) : State :=
  let t := s.cell.last
  match c with
  | .done s' => s'.usePfx.fall t len h.w
  | .goto pc s' => (s'.usePfx.modMe fun x => (x.jump pc).marker h.w)
  | .skip last s' =>
    (s'.usePfx.modMe fun x =>
      match x.next last with
      | .at_ pc l0 l1 => ({ x with pc := pc, lp0 := l0, lp1 := l1 } : Thread).marker h.w
      | _ => x.finishing (.fault (faultAt 0x01 x.pc 0))).settle t
  | .hold st w s' => s'.usePfx.modMe fun x => { x with st := st, wait := w, wmark := h.w }
  | .need n => s.modMe fun x => { x with st := .parked, wait := .need n }
  | .ends f s' => s'.usePfx.endWith t f
  | .fault cause addr => s.fault t (faultAt cause s.me.pc addr)
  | .trap r => s.fault t r

/-- The issue of an instruction of `len` words: `ill` are its ILLEGAL faults that hold whether or not the guard passes
(R50, R60), `pfx` says whether it accepts a prefix (R52), `body` is its effect when the guard passes. -/
def runInstr (h : Hdr) (len : Nat) (pfx : Bool) (ill : State → Bool) (body : State → Ctl) (s : State) : State :=
  if ill s || (s.me.pp && !pfx) then s.illegal
  else if s.me.guard h then s.after h len (body s)
  else s.usePfx.fall s.cell.last len h.w

/-- As a meaning. -/
def issue (h : Hdr) (len : Nat) (pfx : Bool) (ill : State → Bool) (body : State → Ctl) (s : State) : Answer :=
  .next (runInstr h len pfx ill body s)

/-- An instruction that is not eligible while something that it needs is taken, whatever its guard and its faults: its thread parks
(R62). -/
def eligible (lacks : State → Option Need) (run : State → Answer) (s : State) : Answer :=
  match lacks s with
  | some n => .next (s.modMe fun x => { x with st := .parked, wait := .need n })
  | none => run s

/-! ### Operand checks -/

/-- Destinations and sources that a specifier may name (R48). -/
def okSpecs (dsts srcs : List Spec) : Bool := dsts.all dstOk && srcs.all srcOk
/-- Some of these specifiers is a bound stream register of the issuing thread. -/
def State.anyBound (s : State) (l : List Spec) : Bool := l.any fun a => (s.cell.bound s.cell.last a).isSome
/-- A body that a bound stream register named among these turns into ILLEGAL: unit state, so that it is raised only when the guard passes
(R50). -/
def unbound (l : List Spec) (body : State → Ctl) (s : State) : Ctl := if s.anyBound l then .fault 0x01 0 else body s
/-- A body that a timed handler may not run: TIMED_ILLEGAL comes before ILLEGAL (R224, R264, R304). -/
def untimed (body : State → Ctl) (s : State) : Ctl := if s.me.tmd then .fault 0x06 0 else body s
/-- Layout I's second operand, read after the first (Table 02.6, R101). -/
def State.opB (s : State) (a : Spec) (b : BitVec 6) (x : BitVec 2) : W64 :=
  if x = 0 then s.src0Next [a] b else if x = 1 then zx64 b else sx64 b
/-- The registers that layout I reads. -/
def srcsI (a b : BitVec 6) (x : BitVec 2) : List Spec := if x = 0 then [a, b] else [a]

/-! ### Bodies of one shape -/

/-- A short-latency result that enters the last-result file (R105): ready streams, value, pops, write. -/
def produces (srcs : List Spec) (d : Spec) (f : State → Res) (s : State) : Ctl :=
  match s.streamNeed srcs [d] with
  | some n => .need n
  | none => .done ((s.popAll srcs).produce d (f s))
/-- A short-latency result that does not (SYSRD, JOINM and the like, R105). -/
def putsOnly (srcs : List Spec) (d : Spec) (f : State → Res) (s : State) : Ctl :=
  match s.streamNeed srcs [d] with
  | some n => .need n
  | none => .done ((s.popAll srcs).putRes d (f s))
/-- A short-latency predicate result (R69, R120). -/
def putsPred (srcs : List Spec) (f : State → Thread → Thread) (s : State) : Ctl :=
  match s.streamNeed srcs [] with
  | some n => .need n
  | none => .done ((s.popAll srcs).modMe (f s))
/-- A long-latency result of `n` bits that comes from within the cell (R65): outstanding until its write-back. -/
def State.outstanding (s : State) (d : Spec) (n : Nat) (v : V256) (bad : Option W64) (kind : LongKind := .local_) : State :=
  s.modMe fun x => { x with outs := x.outs ++ [{ d := d, bits := n, val := v, ready := true, kind := kind, bad := bad }] }
/-- The cell's divider, while it is at work (R103). -/
def Cell.dividerNeed (c : Cell) : Option Need :=
  if tids.any fun t => (c.th t).outs.any fun o => o.kind == .divider then some .divider else none
/-- Room in the matrix queue, while it is full (R179). -/
def Cell.queueNeed (c : Cell) : Option Need := if 4 ≤ c.mx.queue.length then some .matrixRoom else none
/-- An outgoing exchange of a direction is outstanding (R203). -/
def Cell.torusBusy (c : Cell) (dir : BitVec 2) : Bool := c.mx.torOut[dir.toNat]'dir.isLt
/-- The outgoing exchange of a direction, while it is outstanding (R203). -/
def Cell.torusNeed (c : Cell) (dir : BitVec 2) : Option Need := if c.torusBusy dir then some (.torus dir) else none

end Sys2Proof.Machine
end

