-- ==== Sys2Proof/Machine/Buckets.lean ====
section
/-! DEFINITION. Trees, buckets and contributions as a cell sees them (R284–R289, R304), and reads that an engine makes of
scratchpad (R194, R211). -/

namespace Sys2Proof.Machine

/-- The load structures in force for the cell in hand (R42). -/
def State.globals (s : State) : Globals := match part s s.cell.part.toNat with | some p => p.globals | none => {}
/-- A tag's bucket. -/
def Globals.bucket (g : Globals) (tag : Nat) : Option Bucket := KM.get g.bucks tag
/-- The nodes of a tree. -/
def Globals.tree (g : Globals) (t : Nat) : List TreeNode := (KM.get g.trees t).getD []
/-- A name's node of a tree. -/
def Globals.node (g : Globals) (t : Nat) (n : Name) : Option TreeNode := (g.tree t).find? fun x => x.name == n
/-- A root. -/
def TreeNode.isRoot (n : TreeNode) : Bool := n.lbl == 0 || n.lbl == 5
/-- The child with a label; one with XP is behind its panel link (R300). -/
def Globals.child (g : Globals) (t : Nat) (n : TreeNode) (l : Nat) : Option TreeNode :=
  (g.tree t).find? fun x => x.pname == n.name && x.lbl == l
/-- A cell is LOCAL in a bucket (R288). -/
def Globals.isLocal (g : Globals) (tag : Nat) (n : Name) : Bool :=
  match g.bucket tag with
  | none => false
  | some b => match g.node b.tree n with | some x => x.loc | none => false
/-- The tag of a reduction spec, or what is wrong with it for a contribution of `w` granules (R200, R304). -/
def State.specTag (s : State) (v : W64) (w : Nat) : Option Nat :=
  let t := (v.extractLsb' 0 12).toNat
  if v.extractLsb' 13 51 ≠ 0 ∨ t = 0 ∨ t = 4095 ∨ s.globals.isLocal t s.cell.name = false then none
  else match s.globals.bucket t with
    | some b => if b.width = w then some t else none
    | none => none
/-- EMPTY of a reduction spec. -/
def specEmpty (v : W64) : Bool := v.getLsbD 12
/-- A contribution enters the output buffer with the tag's epoch, which then goes up by one (R288, R304). -/
def Cell.contribute (c : Cell) (tag : Nat) (empty : Bool) (data : List V256) : Cell :=
  { c with red := { c.red with
      buf := some { tag := tag, epoch := Sp.get c.red.epochs tag, part := { empty := empty, data := if empty then [] else data } },
      epochs := Sp.set c.red.epochs tag (Sp.get c.red.epochs tag + 1) } }

/-! ### Engine reads -/

/-- An event of channel 61 with this cause, whose other fields the manual does not lay out for this reader (assumption 16). -/
def State.eccEvent (s : State) : State := (fresh s).further61 (insBits (Config.freeVal s.freeIx) 0 8 0x0A)
/-- What the matrix unit reads of `n` bytes: zero, with an event on channel 61, where a word is uncorrectable (R194). -/
def State.unitRead (s : State) (a n : Nat) : State × Nat :=
  let s' := modFocus s (·.touched a n)
  if (s.cell.badRead a n).isSome then (s'.eccEvent, 0) else (s', s.cell.bytes a n)

end Sys2Proof.Machine
end

