-- ==== Sys2Proof/Machine/Control.lean ====
section
/-! DEFINITION. The control and thread instructions (R90–R100) and TRAP and BRK (R371). -/

namespace Sys2Proof.Machine

/-- T0 issues (Table 03.2). -/
def State.isLead (s : State) : Bool := s.cell.last == 0
/-- A micro-thread in a block issues. -/
def State.inBlock (s : State) : Bool := s.cell.last != 0 && s.me.inb
/-- A micro-thread in a handler issues. -/
def State.inHandler (s : State) : Bool := s.cell.last != 0 && s.me.inh && !s.me.inb

/-- NOP (R90). -/
def execNop (h : Hdr) (s : State) : Answer := issue h 1 false (fun _ => false) .done s

/-- The address that a signed offset reaches from the instruction, if it is one (R91). -/
def State.target (s : State) (o : BitVec 18) : Option (BitVec 10) :=
  let t : Int := (s.me.pc.toNat : Int) + o.toInt
  if 0 ≤ t ∧ t ≤ 1023 then some (BitVec.ofNat 10 t.toNat) else none
/-- The return address in lane 0 of g31; its other lanes are unchanged (R91, R92). -/
def State.linkReturn (s : State) : State :=
  s.modMe fun x => x.setReg 31 (setLane0 x.g[31] (zx64 x.pc + 1))
/-- BR (R91). -/
def execBr (h : Hdr) (o : BitVec 18) (s : State) : Answer :=
  issue h 1 false (fun s => s.inBlock || (s.target o).isNone) (fun s => .goto ((s.target o).getD 0) s) s
/-- CALL (R91). -/
def execCall (h : Hdr) (o : BitVec 18) (s : State) : Answer :=
  issue h 1 false (fun s => s.inBlock || (s.target o).isNone) (fun s => .goto ((s.target o).getD 0) s.linkReturn) s
/-- A jump to the address in A; one above 1023 is ILLEGAL, decided when the guard passes (R50, R92). -/
def jumpsTo (a : Spec) (link : State → State) (s : State) : Ctl :=
  match s.streamNeed [a] [] with
  | some n => .need n
  | none =>
    if 1023 < (s.src0 a).toNat then .fault 0x01 0
    else .goto ((s.src0 a).extractLsb' 0 10) (link (s.popAll [a]))
/-- JMP (R92). -/
def execJmp (h : Hdr) (a : Spec) (s : State) : Answer :=
  issue h 1 false (fun s => s.inBlock || !srcOk a) (jumpsTo a id) s
/-- CALLR (R92): the target is read before the link is written. -/
def execCallr (h : Hdr) (a : Spec) (s : State) : Answer :=
  issue h 1 false (fun s => s.inBlock || !srcOk a) (jumpsTo a State.linkReturn) s
/-- RET (R92). -/
def execRet (h : Hdr) (a : Spec) (s : State) : Answer :=
  issue h 1 false (fun s => s.inBlock || !srcOk a) (fun s => jumpsTo a id s) s

/-- The last word of the body of a LOOP at the thread's pc (R93). -/
def State.loopEnd (s : State) (len : BitVec 6) : Nat := s.me.pc.toNat + len.toNat
/-- LOOP.OUT and LOOP.IN (R93). -/
def execLoop (h : Hdr) (a : Spec) (len : BitVec 6) (x : BitVec 1) (s : State) : Answer :=
  issue h 1 false
    (fun s => s.inBlock || !srcOk a || len == 0 || decide (1023 < s.loopEnd len) ||
      (x == 1 && s.me.lp0.active && decide (s.me.lp0.stop.toNat < s.loopEnd len)))
    (fun s => match s.streamNeed [a] [] with
      | some n => .need n
      | none =>
        let n := (s.src0 a).extractLsb' 0 32
        let l : Loop := { active := true, start := s.me.pc + 1, stop := BitVec.ofNat 10 (s.loopEnd len), count := n }
        let off : Loop → Loop := fun l => { l with active := false }
        let s := s.popAll [a]
        if n = 0 then
          .skip (s.loopEnd len) (s.modMe fun t => if x = 0 then { t with lp0 := off t.lp0, lp1 := off t.lp1 } else { t with lp1 := off t.lp1 })
        else .done (s.modMe fun t => if x = 0 then { t with lp0 := l, lp1 := off t.lp1 } else { t with lp1 := l })) s

/-- STOP (R94). -/
def execStop (h : Hdr) (s : State) : Answer := issue h 1 false (fun s => s.inHandler) (.ends .stop) s
/-- HRET (R95). -/
def execHret (h : Hdr) (s : State) : Answer := issue h 1 false (fun s => !s.inHandler) (.ends .hret) s
/-- YIELD (R96). -/
def execYield (h : Hdr) (s : State) : Answer :=
  issue h 1 false (fun _ => false) (fun s => .done (s.modMe fun x => { x with yielded := true })) s

/-- The micro-threads of a mask whose bit 0 is T1. -/
def maskThreads (m : BitVec 7) : List TIdx := micro.filter (inMask m)
/-- BCAST (R97): T0 parks, its targets reserved, until the delivery. -/
def execBcast (h : Hdr) (mask : BitVec 7) (len : BitVec 3) (off : BitVec 8) (s : State) : Answer :=
  issue h 1 false
    (fun s => !s.isLead || mask == 0 || off == 0 || decide (1023 < s.me.pc.toNat + off.toNat + len.toNat))
    (fun s =>
      if (maskThreads mask).any fun t => (s.cell.th t).st == .faulted then .fault 0x07 0
      else .hold .parked (.bcast mask (s.me.pc + off.setWidth 10) len) s) s
/-- The block of `len + 1` code words at an address (R70, R98). -/
def Thread.takeBlock (x : Thread) (code : Sparse 32) (b : BitVec 10) (len : BitVec 3) : Thread :=
  { x with blk := Vector.ofFn fun i => if i.val ≤ len.toNat then Sp.get code (b.toNat + i.val) else x.blk[i],
           blkAt := b, blkLen := len, fetched := true }
/-- FETCHB (R98). -/
def execFetchb (h : Hdr) (a : Spec) (s : State) : Answer :=
  issue h 1 false (fun s => !s.inBlock || !srcOk a || s.me.pc.toNat != s.me.blkAt.toNat + s.me.blkLen.toNat)
    (fun s => match s.streamNeed [a] [] with
      | some n => .need n
      | none =>
        let b := (s.src0 a).extractLsb' 0 10
        let len := (s.src0 a).extractLsb' 10 3
        if 1023 < b.toNat + len.toNat then .fault 0x01 0
        else .goto b ((s.popAll [a]).modMe (·.takeBlock s.cell.plane.active.code b len))) s

/-- Every thread of a mask is free, stopped or faulted (R99). -/
def Cell.joined (c : Cell) (m : BitVec 7) : Bool :=
  (maskThreads m).all fun t => (c.th t).st == .free || (c.th t).st == .stopped || (c.th t).st == .faulted
/-- The faulted threads of a mask, as a mask (R99). -/
def Cell.faultedMask (c : Cell) (m : BitVec 7) : Nat :=
  (maskThreads m).foldl (fun a t => if (c.th t).st = .faulted then a + 2 ^ (t.val - 1) else a) 0
/-- The join: the faulted mask to D, and with `free` every stopped thread of the mask is freed (R99). -/
def Cell.join (c : Cell) (m : BitVec 7) (d : Spec) (free : Bool) : Cell :=
  let c' := c.write 0 d (c.resVal 0 0 d (.low (BitVec.ofNat 64 (c.faultedMask m))))
  if free then (maskThreads m).foldl (fun c t => c.modTh t fun x => if x.st = .stopped then { x with st := .free } else x) c'
  else c'
/-- JOINM and JOINM.F: at once when the condition holds, else T0 parks (R99). -/
def joins (h : Hdr) (d a : Spec) (free : Bool) (s : State) : Answer :=
  issue h 1 false (fun s => !s.isLead || !okSpecs [d] [a])
    (fun s => match s.streamNeed [a] [d] with
      | some n => .need n
      | none =>
        let m := (s.src0 a).extractLsb' 0 7
        if s.cell.joined m then .done (modFocus (s.popAll [a]) (·.join m d free))
        else .hold .parked (.joinm m d free) (s.popAll [a])) s
/-- JOINM (R99). -/
def execJoinm (h : Hdr) (d a : Spec) (s : State) : Answer := joins h d a false s
/-- JOINM.F (R99). -/
def execJoinmF (h : Hdr) (d a : Spec) (s : State) : Answer := joins h d a true s

/-- The lead's operation on the thread in spec(A)[2:0]; T0 is ILLEGAL when the guard passes (R100). -/
def controls (h : Hdr) (a : Spec) (f : TIdx → State → Ctl) (s : State) : Answer :=
  issue h 1 false (fun s => !s.isLead || !srcOk a)
    (fun s => match s.streamNeed [a] [] with
      | some n => .need n
      | none =>
        let t : TIdx := ⟨(s.src0 a).toNat % 8, Nat.mod_lt _ (by decide)⟩
        if t = 0 then .fault 0x01 0 else f t (s.popAll [a])) s
/-- A held timed fault is unaffected by TCTL (R369). -/
def Cell.heldFault (c : Cell) (t : TIdx) : Bool :=
  match c.tim.run with | some r => r.t == t && r.held | none => false
/-- TCTL.RESUME (R100, R369). -/
def execTctlResume (h : Hdr) (a : Spec) (s : State) : Answer :=
  controls h a (fun t s => .done (if (s.cell.th t).st = .faulted ∧ s.cell.heldFault t = false then s.resume t else s)) s
/-- A lease request of a thread, in the matrix queue or in the lease list. -/
def MEntry.isLeaseOf (e : MEntry) (t : TIdx) : Bool := e.t == t && (match e.op with | .lease .. => true | _ => false)
/-- A lease request of a killed thread is withdrawn, and its outstanding mark with it. -/
def Cell.withdraw (c : Cell) (t : TIdx) : Cell :=
  let ids := (c.mx.leaseQ.filter (·.t == t)).map (·.id) ++ (c.mx.queue.filter (·.isLeaseOf t)).map (·.id)
  { c with mx := { c.mx with leaseQ := c.mx.leaseQ.filter (·.t != t), queue := c.mx.queue.filter fun e => !e.isLeaseOf t } }.modTh t fun x =>
    { x with outs := x.outs.filter fun o => match o.kind with | .matrix i => !ids.contains i | _ => true }
/-- A deposit in progress is ordered before a TCTL of the same thread (R100). -/
def Thread.deposited (x : Thread) : Thread :=
  match x.wait with
  | .deposit p pc prio timed len => x.deposit p pc prio timed len
  | _ => x
/-- KILL and RESET (Table 03.12): the thread stops, T0 parks until its results are written, and it becomes free. -/
def kills (clear : Bool) (t : TIdx) (s : State) : Ctl :=
  if s.cell.heldFault t then .done s
  else if (s.cell.th t).st = .free ∧ clear = false then .done s
  else
    let s := modFocus s fun c => ((c.modTh t Thread.deposited).withdraw t).modTh t (·.finishing (.kill clear))
    if (s.cell.th t).outs.isEmpty && !s.cell.drainsFirst t (.kill clear) then .done (s.finish t (.kill clear))
    else .hold .parked (.kill t) s
/-- TCTL.KILL (R100). -/
def execTctlKill (h : Hdr) (a : Spec) (s : State) : Answer := controls h a (kills false) s
/-- TCTL.RESET (R100). -/
def execTctlReset (h : Hdr) (a : Spec) (s : State) : Answer := controls h a (kills true) s

/-- TRAP's word has no next word: the last of its block, or word 1023 outside one (R371). -/
def State.noNextWord (s : State) : Bool :=
  if s.me.inb then s.me.pc.toNat == s.me.blkAt.toNat + s.me.blkLen.toNat else s.me.pc == 1023
/-- TRAP (R371, Table 16.3). -/
def execTrap (h : Hdr) (a : Spec) (code : BitVec 6) (s : State) : Answer :=
  issue h 1 false (fun _ => !srcOk a)
    (unbound [a] fun s =>
      let at_ := if s.noNextWord then s.me.pc else s.me.pc + 1
      .trap { cause := 0x08, info := code, endd := s.noNextWord, fpc := at_, faddr := s.src0 a }) s
/-- BRK (R371, Table 16.3). -/
def execBrk (h : Hdr) (a : Spec) (code : BitVec 6) (s : State) : Answer :=
  issue h 1 false (fun _ => !srcOk a)
    (unbound [a] fun s => .trap { cause := 0x09, info := code, fpc := s.me.pc, faddr := s.src0 a }) s

end Sys2Proof.Machine
end

