-- ==== Sys2Proof/Machine/SysRegs.lean ====
section
/-! DEFINITION. The system registers (R106–R109) and SYSRD, SYSWR (R126, R127, R368). -/

namespace Sys2Proof.Machine

/-- Fields laid side by side: (lowest bit, value) pairs. -/
def fields (l : List (Nat × Nat)) : W64 := BitVec.ofNat 64 (l.foldl (fun a f => a + 2 ^ f.1 * f.2) 0)

/-- A number that some table defines (Table 04.3 and the owning chapters). -/
def sysDefined (n : BitVec 12) : Bool :=
  let k := n.toNat
  decide (k < 8 ∨ (0x10 ≤ k ∧ k ≤ 0x1C) ∨ (0x20 ≤ k ∧ k ≤ 0x28) ∨ (0x30 ≤ k ∧ k ≤ 0x36) ∨ (0x40 ≤ k ∧ k ≤ 0x44) ∨
    k = 0x50 ∨ (0x60 ≤ k ∧ k ≤ 0x62) ∨ (0x70 ≤ k ∧ k ≤ 0x74) ∨ (0x80 ≤ k ∧ k ≤ 0x88))
/-- Registers with a field that a SYSWR writes; no register has a W1C or WO field. -/
def sysWritable (n : BitVec 12) : Bool :=
  [0x004, 0x006, 0x007, 0x01C, 0x024, 0x025, 0x026, 0x027, 0x028, 0x033, 0x034, 0x036, 0x041, 0x043, 0x044, 0x070, 0x071,
    0x073, 0x088].contains n.toNat
/-- A SYSWR that raises PRIV (R40, R107). -/
def sysWritePriv (n : BitVec 12) : Bool :=
  decide (0x50 ≤ n.toNat ∧ n.toNat ≤ 0x5F) || (sysDefined n && !sysWritable n)

/-! ### Rings of the torus (R201) -/

/-- Columns of the members of a row ring, west to east: the unfenced columns of the tile row that hold a name. -/
def ringCols (s : State) (p : Pos) : List Nat :=
  ((List.range 8).map (p.col / 8 * 8 + ·)).filter fun c => (unshiftCol (badCols s p.die p.row) c).isSome
/-- Rows of the members of a column ring, north to south. -/
def ringRows (s : State) (p : Pos) : List Nat :=
  ((List.range 8).map (p.row / 8 * 8 + ·)).filter fun r => (unshiftCol (badCols s p.die r) p.col).isSome
/-- HLEN of the cell in hand; a cell with no place is a ring of its own. -/
def State.hlen (s : State) : Nat :=
  match bootPos s s.cell.name.toNat with | some p => Nat.max 1 (ringCols s p).length | none => 1
/-- VLEN. -/
def State.vlen (s : State) : Nat :=
  match bootPos s s.cell.name.toNat with | some p => Nat.max 1 (ringRows s p).length | none => 1
/-- HPOS. -/
def State.hpos (s : State) : Nat :=
  match bootPos s s.cell.name.toNat with | some p => ((ringCols s p).filter (· < p.col)).length | none => 0
/-- VPOS. -/
def State.vpos (s : State) : Nat :=
  match bootPos s s.cell.name.toNat with | some p => ((ringRows s p).filter (· < p.row)).length | none => 0

/-! ### Power and position (R346, R354, R360, Table 15.6) -/

/-- The place of the cell in hand; the first place of the panel while it has none. -/
def State.place (s : State) : Pos := (curPos s s.cell.name.toNat).getD ⟨0, 0, 0⟩
/-- The tumbler of the cell in hand. -/
def State.myTumbler (s : State) : Tumbler := tumbler s s.place.die (tumOf s.place.row s.place.col)
/-- Duty in force, in 32nds: the lower of the tumbler's and the partition's (R360). -/
def State.dutyNow (s : State) : Nat :=
  Nat.min s.myTumbler.duty s.myTumbler.mask
/-- The sensor of the tile at a position of a tumbler (R357). -/
def Tumbler.sensor (x : Tumbler) (p : Nat) : BitVec 8 := if p = 0 then x.t0 else if p = 1 then x.t1 else if p = 2 then x.t2 else x.t3
/-- Key of an island (R346). -/
def islandKey (die : Nat) (east : Bool) : Nat := die * 2 + bit east
/-- The island of a place; one never touched is at 0.40 V in Run. -/
def islandAt (s : State) (p : Pos) : Island := (KM.get s.islands (islandKey p.die (decide (64 ≤ p.col)))).getD {}
/-- SPINE of the cell in hand, in force since the last round start (R347). -/
def State.spine (s : State) : Nat := bits (Sp.get s.cell.plane.live 5).toNat 0 3
/-- Frequency of a spine of a die, MHz. -/
def spineMhz (s : State) (die k : Nat) : Nat := (KM.get s.spines (die * 8 + k)).getD 1000
/-- Whether a tumbler of a die holds a cell with a defect record, or rotation is disabled there (R360). -/
def noRot (s : State) (die t : Nat) : Bool :=
  ((badCells s die).any fun c => tumOf (c / 128) (c % 128) == t) || s.failed.contains die ||
    (match partOfDie s die with | some p => (match part s p with | some x => !x.rotEn | none => false) | none => false)
/-- THR (Table 15.6). -/
def Throttle.code : Throttle → Nat | .none => 0 | .halfRow => 1 | .mask => 2
/-- THR (Table 15.6): the partition's throttle, or the clock mask where a duty of R358 or R360 is in force. -/
def State.thrCode (s : State) : Nat :=
  match part s s.cell.part.toNat with
  | some p => if p.thr = .none ∧ s.dutyNow < 32 then 2 else p.thr.code
  | none => if s.dutyNow < 32 then 2 else 0

/-! ### Reading -/

/-- Threads' values. -/
def State.threadReg (s : State) (n : Nat) : W64 :=
  let x := s.me
  let f := s.cell.th ⟨x.ftid.toNat, x.ftid.isLt⟩
  match n with
  | 0x002 => BitVec.ofNat 64 s.cell.last.val
  | 0x003 => fields [(0, bit x.pp), (1, bit x.inh), (2, bit x.inb), (3, bit x.tmd), (4, x.lvl.toNat), (6, bit x.lp0.active),
      (7, bit x.lp1.active)]
  | 0x004 => zx64 x.fmt
  | 0x006 => zx64 x.link
  | 0x007 => x.rseed
  | 0x020 => x.hsrc
  | 0x021 => x.hchan
  | 0x022 => x.hvrt
  | 0x023 => x.hreply
  | 0x028 => zx64 x.sseq
  | 0x040 => zx64 f.fcause
  | 0x041 => zx64 f.fpc
  | 0x042 => f.faddr
  | 0x043 => zx64 x.ftid
  | _ => zx64 x.mshape
/-- A watermark channel's register (Table 08.5). -/
def Watermark.word (w : Watermark) : W64 :=
  fields [(0, w.base.toNat), (16, w.end_.toNat), (32, w.mark.toNat), (48, bit w.open_), (49, bit w.done)]
/-- A stream engine's register (Table 09.8). -/
def Stream.word (x : Stream) : W64 :=
  fields [(0, x.own.val), (3, bit x.bound), (4, if x.bound then x.kind else 0), (8, x.pos.toNat), (40, bit x.exh),
    (41, bit x.ovr), (42, bit x.err), (43, Nat.min 4 x.buf.length)]
/-- sys.PLANE (Table 02.3a). -/
def Plane.word (p : Plane) : W64 :=
  let b := p.active
  fields [(0, b.hdr0.toNat % 2 ^ 15), (15, bit p.act), (16, match p.idle with | .empty => 0 | .loading => 1 | .ready => 2),
    (18, bit p.cstage), (32, b.hdr1.toNat % 2 ^ 16), (48, p.round.toNat)]
/-- sys.MLSTAT (Table 07.3). -/
def Cell.mlstat (c : Cell) : W64 :=
  fields ([0, 1, 2, 3].map (fun i : Fin 4 => (4 * i.val, match c.mx.owner[i] with | some t => t.val + 8 | none => 0)) ++
    tids.map fun t => (16 + t.val, bit (match (c.th t).wait with | .lease .. => true | _ => false)))
/-- sys.LSn (Table 11.4). -/
def Cell.lsWord (c : Cell) (n : Fin 8) : W64 :=
  let l := c.land[n]
  fields [(0, (Sp.get c.plane.live (16 + n.val)).toNat % 2 ^ 24), (24, bit l.armed), (25, bit l.held), (32, l.lands.toNat),
    (48, l.rels.toNat)]
/-- Entries of the timed queue in a state (Table 14.1). -/
def Timed.count (t : Timed) (done : Bool) : Nat := (t.tq.filter fun e => e.done == done).length
/-- JBASE's byte offset (Table 14.2). -/
def Cell.jBase (c : Cell) : Nat := 16 * bits (Sp.get c.plane.live 3).toNat 0 11
/-- JLEN. -/
def Cell.jLen (c : Cell) : Nat := bits (Sp.get c.plane.live 3).toNat 11 11
/-- The cell's values. -/
def State.cellReg (s : State) (n : Nat) : W64 :=
  let c := s.cell
  match n with
  | 0x000 => fields [(0, c.name.toNat), (20, c.part.toNat), (32, c.mapgen.toNat)]
  | 0x001 => BitVec.ofNat 64 (cellId s.place)
  | 0x005 => cycleOf s c.name.toNat
  | 0x01C => fields [(0, (c.eng.ents.toList.filter Option.isSome).length), (5, Nat.min 2 c.eng.sigs.length), (7, (c.eng.recs.toList.filter Option.isSome).length),
      (16, c.eng.errs.toNat)]
  | 0x024 => zx64 c.msg.clmask
  | 0x025 => fields [(0, c.inbox.occ.toNat), (8, c.inbox.head.toNat), (16, c.inbox.hwm.toNat), (24, c.inbox.ibuf.length)]
  | 0x026 => fields [(0, c.inbox.refused.toNat), (16, c.inbox.nohdl.toNat), (32, c.inbox.spilled.toNat)]
  | 0x027 => fields [(0, Nat.min 8 c.msg.egress.length), (4, c.msg.busy.length), (16, c.msg.merr.toNat)]
  | 0x030 => zx64 c.tim.lvt
  | 0x031 => fields [(0, c.tim.gvt.toNat), (48, c.tim.gepoch.toNat)]
  | 0x032 => BitVec.ofNat 64 c.jBase
  | 0x033 => fields [(0, c.jLen), (16, c.tim.jused), (32, c.tim.jhwm.toNat)]
  | 0x034 => c.tim.jpages
  | 0x035 => fields ((match c.tim.run with
      | some r => [(0, 1), (1, r.t.val), (4, bit r.unj), (5, bit r.held)]
      | none => []) ++ [(6, bit c.tim.rbk.isSome), (7, bit c.tim.col), (16, c.tim.count false), (32, c.tim.count true)])
  | 0x036 => fields [(0, c.tim.rolls.toNat), (16, c.tim.antis.toNat), (32, c.tim.annih.toNat), (48, c.tim.orph.toNat)]
  | 0x044 => fields [(0, c.flt.toNat), (16, c.lost61.toNat)]
  | 0x050 => c.plane.word
  | 0x060 => fields [(0, s.thrCode), (2, s.dutyNow - 1),
      (7, match part s c.part.toNat with | some p => bit p.metered | none => 0),
      (8, (s.myTumbler.sensor (tilePos s.place.row s.place.col)).toNat), (16, (islandAt s s.place).volt.toNat),
      (24, bit (decide (64 ≤ s.place.col)))]
  | 0x061 => fields [(0, s.spine), (8, spineMhz s s.place.die s.spine)]
  | 0x062 => fields [(0, tumOf s.place.row s.place.col), (6, tilePos s.place.row s.place.col), (8, s.myTumbler.rot.toNat),
      (10, bit (noRot s s.place.die (tumOf s.place.row s.place.col))), (16, s.myTumbler.rcnt.toNat), (32, s.myTumbler.abort.toNat)]
  | 0x071 => zx64 c.mx.mlcap
  | 0x072 => fields [(0, s.hpos), (3, s.hlen - 1), (6, s.vpos), (9, s.vlen - 1)]
  | 0x073 => fields [(0, c.mx.hstep.toNat), (8, c.mx.vstep.toNat)]
  | 0x074 => c.mlstat
  | 0x088 => fields [(0, bit c.red.buf.isSome), (1, match c.red.buf with | some b => b.tag | none => 0), (13, c.red.slots.length),
      (32, c.red.drop.toNat), (48, c.red.tout.toNat)]
  | _ => 0
/-- The value of a system register as the issuing thread reads it (R107, R108, Table 04.3). -/
def State.sysReg (s : State) (n : BitVec 12) : W64 :=
  let k := n.toNat
  if h : 0x10 ≤ k ∧ k < 0x18 then (s.cell.eng.wm[k - 0x10]'(by omega)).word
  else if h : 0x18 ≤ k ∧ k < 0x1C then (s.cell.eng.strm[k - 0x18]'(by omega)).word
  else if h : 0x80 ≤ k ∧ k < 0x88 then s.cell.lsWord ⟨k - 0x80, by omega⟩
  else if [0x002, 0x003, 0x004, 0x006, 0x007, 0x020, 0x021, 0x022, 0x023, 0x028, 0x040, 0x041, 0x042, 0x043, 0x070].contains k
  then s.threadReg k
  else s.cellReg k

/-! ### Writing -/

/-- Bits of a written value as a register's field. -/
def fieldOf (v : W64) (lo w : Nat) : BitVec w := v.extractLsb' lo w
/-- A per-thread register takes a value: its RW fields, the others unchanged. -/
def Thread.sysWrite (x : Thread) (n : Nat) (v : W64) : Thread :=
  match n with
  | 0x004 => { x with fmt := fieldOf v 0 16 }
  | 0x006 => { x with link := fieldOf v 0 32 }
  | 0x007 => { x with rseed := v }
  | 0x028 => { x with sseq := fieldOf v 0 16 }
  | 0x043 => { x with ftid := fieldOf v 0 3 }
  | 0x070 => { x with mshape := fieldOf v 0 21 }
  | _ => x
/-- A per-cell register takes a value; sys.MSTEP's fields are reduced modulo their ring lengths (R202). -/
def Cell.sysWrite (c : Cell) (hlen vlen n : Nat) (v : W64) : Cell :=
  match n with
  | 0x01C => { c with eng := { c.eng with errs := fieldOf v 16 16 } }
  | 0x024 => { c with msg := { c.msg with clmask := fieldOf v 4 12 ++ 0#4 } }
  | 0x025 => { c with inbox := { c.inbox with hwm := fieldOf v 16 8 } }
  | 0x026 => { c with inbox := { c.inbox with refused := fieldOf v 0 16, nohdl := fieldOf v 16 16, spilled := fieldOf v 32 16 } }
  | 0x027 => { c with msg := { c.msg with merr := fieldOf v 16 16 } }
  | 0x033 => { c with tim := { c.tim with jhwm := fieldOf v 32 11 } }
  | 0x034 => { c with tim := { c.tim with jpages := v } }
  | 0x036 => { c with tim := { c.tim with rolls := fieldOf v 0 16, antis := fieldOf v 16 16, annih := fieldOf v 32 16,
                                          orph := fieldOf v 48 16 } }
  | 0x044 => { c with flt := fieldOf v 0 16, lost61 := fieldOf v 16 16 }
  | 0x071 => { c with mx := { c.mx with mlcap := fieldOf v 0 24 } }
  | 0x073 => { c with mx := { c.mx with hstep := BitVec.ofNat 8 ((fieldOf v 0 8).toNat % hlen),
                                        vstep := BitVec.ofNat 8 ((fieldOf v 8 8).toNat % vlen) } }
  | 0x088 => { c with red := { c.red with drop := fieldOf v 32 16, tout := fieldOf v 48 16 } }
  | _ => c
/-- A system register other than FPC takes a value (R107, R127). -/
def State.sysWrite (s : State) (n : BitVec 12) (v : W64) : State :=
  modFocus (s.modMe (·.sysWrite n.toNat v)) (·.sysWrite s.hlen s.vlen n.toNat v)

/-! ### The instructions -/

/-- SYSRD (R126). -/
def execSysrd (h : Hdr) (d : Spec) (n : BitVec 12) (s : State) : Answer :=
  issue h 1 false (fun _ => !dstOk d || !sysDefined n) (putsOnly [] d fun s => .low (s.sysReg n)) s
/-- SYSWR (R127). PRIV comes from the encoding alone, whether or not the guard passes; ILLEGAL before it (R107). -/
def execSyswr (h : Hdr) (d : Spec) (n : BitVec 12) (s : State) : Answer :=
  let ill := !dstOk d || (!sysDefined n && !sysWritePriv n)
  if !ill && !s.me.pp && sysWritePriv n then .next (s.fault s.cell.last (faultAt 0x04 s.me.pc 0))
  else
    issue h 1 false (fun _ => ill)
      (fun s => match s.streamNeed [d] [] with
        | some k => .need k
        | none => .done ((s.popAll [d]).sysWrite n (s.src0 d))) s

/-- The FPC of a thread takes a value; its PP and END clear. Nothing changes unless it is faulted, and the value lies in
its block if it faulted in one (R368). -/
def Thread.writeFpc (x : Thread) (a : BitVec 10) : Thread :=
  if x.st = .faulted ∧ (x.inb = false ∨ x.blockHolds a.toNat = true) then
    { x with fpc := a, pp := false, fcause := insBits x.fcause 16 1 0 }
  else x
/-- A SYSWR to sys.FPC (R368): PRIV, when the guard passes, for a micro-thread that selects another thread. -/
def execFpcWrite (h : Hdr) (d : Spec) (s : State) : Answer :=
  issue h 1 false (fun _ => !dstOk d)
    (fun s => match s.streamNeed [d] [] with
      | some k => .need k
      | none =>
        let sel : TIdx := ⟨s.me.ftid.toNat, s.me.ftid.isLt⟩
        if s.cell.last ≠ 0 ∧ sel ≠ s.cell.last then .fault 0x04 0
        else .done ((s.popAll [d]).modTh sel (·.writeFpc (fieldOf (s.src0 d) 0 10)))) s

end Sys2Proof.Machine
end

