-- ==== Sys2Proof/Machine/Journal.lean ====
section
/-! DEFINITION. The journal of timed mode (R329–R331): which thread is journaled, which bytes lie in a journal page, and
appending entries to the ring. -/

namespace Sys2Proof.Machine

/-- A thread that runs a timed handler (R323, R328). -/
def Cell.timedThread (c : Cell) (t : TIdx) : Bool := match c.tim.run with | some r => r.t == t | none => false
/-- A thread that runs a journaled handler (R323, R331). -/
def Cell.journaled (c : Cell) (t : TIdx) : Bool := match c.tim.run with | some r => r.t == t && !r.unj | none => false
/-- VRT of the running timed handler. -/
def Cell.runVrt (c : Cell) : BitVec 48 := match c.tim.run with | some r => r.vrt | none => 0
/-- A word that lies in a journal page (Table 14.1, JPAGES). -/
def Cell.journalPage (c : Cell) (w : Nat) : Bool := c.tim.jpages.getLsbD (w / 512)
/-- The words of a write that a journaled handler journals, in ascending order (R329). -/
def Cell.journalWords (c : Cell) (t : TIdx) (a n : Nat) : List Nat :=
  if c.journaled t then (wordsOf a n).filter c.journalPage else []
/-- Too few free entries (R331). -/
def Cell.journalShort (c : Cell) (k : Nat) : Bool := decide (c.jLen < c.tim.jused + k)
/-- Offset of journal entry `i` of the ring. -/
def Cell.jAt (c : Cell) (i : Nat) : Nat := c.jBase + 16 * (i % Nat.max 1 c.jLen)
/-- Word 0 of an entry (Table 14.3). -/
def jWord0 (kind low : Nat) (vrt : BitVec 48) : Nat := kind + 2 ^ 3 * low + 2 ^ 16 * vrt.toNat
/-- Append an entry at the tail (R330). -/
def State.jAppend (s : State) (w0 w1 : Nat) : State :=
  let t := s.cell.tim
  let s := s.padStore (s.cell.jAt (t.jhead + t.jused)) 16 (w0 % 2 ^ 64 + 2 ^ 64 * (w1 % 2 ^ 64))
  modFocus s fun c => { c with tim := { c.tim with jused := c.tim.jused + 1, jhwm := BitVec.ofNat 11 (Nat.max c.tim.jhwm.toNat (c.tim.jused + 1)) } }
/-- A write of a thread to its scratchpad at its point, each journal-page word of a journaled handler entered first with
its old value (R209, R329); that of a word with an uncorrectable error is its bytes as they stand, uncounted (R211; assumption 117). -/
def State.threadStore (s : State) (t : TIdx) (a n v : Nat) : State :=
  let s := (s.cell.journalWords t a n).foldl
    (fun s w => s.jAppend (jWord0 0 (w / 8) s.cell.runVrt) (s.cell.bytes w 8)) s
  s.padStore a n v

end Sys2Proof.Machine
end

