-- ==== Sys2Proof/Machine/Memory.lean ====
section
/-! DEFINITION. Loads, stores, AOP and WAITA (R211–R223). -/

namespace Sys2Proof.Machine

/-- Bytes that lie in the scratchpad window (Table 08.3). -/
def inPad (a n : Nat) : Bool := decide (a + n ≤ Config.padBytes)
/-- Bytes that lie in the system window. -/
def inSys (a n : Nat) : Bool := decide (Config.sysBase ≤ a ∧ a + n ≤ Config.sysBase + Config.sysBytes)
/-- The precise fault of an access of `n` bytes: WINDOW, ALIGN, PRIV in that order (R213, R214, R218). -/
def accessFault (write : Bool) (a n : Nat) : Option (BitVec 8) :=
  if !inPad a n && !inSys a n then some 0x03
  else if a % n ≠ 0 then some 0x02
  else if write && inSys a n then some 0x04
  else none
/-- An open channel keeps some of these bytes unreadable: one in its range, at or above its MARK (R217). -/
def Watermark.blocks (w : Watermark) (a n : Nat) : Bool :=
  w.open_ && decide (Nat.max a (Nat.max w.mark.toNat w.base.toNat) < Nat.min (a + n) w.end_.toNat)
/-- The watermark channels in order. -/
def wmChans : List (Fin 8) := [0, 1, 2, 3, 4, 5, 6, 7]
/-- Some byte lies above the MARK of an open channel other than these (R217, R277). -/
def Cell.unmarkedBut (c : Cell) (ex : List Nat) (a n : Nat) : Bool :=
  wmChans.any fun k => !ex.contains k.val && c.eng.wm[k].blocks a n
/-- Some byte lies in an open channel at or above its MARK (R217). -/
def Cell.unmarked (c : Cell) (a n : Nat) : Bool := c.unmarkedBut [] a n

/-- A byte of the system window (Table 08.4). -/
def Cell.sysByte (c : Cell) (o : Nat) : Nat :=
  if o < 0x400 then bits (Sp.get c.pad.cb (o / 4)).toNat (8 * (o % 4)) 8
  else if o < 0x420 then packNat 1 ((List.range 8).map fun i => (Sp.get c.pad.fp (8 * (o - 0x400) + i)).toNat)
  else bits (c.pad.corr.toNat + 2 ^ 16 * c.pad.uncorr.toNat + 2 ^ 32 * c.pad.last.toNat + 2 ^ 47 * bit c.pad.lv) (8 * (o - 0x420)) 8
/-- What a load of `n` bytes reads (R214). -/
def Cell.loadBytes (c : Cell) (a n : Nat) : Nat :=
  if inPad a n then c.bytes a n
  else packNat 8 ((List.range n).map fun i => c.sysByte (a - Config.sysBase + i))
/-- An uncorrectable word among the bytes of an access (R211). -/
def Cell.loadBad (c : Cell) (a n : Nat) : Bool := inPad a n && (c.badRead a n).isSome

/-! ### Loads -/

/-- The effect of a load once its guard has passed: the fault, the watermark, then the read, whose result of `w` bits is
written later (R217–R219). -/
def loadAt (d : Spec) (n w : Nat) (f : Nat → V256) (a : W64) (s : State) : Ctl :=
  match accessFault false a.toNat n with
  | some c => .fault c a
  | none =>
    if inPad a.toNat n && s.cell.unmarked a.toNat n then .need (.unmarked a.toNat n)
    else
      let v := f (s.cell.loadBytes a.toNat n)
      let bad := s.cell.loadBad a.toNat n
      let s := if inPad a.toNat n then modFocus s (·.touched a.toNat n) else s
      .done (s.outstanding d w v (if bad then some a else none))
/-- The zero-extended value, lane 0. -/
def zextTo (v : Nat) : V256 := BitVec.ofNat 256 v
/-- The sign-extended value of `n` bytes, lane 0. -/
def sextTo (n v : Nat) : V256 := ofLane0 (BitVec.ofInt 64 (sintOf (8 * n) v))
/-- Address of a short form (R219, R221). -/
def State.shortAddr (s : State) (a : Spec) (off : BitVec 6) (n : Nat) : W64 := s.src0 a + BitVec.ofNat 64 (off.toNat * n)
/-- Address of a long form (R220). -/
def State.longAddr (s : State) (a : Spec) (imm : W32) : W64 := s.src0 a + sx64 imm
/-- The operand checks of a load or store (R48, R218). -/
def memIll (d a : Spec) (bad : Bool) (s : State) : Bool := !okSpecs [d] [a] || bad || s.anyBound [d, a]
/-- Access size (Table 08.6). -/
def accessSize (x : BitVec 2) : Nat := 2 ^ x.toNat

/-- LD (R219). -/
def execLd (h : Hdr) (d a : Spec) (off : BitVec 6) (x : BitVec 2) (s : State) : Answer :=
  issue h 1 false (memIll d a false) (fun s => loadAt d (accessSize x) 64 zextTo (s.shortAddr a off (accessSize x)) s) s
/-- LDS (R219). -/
def execLds (h : Hdr) (d a : Spec) (off : BitVec 6) (x : BitVec 2) (s : State) : Answer :=
  issue h 1 false (memIll d a (x == 3))
    (fun s => loadAt d (accessSize x) 64 (sextTo (accessSize x)) (s.shortAddr a off (accessSize x)) s) s
/-- LD.L (R220). -/
def execLdL (h : Hdr) (d a : Spec) (sgn : BitVec 6) (x : BitVec 2) (imm : W32) (s : State) : Answer :=
  issue h 2 false (memIll d a (decide (1 < sgn.toNat) || (sgn == 1 && x == 3)))
    (fun s => loadAt d (accessSize x) 64 (if sgn = 1 then sextTo (accessSize x) else zextTo) (s.longAddr a imm) s) s
/-- LDV (R221). -/
def execLdv (h : Hdr) (d a : Spec) (off : BitVec 6) (s : State) : Answer :=
  issue h 1 false (memIll d a false) (fun s => loadAt d 32 256 zextTo (s.shortAddr a off 32) s) s
/-- LDV.BC (R221). -/
def execLdvBc (h : Hdr) (d a : Spec) (off : BitVec 6) (s : State) : Answer :=
  issue h 1 false (memIll d a false)
    (fun s => loadAt d 4 256 (fun v => pack 32 (List.replicate 8 v)) (s.shortAddr a off 4) s) s

/-! ### Stores -/

/-- The error of an access that finds an uncorrectable word, to raise at the next boundary; a first one stays (R367). -/
def Thread.defers (x : Thread) (a : W64) : Thread := { x with deferred := x.deferred.or (some a) }
/-- The effect of a store of the low `n` bytes of D, read after the base register `r` (R211, R217–R219, R221, R329, R331). -/
def storeAt (d r : Spec) (n : Nat) (a : W64) (s : State) : Ctl :=
  match accessFault true a.toNat n with
  | some c => .fault c a
  | none =>
    if s.cell.unmarked a.toNat n then .need (.unmarked a.toNat n)
    else if s.cell.journalShort (s.cell.journalWords s.cell.last a.toNat n).length then
      .need (.journal (s.cell.journalWords s.cell.last a.toNat n).length)
    else if n < 8 then
      let bad := s.cell.loadBad a.toNat n
      let s' := modFocus s (·.touched a.toNat n)
      if bad then .done (s'.modMe (·.defers a)) else .done (s'.threadStore s.cell.last a.toNat n (s.srcAfter [r] d).toNat)
    else .done (s.threadStore s.cell.last a.toNat n (s.srcAfter [r] d).toNat)
/-- ST (R219). -/
def execSt (h : Hdr) (d a : Spec) (off : BitVec 6) (x : BitVec 2) (s : State) : Answer :=
  issue h 1 false (memIll d a false) (fun s => storeAt d a (accessSize x) (s.shortAddr a off (accessSize x)) s) s
/-- ST.L (R220). -/
def execStL (h : Hdr) (d a : Spec) (x : BitVec 2) (imm : W32) (s : State) : Answer :=
  issue h 2 false (memIll d a false) (fun s => storeAt d a (accessSize x) (s.longAddr a imm) s) s
/-- STV (R221). -/
def execStv (h : Hdr) (d a : Spec) (off : BitVec 6) (s : State) : Answer :=
  issue h 1 false (memIll d a false) (fun s => storeAt d a 32 (s.shortAddr a off 32) s) s

/-! ### AOP -/

/-- The new word of an atomic operation; none for a CAS that fails (Table 08.8). -/
def aopNew (op : Nat) (w v c : W64) : Option W64 :=
  match op with
  | 0 => some (w + v)
  | 1 => some (w &&& v)
  | 2 => some (w ||| v)
  | 3 => some (w ^^^ v)
  | 4 => some (if v.slt w then v else w)
  | 5 => some (if w.slt v then v else w)
  | 6 => some (if v.ult w then v else w)
  | 7 => some (if w.ult v then v else w)
  | 8 => some v
  | _ => if w = c then some v else none
/-- AOP's effect; D is read after the base register `r` (R222, R329, R331). -/
def aopAt (d r : Spec) (op : Nat) (a : W64) (s : State) : Ctl :=
  match accessFault true a.toNat 8 with
  | some c => .fault c a
  | none =>
    if s.cell.unmarked a.toNat 8 then .need (.unmarked a.toNat 8)
    else if s.cell.journalShort (s.cell.journalWords s.cell.last a.toNat 8).length then
      .need (.journal (s.cell.journalWords s.cell.last a.toNat 8).length)
    else
      let w : W64 := BitVec.ofNat 64 (s.cell.bytes a.toNat 8)
      let bad := s.cell.loadBad a.toNat 8
      let s' := modFocus s (·.touched a.toNat 8)
      if bad then .done (s'.outstanding d 64 0 (some a))
      else
        match aopNew op w (lane0 (s.srcAfter [r] d)) (lane1 (s.srcAfter [r] d)) with
        | some v => .done ((s'.threadStore s.cell.last a.toNat 8 v.toNat).outstanding d 64 (ofLane0 w) none)
        | none => .done (s'.outstanding d 64 (ofLane0 w) none)
/-- AOP (R222). -/
def execAop (h : Hdr) (d a : Spec) (op : BitVec 6) (s : State) : Answer :=
  issue h 1 false (memIll d a (decide (9 < op.toNat))) (fun s => aopAt d a op.toNat (s.src0 a) s) s

/-! ### WAITA -/

/-- WAITA's effect (R223): at its point it goes on with the word, or sleeps; an uncorrectable word as a load. B is read after the base register `r`. -/
def waitAt (d b r : Spec) (x : BitVec 2) (a : W64) (s : State) : Ctl :=
  if s.me.tmd then .fault 0x06 a
  else if !inPad a.toNat 8 then .fault 0x03 a
  else if a.toNat % 8 ≠ 0 then .fault 0x02 a
  else if s.cell.unmarked a.toNat 8 then .need (.unmarked a.toNat 8)
  else
    match s.streamNeed [b] [] with
    | some n => .need n
    | none =>
      let w : W64 := BitVec.ofNat 64 (s.cell.bytes a.toNat 8)
      let c := s.src0After [r] b
      let bad := s.cell.loadBad a.toNat 8
      let s' := (modFocus s (·.touched a.toNat 8)).popAll [b]
      if bad then .done (s'.modMe (·.defers a))
      else if waitaCond x w c then .done (s'.putRes d (.low w))
      else .hold .sleeping (.waita a.toNat c x d) s'
/-- WAITA (R223). -/
def execWaita (h : Hdr) (d a b : Spec) (x : BitVec 2) (s : State) : Answer :=
  issue h 1 false (memIll d a (!srcOk b)) (fun s => waitAt d b a x (s.src0 a) s) s

end Sys2Proof.Machine
end

