-- ==== Sys2Proof/Machine/Numfmt.lean ====
section
/-! DEFINITION. Number formats, block scales and rounding (05_number_formats). Arithmetic is exact: a finite value is
±m·2^e with natural m and integer e, and `roundF` narrows it once. -/

namespace Sys2Proof.Machine

/-! ### Formats (Tables 05.1, 05.3, 05.4) -/

/-- Element bits of a format code; 0 for the reserved code 15. -/
def fmtBits (f : BitVec 4) : Nat :=
  match f.toNat with
  | 0 => 32 | 1 => 16 | 2 => 16 | 3 => 8 | 4 => 8 | 5 => 4 | 6 => 32 | 7 => 16 | 8 => 8 | 9 => 8 | 10 => 4
  | 11 => 8 | 12 => 8 | 13 => 4 | 14 => 16 | _ => 0
/-- FP32, BF16, FP16. -/
def isF (f : BitVec 4) : Bool := decide (f.toNat < 3)
/-- I32, I16, I8, UI8. -/
def isN (f : BitVec 4) : Bool := decide (6 ≤ f.toNat ∧ f.toNat ≤ 9)
/-- Any code but 15. -/
def isW (f : BitVec 4) : Bool := f != 15
/-- A floating code, 0 to 5. -/
def isFloat (f : BitVec 4) : Bool := decide (f.toNat < 6)
/-- Exponent bits of a floating code. -/
def expBits (f : BitVec 4) : Nat := match f.toNat with | 0 => 8 | 1 => 8 | 2 => 5 | 3 => 4 | 4 => 5 | _ => 2
/-- Fraction bits. -/
def manBits (f : BitVec 4) : Nat := match f.toNat with | 0 => 23 | 1 => 7 | 2 => 10 | 3 => 3 | 4 => 2 | _ => 1
/-- Exponent bias. -/
def bias (f : BitVec 4) : Int := match f.toNat with | 0 => 127 | 1 => 127 | 2 => 15 | 3 => 7 | 4 => 15 | _ => 1
/-- A format whose all-ones exponent field holds infinities and NaNs. -/
def ieeeTop (f : BitVec 4) : Bool := f.toNat != 3 && f.toNat != 5
/-- The canonical NaN; 0x0 for E2M1, which has none (R133, R142). -/
def canonNaN (f : BitVec 4) : Nat :=
  match f.toNat with | 0 => 0x7FC00000 | 1 => 0x7FC0 | 2 => 0x7E00 | 3 => 0x7F | 4 => 0x7E | _ => 0
/-- The code of the largest finite value. -/
def maxCode (f : BitVec 4) : Nat :=
  match f.toNat with | 0 => 0x7F7FFFFF | 1 => 0x7F7F | 2 => 0x7BFF | 3 => 0x7E | 4 => 0x7B | _ => 0x7
/-- The code of +∞ where the format has one. -/
def infCode (f : BitVec 4) : Nat := (2 ^ expBits f - 1) * 2 ^ manBits f
/-- The sign bit's weight. -/
def signWeight (f : BitVec 4) : Nat := 2 ^ (fmtBits f - 1)

/-! ### Values -/

/-- A floating value: ±m·2^e, ±∞ or NaN. -/
inductive FVal where
  | nan
  | inf (neg : Bool)
  | fin (neg : Bool) (m : Nat) (e : Int)
  deriving DecidableEq, Repr

/-- The value of a code of a floating format (R130, R131). -/
def valueOf (f : BitVec 4) (v : Nat) : FVal :=
  let mb := manBits f
  let fr := v % 2 ^ mb
  let ex := v / 2 ^ mb % 2 ^ expBits f
  let neg := bitOf v (fmtBits f - 1)
  if ex = 2 ^ expBits f - 1 ∧ ieeeTop f = true then (if fr = 0 then .inf neg else .nan)
  else if f = 3 ∧ ex = 15 ∧ fr = 7 then .nan
  else if ex = 0 then .fin neg fr (1 - bias f - mb)
  else .fin neg (2 ^ mb + fr) (ex - bias f - mb)
/-- An integer as a value. -/
def ofInt (x : Int) : FVal := .fin (decide (x < 0)) x.natAbs 0
/-- The value of an element of any scalar code 0 to 10 (R128, R132). -/
def valueAny (f : BitVec 4) (v : Nat) : FVal :=
  if isFloat f then valueOf f v
  else if f = 9 then ofInt (v % 256 : Nat)
  else ofInt (sintOf (fmtBits f) v)

/-- A signed integer m·2^e brought to exponent `lo ≤ e`. -/
def scaleTo (neg : Bool) (m : Nat) (e lo : Int) : Int :=
  let x : Int := ((m * 2 ^ (e - lo).toNat : Nat) : Int)
  if neg then -x else x
/-- Negation. -/
def FVal.negate : FVal → FVal
  | .nan => .nan
  | .inf n => .inf (!n)
  | .fin n m e => .fin (!n) m e
/-- Product (R153). -/
def FVal.mul : FVal → FVal → FVal
  | .nan, _ => .nan
  | _, .nan => .nan
  | .inf a, .inf b => .inf (a != b)
  | .inf a, .fin b m _ => if m = 0 then .nan else .inf (a != b)
  | .fin a m _, .inf b => if m = 0 then .nan else .inf (a != b)
  | .fin a m e, .fin b n k => .fin (a != b) (m * n) (e + k)
/-- A NaN. -/
def FVal.isNaN : FVal → Bool | .nan => true | _ => false
/-- An infinity of this sign. -/
def FVal.isInf (neg : Bool) : FVal → Bool | .inf n => n == neg | _ => false
/-- A zero of negative sign. -/
def FVal.isNegZero : FVal → Bool | .fin n m _ => n && m == 0 | _ => false
/-- A zero. -/
def FVal.isZero : FVal → Bool | .fin _ m _ => m == 0 | _ => false
/-- The least exponent of some values. -/
def minExp (l : List FVal) : Int :=
  l.foldl (fun a v => match v with | .fin _ _ e => if e < a then e else a | _ => a) 0
/-- The exact sum (R146, R153): specials first; an exact zero is −0 only when every term is −0. -/
def sumF (l : List FVal) : FVal :=
  if l.any FVal.isNaN then .nan
  else if l.any (FVal.isInf false) && l.any (FVal.isInf true) then .nan
  else if l.any (FVal.isInf false) then .inf false
  else if l.any (FVal.isInf true) then .inf true
  else
    let lo := minExp l
    let x := l.foldl (fun a v => match v with | .fin n m e => a + scaleTo n m e lo | _ => a) (0 : Int)
    if x = 0 then .fin (!l.isEmpty && l.all FVal.isNegZero) 0 0 else .fin (decide (x < 0)) x.natAbs lo

/-! ### Rounding (R141–R144) -/

/-- The modes of Table 05.6; stochastic rounding comes with its draw (R144). -/
inductive Mode where
  | rne
  | rz
  | ru
  | rd
  | sr (r : W32)
  deriving DecidableEq, Repr

/-- One step of the generator (R144). -/
def rngStep (s : W64) : W64 :=
  let s := if s = 0 then 1 else s
  let s := s ^^^ (s <<< 13)
  let s := s ^^^ (s >>> 7)
  s ^^^ (s <<< 17)
/-- The mode that a selector names, with the state after any draw (Table 05.6, R144). -/
def modeOf (sel : BitVec 2) (drnd : BitVec 3) (seed : W64) : Mode × W64 :=
  let sr : Mode × W64 := (.sr ((rngStep seed).extractLsb' 32 32), rngStep seed)
  let pick (k : Nat) : Mode × W64 :=
    match k with | 0 => (.rne, seed) | 1 => (.rz, seed) | 2 => (.ru, seed) | 3 => (.rd, seed) | _ => sr
  match sel.toNat with
  | 0 => pick 0
  | 1 => pick 1
  | 2 => sr
  | _ => if drnd.toNat < 5 then pick drnd.toNat else pick (Config.drndReserved drnd % 5)
/-- Round up the magnitude? `rem` of `2^sh` is left, `q` is the truncated magnitude. -/
def roundUp (mo : Mode) (neg : Bool) (q rem sh : Nat) : Bool :=
  match mo with
  | .rne => decide (2 ^ sh < 2 * rem) || (2 * rem == 2 ^ sh && q % 2 == 1)
  | .rz => false
  | .ru => rem != 0 && !neg
  | .rd => rem != 0 && neg
  | .sr r => decide (r.toNat < rem * 2 ^ 32 / 2 ^ sh)
/-- The magnitude m·2^e rounded to a multiple of 2^g, in units of 2^g. -/
def roundMag (mo : Mode) (neg : Bool) (m : Nat) (e g : Int) : Nat :=
  if g ≤ e then m * 2 ^ (e - g).toNat
  else
    let sh := (g - e).toNat
    let q := m / 2 ^ sh
    if roundUp mo neg q (m % 2 ^ sh) sh then q + 1 else q
/-- A code with its sign. -/
def signed (f : BitVec 4) (neg : Bool) (v : Nat) : Nat := if neg then v + signWeight f else v
/-- Table 05.7: what an overflow gives. -/
def overflowCode (f : BitVec 4) (mo : Mode) (neg : Bool) : Nat :=
  let big := maxCode f
  if !ieeeTop f then big
  else match mo with
    | .rne => infCode f
    | .sr _ => infCode f
    | .rz => big
    | .ru => if neg then big else infCode f
    | .rd => if neg then infCode f else big
/-- The code of q·2^g, q below 2^(fraction bits + 1) or equal to it; what lies above the largest finite value is an
overflow. -/
def packF (f : BitVec 4) (mo : Mode) (neg : Bool) (q : Nat) (g : Int) : Nat :=
  let mb := manBits f
  let q' := if 2 ^ (mb + 1) ≤ q then q / 2 else q
  let g' := if 2 ^ (mb + 1) ≤ q then g + 1 else g
  let v : Nat := if q' < 2 ^ mb then q' else ((g' + mb + bias f).toNat) * 2 ^ mb + (q' - 2 ^ mb)
  signed f neg (if v ≤ maxCode f then v else overflowCode f mo neg)
/-- `round(x, F, mode)` (R142). -/
def roundF (f : BitVec 4) (mo : Mode) (x : FVal) : Nat :=
  match x with
  | .nan => canonNaN f
  | .inf neg => signed f neg (if ieeeTop f then infCode f else maxCode f)
  | .fin neg m e =>
    if m = 0 then signed f neg 0
    else
      let top : Int := (Nat.log2 m : Int) + e
      let g := (if top < 1 - bias f then 1 - bias f else top) - manBits f
      packF f mo neg (roundMag mo neg m e g) g
/-- Range of an integer format (R132). -/
def intRange (f : BitVec 4) : Int × Int :=
  if f = 9 then (0, 255) else (-((2 ^ (fmtBits f - 1) : Nat) : Int), ((2 ^ (fmtBits f - 1) : Nat) : Int) - 1)
/-- A value clamped to a range. -/
def clamp (r : Int × Int) (x : Int) : Int := if x < r.1 then r.1 else if r.2 < x then r.2 else x
/-- Conversion into an integer format (R143). -/
def roundI (f : BitVec 4) (mo : Mode) (x : FVal) : Nat :=
  let r := intRange f
  let v : Int := match x with
    | .nan => 0
    | .inf neg => if neg then r.1 else r.2
    | .fin neg m e =>
      let q : Int := (roundMag mo neg m e 0 : Nat)
      clamp r (if neg then -q else q)
  wrapOf (fmtBits f) v
/-- Conversion into any scalar format (R170). -/
def roundAny (f : BitVec 4) (mo : Mode) (x : FVal) : Nat := if isFloat f then roundF f mo x else roundI f mo x
/-- FP32 addition under RNE (R145, R146). -/
def acc32 (a : Nat) (g : FVal) : Nat := roundF 0 .rne (sumF [valueOf 0 a, g])

/-! ### Order on floating codes -/

/-- A key that orders codes with −0 below +0 (R158). -/
def keyF (f : BitVec 4) (v : Nat) : Int :=
  let m : Int := (v % signWeight f : Nat)
  if bitOf v (fmtBits f - 1) then -m - 1 else m
/-- A key in which both zeros are equal (R119, R163). -/
def ordF (f : BitVec 4) (v : Nat) : Int :=
  let m : Int := (v % signWeight f : Nat)
  if bitOf v (fmtBits f - 1) then -m else m
/-- A key for integer codes: UI8 unsigned, the others signed. -/
def keyN (f : BitVec 4) (v : Nat) : Int := if f = 9 then ((v % 256 : Nat) : Int) else sintOf (fmtBits f) v
/-- A NaN code. -/
def nanF (f : BitVec 4) (v : Nat) : Bool := (valueOf f v).isNaN

/-- Minimum or maximum of two elements (R158); a NaN gives the canonical NaN; equal operands give the first. -/
def minmaxEl (f : BitVec 4) (mx : Bool) (a b : Nat) : Nat :=
  if isF f then
    if nanF f a || nanF f b then canonNaN f
    else if mx then (if keyF f a < keyF f b then b else a) else (if keyF f b < keyF f a then b else a)
  else if mx then (if keyN f a < keyN f b then b else a) else (if keyN f b < keyN f a then b else a)

/-! ### Block scales and codebook (R134–R137) -/

/-- The element format of a block format. -/
def blockEl (f : BitVec 4) : BitVec 4 := match f.toNat with | 11 => 3 | 12 => 4 | _ => 5
/-- Scaled by the code `e` of E8M0 (R134): NaN for 0xFF. -/
def scaled (e : Nat) (v : FVal) : FVal :=
  if e = 0xFF then .nan
  else match v with | .fin n m k => .fin n m (k + e - 127) | x => x
/-- The eight weights of a KC2 index under a codebook entry and its free-parity bit (R136). -/
def kc2 (ent : W32) (fp : Bool) (v : Nat) : List FVal :=
  let sgn (i : Nat) : Bool := bitOf v (i + 1)
  let par := (List.range 7).foldl (fun a i => a != sgn i) false
  (List.range 8).map fun i =>
    let m := bits ent.toNat (4 * i) 4
    .fin (if m = 0 then false else if i = 7 then (if fp then bitOf v 0 else par) else sgn i) m (-2)

end Sys2Proof.Machine
end

