-- ==== Sys2Proof/Machine/Special.lean ====
section
/-! DEFINITION. The special functions of VSPEC (R173–R175): their special results and exact points, and for every other input the
results that R174 admits: within two ulp of the exact value, infinite only where it rounds to infinity, and in order. -/

namespace Sys2Proof.Machine

/-- Integer square root of a number below 4^n, bit by bit. -/
def isqrt : Nat → Nat → Nat → Nat
  | 0, _, r => r
  | n + 1, m, r =>
    let t := r + 2 ^ n
    isqrt n m (if t * t ≤ m then t else r)
/-- The square root of a positive FP32 value, rounded RNE from the exact root (R174). -/
def sqrt32 (m : Nat) (e : Int) : Nat :=
  let m1 := if e % 2 = 0 then m * 2 ^ 60 else m * 2 ^ 61
  let e1 := if e % 2 = 0 then e - 60 else e - 61
  let r := isqrt 48 m1 0
  roundF 0 .rne (.fin false (2 * r + (if r * r = m1 then 0 else 1)) (e1 / 2 - 1))
/-- The exponent of a positive power of two m·2^e, if it is one. -/
def log2Exact (m : Nat) (e : Int) : Option Int :=
  if m ≠ 0 ∧ 2 ^ Nat.log2 m = m then some ((Nat.log2 m : Int) + e) else none
/-- The integer that a value is, if it is one. -/
def asInt (neg : Bool) (m : Nat) (e : Int) : Option Int :=
  if 200 < (Nat.log2 m : Int) + e then none
  else if 0 ≤ e then some (scaleTo neg m e 0)
  else if m % 2 ^ (-e).toNat = 0 then some (if neg then -((m / 2 ^ (-e).toNat : Nat) : Int) else ((m / 2 ^ (-e).toNat : Nat) : Int))
  else none
/-- A power of two as FP32, rounded. -/
def pow2F (k : Int) : Nat := roundF 0 .rne (.fin false 1 k)
/-- FP32 codes. -/
def one32 : Nat := 0x3F800000
/-- +∞. -/
def inf32 : Nat := 0x7F800000

/-! ### Exact values, to more than a hundred bits (assumption 5) -/

/-- A positive real number: a mantissa and a power of two. -/
structure Approx where
  man : Nat
  exp : Int
  deriving DecidableEq, Repr

/-- ln 2 in units of 2^-200. -/
def ln2Fix : Nat := 1113844574712631719546256151097547306333272293549090750737802
/-- The binary logarithm of e in units of 2^-200. -/
def log2eFix : Nat := 2318321547468254865173387471183990171487108758923299108729110
/-- ±m·2^e in units of 2^-200, clamped where no special function changes any more. -/
def fixOf (neg : Bool) (m : Nat) (e : Int) : Int :=
  let v : Nat := if 256 < (Nat.log2 m : Int) + e + 248 then 2 ^ 208 else m * 2 ^ (e + 200).toNat
  if neg then -(v : Int) else v
/-- The sum of z^k / k! from a term on, in units of 2^-200. -/
def expTerms (z : Nat) : Nat → Nat → Nat → Nat
  | 0, _, _ => 0
  | n + 1, k, term => term + expTerms z n (k + 1) (term * z / (2 ^ 200 * (k + 1)))
/-- 2^t, t in units of 2^-200. -/
def exp2Fix (t : Int) : Approx :=
  ⟨expTerms ((t % 2 ^ 200).toNat * ln2Fix / 2 ^ 200) 56 0 (2 ^ 200), t / 2 ^ 200 - 200⟩
/-- e^t, t in units of 2^-200. -/
def expFix (t : Int) : Approx := exp2Fix (t * log2eFix / 2 ^ 200)
/-- The sum of z^(2k+1) / (2k+1), in units of 2^-200. -/
def atanhTerms (z : Nat) : Nat → Nat → Nat → Nat
  | 0, _, _ => 0
  | n + 1, k, p => p / k + atanhTerms z n (k + 2) (p * z / 2 ^ 200 * z / 2 ^ 200)
/-- The binary logarithm of m·2^e in units of 2^-200. -/
def log2Fix (m : Nat) (e : Int) : Int :=
  let b := 2 ^ Nat.log2 m
  let z := (m - b) * 2 ^ 200 / (m + b)
  ((Nat.log2 m : Int) + e) * 2 ^ 200 + (2 * atanhTerms z 72 1 z * log2eFix / 2 ^ 200 : Nat)
/-- 1 / (1 + e^-x) for x = ±m·2^e. -/
def sigmOf (neg : Bool) (m : Nat) (e : Int) : Approx :=
  let y := expFix (-((fixOf neg m e).natAbs : Int))
  let one := 2 ^ (-y.exp).toNat
  if neg then ⟨y.man * 2 ^ 400 * one / (one + y.man), y.exp - 400⟩ else ⟨one * 2 ^ 200 / (one + y.man), -200⟩
/-- tanh of m·2^e: just below m·2^e where it is that to two hundred bits, the head of its series below 2^-24, else by e^-2x. -/
def tanhOf (m : Nat) (e : Int) : Approx :=
  if (Nat.log2 m : Int) + e < -60 then ⟨m * 2 ^ 200 - 1, e - 200⟩
  else if (Nat.log2 m : Int) + e < -24 then
    let w := m * m * 2 ^ 200 / 2 ^ (-(2 * e)).toNat
    ⟨m * (2 ^ 200 - w / 3 + 2 * (w * w / 2 ^ 200) / 15), e - 200⟩
  else
    let y := expFix (-2 * fixOf false m e)
    let one := 2 ^ (-y.exp).toNat
    ⟨(one - y.man) * 2 ^ 200 / (one + y.man), -200⟩
/-- 1 / √(m·2^e). -/
def rsqrtOf (m : Nat) (e : Int) : Approx :=
  let n := if e % 2 = 0 then m else 2 * m
  ⟨isqrt 161 (2 ^ 320 / n) 0, -160 - e / 2⟩

/-! ### What R174 admits -/

/-- The largest finite FP32 code. -/
def maxFinite : Nat := 0x7F7FFFFF
/-- floor(log2 y). -/
def Approx.size (y : Approx) : Int := (Nat.log2 y.man : Int) + y.exp
/-- The codes within two ulp of an exact positive value, as R174 admits them: +∞ alone where the value rounds to it, never elsewhere. -/
def windowOf (y : Approx) : Nat × Nat :=
  let g : Int := (if y.size < -126 then -126 else y.size) - 22
  let k := if y.exp ≤ g then y.exp else g
  let a := y.man * 2 ^ (y.exp - k).toNat
  let u := 2 ^ (g - k).toNat
  if roundF 0 .rne (.fin false y.man y.exp) = inf32 then (inf32, inf32)
  else (roundF 0 .ru (.fin false (a - u) k), Nat.min maxFinite (roundF 0 .rd (.fin false (a + u) k)))
/-- A window cut to the codes between two. -/
def cut (w : Nat × Nat) (lo hi : Nat) : Nat × Nat := (Nat.min hi (Nat.max lo w.1), Nat.max lo (Nat.min hi w.2))
/-- One code. -/
def only (c : Nat) : Nat × Nat := (c, c)
/-- A signed result as a number in the order of values. -/
def orderOf (neg : Bool) (c : Nat) : Nat := if neg then inf32 - c else inf32 + c
/-- The results that a special function may give at an input other than a NaN or an infinity, as an interval of numbers in the order of
values (R174): FP32 codes; for LOG2 as `orderOf` has them; for TANH, RCP and RSQRT of a positive input. Between two inputs whose
results are exact, it stays between these. -/
def admits (window : Approx → Nat × Nat) (fn : BitVec 3) (neg : Bool) (m : Nat) (e : Int) : Nat × Nat :=
  let b : Int := (Nat.log2 m : Int) + e
  let t := fixOf neg m e
  match fn.toNat with
  | 0 =>
    if m = 0 then only one32
    else if t ≥ 128 * 2 ^ 200 then only inf32
    else if t < -150 * 2 ^ 200 then only 0
    else
      let lo := t / 2 ^ 200
      let hi := -(-t / 2 ^ 200)
      let at_ (k : Int) : Nat := if k < -149 then 0 else if 128 ≤ k then inf32 else pow2F k
      cut (window (exp2Fix t)) (at_ lo) (at_ hi)
  | 5 =>
    if m = 0 then only one32
    else cut (window (expFix t)) (if neg then 0 else one32) (if neg then one32 else inf32)
  | 7 =>
    if m = 0 then only 0x3F000000
    else cut (window (sigmOf neg m e)) (if neg then 0 else 0x3F000000) (if neg then 0x3F000000 else one32)
  | 6 => if m = 0 then only 0 else cut (window (tanhOf m e)) 0 one32
  | 2 =>
    if m = 0 then only inf32
    else match log2Exact m e with
      | some k => only (pow2F (-k))
      | none => cut (window ⟨2 ^ 200 / m, -200 - e⟩) (if b = 127 then 0 else pow2F (-(b + 1))) (pow2F (-b))
  | 3 =>
    if m = 0 then only inf32
    else match log2Exact m e with
      | some k => if k % 2 = 0 then only (pow2F (-(k / 2))) else cut (window (rsqrtOf m e)) (if b = 127 then 0 else pow2F (-(k / 2) - 1)) (pow2F (-(k / 2)))
      | none => cut (window (rsqrtOf m e)) (if 126 ≤ b then 0 else pow2F (-(b / 2) - 1)) (pow2F (-(b / 2)))
  | _ =>
    if m = 0 then only 0
    else
      let at_ (k : Int) : Nat := orderOf (decide (k < 0)) (roundF 0 .rne (ofInt (if k < 0 then -k else k)))
      match log2Exact m e with
      | some k => only (at_ k)
      | none =>
        let y := log2Fix m e
        let w := window ⟨y.natAbs, -200⟩
        cut (if y < 0 then (inf32 - w.2, inf32 - w.1) else (inf32 + w.1, inf32 + w.2)) (at_ b) (at_ (b + 1))

/-! ### One function of each kind -/

/-- The result at place `x` between two places whose results are chosen: the middle place's is a free one of those that it admits and
that lie between its neighbours', and so on; every function in order within the windows is one of these (R174). -/
def inOrder (w : Nat → Nat × Nat) (free : Nat → Nat) : Nat → Nat → Nat → Nat → Nat → Nat → Nat
  | 0, _, ya, _, _, _ => ya
  | n + 1, a, ya, b, yb, x =>
    if x ≤ a then ya
    else if b ≤ x then yb
    else
      let m := (a + b) / 2
      let lo := Nat.max ya (w m).1
      let hi := Nat.min yb (w m).2
      let y := lo + free m % (hi - lo + 1)
      if x = m then y else if x < m then inOrder w free n a ya m y x else inOrder w free n m y b yb x
/-- The FP32 code at a place of the order from −∞ to +∞, both zeros one. -/
def codeAt (p : Nat) : Nat := if p < inf32 then inf32 - p + 2 ^ 31 else p - inf32
/-- The place of a code. -/
def placeOf (x : Nat) : Nat := if 2 ^ 31 ≤ x then inf32 - (x - 2 ^ 31) else inf32 + x
/-- The magnitude of the exact value at a code of a function that has no exact result where that passes a power of two. -/
def exactAt (fn : BitVec 3) (x : Nat) : Approx :=
  match valueOf 0 x with
  | .fin neg m e =>
    match fn.toNat with
    | 5 => expFix (fixOf neg m e)
    | 7 => sigmOf neg m e
    | 6 => tanhOf m e
    | _ => ⟨(log2Fix m e).natAbs, -200⟩
  | _ => ⟨0, 0⟩
/-- The codes of a function's inputs in the order in which the magnitudes of its results rise, the first one, and the place of a code. -/
def risingOrder (fn : BitVec 3) (x : Nat) : (Nat → Nat) × Nat × Nat :=
  match fn.toNat with
  | 5 => (codeAt, 0, placeOf x)
  | 7 => (codeAt, 0, placeOf x)
  | 6 => (id, 0, x)
  | _ => if one32 ≤ x then (id, one32, x) else (fun i => 2 * one32 - i, one32, 2 * one32 - x)
/-- The last place at which a property holds, of those between one where it does and one where it does not. -/
def lastBelow (below : Nat → Bool) : Nat → Nat → Nat → Nat
  | 0, a, _ => a
  | n + 1, a, b => if b ≤ a + 1 then a else if below ((a + b) / 2) then lastBelow below n ((a + b) / 2) b else lastBelow below n a ((a + b) / 2)
/-- The window at a code, from below no code under one that the last smaller power of two's results must reach: ulp doubles at a power
of two, and the results stay in order (R174). -/
def orderedWindow (fn : BitVec 3) (x : Nat) (y : Approx) : Nat × Nat :=
  let w := windowOf y
  if (fn = 5 ∨ fn = 7 ∨ fn = 6 ∨ fn = 1) ∧ -126 < y.size ∧ w.1 < pow2F y.size then
    let o := risingOrder fn x
    let last := lastBelow (fun i => decide ((exactAt fn (o.1 i)).size < y.size)) 33 o.2.1 o.2.2
    if last = o.2.1 then w else (Nat.max w.1 (windowOf (exactAt fn (o.1 last))).1, w.2)
  else w
/-- What a function admits at a code. -/
def admitsAt (fn : BitVec 3) (x : Nat) : Nat × Nat :=
  match valueOf 0 x with | .fin neg m e => admits (orderedWindow fn x) fn neg m e | _ => only 0
/-- A function's result at a code: the free function of R174, in the order of values; RCP of negative inputs is a function of its own. -/
def specCode (fn : BitVec 3) (x : Nat) : Nat :=
  let free (c : Nat) : Nat := (Config.vspec fn (BitVec.ofNat 32 c)).toNat
  match fn.toNat with
  | 2 | 3 => inOrder (fun p => admitsAt fn (inf32 - p)) (fun p => free (inf32 - p + x / 2 ^ 31 * 2 ^ 31)) 33 0 0 inf32 inf32 (inf32 - x % 2 ^ 31)
  | 6 => inOrder (admitsAt 6) free 33 0 0 inf32 one32 (x % 2 ^ 31)
  | 1 => inOrder (admitsAt 1) free 33 0 0 inf32 (2 * inf32) x
  | 7 => inOrder (fun p => admitsAt 7 (codeAt p)) (fun p => free (codeAt p)) 33 0 0 (2 * inf32) one32 (placeOf x)
  | _ => inOrder (fun p => admitsAt fn (codeAt p)) (fun p => free (codeAt p)) 33 0 0 (2 * inf32) inf32 (placeOf x)
/-- A free result of a special function on an FP32 code, its magnitude at most `top`, with this sign (R174; assumption 5). -/
def freeSpec (fn : BitVec 3) (x top : Nat) (neg : Bool) : Nat :=
  let c := specCode fn x
  signed 0 neg (Nat.min top (if fn = 1 then (if neg then inf32 - c else c - inf32) else c))
/-- Special results and exact points on FP32 codes (R174, R175); 0 EXP2, 1 LOG2, 2 RCP, 3 RSQRT, 4 SQRT, 5 EXP, 6 TANH,
7 SIGM. -/
def spec32 (fn : BitVec 3) (x : Nat) : Nat :=
  match fn.toNat, valueOf 0 x with
  | _, .nan => canonNaN 0
  | 0, .inf neg => if neg then 0 else inf32
  | 5, .inf neg => if neg then 0 else inf32
  | 1, .inf neg => if neg then canonNaN 0 else inf32
  | 2, .inf neg => signed 0 neg 0
  | 3, .inf neg => if neg then canonNaN 0 else 0
  | 4, .inf neg => if neg then canonNaN 0 else inf32
  | 6, .inf neg => signed 0 neg one32
  | _, .inf neg => if neg then 0 else one32
  | 0, .fin neg m e =>
    if m = 0 then one32
    else match asInt neg m e with
      | some k => if 128 ≤ k then inf32 else if k < -149 then 0 else pow2F k
      | none => freeSpec 0 x inf32 false
  | 5, .fin _ m _ => if m = 0 then one32 else freeSpec 5 x inf32 false
  | 1, .fin neg m e =>
    if m = 0 then signed 0 true inf32
    else if neg then canonNaN 0
    else match log2Exact m e with
      | some k => roundF 0 .rne (ofInt k)
      | none => freeSpec 1 x 0x43150000 (decide ((Nat.log2 m : Int) + e < 0))
  | 2, .fin neg m e =>
    if m = 0 then signed 0 neg inf32
    else match log2Exact m e with
      | some k => signed 0 neg (pow2F (-k))
      | none => freeSpec 2 x inf32 neg
  | 3, .fin neg m e =>
    if m = 0 then signed 0 neg inf32
    else if neg then canonNaN 0
    else match log2Exact m e with
      | some k => if k % 2 = 0 then pow2F (-(k / 2)) else freeSpec 3 x inf32 false
      | none => freeSpec 3 x inf32 false
  | 4, .fin neg m e => if m = 0 then x else if neg then canonNaN 0 else sqrt32 m e
  | 6, .fin neg m _ =>
    if m = 0 then x else freeSpec 6 (x % 2 ^ 31) one32 neg
  | _, .fin _ m _ => if m = 0 then 0x3F000000 else freeSpec 7 x one32 false
/-- VSPEC on an element of FP32, BF16 or FP16 (R174): widened exactly, and the FP32 result rounded RNE. -/
def specEl (f : BitVec 4) (fn : BitVec 3) (v : Nat) : Nat :=
  roundF f .rne (valueOf 0 (spec32 fn (roundF 0 .rne (valueOf f v))))

end Sys2Proof.Machine
end

