-- ==== Sys2Proof/Machine/Vector.lean ====
section
/-! DEFINITION. The vector datapath (R149–R172), the special functions (R173–R175), SETFMT and PFX (R176, R177). -/

namespace Sys2Proof.Machine

/-! ### Effective formats (R139) -/

/-- EF_eff. -/
def Thread.efEff (x : Thread) : BitVec 4 := if x.pp && x.pfx.extractLsb' 16 4 != 15 then x.pfx.extractLsb' 16 4 else x.fmt.extractLsb' 0 4
/-- RF_eff. -/
def Thread.rfEff (x : Thread) : BitVec 4 := if x.pp && x.pfx.extractLsb' 12 4 != 15 then x.pfx.extractLsb' 12 4 else x.fmt.extractLsb' 4 4
/-- RS_eff, with the instruction's own selector field if it has one. -/
def Thread.rsEff (x : Thread) (own : Option (BitVec 2)) : BitVec 2 :=
  if x.pp then x.pfx.extractLsb' 4 2 else own.getD (x.fmt.extractLsb' 14 2)
/-- EF_eff of the issuing thread. -/
def State.ef (s : State) : BitVec 4 := s.me.efEff
/-- RF_eff of the issuing thread. -/
def State.rf (s : State) : BitVec 4 := s.me.rfEff
/-- DRND of the active plane. -/
def State.drnd (s : State) : BitVec 3 := s.cell.plane.active.drnd
/-- Elements of a register in a format. -/
def count (f : BitVec 4) : Nat := 256 / fmtBits f
/-- Floating or integer arithmetic formats (R149). -/
def isFN (f : BitVec 4) : Bool := isF f || isN f
/-- Rounds values in order, each with the mode and the draw that are its turn (R144). -/
def roundList {α : Type} (sel : BitVec 2) (drnd : BitVec 3) (f : Mode → α → Nat) : List α → W64 → List Nat × W64
  | [], seed => ([], seed)
  | x :: r, seed =>
    let m := modeOf sel drnd seed
    let l := roundList sel drnd f r m.2
    (f m.1 x :: l.1, l.2)

/-! ### Bodies of one shape -/

/-- Element-wise on one source. -/
def map1 (f : BitVec 4) (g : Nat → Nat) (a : V256) : V256 := pack (fmtBits f) ((els a (fmtBits f) (count f)).map g)
/-- Element-wise on two sources; with `vs` element 0 of the second at every position (R155). -/
def map2 (f : BitVec 4) (vs : Bool) (g : Nat → Nat → Nat) (a b : V256) : V256 :=
  let w := fmtBits f
  pack w ((List.range (count f)).map fun i => g (el a w i) (el b w (if vs then 0 else i)))
/-- A vector instruction with a whole-register result that enters the last-result file (R105, R150); it pops a stream register that it
reads once (R151). -/
def vector (h : Hdr) (d : Spec) (srcs : List Spec) (bad : State → Bool) (f : State → V256) (s : State) : Answer :=
  issue h 1 true (fun s => !okSpecs [d] srcs || bad s) (produces srcs.eraseDups d fun s => .whole (f s)) s

/-! ### Arithmetic (R153–R161) -/

/-- A saturating or wrapping integer result (R154). -/
def intEl (f : BitVec 4) (sat : Bool) (x : Int) : Nat := wrapOf (fmtBits f) (if sat then clamp (intRange f) x else x)
/-- VADD, VSUB or VMUL on elements (R156). -/
def arithEl (f : BitVec 4) (sat : Bool) (ff : FVal → FVal → FVal) (fi : Int → Int → Int) (a b : Nat) : Nat :=
  if isF f then roundF f .rne (ff (valueOf f a) (valueOf f b)) else intEl f sat (fi (keyN f a) (keyN f b))
/-- VADD, VSUB, VMUL (R155, R156). -/
def arith (h : Hdr) (d a b : Spec) (x : BitVec 2) (ff : FVal → FVal → FVal) (fi : Int → Int → Int) (s : State) : Answer :=
  vector h d [a, b] (fun s => !isFN s.ef || (isF s.ef && decide (2 ≤ x.toNat)))
    (fun s => map2 s.ef (x.getLsbD 0) (arithEl s.ef (x.getLsbD 1) ff fi) (s.src a) (s.srcAfter [a] b)) s
/-- VADD (R156). -/
def execVadd (h : Hdr) (d a b : Spec) (x : BitVec 2) (s : State) : Answer :=
  arith h d a b x (fun a b => sumF [a, b]) (· + ·) s
/-- VSUB (R156). -/
def execVsub (h : Hdr) (d a b : Spec) (x : BitVec 2) (s : State) : Answer :=
  arith h d a b x (fun a b => sumF [a, b.negate]) (· - ·) s
/-- VMUL (R156). -/
def execVmul (h : Hdr) (d a b : Spec) (x : BitVec 2) (s : State) : Answer := arith h d a b x FVal.mul (· * ·) s
/-- The fused form of X (R157). -/
def fmaEl (f : BitVec 4) (x : BitVec 2) (a b c : Nat) : Nat :=
  let p := FVal.mul (valueOf f a) (valueOf f b)
  let c := valueOf f c
  roundF f .rne (if x = 0 then sumF [p, c] else if x = 1 then sumF [p, c.negate] else sumF [p.negate, c])
/-- VFMA (R157): D is a source. -/
def execVfma (h : Hdr) (d a b : Spec) (x : BitVec 2) (s : State) : Answer :=
  vector h d [a, b, d] (fun s => !isF s.ef || x == 3)
    (fun s =>
      let w := fmtBits s.ef
      pack w ((List.range (count s.ef)).map fun i => fmaEl s.ef x (el (s.src a) w i) (el (s.srcAfter [a] b) w i) (el (s.srcAfter [a, b] d) w i))) s
/-- VMINMAX (R158). -/
def execVminmax (h : Hdr) (d a b : Spec) (x : BitVec 2) (s : State) : Answer :=
  vector h d [a, b] (fun s => !isFN s.ef)
    (fun s => map2 s.ef (x.getLsbD 1) (minmaxEl s.ef (x.getLsbD 0)) (s.src a) (s.srcAfter [a] b)) s

/-- The class mask of a floating element (R159). -/
def classMask (f : BitVec 4) (v : Nat) : Nat :=
  let neg := bitOf v (fmtBits f - 1)
  let m := v % signWeight f
  if nanF f v then 2 ^ 8
  else if m = infCode f then (if neg then 2 ^ 0 else 2 ^ 7)
  else if m = 0 then (if neg then 2 ^ 3 else 2 ^ 4)
  else if m < 2 ^ manBits f then (if neg then 2 ^ 2 else 2 ^ 5)
  else (if neg then 2 ^ 1 else 2 ^ 6)
/-- The code of 1.0. -/
def oneF (f : BitVec 4) : Nat := roundF f .rne (.fin false 1 0)
/-- VUN on an element (Table 06.3). -/
def unEl (f : BitVec 4) (x : BitVec 2) (a : Nat) : Nat :=
  if isF f then
    if x = 3 then classMask f a
    else if nanF f a then canonNaN f
    else if x = 0 then a % signWeight f
    else if x = 1 then signed f (!bitOf a (fmtBits f - 1)) (a % signWeight f)
    else if a % signWeight f = 0 then a else signed f (bitOf a (fmtBits f - 1)) (oneF f)
  else
    let v := keyN f a
    wrapOf (fmtBits f) (if x = 0 then (v.natAbs : Int) else if x = 1 then -v else v.sign)
/-- VUN (R159). -/
def execVun (h : Hdr) (d a : Spec) (x : BitVec 2) (s : State) : Answer :=
  vector h d [a] (fun s => !isFN s.ef || (x == 3 && !isF s.ef)) (fun s => map1 s.ef (unEl s.ef x) (s.src a)) s
/-- An element times 2^k, rounded once; beyond ±600 the result no longer changes in any format (R142, R160). -/
def scaleEl (f : BitVec 4) (a b : Nat) : Nat :=
  let k := clamp (-600, 600) (sintOf (fmtBits f) b)
  roundF f .rne (match valueOf f a with | .fin n m e => .fin n m (e + k) | v => v)
/-- VSCALE (R160). -/
def execVscale (h : Hdr) (d a b : Spec) (x : BitVec 1) (s : State) : Answer :=
  vector h d [a, b] (fun s => !isF s.ef) (fun s => map2 s.ef (x == 1) (scaleEl s.ef) (s.src a) (s.srcAfter [a] b)) s
/-- An element rounded to an integral value in its format (R161). -/
def rintEl (f : BitVec 4) (mo : Mode) (a : Nat) : Nat :=
  roundF f .rne (match valueOf f a with | .fin n m e => .fin n (roundMag mo n m e 0) 0 | v => v)
/-- A rounding selector's result on a register, with the generator's new state (R144). -/
def roundReg (f : BitVec 4) (sel : BitVec 2) (drnd : BitVec 3) (g : Mode → Nat → Nat) (a : V256) (seed : W64) : V256 × W64 :=
  let r := roundList sel drnd g (els a (fmtBits f) (count f)) seed
  (pack (fmtBits f) r.1, r.2)
/-- The result enters D, and the generator keeps its new state. -/
def producesSeeded (srcs : List Spec) (d : Spec) (f : State → Res × W64) (s : State) : Ctl :=
  match s.streamNeed srcs.eraseDups [d] with
  | some n => .need n
  | none => .done (((s.popAll srcs.eraseDups).modMe fun x => { x with rseed := (f s).2 }).produce d (f s).1)
/-- VRINT (R161). -/
def execVrint (h : Hdr) (d a : Spec) (x : BitVec 2) (s : State) : Answer :=
  issue h 1 true (fun s => !okSpecs [d] [a] || !isF s.ef)
    (producesSeeded [a] d fun s =>
      if x = 3 then
        let r := roundReg s.ef (s.me.rsEff none) s.drnd (rintEl s.ef) (s.src a) s.me.rseed
        (.whole r.1, r.2)
      else (.whole (map1 s.ef (rintEl s.ef (if x = 0 then .rne else if x = 1 then .rz else .rd)) (s.src a)), s.me.rseed)) s

/-! ### Reductions, compares, selection (R162–R167) -/

/-- One level of the pairwise tree. -/
def pairUp (f : Nat → Nat → Nat) : List Nat → List Nat
  | a :: b :: r => f a b :: pairUp f r
  | l => l
/-- The pairwise tree of R148 over at most 2^n values. -/
def treeSum (f : Nat → Nat → Nat) : Nat → List Nat → Nat
  | 0, l => l.headD 0
  | n + 1, l => treeSum f n (pairUp f l)
/-- The magnitude that AMAX compares and gives (R162). -/
def amaxEl (f : BitVec 4) (a b : Nat) : Nat :=
  if isF f then (if nanF f a || nanF f b then canonNaN f else Nat.max a b) else Nat.max a b
/-- An element's magnitude as AMAX takes it. -/
def magEl (f : BitVec 4) (a : Nat) : Nat :=
  if isF f then (if nanF f a then canonNaN f else a % signWeight f) else (keyN f a).natAbs
/-- VRED's reductions (R162). -/
def redEls (f : BitVec 4) (x : BitVec 2) (l : List Nat) : Nat :=
  let canon := fun v => if isF f && nanF f v then canonNaN f else v
  match x.toNat with
  | 0 => treeSum (arithEl f false (fun a b => sumF [a, b]) (· + ·)) 6 l
  | 1 => (l.drop 1).foldl (minmaxEl f true) (canon (l.headD 0))
  | 2 => (l.drop 1).foldl (minmaxEl f false) (canon (l.headD 0))
  | _ => (l.map (magEl f)).foldl (amaxEl f) 0
/-- VRED (R162). -/
def execVred (h : Hdr) (d a : Spec) (x : BitVec 2) (s : State) : Answer :=
  vector h d [a] (fun s => !isFN s.ef)
    (fun s => BitVec.ofNat 256 (redEls s.ef x (els (s.src a) (fmtBits s.ef) (count s.ef)) % 2 ^ fmtBits s.ef)) s

/-- VCMP's condition on elements (R163). -/
def vcmpEl (f : BitVec 4) (x : BitVec 2) (a b : Nat) : Bool :=
  if isF f && (nanF f a || nanF f b) then x == 1
  else
    let p := if isF f then ordF f a else keyN f a
    let q := if isF f then ordF f b else keyN f b
    match x.toNat with | 0 => p == q | 1 => p != q | 2 => decide (p < q) | _ => decide (p ≤ q)
/-- The mask of a compare. -/
def vcmpMask (f : BitVec 4) (x : BitVec 2) (a b : V256) : Nat :=
  let w := fmtBits f
  packNat 1 ((List.range (count f)).map fun i => if vcmpEl f x (el a w i) (el b w i) then 1 else 0)
/-- VCMP (R163): the mask register g(M) and, unless PD is 0, a predicate. -/
def execVcmp (h : Hdr) (pd m : BitVec 3) (a b : Spec) (x : BitVec 2) (s : State) : Answer :=
  issue h 1 true (fun s => !okSpecs [] [a, b] || !isFN s.ef)
    (fun s => match s.streamNeed [a, b].eraseDups [] with
      | some n => .need n
      | none =>
        let k := vcmpMask s.ef x (s.src a) (s.srcAfter [a] b)
        .done (((s.popAll [a, b].eraseDups).produce (0#3 ++ m) (.low (BitVec.ofNat 64 k))).modMe (·.setPred pd (k != 0)))) s
/-- VSEL (R164): D holds the mask. -/
def execVsel (h : Hdr) (d a b : Spec) (x : BitVec 1) (s : State) : Answer :=
  vector h d [a, b, d] (fun s => !isW s.ef)
    (fun s =>
      let w := fmtBits s.ef
      let m := (s.src0After [a, b] d).toNat
      pack w ((List.range (count s.ef)).map fun i =>
        if bitOf m i then el (s.src a) w i else el (s.srcAfter [a] b) w (if x = 1 then 0 else i))) s
/-- VSHUF (R165). -/
def execVshuf (h : Hdr) (d a b : Spec) (x : BitVec 1) (s : State) : Answer :=
  vector h d (if x = 1 then [a, b, d] else [a, b]) (fun s => !isW s.ef || decide (fmtBits s.ef < 8))
    (fun s =>
      let w := fmtBits s.ef
      let n := count s.ef
      pack w ((List.range n).map fun i =>
        let k := el (s.srcAfter [a] b) w i
        if k < n then el (s.src a) w k
        else if x = 1 ∧ k < 2 * n then el (s.srcAfter [a, b] d) w (k - n) else 0)) s
/-- VBC (R166): X = 0 takes an immediate index, X = 1 a register's. -/
def execVbc (h : Hdr) (d a : Spec) (b : BitVec 6) (x : BitVec 1) (s : State) : Answer :=
  vector h d (if x = 1 then [a, b] else [a])
    (fun s => !isW s.ef || (x == 0 && decide (count s.ef ≤ b.toNat)))
    (fun s =>
      let w := fmtBits s.ef
      let k := if x = 1 then (s.src0After [a] b).toNat else b.toNat
      pack w (List.replicate (count s.ef) (if k < count s.ef then el (s.src a) w k else 0))) s
/-- VLANE (R167). -/
def execVlane (h : Hdr) (d a : Spec) (k : BitVec 6) (x : BitVec 2) (s : State) : Answer :=
  let srcs := if x = 2 then [a, d] else [a]
  issue h 1 true (fun s => !okSpecs [d] srcs || x == 3 || !isW s.ef || decide (count s.ef ≤ k.toNat))
    (produces srcs.eraseDups d fun s =>
      let w := fmtBits s.ef
      if x = 0 then .low (BitVec.ofNat 64 (el (s.src a) w k.toNat))
      else if x = 1 then .low (BitVec.ofInt 64 (sintOf w (el (s.src a) w k.toNat)))
      else .whole (insBits (s.srcAfter [a] d) (w * k.toNat) w (s.src a).toNat)) s

/-! ### Bitwise (R168, R169) -/

/-- VLOG (R168): no format, no prefix. -/
def execVlog (h : Hdr) (d a b : Spec) (x : BitVec 2) (s : State) : Answer :=
  issue h 1 false (fun _ => !okSpecs [d] [a, b])
    (produces [a, b].eraseDups d fun s =>
      let u := s.src a
      let v := s.srcAfter [a] b
      .whole (if x = 0 then u &&& v else if x = 1 then u ||| v else if x = 2 then u ^^^ v else u &&& ~~~v)) s
/-- VSH on an element (R169). -/
def shEl (w : Nat) (x : BitVec 2) (a c : Nat) : Nat :=
  match x.toNat with
  | 0 => if c < w then a * 2 ^ c % 2 ^ w else 0
  | 1 => if c < w then a / 2 ^ c else 0
  | 2 => wrapOf w (sintOf w a / (2 ^ Nat.min c (w - 1) : Nat))
  | _ => (a * 2 ^ (c % w) + a / 2 ^ (w - c % w)) % 2 ^ w
/-- Formats of VSH: I32, I16, I8, UI8, I4 (Table 06.1). -/
def isShift (f : BitVec 4) : Bool := isN f || f == 10
/-- VSH (R169). -/
def execVsh (h : Hdr) (d a b : Spec) (x : BitVec 2) (s : State) : Answer :=
  vector h d [a, b] (fun s => !isShift s.ef) (fun s => map2 s.ef false (shEl (fmtBits s.ef) x) (s.src a) (s.srcAfter [a] b)) s

/-! ### Conversion (R170–R172) -/

/-- Codes 0 to 10. -/
def isScalarFmt (f : BitVec 4) : Bool := decide (f.toNat ≤ 10)
/-- The width factor of a conversion. -/
def cvtFactor (f t : BitVec 4) : Nat := Nat.max (fmtBits f) (fmtBits t) / Nat.min (fmtBits f) (fmtBits t)
/-- What CVT refuses (R170). -/
def cvtBad (f t : BitVec 4) (p : Nat) : Bool :=
  !isScalarFmt f || !isScalarFmt t || decide (4 < cvtFactor f t) || decide (cvtFactor f t ≤ p)
/-- The elements that CVT takes: widening, from element p·n upward; else all. -/
def cvtEls (f t : BitVec 4) (p : Nat) (a : V256) : List Nat :=
  if fmtBits f < fmtBits t then (List.range (count t)).map fun i => el a (fmtBits f) (p * count t + i)
  else els a (fmtBits f) (count f)
/-- The register that CVT leaves: narrowing fills a part of D. -/
def cvtPlace (f t : BitVec 4) (p : Nat) (old : V256) (l : List Nat) : V256 :=
  if fmtBits t < fmtBits f then insBits old (p * (256 / cvtFactor f t)) (256 / cvtFactor f t) (packNat (fmtBits t) l)
  else pack (fmtBits t) l
/-- CVT (R170). -/
def execCvt (h : Hdr) (d a : Spec) (t : BitVec 4) (r : BitVec 2) (x : BitVec 2) (s : State) : Answer :=
  issue h 1 true (fun s => !okSpecs [d] [a] || cvtBad s.ef t x.toNat)
    (fun s =>
      producesSeeded (if fmtBits t < fmtBits s.ef then [a, d] else [a]) d (fun s =>
        let l := roundList (s.me.rsEff (some r)) s.drnd (fun mo v => roundAny t mo (valueAny s.ef v))
          (cvtEls s.ef t x.toNat (s.src a)) s.me.rseed
        (.whole (cvtPlace s.ef t x.toNat (s.srcAfter [a] d) l.1), l.2)) s) s

/-- Registers of a span of 32 elements of 32 or 16 bits (R171, R172). -/
def spanLen (f : BitVec 4) : Nat := if fmtBits f = 32 then 4 else 2
/-- A span of g registers that stays within g31 (R150). -/
def spanOk (a : Spec) (k : Nat) : Bool := decide (a.toNat + k ≤ 32)
/-- The scale code that QBLK computes (R171). -/
def qblkScale (t : BitVec 4) (l : List FVal) : Nat :=
  let emax : Int := if t = 11 then 8 else if t = 12 then 15 else 2
  if l.any fun v => match v with | .fin .. => false | _ => true then 0xFF
  else if l.all FVal.isZero then 0x7F
  else
    let top := l.foldl (fun (a : Int) v => match v with
      | .fin _ m e => if m ≠ 0 ∧ a < (Nat.log2 m : Int) + e then (Nat.log2 m : Int) + e else a
      | _ => a) (-100000)
    (clamp (0, 254) (top - emax + 127)).toNat
/-- An element of a block under a scale code: rounded, and saturated where R142 would overflow (R171). -/
def qblkEl (f : BitVec 4) (e : Nat) (mo : Mode) (v : FVal) : Nat :=
  if e = 0xFF then 0
  else
    let c := roundF f mo (match v with | .fin n m k => .fin n m (k - (e - 127)) | w => w)
    if ieeeTop f = true ∧ c % signWeight f = infCode f then signed f (bitOf c (fmtBits f - 1)) (maxCode f) else c
/-- Byte `b` of lane 0. -/
def scaleByte (v : V256) (b : Nat) : Nat := bits v.toNat (8 * b) 8
/-- QBLK's registers: D, then the scale byte of B, then the last-result file (R171). -/
def qblkWrite (d b : Spec) (r : Res) (byte : Option (Nat × Nat)) (s : State) : State :=
  let v := s.cell.resVal s.cell.last s.freeIx d r
  let s1 := s.putRes d r
  match byte with
  | none => s1.modMe (·.last d v)
  | some (k, e) =>
    let w := fun u : V256 => insBits u (8 * k) 8 e
    s1.modMe fun x => ((x.setReg b (w (x.g.getD b.toNat 0))).last d (if b = d then w v else v))
/-- QBLK (R171). -/
def execQblk (h : Hdr) (d a b : Spec) (x : BitVec 2) (s : State) : Answer :=
  let k := bit (x.getLsbD 0)
  let given := x.getLsbD 1
  let ok (f t : BitVec 4) : Bool := isF f && (t == 13 || ((t == 11 || t == 12) && k == 0))
  issue h 1 true (fun s => !dstOk d || !isG b || !ok s.ef s.rf || !spanOk a (spanLen s.ef))
    (fun s => match s.streamNeed (if k = 1 then [d] else []) [d] with
      | some n => .need n
      | none =>
        let f := s.ef
        let t := s.rf
        let vals := ((s.runAfter [] a (spanLen f)).flatMap fun v => els v (fmtBits f) (count f)).map (valueOf f)
        let e := if given then scaleByte (s.srcAfter (runOf a (spanLen f)) b) k else qblkScale t vals
        let l := roundList (s.me.rsEff none) s.drnd (qblkEl (blockEl t) e) vals s.me.rseed
        let r : Res :=
          if t ≠ 13 then .whole (pack 8 l.1)
          else if k = 1 then .whole (insBits (s.srcAfter (runOf a (spanLen f) ++ if given then [b] else []) d) 128 128 (packNat 4 l.1))
          else .low2 (BitVec.ofNat 64 (packNat 4 l.1)) (BitVec.ofNat 64 (packNat 4 l.1 / 2 ^ 64))
        .done (qblkWrite d b r (if given then none else some (k, e))
          ((s.popAll (if k = 1 then [d] else [])).modMe fun x => { x with rseed := l.2 }))) s

/-- Blocks of a register (Table 05.2). -/
def blocksOf (f : BitVec 4) : Nat := if f = 13 then 2 else if f = 14 then 4 else 1
/-- The 32 values of block `b` of a register in a block or codebook format (R135, R136). -/
def Cell.blockVals (c : Cell) (f : BitVec 4) (b : Nat) (a : V256) : List FVal :=
  if f = 14 then (List.range 4).flatMap fun i =>
    let v := el a 16 (4 * b + i)
    kc2 (Sp.get c.pad.cb (v / 256)) (Sp.get c.pad.fp (v / 256) == 1) v
  else (List.range 32).map fun j => valueOf (blockEl f) (el a (fmtBits f) (32 * b + j))
/-- DQBLK (R172). -/
def execDqblk (h : Hdr) (d a b : Spec) (x : BitVec 2) (s : State) : Answer :=
  issue h 1 true
    (fun s => !okSpecs [] [a, b] || !(decide (11 ≤ s.ef.toNat) && isW s.ef) || !isF s.rf || decide (blocksOf s.ef ≤ x.toNat) ||
      !spanOk d (spanLen s.rf))
    (fun s => match s.streamNeed [a, b].eraseDups [] with
      | some n => .need n
      | none =>
        let t := s.rf
        let e := scaleByte (s.srcAfter [a] b) x.toNat
        let l := roundList (s.me.rsEff none) s.drnd (roundF t) ((s.cell.blockVals s.ef x.toNat (s.src a)).map (scaled e)) s.me.rseed
        let regs := (List.range (spanLen t)).map fun i => pack (fmtBits t) ((l.1.drop (i * count t)).take (count t))
        let put (x : Thread) : Thread :=
          (regs.foldl (fun (p : Thread × Nat) v => (p.1.setReg (BitVec.ofNat 6 (d.toNat + p.2)) v, p.2 + 1)) (x, 0)).1
        .done ((s.popAll [a, b].eraseDups).modMe fun x => ((put { x with rseed := l.2 }).last d (regs.headD 0)))) s

/-! ### Special functions, format register, prefix (R173–R177) -/

/-- VSPEC (R173): a long-latency result. -/
def execVspec (h : Hdr) (d a : Spec) (fn : BitVec 6) (s : State) : Answer :=
  issue h 1 true (fun s => !okSpecs [d] [a] || !isF s.ef || decide (7 < fn.toNat))
    (fun s => match s.streamNeed [a] [d] with
      | some n => .need n
      | none => .done ((s.popAll [a]).outstanding d 256 (map1 s.ef (specEl s.ef (fn.extractLsb' 0 3)) (s.src a)) none)) s
/-- A scale specifier: a g register or none (R50, R51, R176). -/
def scaleOk (sc : Spec) : Bool := isG sc || sc == 0x2E
/-- PFX (R51, R177): writes the latch and sets PP. -/
def execPfx (h : Hdr) (fs fd : BitVec 4) (sc : Spec) (rs : BitVec 2) (s : State) : Answer :=
  .next (if !scaleOk sc || s.me.pp then s.illegal
    else if s.me.guard h then (s.modMe fun x => { x with pp := true, pfx := fs ++ fd ++ sc ++ rs ++ 0#4 }).fall s.cell.last 1 h.w
    else s.fall s.cell.last 1 h.w)
/-- SETFMT (R176). -/
def execSetfmt (h : Hdr) (sc : Spec) (ef rf : BitVec 4) (rs : BitVec 2) (s : State) : Answer :=
  issue h 1 false (fun _ => !scaleOk sc) (fun s => .done (s.modMe fun x => { x with fmt := rs ++ sc ++ rf ++ ef })) s
/-- SETFMT.F (R176). -/
def execSetfmtF (h : Hdr) (ef rf : BitVec 4) (s : State) : Answer :=
  issue h 1 false (fun _ => false) (fun s => .done (s.modMe fun x => { x with fmt := x.fmt.extractLsb' 8 8 ++ rf ++ ef })) s

end Sys2Proof.Machine
end

