-- ==== Sys2Proof/Machine/Matrix.lean ====
section
/-! DEFINITION. The matrix instructions as they issue (R178–R203): leases, the queue, operand sources and checks. -/

namespace Sys2Proof.Machine

/-- The tiles of a mask. -/
def tilesOf (m : BitVec 4) : List (Fin 4) := [0, 1, 2, 3].filter fun i => m.getLsbD i.val
/-- A thread holds a tile: it was granted, and no MREL of it has reached the unit since (R179, R181). -/
def Cell.holds (c : Cell) (t : TIdx) (i : Fin 4) : Bool := c.mx.owner[i] == some t && !c.mx.leaving[i]
/-- It holds every tile of a mask. -/
def Cell.holdsAll (c : Cell) (t : TIdx) (m : BitVec 4) : Bool := (tilesOf m).all (c.holds t)
/-- It holds some tile. -/
def Cell.holdsAny (c : Cell) (t : TIdx) : Bool := [0, 1, 2, 3].any (c.holds t)
/-- Most tiles that a thread may hold; 5 to 7 act as 4 (R184). -/
def Cell.leaseCap (c : Cell) (t : TIdx) : Nat := Nat.min 4 (bits c.mx.mlcap.toNat (3 * t.val) 3)
/-- Requests that are older than one that issues now: in the lease list, or on their way to it (R179, R182). -/
def Cell.olderMasks (c : Cell) : List (BitVec 4) :=
  c.mx.leaseQ.map (·.mask) ++ c.mx.queue.filterMap fun e => match e.op with | .lease m _ => some m | _ => none
/-- A request for these tiles can be granted now, given older requests (R182). -/
def Cell.grantable (c : Cell) (older : List (BitVec 4)) (m : BitVec 4) : Bool :=
  (tilesOf m).all (fun i => c.mx.owner[i].isNone) && older.all fun o => o &&& m == 0
/-- Tiles become a thread's. -/
def Cell.takeTiles (c : Cell) (t : TIdx) (m : BitVec 4) : Cell :=
  { c with mx := { c.mx with owner := Vector.ofFn fun i => if m.getLsbD i.val then some t else c.mx.owner[i] } }

/-- A matrix instruction enters the queue, and counts as an outstanding result of its thread until it is finished
(R179). -/
def State.enqueue (s : State) (op : MOp) : State :=
  let id := s.cell.mx.nextId
  (modFocus s fun c => { c with mx := { c.mx with queue := c.mx.queue ++ [{ id := id, t := c.last, op := op }], nextId := id + 1 } }).modMe
    fun x => { x with outs := x.outs ++ [{ d := 0x2E, bits := 0, val := 0, ready := false, kind := .matrix id }] }
/-- The issue of a matrix instruction: it is not eligible while the queue is full (R62, R179); TIMED_ILLEGAL (R180), then the rest. -/
def matrixIssue (h : Hdr) (len : Nat) (pfx : Bool) (ill : State → Bool) (body : State → Ctl) (s : State) : Answer :=
  eligible (fun s => s.cell.queueNeed)
    (issue h len pfx ill fun s => if s.me.tmd then .fault 0x06 0 else body s) s

/-! ### Leases (R181–R184) -/

/-- MLEASE (R183). -/
def execMlease (h : Hdr) (d : Spec) (m : BitVec 4) (s : State) : Answer :=
  matrixIssue h 1 false (fun _ => !dstOk d || m == 0)
    (fun s =>
      if s.cell.holdsAny s.cell.last ∨ s.cell.leaseCap s.cell.last < (tilesOf m).length then .fault 0x01 0
      else match s.streamNeed [] [d] with
        | some n => .need n
        | none => .hold .parked (.lease m d) (s.enqueue (.lease m d))) s
/-- MLEASE.TRY (R183): in the issue cycle, or not at all. -/
def execMleaseTry (h : Hdr) (d : Spec) (m : BitVec 4) (s : State) : Answer :=
  matrixIssue h 1 false (fun _ => !dstOk d || m == 0)
    (fun s =>
      if s.cell.holdsAny s.cell.last ∨ s.cell.leaseCap s.cell.last < (tilesOf m).length then .fault 0x01 0
      else match s.streamNeed [] [d] with
        | some n => .need n
        | none =>
          if s.cell.grantable s.cell.olderMasks m then
            .done ((modFocus s fun c => c.takeTiles c.last m).putRes d (.low (zx64 m)))
          else .done (s.putRes d (.low 0))) s
/-- MREL (R183): it takes effect when it reaches the unit (R179). -/
def execMrel (h : Hdr) (m : BitVec 4) (s : State) : Answer :=
  matrixIssue h 1 false (fun _ => m == 0)
    (fun s =>
      if !s.cell.holdsAll s.cell.last m then .fault 0x05 0
      else .done (s.enqueue (.rel m))) s
/-- MZERO (R197). -/
def execMzero (h : Hdr) (m : BitVec 4) (s : State) : Answer :=
  matrixIssue h 1 false (fun _ => m == 0)
    (fun s => if !s.cell.holdsAll s.cell.last m then .fault 0x05 0 else .done (s.enqueue (.zero m))) s

/-! ### Modes and operands (R185–R192) -/

/-- K, granules of A and granules of B of a step (Table 07.5). -/
structure MMode where
  k  : Nat
  ga : Nat
  gb : Nat
  deriving DecidableEq, Repr

/-- Both formats are among these. -/
def bothIn (l : List Nat) (af bf : BitVec 4) : Bool := l.contains af.toNat && l.contains bf.toNat
/-- The mode of X and two formats; none is ILLEGAL (Table 07.5). -/
def matrixMode (x : BitVec 2) (af bf : BitVec 4) : Option MMode :=
  if x = 0 then
    if bothIn [0] af bf then some ⟨1, 1, 1⟩
    else if bothIn [1] af bf || bothIn [2] af bf then some ⟨2, 1, 1⟩
    else if bothIn [3, 4] af bf || bothIn [8, 9] af bf then some ⟨4, 1, 1⟩
    else if bothIn [5] af bf || bothIn [10] af bf then some ⟨8, 1, 1⟩
    else if bothIn [11, 12] af bf then some ⟨32, 8, 8⟩
    else if bothIn [13] af bf then some ⟨64, 8, 8⟩
    else none
  else if x = 1 then (if bothIn [3, 4] af bf then some ⟨8, 2, 1⟩ else none)
  else if x = 2 then (if [3, 4, 11, 12].contains af.toNat && bf == 14 then some ⟨32, 8, 2⟩ else none)
  else none
/-- AF_eff (R185). -/
def Thread.afEff (x : Thread) : BitVec 4 := if x.pp && x.pfx.extractLsb' 16 4 != 15 then x.pfx.extractLsb' 16 4 else x.mshape.extractLsb' 0 4
/-- BF_eff. -/
def Thread.bfEff (x : Thread) : BitVec 4 := if x.pp && x.pfx.extractLsb' 12 4 != 15 then x.pfx.extractLsb' 12 4 else x.mshape.extractLsb' 4 4
/-- SA_eff. -/
def Thread.saEff (x : Thread) : Spec := if x.pp then x.pfx.extractLsb' 6 6 else x.mshape.extractLsb' 8 6
/-- SB_eff. -/
def Thread.sbEff (x : Thread) : Spec := x.mshape.extractLsb' 14 6
/-- SPN: two stored values a column (Table 07.4). -/
def Thread.spn (x : Thread) : Bool := x.mshape.getLsbD 20
/-- A format whose operand takes scales (R188). -/
def takesScale (f : BitVec 4) : Bool := decide (11 ≤ f.toNat) && f != 15
/-- The mode of the issuing thread's formats; `sa` and `sb` say whether the step takes the scales of A and of B from their registers,
whose specifiers are checked only then (R139, R185). -/
def State.modeBy (s : State) (x : BitVec 2) (sa sb : Bool) : Option MMode :=
  let t := s.me
  match matrixMode x t.afEff t.bfEff with
  | none => none
  | some m =>
    if (sa && takesScale t.afEff && !scaleOk t.saEff) || (sb && takesScale t.bfEff && !scaleOk t.sbEff) then none else some m
/-- The mode of a short form, whose scales always come from registers. -/
def State.mode (s : State) (x : BitVec 2) : Option MMode := s.modeBy x true true
/-- Scale bytes that stand for 2^0 everywhere (R134, R188). -/
def noScale : V256 := pack 8 (List.replicate 32 0x7F)
/-- A scale source's value at issue. -/
def State.scaleVal (s : State) (before : List Spec) (sc : Spec) : V256 := if isG sc then s.srcAfter before sc else noScale

/-- One past the last specifier of the register file that holds a specifier (R191). -/
def fileEnd (a : Spec) : Nat :=
  let n := a.toNat
  if n < 32 then 32 else if n < 40 then 40 else if n < 42 then 42 else if n < 46 then 46 else 64
/-- A run of `g` registers that an operand may name (R191): a bound stream register as the first, zero, or a run within
one file whose later registers are no bound streams. -/
def State.runOk (s : State) (a : Spec) (g : Nat) : Bool :=
  srcOk a && ((s.cell.bound s.cell.last a).isSome || a == 0x2E ||
    (decide (a.toNat + g ≤ fileEnd a) &&
      (List.range g).all fun i => (s.cell.bound s.cell.last (BitVec.ofNat 6 (a.toNat + i))).isNone))
/-- A stream that cannot supply `k` packets yet (R191, R233). -/
def Stream.short (x : Stream) (k : Nat) : Bool :=
  !x.isWrite && !x.err && decide (x.buf.length < k) && decide (x.fetch < x.packets)
/-- What two runs of registers lack (R191): A before B where both name one stream. -/
def State.runNeed (s : State) (a : Spec) (ga : Nat) (b : Spec) (gb : Nat) : Option Need :=
  match s.cell.bound s.cell.last a, s.cell.bound s.cell.last b with
  | some e, some f =>
    if e = f then (if s.cell.eng.strm[e].short (ga + gb) then some (.packets e (ga + gb)) else none)
    else if s.cell.eng.strm[e].short ga then some (.packets e ga)
    else if s.cell.eng.strm[f].short gb then some (.packets f gb) else none
  | some e, none => if s.cell.eng.strm[e].short ga then some (.packets e ga) else none
  | none, some f => if s.cell.eng.strm[f].short gb then some (.packets f gb) else none
  | none, none => none
/-- `k` packets popped from an engine (R233, R235); what a write stream gives is not stated (assumption 13). -/
def State.popN (s : State) (e : Fin 4) (k : Nat) : State × List V256 :=
  let x := s.cell.eng.strm[e]
  ({ s with cell := s.cell.modStrm e fun x => (List.range k).foldl (fun x _ => x.pop) x, freeIx := s.freeIx + 1 },
   (List.range k).map fun i => if x.isWrite then Config.freeVal s.freeIx else x.buf.getD i 0)
/-- The values of a run (R191). -/
def State.takeRun (s : State) (before : List Spec) (a : Spec) (g : Nat) : State × List V256 :=
  match s.cell.bound s.cell.last a with
  | some e => s.popN e g
  | none => (s, s.runAfter before a g)

/-- A matrix operand descriptor (Table 07.6). -/
structure MDesc where
  base : Nat
  gstr : Nat
  sstr : Nat
  scb  : Nat
  scv  : Bool
  deriving DecidableEq, Repr

/-- The descriptor in lane 0 of an operand register. -/
def descOf (v : W64) : MDesc :=
  let n := v.toNat
  ⟨bits n 0 15, bits n 16 15, bits n 32 15, bits n 48 15, bitOf n 63⟩
/-- A nonzero reserved field. -/
def descReserved (v : W64) : Bool := v.getLsbD 15 || v.getLsbD 31 || v.getLsbD 47
/-- Scale bytes of a step. -/
def scaleStep (f : BitVec 4) : Nat := if f = 13 then 16 else 8
/-- The first misaligned field of a descriptor (R192). -/
def MDesc.misaligned (x : MDesc) (f : BitVec 4) : Option Nat :=
  if x.base % 32 ≠ 0 then some x.base
  else if x.gstr % 32 ≠ 0 then some x.gstr
  else if x.sstr % 32 ≠ 0 then some x.sstr
  else if x.scb % scaleStep f ≠ 0 then some x.scb
  else none
/-- Offset of granule `g` of step `i` (R192). -/
def MDesc.gran (x : MDesc) (i g : Nat) : Nat := x.base + i * x.sstr + g * x.gstr
/-- An access of the last step beyond 0x7FFF (R192). -/
def MDesc.outside (x : MDesc) (f : BitVec 4) (steps g : Nat) : Option Nat :=
  if Config.padBytes < x.gran (steps - 1) (g - 1) + 32 then some (x.gran (steps - 1) (g - 1))
  else if x.scv && takesScale f && decide (Config.padBytes < x.scb + (steps - 1) * scaleStep f + scaleStep f) then
    some (x.scb + (steps - 1) * scaleStep f)
  else none
/-- An operand of a long form: a g, unbound q or c register with a descriptor, or a bound stream register (R192). -/
def longOk (a : Spec) : Bool := decide (a.toNat < 40 ∨ 48 ≤ a.toNat)
/-- The descriptor operands among some, read one after the other, with their formats and granules a step. -/
def State.descs (s : State) (before : List Spec) : List (Spec × BitVec 4 × Nat) → List (W64 × BitVec 4 × Nat)
  | [] => []
  | o :: r =>
    let l := s.descs (o.1 :: before) r
    if (s.cell.bound s.cell.last o.1).isNone then (s.src0After before o.1, o.2.1, o.2.2) :: l else l
/-- A long form takes an operand's scales from its register: the source is a stream, or its descriptor has SCV = 0 (R192). -/
def State.scalesByReg (s : State) (before : List Spec) (a : Spec) : Bool :=
  (s.cell.bound s.cell.last a).isSome || !(descOf (s.src0After before a)).scv
/-- The mode of MMA.L. Whether it takes scales from their registers may follow from SCV in a register's value; an ILLEGAL that depends on
it is raised only when the guard passes (R50). -/
def State.modeL (s : State) (x : BitVec 2) (a b : Spec) : Option MMode := s.modeBy x (s.scalesByReg [] a) (s.scalesByReg [a] b)
/-- An operand of a long form is a bound stream register of the issuing thread, whose scales always come from their register (R192). -/
def State.byStream (s : State) (a : Spec) : Bool := (s.cell.bound s.cell.last a).isSome
/-- The first fault of some descriptors, ILLEGAL, ALIGN, WINDOW in that order (R192). -/
def descFault (l : List (W64 × BitVec 4 × Nat)) (steps : Nat) : Option (BitVec 8 × Nat) :=
  if l.any fun o => descReserved o.1 then some (0x01, 0)
  else match l.findSome? fun o => (descOf o.1).misaligned o.2.1 with
    | some v => some (0x02, v)
    | none => (l.findSome? fun o => (descOf o.1).outside o.2.1 steps o.2.2).map fun v => (0x03, v)
/-- A long form's source (R192). -/
def State.longSrc (s : State) (before : List Spec) (a : Spec) (f : BitVec 4) : MSrc :=
  match s.cell.bound s.cell.last a with
  | some e => .stream e
  | none =>
    let x := descOf (s.src0After before a)
    .desc x.base x.gstr x.sstr (if x.scv && takesScale f then some x.scb else none)

/-! ### MMA and MMR -/

/-- MMA (R195). -/
def execMma (h : Hdr) (t : BitVec 2) (m : BitVec 4) (a b : Spec) (x : BitVec 2) (s : State) : Answer :=
  let ti : Fin 4 := ⟨t.toNat, t.isLt⟩
  matrixIssue h 1 true
    (fun s => (x != 1 && m != 0) || (match s.mode x with
      | none => true
      | some k => !s.runOk a k.ga || !s.runOk b k.gb))
    (fun s =>
      let k := (s.mode x).getD ⟨1, 1, 1⟩
      if !s.cell.holds s.cell.last ti then .fault 0x05 0
      else match s.runNeed a k.ga b k.gb with
        | some n => .need n
        | none =>
          let md := if x = 1 then lane0 (s.src (0#2 ++ m)) else 0
          let ms : List Spec := if x = 1 then [0#2 ++ m] else []
          let u := s.takeRun ms a k.ga
          let v := u.1.takeRun (ms ++ runOf a k.ga) b k.gb
          let l := ms ++ runOf a k.ga ++ runOf b k.gb
          let sa := s.scaleVal l s.me.saEff
          let sb := s.scaleVal (s.me.saEff :: l) s.me.sbEff
          .done (v.1.enqueue (.mma ti x s.me.afEff s.me.bfEff (.regs u.2) (.regs v.2) sa sb s.me.spn md 1 false none))) s
/-- MMA.L (R196). -/
def execMmaL (h : Hdr) (t : BitVec 2) (a b : Spec) (x : BitVec 2) (steps : BitVec 8) (skip : BitVec 1) (mbase : BitVec 15)
    (s : State) : Answer :=
  let ti : Fin 4 := ⟨t.toNat, t.isLt⟩
  let n := steps.toNat + 1
  matrixIssue h 2 true
    (fun s => !longOk a || !longOk b || (s.modeBy x (s.byStream a) (s.byStream b)).isNone || (x != 1 && (skip != 0 || mbase != 0)))
    (fun s =>
      let k := (s.modeL x a b).getD ⟨1, 1, 1⟩
      if (s.modeL x a b).isNone then .fault 0x01 0
      else if !s.cell.holds s.cell.last ti then .fault 0x05 0
      else
        let ds := s.descs [] [(a, s.me.afEff, k.ga), (b, s.me.bfEff, k.gb)]
        match descFault ds n with
        | some (0x01, _) => .fault 0x01 0
        | some (0x02, v) => .fault 0x02 (BitVec.ofNat 64 v)
        | r =>
          if x = 1 ∧ mbase.toNat % 8 ≠ 0 then .fault 0x02 (zx64 mbase)
          else match r with
            | some (c, v) => .fault c (BitVec.ofNat 64 v)
            | none =>
              if x = 1 ∧ Config.padBytes < mbase.toNat + 8 * n then .fault 0x03 (BitVec.ofNat 64 (mbase.toNat + 8 * (n - 1)))
              else .done (s.enqueue (.mma ti x s.me.afEff s.me.bfEff (s.longSrc [] a s.me.afEff) (s.longSrc [a] b s.me.bfEff)
                (s.scaleVal [a, b] s.me.saEff) (s.scaleVal [a, b, s.me.saEff] s.me.sbEff) s.me.spn 0 n (skip == 1) (if x = 1 then some mbase.toNat else none)))) s
/-- The issue of MMR or MMR.L: not eligible while the outgoing exchange of its direction is outstanding (R203). -/
def ringIssue (h : Hdr) (len : Nat) (x : BitVec 2) (ill : State → Bool) (body : State → Ctl) (s : State) : Answer :=
  eligible (fun s => s.cell.torusNeed x) (matrixIssue h len true ill body) s
/-- MMR (R203): B is a run of g registers. -/
def execMmr (h : Hdr) (t : BitVec 2) (a b : Spec) (x : BitVec 2) (s : State) : Answer :=
  let ti : Fin 4 := ⟨t.toNat, t.isLt⟩
  ringIssue h 1 x
    (fun s => match s.mode 0 with
      | none => true
      | some k => !s.runOk a k.ga || !spanOk b k.gb)
    (fun s =>
      let k := (s.mode 0).getD ⟨1, 1, 1⟩
      if !s.cell.holds s.cell.last ti then .fault 0x05 0
      else match s.runNeed a k.ga 0x2E 0 with
        | some n => .need n
        | none =>
          let u := s.takeRun [] a k.ga
          let l := runOf a k.ga ++ runOf b k.gb
          .done (u.1.enqueue (.mmr ti s.me.afEff s.me.bfEff (.regs u.2) b (s.runAfter (runOf a k.ga) b k.gb) (s.scaleVal l s.me.saEff)
            (s.scaleVal (s.me.saEff :: l) s.me.sbEff) x 1))) s
/-- MMR.L (R203). -/
def execMmrL (h : Hdr) (t : BitVec 2) (a b : Spec) (x : BitVec 2) (steps : BitVec 8) (s : State) : Answer :=
  let ti : Fin 4 := ⟨t.toNat, t.isLt⟩
  let n := steps.toNat + 1
  ringIssue h 2 x
    (fun s => match s.modeBy 0 (s.byStream a) true with
      | none => true
      | some k => !longOk a || !spanOk b k.gb)
    (fun s =>
      let k := (s.modeBy 0 (s.scalesByReg [] a) true).getD ⟨1, 1, 1⟩
      if (s.modeBy 0 (s.scalesByReg [] a) true).isNone then .fault 0x01 0
      else if !s.cell.holds s.cell.last ti then .fault 0x05 0
      else match descFault (s.descs [] [(a, s.me.afEff, k.ga)]) n with
        | some (c, v) => .fault c (BitVec.ofNat 64 v)
        | none => .done (s.enqueue (.mmr ti s.me.afEff s.me.bfEff (s.longSrc [] a s.me.afEff) b (s.runAfter [a] b k.gb)
          (s.scaleVal (a :: runOf b k.gb) s.me.saEff) (s.scaleVal (s.me.saEff :: a :: runOf b k.gb) s.me.sbEff) x n))) s

/-! ### Scratchpad reads of a queued instruction (R192, R194) -/

/-- The bytes of a range that lie in the granule of an address. -/
def inGran (lo n a : Nat) : Nat × Nat :=
  let g := a / 32 * 32
  (Nat.max lo g, Nat.min (lo + n) (g + 32) - Nat.max lo g)
/-- The scratchpad bytes that step `i` of an operand reads, granule by granule; of a granule of scale bytes all that the instruction's
steps use, since it is read once. -/
def MSrc.wants (m : MSrc) (f : BitVec 4) (g steps i : Nat) : List (Nat × Nat) :=
  match m with
  | .desc base gstr sstr scb =>
    ((List.range g).map fun j => (base + i * sstr + j * gstr, 32)) ++
      (match scb with | some o => [inGran o (steps * scaleStep f) (o + i * scaleStep f)] | none => [])
  | _ => []
/-- The scratchpad bytes of the metadata of step `i` (R196). -/
def metaWants (mb : Option Nat) (steps i : Nat) : List (Nat × Nat) :=
  match mb with | some o => [inGran o (8 * steps) (o + 8 * i)] | none => []
/-- Bytes of a tile's image (R198). -/
def imageBytes (f : BitVec 4) : Nat := 8 * fmtBits f
/-- Steps of an instruction that the unit executes step by step. -/
def MEntry.steps (e : MEntry) : Nat := match e.op with | .mma _ _ _ _ _ _ _ _ _ _ n _ _ => n | .mmr _ _ _ _ _ _ _ _ _ n => n | _ => 1
/-- The scratchpad bytes that the step `k` steps ahead reads, if it is not skipped; an MMR that awaits an exchange has read its own
(R203). -/
def MEntry.wants (e : MEntry) (k : Nat) : List (Nat × Nat) :=
  match e.op with
  | .mma _ x af bf a b _ _ _ _ n _ mb => (match matrixMode x af bf with
      | some m => a.wants af m.ga n (e.step + k) ++ b.wants bf m.gb n (e.bix + k)
      | none => []) ++ metaWants mb n (e.step + k)
  | .mmr _ af bf a _ _ _ _ _ n => (match matrixMode 0 af bf with
      | some m => if e.sent && k == 0 then [] else a.wants af m.ga n (e.step + k)
      | none => [])
  | .load _ o f => (List.range (imageBytes f / 32)).map fun i => (o + 32 * i, 32)
  | .cbload o _ n => (gransOf o (4 * n + (n + 7) / 8)).map fun g => inGran o (4 * n + (n + 7) / 8) g
  | _ => []
/-- The instruction has not read the granule of these bytes. -/
def MEntry.unread (e : MEntry) (r : Nat × Nat) : Bool := (KM.get e.got (r.1 / 32 * 32)).isNone
/-- Bytes of a granule that the instruction has read. -/
def MEntry.bytes (e : MEntry) (a n : Nat) : Nat := bits ((KM.get e.got (a / 32 * 32)).getD 0).toNat (8 * (a % 32)) (8 * n)
/-- A granule that the instruction has read. -/
def MEntry.gran (e : MEntry) (a : Nat) : V256 := BitVec.ofNat 256 (e.bytes a 32)
/-- The bytes that the step in hand still has to read; with SKIP the operands' only after metadata that is not zero (R196). -/
def MEntry.lacks (e : MEntry) : List (Nat × Nat) :=
  match e.op with
  | .mma _ _ _ _ _ _ _ _ _ _ n true (some o) =>
    let l := (metaWants (some o) n e.step).filter e.unread
    if !l.isEmpty then l else if e.bytes (o + 8 * e.step) 8 = 0 then [] else (e.wants 0).filter e.unread
  | _ => (e.wants 0).filter e.unread

/-! ### MST, CBLOAD, MRED (R198–R200) -/

/-- F_S or F_L (R198). -/
def Thread.mstFmt (x : Thread) (load : Bool) : BitVec 4 :=
  let f : BitVec 4 := if load then x.pfx.extractLsb' 16 4 else x.pfx.extractLsb' 12 4
  if x.pp && f != 15 then f else 0
/-- FP32, I32, BF16, FP16. -/
def mstOk (f : BitVec 4) : Bool := f == 0 || f == 6 || f == 1 || f == 2
/-- The offset of MST.S and MST.L: an exact sum (R10, R198). -/
def State.tileAddr (s : State) (a : Spec) (off : BitVec 6) : Nat := (s.src0 a).toNat + 32 * off.toNat
/-- MST.S or MST.L once the guard has passed: LEASE, ALIGN, WINDOW, then the queue. -/
def movesTile (ti : Fin 4) (f : BitVec 4) (o : Nat) (op : MOp) (s : State) : Ctl :=
  if !s.cell.holds s.cell.last ti then .fault 0x05 0
  else if o % 32 ≠ 0 then .fault 0x02 (BitVec.ofNat 64 o)
  else if !inPad o (imageBytes f) then .fault 0x03 (BitVec.ofNat 64 o)
  else .done (s.enqueue op)
/-- MST.S (R198). -/
def execMstS (h : Hdr) (t : BitVec 2) (a : Spec) (off : BitVec 6) (s : State) : Answer :=
  let ti : Fin 4 := ⟨t.toNat, t.isLt⟩
  matrixIssue h 1 true (fun s => !srcOk a || !mstOk (s.me.mstFmt false))
    (fun s => match s.streamNeed [a] [] with
      | some n => .need n
      | none =>
        let f := s.me.mstFmt false
        let o := s.tileAddr a off
        movesTile ti f o (.store ti o f (s.me.rsEff none)) (s.popAll [a])) s
/-- MST.R (R198). -/
def execMstR (h : Hdr) (d : Spec) (t : BitVec 2) (s : State) : Answer :=
  let ti : Fin 4 := ⟨t.toNat, t.isLt⟩
  matrixIssue h 1 true (fun s => !mstOk (s.me.mstFmt false) || !spanOk d (fmtBits (s.me.mstFmt false) / 4))
    (fun s =>
      if !s.cell.holds s.cell.last ti then .fault 0x05 0
      else .done (s.enqueue (.toRegs ti d (s.me.mstFmt false) (s.me.rsEff none)))) s
/-- MST.L (R198). -/
def execMstL (h : Hdr) (t : BitVec 2) (a : Spec) (off : BitVec 6) (s : State) : Answer :=
  let ti : Fin 4 := ⟨t.toNat, t.isLt⟩
  matrixIssue h 1 true (fun s => !srcOk a || !mstOk (s.me.mstFmt true))
    (fun s => match s.streamNeed [a] [] with
      | some n => .need n
      | none =>
        let f := s.me.mstFmt true
        let o := s.tileAddr a off
        movesTile ti f o (.load ti o f) (s.popAll [a])) s
/-- CBLOAD (R199). -/
def execCbload (h : Hdr) (a : Spec) (s : State) : Answer :=
  matrixIssue h 1 false (fun _ => !srcOk a)
    (fun s => match s.streamNeed [a] [] with
      | some n => .need n
      | none =>
        let v := s.src0 a
        let off := bits v.toNat 0 15
        let first := bits v.toNat 16 8
        let n := bits v.toNat 24 8 + 1
        if v.getLsbD 15 ∨ v.extractLsb' 32 32 ≠ 0 ∨ 256 < first + n then .fault 0x01 0
        else if off % 4 ≠ 0 then .fault 0x02 (BitVec.ofNat 64 off)
        else if !inPad off (4 * n + (n + 7) / 8) then .fault 0x03 (BitVec.ofNat 64 off)
        else .done ((s.popAll [a]).enqueue (.cbload off first n))) s
/-- MRED and MRED.Z (R200, R304). -/
def execMred (h : Hdr) (t : BitVec 2) (a : Spec) (x : BitVec 1) (s : State) : Answer :=
  let ti : Fin 4 := ⟨t.toNat, t.isLt⟩
  matrixIssue h 1 false (fun _ => !srcOk a)
    (fun s => match s.streamNeed [a] [] with
      | some n => .need n
      | none =>
        match s.specTag (s.src0 a) 8 with
        | none => .fault 0x01 0
        | some tag =>
          if !s.cell.holds s.cell.last ti then .fault 0x05 0
          else .done ((s.popAll [a]).enqueue (.mred ti (BitVec.ofNat 12 tag) (specEmpty (s.src0 a)) (x == 1)))) s

end Sys2Proof.Machine
end

