-- ==== Sys2Proof/Machine/MatrixUnit.lean ====
section
/-! DEFINITION. The matrix unit at work (R179, R187–R203): one step of the queue's head, lease grants, torus exchanges. -/

namespace Sys2Proof.Machine

/-! ### One multiply-accumulate step (R187–R190) -/

/-- Consecutive groups of `n` values. -/
def groupsOf {α : Type} (n : Nat) (l : List α) : List (List α) :=
  (List.range ((l.length + n - 1) / n)).map fun i => (l.drop (i * n)).take n
/-- The block result of R147. -/
def blockResult (ea eb : Nat) (g : FVal) : FVal :=
  if ea = 0xFF ∨ eb = 0xFF then .nan
  else match g with
    | .fin n m e => if m = 0 then .fin false 0 0 else .fin n m (e + (ea - 127) + (eb - 127))
    | v => v
/-- The K codes of row `i` (or column `i`) of an operand in a dense or block layout (R187). -/
def rowCodes (f : BitVec 4) (k : Nat) (gs : List V256) (i : Nat) : List Nat :=
  if k ≤ 8 then (List.range k).map fun j => el (gs.getD 0 0) (fmtBits f) (k * i + j)
  else els (gs.getD i 0) (fmtBits f) k
/-- The A codes of a row in sparse mode: k 0–3 from granule 0, k 4–7 from granule 1 (R187). -/
def sparseRow (gs : List V256) (i : Nat) : List Nat :=
  ((List.range 4).map fun j => el (gs.getD 0 0) 8 (4 * i + j)) ++ (List.range 4).map fun j => el (gs.getD 1 0) 8 (4 * i + j)
/-- The weights of a column in sparse mode, absent ones none (R189). -/
def sparseCol (f : BitVec 4) (n : Nat) (g : V256) (meta_ col : Nat) : List (Option FVal) :=
  (List.range 8).map fun k =>
    let m := bits meta_ (8 * col) 8
    let before := popcBelow m k
    if bitOf m k && decide (before < n) then some (valueOf f (el g 8 (n * col + before))) else none
where
  /-- Set bits below position `k`. -/
  popcBelow (m k : Nat) : Nat := ((List.range k).filter fun i => bitOf m i).length
/-- Products of two rows of values. -/
def prods (a b : List FVal) : List FVal := List.zipWith FVal.mul a b
/-- A word accumulates groups in order, one rounding each (R145). -/
def accGroups (acc : Nat) (gs : List (List FVal)) : Nat := gs.foldl (fun a g => acc32 a (sumF g)) acc
/-- Group size of a floating format that has no scale (Table 05.8). -/
def groupSize (f : BitVec 4) : Nat := if f = 0 then 1 else if f = 1 ∨ f = 2 then 2 else 4
/-- Element format of an operand's stored values. -/
def storedFmt (f : BitVec 4) : BitVec 4 := if takesScale f then blockEl f else f
/-- The scale code of block `b` of row or column `i` (R188). -/
def scaleCode (f : BitVec 4) (v : V256) (i b : Nat) : Nat :=
  if !takesScale f then 0x7F else if f = 13 then scaleByte v (2 * i + b) else scaleByte v i
/-- What a step needs besides its granules: mode X, formats, scale bytes, sparse metadata and N. -/
structure StepArgs where
  x    : BitVec 2
  af   : BitVec 4
  bf   : BitVec 4
  sa   : V256
  sb   : V256
  md   : Nat
  n    : Nat
  deriving DecidableEq, Repr
/-- One output word after one step (R190). -/
def Cell.stepWord (c : Cell) (p : StepArgs) (k : Nat) (ga gb : List V256) (row col acc : Nat) : Nat :=
  if p.x = 1 then
    let ps := List.zipWith (fun a (w : Option FVal) => match w with
      | some v => FVal.mul (valueOf p.af a) v
      | none => .fin false 0 0) (sparseRow ga row) (sparseCol p.bf p.n (gb.getD 0 0) p.md col)
    accGroups acc (groupsOf 4 ps)
  else if p.x = 2 then
    let a := (rowCodes p.af 32 ga row).map (valueOf (storedFmt p.af))
    let w := c.blockVals 14 (col % 4) (gb.getD (col / 4) 0)
    acc32 acc (blockResult (scaleCode p.af p.sa row 0) (scaleCode p.bf p.sb col 0) (sumF (prods a w)))
  else if isN p.af || p.af == 10 then
    let s := (List.zipWith (fun a b => keyN p.af a * keyN p.bf b) (rowCodes p.af k ga row) (rowCodes p.bf k gb col)).foldl (· + ·) 0
    wrapOf 32 ((acc : Int) + s)
  else
    let a := (rowCodes p.af k ga row).map (valueOf (storedFmt p.af))
    let b := (rowCodes p.bf k gb col).map (valueOf (storedFmt p.bf))
    if takesScale p.af then
      ((groupsOf 32 (prods a b)).foldl (fun (r : Nat × Nat) g =>
        (acc32 r.1 (blockResult (scaleCode p.af p.sa row r.2) (scaleCode p.bf p.sb col r.2) (sumF g)), r.2 + 1)) (acc, 0)).1
    else accGroups acc (groupsOf (groupSize p.af) (prods a b))
/-- A tile after one step (R190). -/
def Cell.stepTile (c : Cell) (p : StepArgs) (k : Nat) (ga gb : List V256) (tile : Sparse 32) : Sparse 32 :=
  Sp.setMany [] 0 ((List.range 64).map fun i =>
    BitVec.ofNat 32 (c.stepWord p k ga gb (i / 8) (i % 8) (Sp.get tile i).toNat))
/-- A tile of the cell. -/
def Cell.tile (c : Cell) (t : Fin 4) : Sparse 32 := c.mx.tiles[t]
/-- Write a tile. -/
def Cell.setTile (c : Cell) (t : Fin 4) (x : Sparse 32) : Cell := { c with mx := { c.mx with tiles := c.mx.tiles.set t.val x t.isLt } }

/-! ### Operands at execution (R191–R194) -/

/-- The pops that `g` granules of an operand take. -/
def MSrc.pops (m : MSrc) (g : Nat) : List (Fin 4) := match m with | .stream n => List.replicate g n | _ => []
/-- The granules of step `i` of an operand, of those that its instruction has read, or has popped after `before` others. -/
def MSrc.take (m : MSrc) (e : MEntry) (before i g : Nat) : List V256 :=
  match m with
  | .regs gs => gs
  | .desc base gstr sstr _ => (List.range g).map fun j => e.gran (base + i * sstr + j * gstr)
  | .stream _ => (e.popped.drop before).take g
/-- The scale bytes of step `i` of an operand: of those that its instruction has read, or of a register. -/
def MSrc.scales (m : MSrc) (e : MEntry) (f : BitVec 4) (v : V256) (i : Nat) : V256 :=
  match m with | .desc _ _ _ (some o) => BitVec.ofNat 256 (e.bytes (o + i * scaleStep f) (scaleStep f)) | _ => v

/-! ### The head of the queue (R179) -/

/-- Change the queue's head. -/
def Cell.modHead (c : Cell) (f : MEntry → MEntry) : Cell :=
  { c with mx := { c.mx with queue := match c.mx.queue with | [] => [] | e :: r => f e :: r } }
/-- A matrix instruction is finished: it leaves the queue, and its thread has one result fewer outstanding. -/
def State.unmark (s : State) (t : TIdx) (id : Nat) : State :=
  ((s.modTh t fun x => { x with outs := x.outs.filter fun o => o.kind != .matrix id }).settle t).settle 0
/-- A queued instruction names a tile (R181). -/
def MOp.names (o : MOp) (i : Fin 4) : Bool :=
  match o with
  | .lease .. => false
  | .rel _ => false
  | .cbload .. => false
  | .zero m => m.getLsbD i.val
  | .mma t .. => t == i
  | .mmr t .. => t == i
  | .store t .. => t == i
  | .toRegs t .. => t == i
  | .load t .. => t == i
  | .mred t .. => t == i
/-- Tiles that an MREL has given back become free where no queued instruction names them (R181). -/
def Matrix.freeLeft (x : Matrix) : Matrix :=
  let gone (i : Fin 4) : Bool := x.leaving[i] && !(x.queue.any fun e => e.op.names i)
  { x with owner := Vector.ofFn fun i => if gone i then none else x.owner[i], leaving := Vector.ofFn fun i => x.leaving[i] && !gone i }
/-- The head leaves the queue. -/
def State.popHead (s : State) : State := modFocus s fun c => { c with mx := ({ c.mx with queue := c.mx.queue.drop 1 } : Matrix).freeLeft }
/-- The head is finished. -/
def State.finishHead (s : State) (e : MEntry) : State := s.popHead.unmark e.t e.id
/-- A step of the head is done: the next one, or the end. -/
def State.stepDone (s : State) (e : MEntry) (steps : Nat) (f : MEntry → MEntry) (last : State → State) : State :=
  if e.step + 1 < steps then modFocus s (·.modHead fun e => { f e with step := e.step + 1, popped := [] }) else (last s).finishHead e
/-- A step that pops packets goes on with all of them; until then it pops the next one, where its engine has one or will give zero (R192,
R233). It takes from the engine that it named as it issued, as that engine now stands (assumption 105). -/
def State.withPops (s : State) (e : MEntry) (l : List (Fin 4)) (go : State) : State :=
  match l[e.popped.length]? with
  | none => go
  | some n =>
    if s.cell.eng.strm[n].bound && s.cell.eng.strm[n].short 1 then s
    else
      let r := s.popN n 1
      modFocus r.1 (·.modHead fun e => { e with popped := e.popped ++ r.2 })

/-- A step of MMA or MMA.L (R190, R196). -/
def State.mmaStep (s : State) (e : MEntry) (t : Fin 4) (p : StepArgs) (a b : MSrc) (steps : Nat) (skip : Bool)
    (mbase : Option Nat) : State :=
  match matrixMode p.x p.af p.bf with
  | none => s.finishHead e
  | some k =>
    let md := match mbase with | some o => e.bytes (o + 8 * e.step) 8 | none => p.md
    if skip ∧ md = 0 then s.withPops e (a.pops k.ga) (s.stepDone e steps id id)
    else
      let q := { p with sa := a.scales e p.af p.sa e.step, sb := b.scales e p.bf p.sb e.bix, md := md }
      let u := a.take e 0 e.step k.ga
      let v := b.take e (a.pops k.ga).length e.bix k.gb
      s.withPops e (a.pops k.ga ++ b.pops k.gb)
        ((modFocus s fun c => c.setTile t (c.stepTile q k.k u v (c.tile t))).stepDone e steps (fun e => { e with bix := e.bix + 1 }) id)

/-- The ring member one place on in a direction of data, from the cell in hand (R201, R203). -/
def State.downstream (s : State) (dir : BitVec 2) : Name :=
  match bootPos s s.cell.name.toNat with
  | none => s.cell.name
  | some p =>
    let east := dir == 0 || dir == 2
    let l := if dir.toNat < 2 then ringCols s p else ringRows s p
    let i := (l.filter (· < (if dir.toNat < 2 then p.col else p.row))).length
    let j := l.getD ((if east then i + 1 else i + l.length - 1) % Nat.max 1 l.length) 0
    let q : Pos := if dir.toNat < 2 then { p with col := j } else { p with row := j }
    match unshiftCol (badCols s q.die q.row) q.col with
    | some c => BitVec.ofNat 20 (nameDie s.cell.name.toNat * 2 ^ 14 + idxOf q.row c)
    | none => s.cell.name
/-- sys.MSTEP after an exchange taken in a direction (R202). -/
def State.countStep (s : State) (dir : BitVec 2) : State :=
  let up (x n : Nat) : BitVec 8 := BitVec.ofNat 8 ((x + 1) % n)
  let down (x n : Nat) : BitVec 8 := BitVec.ofNat 8 ((x + n - 1) % n)
  modFocus s fun c => { c with mx :=
    if dir = 0 then { c.mx with hstep := up c.mx.hstep.toNat s.hlen }
    else if dir = 1 then { c.mx with hstep := down c.mx.hstep.toNat s.hlen }
    else if dir = 2 then { c.mx with vstep := up c.mx.vstep.toNat s.vlen }
    else { c.mx with vstep := down c.mx.vstep.toNat s.vlen } }
/-- The granules that an MMR takes of an exchange: as many as its B run, missing ones zero (R203). -/
def takeExchange (n : Nat) (gs : List V256) : List V256 := (List.range n).map fun i => gs.getD i 0
/-- A step of MMR or MMR.L (R203): multiply and send; then, when the neighbour's exchange is in, take it. -/
def State.mmrStep (s : State) (e : MEntry) (t : Fin 4) (p : StepArgs) (a : MSrc) (breg : Spec) (bval : List V256)
    (dir : BitVec 2) (steps : Nat) : State :=
  match matrixMode 0 p.af p.bf with
  | none => s.finishHead e
  | some k =>
    if !e.sent then
      if s.cell.mx.torOut[dir.toNat]'dir.isLt then s
      else
        let s' := modFocus s fun c =>
          let c := c.setTile t (c.stepTile { p with sa := a.scales e p.af p.sa e.step } k.k (a.take e 0 e.step k.ga) bval (c.tile t))
          { c with mx := { c.mx with torOut := c.mx.torOut.set dir.toNat true dir.isLt } }
        s.withPops e (a.pops k.ga) (modFocus { s' with cnet := s'.cnet ++ [.torus s'.cell.name (s'.downstream dir) dir bval] }
          (·.modHead fun e => { e with sent := true }))
    else match s.cell.mx.torIn[dir.toNat]'dir.isLt with
      | none => s
      | some gs =>
        let b := takeExchange k.gb gs
        let s' := (modFocus s fun c => { c with mx := { c.mx with torIn := c.mx.torIn.set dir.toNat none dir.isLt } }).countStep dir
        s'.stepDone e steps
          (fun e => { e with sent := false, op := match e.op with
            | .mmr t af bf a breg _ sa sb dir steps => .mmr t af bf a breg b sa sb dir steps
            | o => o })
          (fun s => s.modTh e.t fun x =>
            (b.foldl (fun (r : Thread × Nat) v => (r.1.setReg (BitVec.ofNat 6 (breg.toNat + r.2)) v, r.2 + 1)) (x, 0)).1)

/-- The words of a tile in order, in a store format; a 16-bit format rounds each (R198). -/
def State.tileWords (s : State) (t : TIdx) (ti : Fin 4) (f : BitVec 4) (rs : BitVec 2) : List Nat × W64 :=
  let ws := (List.range 64).map fun i => (Sp.get (s.cell.tile ti) i).toNat
  if f = 0 ∨ f = 6 then (ws, (s.cell.th t).rseed)
  else roundList rs s.drnd (fun mo w => roundF f mo (valueOf 0 w)) ws (s.cell.th t).rseed
/-- The granules that an MST still has to write, with their places: all of them, rounded, when it reaches the unit, and from then on what
its entry keeps (R198). -/
def State.tileImage (s : State) (e : MEntry) (ti : Fin 4) (f : BitVec 4) (rs : BitVec 2) : State × List (Nat × V256) :=
  if e.step = 0 then
    let r := s.tileWords e.t ti f rs
    let v := packNat (fmtBits f) r.1
    (s.modTh e.t fun x => { x with rseed := r.2 }, (List.range (imageBytes f / 32)).map fun i => (i, BitVec.ofNat 256 (v / 2 ^ (256 * i))))
  else (s, e.img)
/-- A step of MST.S or MST.R: `put` writes one of the granules left, in no specified order, each at a point of its own (R67, R198, R310,
assumption 94). -/
def State.moveTile (s : State) (e : MEntry) (ti : Fin 4) (f : BitVec 4) (rs : BitVec 2) (put : Nat → V256 → State → State) : State :=
  let r := s.tileImage e ti f rs
  match r.2[choose s r.2.length]? with
  | none => r.1.finishHead e
  | some g => (put g.1 g.2 (fresh r.1)).stepDone e (imageBytes f / 32) (fun e => { e with img := r.2.filter (·.1 != g.1) }) id
/-- A step of MST.S: a granule to scratchpad, one write (R198). -/
def State.storeTile (s : State) (e : MEntry) (ti : Fin 4) (o : Nat) (f : BitVec 4) (rs : BitVec 2) : State :=
  s.moveTile e ti f rs fun i v s => s.padStore (o + 32 * i) 32 v.toNat
/-- A step of MST.R: a granule to a g register (R198). -/
def State.tileToRegs (s : State) (e : MEntry) (ti : Fin 4) (d : Spec) (f : BitVec 4) (rs : BitVec 2) : State :=
  s.moveTile e ti f rs fun i v s => s.modTh e.t fun x => x.setReg (BitVec.ofNat 6 (d.toNat + i)) v
/-- MST.L at the unit (R198). -/
def State.loadTile (s : State) (e : MEntry) (ti : Fin 4) (o : Nat) (f : BitVec 4) : State :=
  let v := packNat 256 ((List.range (imageBytes f / 32)).map fun i => (e.gran (o + 32 * i)).toNat)
  let w (i : Nat) : Nat := bits v (fmtBits f * i) (fmtBits f)
  modFocus s fun c => c.setTile ti (Sp.setMany [] 0 ((List.range 64).map fun i =>
    BitVec.ofNat 32 (if f = 0 ∨ f = 6 then w i else roundF 0 .rne (valueOf f (w i)))))
/-- A step of CBLOAD: the next entry and its parity bit, in ascending order (R199). -/
def State.loadCodebook (s : State) (e : MEntry) (off first n : Nat) : State :=
  let i := e.step
  (modFocus s fun c => c.modPad fun p =>
    { p with cb := Sp.set p.cb (first + i) (BitVec.ofNat 32 (e.bytes (off + 4 * i) 4)),
             fp := Sp.set p.fp (first + i) (BitVec.ofNat 1 (e.bytes (off + 4 * n + i / 8) 1 / 2 ^ (i % 8))) }).stepDone e n id id
/-- A tile as the eight granules of a contribution (R200). -/
def Cell.tileGrans (c : Cell) (t : Fin 4) : List V256 :=
  (List.range 8).map fun i => pack 32 ((List.range 8).map fun j => (Sp.get (c.tile t) (8 * i + j)).toNat)

/-- What the head of the queue does once it has read what its step reads (R179). -/
def State.unitDo (s : State) (e : MEntry) : State :=
  match e.op with
  | .lease m d => modFocus s.popHead fun c => { c with mx := { c.mx with leaseQ := c.mx.leaseQ ++ [⟨e.id, e.t, m, d⟩] } }
  | .rel m =>
    (modFocus s fun c => { c with mx := { c.mx with
      leaving := Vector.ofFn fun i => c.mx.leaving[i] || (m.getLsbD i.val && c.mx.owner[i] == some e.t) } }).finishHead e
  | .zero m => (modFocus s fun c => (tilesOf m).foldl (fun c t => c.setTile t []) c).finishHead e
  | .mma t x af bf a b sa sb n2 md steps skip mbase =>
    s.mmaStep e t ⟨x, af, bf, sa, sb, md.toNat, if n2 then 2 else 4⟩ a b steps skip mbase
  | .mmr t af bf a breg bval sa sb dir steps => s.mmrStep e t ⟨0, af, bf, sa, sb, 0, 4⟩ a breg bval dir steps
  | .store t o f rs => s.storeTile e t o f rs
  | .toRegs t d f rs => s.tileToRegs e t d f rs
  | .load t o f => (s.loadTile e t o f).finishHead e
  | .cbload off first n => s.loadCodebook e off first n
  | .mred t tag empty z =>
    if s.cell.red.buf.isSome then s
    else (modFocus s fun c =>
      let c := c.contribute tag.toNat empty (c.tileGrans t)
      if z then c.setTile t [] else c).finishHead e
/-- What the head of the queue does next, if it can: a granule that its step reads is read, in no specified order, each at a point of its
own and once (R194, R310), with none left the step; a read waits below an open watermark (R217). A granule takes the value that it has at
this read, and the granules of a later step are read after the steps before it (assumption 94). -/
def State.unitStep (s : State) (e : MEntry) : State :=
  match e.lacks with
  | [] => s.unitDo e
  | l =>
    let l := l.filter fun r => !s.cell.unmarkedBut e.exempt r.1 r.2
    match l[choose s l.length]? with
    | none => s
    | some r =>
      let g := r.1 / 32 * 32
      let x := (fresh s).unitRead g 32
      modFocus x.1 (·.modHead fun e => { e with got := KM.put e.got g (BitVec.ofNat 256 x.2) })
/-- MATRIX_EXECUTE (R179): one granule's read or one step of the oldest queued instruction; it waits where the manual says it waits. -/
def execMatrixExecute (c : Name) (s : State) : Answer :=
  .next (within s c.toNat fun s => match s.cell.mx.queue with | [] => s | e :: _ => s.unitStep e)

/-! ### Leases (R182, R183) -/

/-- T0 waits for a tile whose holder is faulted (R183). -/
def Cell.leaseDead (c : Cell) : Bool :=
  match (c.th 0).wait with
  | .lease m _ => (tilesOf m).any fun i => match c.mx.owner[i] with | some t => (c.th t).st == .faulted | none => false
  | _ => false
/-- A request is granted: the tiles, D, and the thread goes on (R182, R183). -/
def State.grantLease (s : State) (r : LeaseReq) : State :=
  let s := modFocus s fun c =>
    let c := { c with mx := { c.mx with leaseQ := c.mx.leaseQ.filter (·.id != r.id) } }
    let c := c.takeTiles r.t r.mask
    let c := c.write r.t r.d (c.resVal r.t s.freeIx r.d (.low (zx64 r.mask)))
    c.modTh r.t fun x => ({ x with outs := x.outs.filter fun o => o.kind != .matrix r.id } : Thread).fall 1 x.wmark
  (fresh s).settle r.t
/-- The list is examined from the oldest on; `older` are the requests passed over (R182). -/
def State.grantAll (s : State) : List LeaseReq → List (BitVec 4) → State
  | [], _ => s
  | r :: l, older =>
    if s.cell.grantable older r.mask then (s.grantLease r).grantAll l older else s.grantAll l (older ++ [r.mask])
/-- LEASE_GRANT (R182); a wait of T0 on a faulted holder is a lead fault (R183). -/
def execLeaseGrant (c : Name) (s : State) : Answer :=
  .next (within s c.toNat fun s =>
    let s := if s.cell.leaseDead then (modFocus s (·.withdraw 0)).fault 0 (faultAt 0x07 (s.cell.th 0).pc 0) else s
    s.grantAll s.cell.mx.leaseQ [])

end Sys2Proof.Machine
end

