-- ==== Sys2Proof/Machine/Boundary.lean ====
section
/-! DEFINITION. The boundary of a tumbler that rotates, and of a partition that is pre-empted: when a thread and a cell have come to
rest (R72, R86, R205), and what is held until the resume (R86, R260, R301, R358, R363); torus exchanges (R203). -/

namespace Sys2Proof.Machine

/-- The tumbler at a place rotates. -/
def rotating (s : State) (p : Pos) : Bool := (tumbler s p.die (tumOf p.row p.col)).busy
/-- A thread waits before an instruction that it has not begun: for the wait marker, or for what that instruction needs. -/
def Wait.between (w : Wait) : Bool := match w with | .marker => true | .need _ => true | _ => false
/-- Outside every block, or between a FETCHB and the first word of the block that it fetched (R72, R86, R98). -/
def Thread.outside (x : Thread) : Bool := !x.inb || (x.fetched && x.pc == x.blkAt && (x.st == .running || x.wait.between))
/-- A long-latency result that does not keep a cell from rest: a remote atomic's, and that of a matrix instruction that waits in the
queue (R86, R205). -/
def LongRes.mayWait (o : LongRes) : Bool := match o.kind with | .remote _ => true | .matrix _ => !o.ready | .local_ => false | .divider => false
/-- A thread stands at an instruction boundary outside every block, or has stopped; its deposit is complete; of its results only
those that may wait are outstanding (R72, R86, R205). -/
def Thread.atBoundary (x : Thread) : Bool :=
  (x.outside || x.st == .faulted || x.st == .stopped) && x.st != .bound && x.outs.all LongRes.mayWait &&
    (match x.wait with | .finish _ => !x.outs.isEmpty | _ => true)
/-- The matrix unit of a cell has executed all that does not wait for something outside it (R205). -/
def State.matrixWaits (s : State) (n : Nat) : Bool :=
  (getCell s n).mx.queue.isEmpty || (match execMatrixExecute (BitVec.ofNat 20 n) s with
    | .next t => (getCell t n).mx == (getCell s n).mx
    | _ => true)
/-- Step 1 of Table 15.4, and of Table 16.4, is done at a cell. -/
def State.cellStill (s : State) (n : Nat) : Bool :=
  let c := getCell s n
  (tids.all fun t => (c.th t).atBoundary) && c.tim.rbk.isNone && c.inbox.dep.isEmpty && s.matrixWaits n
/-- A name is in a tumbler now. -/
def State.inTum (s : State) (die u n : Nat) : Bool :=
  match curPos s n with | some p => p.die == die && tumOf p.row p.col == u | none => false
/-- The cells of a tumbler that the state lists; any other is as it was when it was named, and nothing goes on in it. -/
def State.tumCells (s : State) (die u : Nat) : List Nat := (listedCells s).filter (s.inTum die u)
/-- Step 1 of Table 15.4 is done at every cell of a tumbler. -/
def State.tumStill (s : State) (die u : Nat) : Bool := (s.tumCells die u).all s.cellStill
/-- The tumbler at a place holds what is inbound (Table 15.4, step 2): its rotation is past step 1. -/
def holding (s : State) (p : Pos) : Bool := rotating s p && (tumbler s p.die (tumOf p.row p.col)).hold.isSome
/-- A cell's tumbler holds what comes to it. -/
def State.heldAt (s : State) (n : Nat) : Bool := match curPos s n with | some p => holding s p | none => false
/-- Two names are in one tumbler now. -/
def State.sameTum (s : State) (a b : Nat) : Bool :=
  match curPos s a, curPos s b with
  | some p, some q => p.die == q.die && tumOf p.row p.col == tumOf q.row q.col
  | _, _ => false
/-- The cell that traffic goes to takes it in: awake and not moving (R301, R350). -/
def State.sReady (s : State) (n : Name) : Bool := !(getCell s n.toNat).drowsy && !s.heldAt n.toNat
/-- Traffic from a cell reaches another: what one cell of a rotating tumbler sends another of it is not held at the boundary. -/
def State.crosses (s : State) (src dst : Nat) : Bool := !s.heldAt dst || s.sameTum src dst
/-- An engine access goes to a cell of the die: it wakes a Drowsy cell, and waits for it, and for a tumbler that holds (R350, R358);
`none` where it must wait. -/
def State.knock (s : State) (n : Nat) : State × Bool :=
  if (getCell s n).drowsy then (modCell s n Cell.awake, false) else (s, s.crosses s.cell.name.toNat n)

/-! ### Torus exchanges (R203) -/

/-- TORUS_EXCHANGE_ARRIVAL: the `k`-th C-plane packet, an exchange, enters the downstream input buffer when it is empty; it waits for a
Drowsy cell to wake (R350), and at the boundary of a tumbler that holds (R260). -/
def execTorusExchangeArrival (k : Nat) (s : State) : Answer :=
  .next (match s.cnet[k]? with
    | some (.torus src dst dir gs) =>
      if ((getCell s dst.toNat).mx.torIn[dir.toNat]'dir.isLt).isSome || (getCell s dst.toNat).drowsy || !s.crosses src.toNat dst.toNat then s
      else
        let s := modCell s dst.toNat fun c => { c with mx := { c.mx with torIn := c.mx.torIn.set dir.toNat (some gs) dir.isLt } }
        let s := modCell s src.toNat fun c => { c with mx := { c.mx with torOut := c.mx.torOut.set dir.toNat false dir.isLt } }
        { s with cnet := dropAt s.cnet k }
    | _ => s)

end Sys2Proof.Machine
end

