-- ==== Sys2Proof/Machine/Translate.lean ====
section
/-! DEFINITION. Panel virtual addresses (R29–R34): page tables, RTUs and walks; the weight stores and the weight-cache
slices (R32, R281–R283). -/

namespace Sys2Proof.Machine

/-! ### Page tables (R29–R31) -/

/-- Bytes of a die's table reservation: 1 to 64 units of 4 MiB (R31). -/
def tableUnits (die : Nat) : Nat := 1 + Config.reservation die % 64
/-- The 8-byte entry at an offset of a die's tables. -/
def tableWord (s : State) (die off : Nat) : Nat := Memory.readNat s.tables (die * Config.tableBytes + off) 8
/-- A level-1 entry that maps a region, as (G, offset of its level-2 table); none where R30 fails it. -/
def level1 (s : State) (die va : Nat) : Option (Bool × Nat) :=
  let e := tableWord s die (8 * (va / 2 ^ 30))
  let g := bitOf e 1
  let base := bits e 12 28 * 4096
  if bitOf e 0 = false ∨ bits e 2 10 ≠ 0 ∨ bits e 40 24 ≠ 0 then none
  else if tableUnits die * 2 ^ 22 < base + (if g then 2 ^ 17 else 2 ^ 21) then none
  else some (g, base)
/-- The offset of the level-2 entry for an address. -/
def level2At (g : Bool) (base va : Nat) : Nat :=
  base + 8 * (if g then va / 2 ^ 16 % 2 ^ 14 else va / 2 ^ 12 % 2 ^ 18)
/-- KIND of a level-2 entry (Table 01.5). -/
def entKind (e : Nat) : Nat := bits e 4 2
/-- A level-2 entry that R30 lets through under a granule. -/
def entOk (g : Bool) (e : Nat) : Bool :=
  bitOf e 0 && ((entKind e == 0 && !g && bits e 29 35 == 0) || (entKind e == 1 && g && bits e 33 31 == 0))
/-- SNAME names a cell of a partition (R30). -/
def entReach (s : State) (p e : Nat) : Bool := entKind e != 0 || (isName s (bits e 9 20) && dieInPart s (bits e 9 20) p)

/-- How a walk ends (R30, R33): a cause, or the granule and the level-2 entry. -/
def walkEnd (s : State) (die va p : Nat) : Except (BitVec 8) (Bool × Nat) :=
  match level1 s die va with
  | none => .error 0x0B
  | some (g, base) =>
    let e := tableWord s die (level2At g base va)
    if entOk g e = false then .error 0x0B else if entReach s p e = false then .error 0x0C else .ok (g, e)

/-! ### RTUs (R33) -/

/-- First address of a page. -/
def pageOf (g : Bool) (va : Nat) : Nat := if g then va / 2 ^ 16 * 2 ^ 16 else va / 2 ^ 12 * 2 ^ 12
/-- An entry of an RTU translates an address. -/
def RtuEnt.hits (e : RtuEnt) (die rtu va : Nat) : Bool := e.die == die && e.rtu == rtu && e.page == pageOf e.g64 va
/-- Set of an entry. -/
def RtuEnt.set (e : RtuEnt) : Nat := if e.g64 then e.page / 2 ^ 16 % 16 else e.page / 2 ^ 12 % 16
/-- An entry is installed in the least recently used way of its set; the list is in order of use, latest first. -/
def installRtu (l : List RtuEnt) (e : RtuEnt) : List RtuEnt :=
  let same (x : RtuEnt) : Bool := x.die == e.die && x.rtu == e.rtu && x.set == e.set
  let l := if (l.filter same).length < 16 then l
    else (l.foldr (fun x (r : List RtuEnt × Bool) => if !r.2 && same x then (r.1, true) else (x :: r.1, r.2)) ([], false)).1
  e :: l
/-- Who asks, on a list once. -/
def addAsker (l : List Asker) (a : Asker) : List Asker := if l.any (·.who == a.who) then l else l ++ [a]
/-- The level-1 granule of an address in a die's tables, where it is mapped. -/
def regionG (s : State) (die va : Nat) : Bool := match level1 s die va with | some (g, _) => g | none => false
/-- A walk in flight that a request for an address joins (R33). -/
def Walk.serves (w : Walk) (s : State) (die rtu va : Nat) : Bool :=
  w.die == die && w.rtu == rtu &&
    (w.va / 2 ^ 12 == va / 2 ^ 12 || (regionG s die w.va && w.va / 2 ^ 16 == va / 2 ^ 16))
/-- The RTU of a die whose oldest pending walk the next free page walker takes: the first that has one after the RTU served last
(R33). -/
def State.nextWalk (s : State) (die : Nat) : Option Nat :=
  ((List.range 16).map fun i => ((Sp.get s.walkTurn die).toNat + 1 + i) % 16).find? fun r =>
    s.walks.any fun w => w.die == die && w.rtu == r && !w.busy
/-- Free page walkers of a die, of its 8, take pending walks, up to `k` of them (R33). -/
def State.takeWalks (s : State) (die : Nat) : Nat → State
  | 0 => s
  | k + 1 =>
    if 8 ≤ (s.walks.filter fun w => w.die == die && w.busy).length then s
    else match s.nextWalk die with
      | none => s
      | some r =>
        let i := firstIx (fun w => w.die == die && w.rtu == r && !w.busy) s.walks 0
        ({ s with walkTurn := Sp.set s.walkTurn die (BitVec.ofNat 4 r),
                  walks := s.walks.zipIdx.map fun e => if i = some e.2 then { e.1 with busy := true } else e.1 } : State).takeWalks die k
/-- A request that missed joins a walk, starts one, or waits in the miss queue; where that is full its engine holds it
(R33). -/
def missed (s : State) (die rtu : Nat) (a : Asker) : State :=
  if s.walks.any fun w => w.serves s die rtu a.va then
    { s with walks := s.walks.map fun w => if w.serves s die rtu a.va then { w with who := addAsker w.who a } else w }
  else if s.missQ.any fun m => m.who.who == a.who && m.who.va / 2 ^ 12 == a.va / 2 ^ 12 then s
  else if (s.walks.filter fun w => w.die == die && w.rtu == rtu).length < 4 then
    ({ s with walks := s.walks ++ [{ die := die, rtu := rtu, va := a.va, who := [a] }] } : State).takeWalks die 1
  else if (s.missQ.filter fun m => m.die == die && m.rtu == rtu).length < 32 then
    { s with missQ := s.missQ ++ [{ die := die, rtu := rtu, who := a }] }
  else s

/-- Where a translated byte lies. -/
inductive Target where
  | pad (cell : Nat) (off : Nat)
  | store (mod addr : Nat) (w c a : Bool)
  deriving DecidableEq, Repr
/-- The answer of an RTU. -/
inductive Xlat where
  | ok (t : Target)
  | wait
  | fault (cause : BitVec 8)
  deriving DecidableEq, Repr
/-- What a level-2 entry gives for an address (Table 01.5). -/
def targetOf (g : Bool) (e va : Nat) : Target :=
  if g then .store (bits e 6 4) (bits e 10 23 * 2 ^ 16 + va % 2 ^ 16) (bitOf e 1) (bitOf e 2) (bitOf e 3)
  else .pad (bits e 9 20) (bits e 6 3 * 2 ^ 12 + va % 2 ^ 12)
/-- A partition's entry of the access tables lets it reach a place (R379): its own cells, and the modules it is granted. -/
def State.granted (s : State) (p : Nat) (wr : Bool) : Target → Bool
  | .pad .. => true
  | .store m _ _ _ _ => s.access.any fun a => a.1 == p && a.2.1 == m && (a.2.2 || !wr)
/-- The module that refuses an access counts it (R379). -/
def State.countRefused (s : State) (p : Nat) (wr : Bool) (t : Target) : State :=
  match t with
  | .store m _ _ _ _ => if s.granted p wr t then s else { s with refused := Sp.set s.refused m (satInc (Sp.get s.refused m)) }
  | .pad .. => s
/-- What an entry answers to a request of an engine of the cell in hand (R30); what the access table refuses is REMOTE_UNMAPPED (R379). -/
def State.answerBy (s : State) (e : RtuEnt) (va : Nat) (wr : Bool) : State × Xlat :=
  let p := s.cell.part.toNat
  let t := targetOf e.g64 e.ent.toNat va
  if wr && !bitOf e.ent.toNat 1 then (s, .fault 0x0B)
  else if entReach s p e.ent.toNat = false then (s, .fault 0x0C)
  else if s.granted p wr t then (s, .ok t)
  else (s.countRefused p wr t, .fault 0x0C)
/-- A translation request of an engine of the cell in hand (R30, R33): one that a walk's end has translated goes on by that; else the RTU
answers, or it misses. -/
def State.translate (s : State) (who : Waiter) (va : Nat) (wr : Bool) : State × Xlat :=
  let die := s.place.die
  let rtu := rtuOf s.place.row s.place.col
  match s.xlated.find? fun x => x.who == who && x.ent.hits die rtu va with
  | some x => ({ s with xlated := dropFirst (· == x) s.xlated } : State).answerBy x.ent va wr
  | none =>
    match s.rtu.find? fun e => e.hits die rtu va with
    | some e => ({ s with rtu := e :: s.rtu.filter (· != e) } : State).answerBy e va wr
    | none => (missed s die rtu { who := who, va := va, wr := wr }, .wait)

/-! ### Weight stores (R283) -/

/-- The place of a byte of a module among the stores. -/
def storeAddr (mod addr : Nat) : Nat := mod * Config.moduleBytes + addr % Config.moduleBytes
/-- A line of a module whose last request ended with ECC_UNCORRECTED. -/
def State.lineBad (s : State) (mod addr : Nat) : Bool := s.dzBad.contains (storeAddr mod addr / 256)
/-- Bytes of a module. -/
def State.moduleRead (s : State) (mod addr n : Nat) : Nat := Memory.readNat s.store (storeAddr mod addr) n
/-- Lines of the stores that a range of a module covers. -/
def linesOf (mod addr n : Nat) : List Nat :=
  (List.range ((addr + n - 1) / 256 - addr / 256 + 1)).map fun i => storeAddr mod addr / 256 + i
/-- Write bytes of a module; a later read of them returns them (R283, Order). -/
def State.moduleWrite (s : State) (mod addr n v : Nat) : State :=
  { s with store := Memory.writeNat s.store (storeAddr mod addr) n v,
           dzBad := s.dzBad.filter fun l => !(linesOf mod addr n).contains l }

/-! ### Weight-cache slices (R32, R281, R282) -/

/-- First address of a line. -/
def lineOf (va : Nat) : Nat := va / 256 * 256
/-- Ways of a slice that the reservation leaves (R281). -/
def sliceWays (die slice : Nat) : Nat := 32 - Nat.min 32 (tableUnits die - 32 * (15 - slice))
/-- Two lines share a set. -/
def sameSet (x y : CacheLine) : Bool := x.die == y.die && x.addr / 256 % 2 ^ 18 == y.addr / 256 % 2 ^ 18
/-- A line is filled: the least recently used of its set goes when the set is full; the list is in order of use, latest
first. -/
def fillLine (l : List CacheLine) (ways : Nat) (x : CacheLine) : List CacheLine :=
  if ways = 0 then l
  else
    let l := if (l.filter (sameSet x)).length < ways then l
      else (l.foldr (fun y (r : List CacheLine × Bool) => if !r.2 && sameSet x y then (r.1, true) else (y :: r.1, r.2)) ([], false)).1
    x :: l
/-- How a weight-store read treats the slices (Table 01.6). -/
inductive Policy where
  | bypass
  | lookup
  | allocate
  deriving DecidableEq, Repr
/-- Table 01.6. -/
def policy (w c a : Bool) (hint : BitVec 2) : Policy :=
  if !c || w || hint == 2 then .bypass else if hint == 1 || a then .allocate else .lookup
/-- Data or an error. -/
abbrev ReadRes := Except (BitVec 8) Nat
/-- A read that finds a parity error in a line: the line is invalid, and its slice counts the error (R282). -/
def State.parityLost (s : State) (x : CacheLine) : State :=
  let k := x.die * 16 + x.addr / 256 % 16
  { s with wcache := s.wcache.filter (· != x), parity := Sp.set s.parity k (satInc (Sp.get s.parity k)) }
/-- The line of an address in a die's slices. -/
def State.lineHit (s : State) (die va : Nat) : Option CacheLine := s.wcache.find? fun x => x.die == die && x.addr == lineOf va
/-- Read `n` bytes of a line's part of a module through a die's slices (R32, R281, R282). -/
def State.weightRead (s : State) (die va mod addr n : Nat) (p : Policy) : State × ReadRes :=
  let line : CacheLine := { die := die, addr := lineOf va, data := BitVec.ofNat 2048 (s.moduleRead mod (addr / 256 * 256) 256) }
  let fromModule (s : State) : ReadRes := if s.lineBad mod addr then .error 0x0A else .ok (s.moduleRead mod addr n)
  match p with
  | .bypass => (s, fromModule s)
  | p =>
    let fill (s : State) (alloc : Bool) : State × ReadRes :=
      if alloc && !s.lineBad mod addr then
        ({ s with wcache := fillLine s.wcache (sliceWays die (va / 256 % 16)) line }, fromModule s)
      else (s, fromModule s)
    match s.lineHit die va with
    | some x =>
      if Config.parityErr s.freeIx then fill ((fresh s).parityLost x) true
      else ({ fresh s with wcache := x :: s.wcache.filter (· != x) }, .ok (x.data.toNat / 2 ^ (8 * (va % 256)) % 2 ^ (8 * n)))
    | none => fill s (p == .allocate)

/-! ### Reads and writes of a translated place -/

/-- An engine reads `n` bytes of a granule at a translated place (R209, R211, R226). -/
def State.globalRead (s : State) (va n : Nat) (t : Target) (hint : BitVec 2) : State × ReadRes :=
  match t with
  | .pad cell off =>
    let c := getCell s cell
    (modCell s cell (·.touched off n), if (c.badRead off n).isSome then .error 0x0A else .ok (c.bytes off n))
  | .store mod addr w c a => s.weightRead s.place.die va mod addr n (policy w c a hint)
/-- An engine write of part of a word that holds an uncorrectable error leaves it uncorrectable and reports it (R211). -/
def Cell.partBad (c : Cell) (a n : Nat) : Bool :=
  (wordsOf a n).any fun w => decide (w < a ∨ a + n < w + 8) && c.pad.ecc2.contains w
/-- An engine writes `n` bytes of a granule at a translated place (R209, R211); a module's write ends in ECC_UNCORRECTED when its frame
is lost (R283, Retry). -/
def State.globalWrite (s : State) (n v : Nat) (t : Target) : State × Option (BitVec 8) :=
  match t with
  | .pad cell off =>
    (within s cell (·.padStore off n v), if (getCell s cell).partBad off n then some 0x0A else none)
  | .store mod addr _ _ _ =>
    if Config.frameLost s.freeIx then (fresh s, some 0x0A) else ((fresh s).moduleWrite mod addr n v, none)

/-! ### Requests to cells of other dies (R226, R305, R316) -/

/-- C-plane traffic starts. -/
def State.cput (s : State) (m : CMsg) : State := { s with cnet := s.cnet ++ [m] }
/-- The way between two names when it leads to another logical die (R316). -/
def crossingOf (a b : Nat) : Option Crossing := if nameDie a = nameDie b then none else some { src := nameDie a, dst := nameDie b }
/-- C-plane traffic that R316 lists starts from one name to another. -/
def State.cputCausal (s : State) (a b : Nat) (m : CMsg) : State :=
  match crossingOf a b with | some x => s.cput (.crossing x m) | none => s.cput m
/-- The unit of a logical die. -/
def unitOf (s : State) (t : Nat) : CausalUnit := (KM.get s.causal t).getD {}
/-- Write a unit. -/
def setUnit (s : State) (t : Nat) (u : CausalUnit) : State := { s with causal := KM.put s.causal t u }
/-- The unit may stamp a sequence (R318). -/
def CausalUnit.inWindow (u : CausalUnit) (oseq : BitVec 16) : Bool :=
  match u.unacked with
  | [] => true
  | (_, o) :: _ => decide ((oseq - o).toNat ≤ 2 ^ 14)
/-- A packet that the origin's unit must stamp before it leaves its die (R316). -/
def Pkt.isCausal (p : Pkt) : Bool := decide (p.kind.toNat < 4)
/-- Causal packets that stand in die `d`, on their way to the gate that stamps them (R318). -/
def State.unstampedOf (s : State) (d : Nat) : Nat :=
  (s.mnet.filter fun f => f.p.isCausal && !f.stamped && logDie s (f.pos / 16384) == some d && nameDie f.p.dest.toNat != d).length +
    (s.snet.filter fun m => match m with | .crossing x _ => x.src == d && x.causal.isNone && !x.rel | _ => false).length +
    (s.cnet.filter fun m => match m with | .crossing x _ => x.src == d && x.causal.isNone && !x.rel | _ => false).length
/-- The unit of die `d` may not stamp `n` more packets, beside those on their way to it (R318). -/
def State.unitFull (s : State) (d n : Nat) : Bool :=
  let m := s.unstampedOf d + n
  decide (2 ^ 14 + 1 < m) || !(unitOf s d).inWindow (Sp.get (unitOf s d).k d + BitVec.ofNat 16 m)
/-- A packet from cell `a` to cell `b` would meet its unit's limit: it waits at its origin (R318). -/
def State.windowFull (s : State) (a b : Nat) : Bool := nameDie a != nameDie b && s.unitFull (nameDie a) 1
/-- One from the cell in hand. -/
def State.windowShut (s : State) (dest : Nat) : Bool := s.windowFull s.cell.name.toNat dest
/-- Value a is at or beyond value b (R316). -/
def atOrBeyond (a b : BitVec 16) : Bool := decide ((a - b).toNat < 2 ^ 15)
/-- The entries of a vector. -/
def vecDies : List Nat := List.range 64
/-- The entrywise greater of two vectors (R319). -/
def vecMax (a b : Sparse 16) : Sparse 16 :=
  vecDies.foldl (fun m e => if atOrBeyond (Sp.get m e) (Sp.get b e) then m else Sp.set m e (Sp.get b e)) a
/-- What a die knows takes in what an applied packet knew, and the packet itself where that is later (R319). -/
def CausalUnit.learns (u : CausalUnit) (d : Nat) (o : BitVec 16) (v : Sparse 16) : CausalUnit :=
  let k := vecMax u.k v
  { u with k := if atOrBeyond (Sp.get k d) o then k else Sp.set k d o }
/-- A cell of die `t` has applied a released packet and reports it. All that the die sends from then on is causally after the packet, so
that K takes its vector in the same event (R309, R317); A moves on with CAUSAL_APPLIED (R319). -/
def State.reportApplied (s : State) (t : Nat) (c : Causal) : State :=
  let u := unitOf s t
  match u.released.find? fun x => x.1 == c.odie.toNat && x.2.1 == c.oseq with
  | none => s
  | some x => setUnit s t { u.learns x.1 x.2.1 x.2.2 with done := u.done ++ [(x.1, x.2.1)] }
/-- A cell reports a causal packet applied (R319). -/
def State.appliedX (s : State) (x : Option Crossing) : State :=
  match x with
  | none => s
  | some x => match x.causal with | none => s | some c => s.reportApplied x.dst c
/-- Some residual packet that another waits for is still in the network (R311, R375). -/
def State.ridLeft (s : State) (n : Nat) : Bool :=
  (s.mnet.any fun f => f.rid == n) ||
    (s.snet.any fun m => match m with | .crossing x _ => x.rid == n | _ => false) ||
    (s.cnet.any fun m => match m with | .crossing x _ => x.rid == n | _ => false)
/-- C-plane message `k` with its way, once its destination's unit has released it (R319). -/
def State.cAt (s : State) (k : Nat) : Option (CMsg × Option Crossing) :=
  match s.cnet[k]? with
  | none => none
  | some (.crossing x m) => if x.rel && !x.after.any s.ridLeft then some (m, some x) else none
  | some m => some (m, none)
/-- Take a message out of the C plane. -/
def State.dropC (s : State) (k : Nat) : State := { s with cnet := dropAt s.cnet k }
/-- The place of a piece of a request in the cell it goes to. -/
def Ask.target (a : Ask) (p : Piece) : Target := .pad a.cell (a.base + p.ga % 32)
/-- A request is performed at its cell: the bytes it read, and a cause code or zero. -/
def State.performAsk (s : State) (a : Ask) : State × Ask × BitVec 8 :=
  if a.put then
    let r := a.ps.foldl (fun (r : State × BitVec 8) p =>
      let x := r.1.globalWrite p.len (p.buf.getD 0) (a.target p)
      (x.1, if r.2 = 0 then x.2.getD 0 else r.2)) (s, 0)
    (r.1, a, r.2)
  else
    let r := a.ps.foldl (fun (r : State × List Piece × BitVec 8) p =>
      let x := r.1.globalRead (p.ga % 2 ^ 45) p.len (a.target p) 0
      match x.2 with
      | .ok v => (x.1, r.2.1 ++ [{ p with buf := some v }], r.2.2)
      | .error c => (x.1, r.2.1 ++ [p], if r.2.2 = 0 then c else r.2.2)) (s, [], 0)
    (r.1, { a with ps := r.2.1 }, r.2.2)
/-- The messages of the C plane that are requests or answers of an engine and may be taken, with their indices. -/
def State.asksOf (s : State) (w : Waiter) : List Nat :=
  (List.range s.cnet.length).filter fun k => match s.cAt k with
    | some (.ask a, _) => a.who == w
    | some (.answer a _, _) => a.who == w
    | _ => false
/-- A request that has reached its cell is performed there and answered; copy data is a causal packet, the answer to a write is not
(R316). It waits for the cell to wake, for its tumbler, and for the window of the unit that stamps copy data (R318, R350, R358). -/
def State.serveAsk (s : State) (k : Nat) (a : Ask) (x : Option Crossing) : State :=
  match s.knock a.cell with
  | (s, false) => s
  | (s, true) =>
    if !a.put && s.windowFull a.cell s.cell.name.toNat then s
    else
    let r := (s.dropC k).performAsk a
    let s := r.1.appliedX x
    if a.put then s.cput (.answer r.2.1 r.2.2) else s.cputCausal a.cell s.cell.name.toNat (.answer r.2.1 r.2.2)

/-! ### Events of translation -/

/-- A waiting request receives the fault of its walk, with its own address (R33, R365). -/
def giveFault (s : State) (cause : BitVec 8) (a : Asker) : State :=
  let ga : W64 := BitVec.ofNat 64 (2 ^ 47 + a.va)
  match a.who with
  | .copy c e => modCell s c.toNat fun c => { c with eng := { c.eng with
      ents := Vector.ofFn fun i => if i.val = e then (c.eng.ents[i]).map fun x => { x with err := x.err.or (some (cause, ga)) } else c.eng.ents[i] } }
  | .stream c n => modCell s c.toNat fun c => { c with eng := { c.eng with
      strm := Vector.ofFn fun i => if i.val = n then { c.eng.strm[i] with fail := some (cause, ga) } else c.eng.strm[i] } }
  | .atom c t seq => modCell s c.toNat fun c => { c with msg := { c.msg with egress := c.msg.egress.map fun x =>
      match x with
      | .atom t' seq' cls opc post ga v k none =>
        if t' = t ∧ seq' = seq then .atom t' seq' cls opc post ga v k (some cause) else x
      | x => x } }
/-- The queued requests of an RTU go on, oldest first, while a miss slot is free (R33); one whose page has an entry by now is translated
by that. -/
def nextMiss (s : State) (die rtu : Nat) : Nat → State
  | 0 => s
  | k + 1 =>
    match s.missQ.find? fun m => m.die == die && m.rtu == rtu with
    | none => s
    | some m =>
      if 4 ≤ (s.walks.filter fun w => w.die == die && w.rtu == rtu).length then s
      else
        let s := { s with missQ := dropFirst (· == m) s.missQ }
        nextMiss (match s.rtu.find? fun e => e.hits die rtu m.who.va with
          | some e => { s with xlated := s.xlated ++ [⟨m.who.who, e⟩] }
          | none => missed s die rtu m.who) die rtu k
/-- The requests of a walk that its entry fails: writes to a page with W = 0 (R30). -/
def deniedBy (e : Nat) (l : List Asker) : List Asker := l.filter fun a => a.wr && !bitOf e 1
/-- PAGE_WALK_COMPLETE (R33): the `k`-th walk, one that a page walker serves, ends; its entry is installed and translates every request
that joined it, or every one receives the fault. A walk all of whose requests the entry fails installs nothing. The walker is free for
the next. -/
def execPageWalkComplete (k : Nat) (s : State) : Answer :=
  .next (match s.walks[k]? with
    | none => s
    | some w =>
      if !w.busy then s else
      let s := { s with walks := dropAt s.walks k }
      let p := (partOfDie s w.die).getD 64
      let s := match walkEnd s w.die w.va p with
        | .ok (g, e) =>
          let no := deniedBy e w.who
          let s := no.foldl (fun s q => giveFault s 0x0B q) s
          if !no.isEmpty && no.length == w.who.length then s
          else
            let x : RtuEnt := { die := w.die, rtu := w.rtu, page := pageOf g w.va, g64 := g, ent := BitVec.ofNat 64 e }
            { s with rtu := installRtu s.rtu x,
                     xlated := s.xlated ++ (w.who.filter fun a => !no.contains a).map fun a => ⟨a.who, x⟩ }
        | .error c => w.who.foldl (fun s q => giveFault s c q) s
      (nextMiss s w.die w.rtu s.missQ.length).takeWalks w.die 1)
/-- SHOOTDOWN (R34): it goes to every RTU of the partition; addresses `lo` to `hi`. A partition that has been pre-empted and saved is in
no die, and no RTU translates for it (R35). -/
def execShootdown (p : PartIdx) (lo hi : BitVec 45) (s : State) : Answer :=
  .next (match part s p.toNat with
    | none => s
    | some x =>
      let dies := x.dies.filter fun d => (logDie s d).isSome
      { s with shoot := s.shoot ++ [{ part := p, lo := lo.toNat, hi := hi.toNat,
                                      left := dies.flatMap fun d => (List.range 16).map fun r => (d, r) }] })
/-- An entry covers some address of a range. -/
def RtuEnt.meets (e : RtuEnt) (lo hi : Nat) : Bool := decide (e.page ≤ hi ∧ lo < e.page + (if e.g64 then 2 ^ 16 else 2 ^ 12))
/-- SHOOTDOWN_ACKNOWLEDGE (R34): an RTU's matching entries are invalid. Every request it translated has been issued: a hit is issued in the
step that translates it, and one that a walk's end translated by such an entry and that is not issued yet is translated anew. -/
def execShootdownAcknowledge (die : DieSite) (rtu : BitVec 4) (s : State) : Answer :=
  let me (x : Nat × Nat) : Bool := x == (die.toNat, rtu.toNat)
  .next { s with
    rtu := s.rtu.filter fun e => !(me (e.die, e.rtu) && s.shoot.any fun q => q.left.any me && e.meets q.lo q.hi),
    xlated := s.xlated.filter fun x => !(me (x.ent.die, x.ent.rtu) && s.shoot.any fun q => q.left.any me && x.ent.meets q.lo q.hi),
    shoot := (s.shoot.map fun q => { q with left := q.left.filter fun x => !me x }).filter fun q => !q.left.isEmpty }
/-- The tables kept with a partition that has been pre-empted take an entry, which its restore brings back (R35). -/
def State.keptTables (s : State) (p off val : Nat) : State :=
  { s with savedParts := s.savedParts.map fun k =>
      if k.num = p ∧ off + 8 ≤ Config.tableBytes then { k with tabs := Memory.writeNat k.tabs off 8 val } else k }
/-- PAGE_TABLE_UPDATE (R31, R35): an 8-byte entry in the copy of every live die of a partition, inside the reservation; of a partition
that has been pre-empted, in the tables kept with it. -/
def execPageTableUpdate (p : PartIdx) (off : BitVec 28) (val : W64) (s : State) : Answer :=
  .next (match part s p.toNat with
    | none => if off.toNat % 8 ≠ 0 then s else s.keptTables p.toNat off.toNat val.toNat
    | some x =>
      if off.toNat % 8 ≠ 0 then s
      else
        let dies := x.dies.filter fun d => (logDie s d).isSome && decide (off.toNat + 8 ≤ tableUnits d * 2 ^ 22)
        { s with tables := dies.foldl (fun m d => Memory.writeNat m (d * Config.tableBytes + off.toNat) 8 val.toNat) s.tables })
/-- WEIGHT_CACHE_INVALIDATE (R282): the lines of a die in a range of addresses. -/
def execWeightCacheInvalidate (die : DieSite) (lo hi : BitVec 45) (s : State) : Answer :=
  .next { s with wcache := s.wcache.filter fun x =>
    !(x.die == die.toNat && decide (x.addr ≤ hi.toNat ∧ lo.toNat < x.addr + 256)) }

/-! ### The Dziham link (R283) -/

/-- A module's answer to a read: the data, or ECC_UNCORRECTED once three replays have failed; lines that fail answer so to
the engines until a request for them succeeds or writes them. -/
def State.dzRead (s : State) (m : BitVec 4) (addr n failed : Nat) : State :=
  let ls := linesOf m.toNat addr n
  let resp : DzResp := if 3 ≤ failed then ⟨0x0A, []⟩ else
    ⟨0, (List.range n).map fun i => Sp.get s.store (storeAddr m.toNat addr + i)⟩
  { s with dzResp := KM.put s.dzResp m.toNat resp,
           dzBad := (s.dzBad.filter fun l => !ls.contains l) ++ if 3 ≤ failed then ls else [] }
/-- DZIHAM_REQUEST (R283, Table 11.6). -/
def execDzihamRequest (m : BitVec 4) (req : DzihamReq) (s : State) : Answer :=
  .next (match req with
    | .readLine a f => s.dzRead m (a.toNat / 256 * 256) 256 f
    | .readRange a n f => if 32 ≤ n ∧ n ≤ 8192 ∧ a.toNat + n ≤ Config.moduleBytes then s.dzRead m a.toNat n f else s
    | .writeLine a bs f =>
      let base := storeAddr m.toNat (a.toNat / 256 * 256)
      if 3 ≤ f then { s with dzResp := KM.put s.dzResp m.toNat ⟨0x0A, []⟩ }
      else
        { s with
          store := ((bs.take 256).foldl (fun (r : Memory × Nat) b =>
            (match b with | some v => Sp.set r.1 (base + r.2) v | none => r.1, r.2 + 1)) (s.store, 0)).1,
          dzBad := s.dzBad.filter (· != base / 256), dzResp := KM.put s.dzResp m.toNat ⟨0, []⟩ })

end Sys2Proof.Machine
end

