-- ==== Sys2Proof/Machine/Landing.lean ====
section
/-! DEFINITION. Watermark channels (R215–R217, R240): opening, closing, filling by engine writes, and the event of a full
range; WOPEN and WOPEN.C. -/

namespace Sys2Proof.Machine

/-- Change a watermark channel. -/
def Cell.modWm (c : Cell) (n : Fin 8) (f : Watermark → Watermark) : Cell :=
  { c with eng := { c.eng with wm := c.eng.wm.set n.val (f c.eng.wm[n]) n.isLt } }
/-- A channel as WOPEN leaves it (R216, R240). -/
def Watermark.opened (base end_ : BitVec 16) : Watermark :=
  { base := base, end_ := end_, mark := base, open_ := true, done := false, fill := [] }
/-- Every byte of a granule of the range has been written by engines since the channel opened (R216). -/
def Watermark.filled (w : Watermark) (g : Nat) : Bool := Sp.get w.fill g == 0xFFFFFFFF
/-- Bits of a granule's bytes in [a, a + n). -/
def byteMask (g a n : Nat) : W32 :=
  BitVec.ofNat 32 ((List.range 32).foldl (fun m i => if a ≤ g + i ∧ g + i < a + n then m + 2 ^ i else m) 0)
/-- MARK moves past every filled granule that lies contiguously above it (R216). -/
def Watermark.advance (w : Watermark) : Nat → Watermark
  | 0 => w
  | k + 1 =>
    if decide (w.mark.toNat < w.end_.toNat) && w.filled w.mark.toNat then ({ w with mark := w.mark + 32 } : Watermark).advance k
    else w
/-- Engine bytes land in a channel's range; DONE when MARK reaches END (R216). -/
def Watermark.landed (w : Watermark) (a n : Nat) : Watermark :=
  if w.open_ ∧ w.done = false then
    let gs := (gransOf a n).filter fun g => decide (w.base.toNat ≤ g ∧ g < w.end_.toNat)
    let w := ({ w with fill := gs.foldl (fun m g => Sp.set m g (Sp.get m g ||| byteMask g a n)) w.fill } : Watermark).advance 1024
    { w with done := w.mark == w.end_ }
  else w
/-- The payload of a channel's event (R216). -/
def Watermark.event (w : Watermark) (n : Fin 8) : V256 :=
  BitVec.ofNat 256 (w.base.toNat + 2 ^ 16 * w.end_.toNat + 2 ^ 32 * n.val)
/-- Engine bytes land in every channel; one that becomes full raises its event (R216, R83). -/
def State.fillMarks (s : State) (a n : Nat) : State :=
  wmChans.foldl (fun s k =>
    let w := s.cell.eng.wm[k].landed a n
    let was := s.cell.eng.wm[k].done
    let s := modFocus s (·.modWm k fun _ => w)
    if w.done && !was then s.raise (BitVec.ofNat 6 (48 + k.val)) (w.event k) else s) s
/-- A landing: an engine write that fills watermark granules (R209, R216). -/
def State.landStore (s : State) (a n v : Nat) : State := (s.padStore a n v).fillMarks a n
/-- The event of a channel waits in its latch (R83). -/
def Cell.wmLatched (c : Cell) (k : Nat) : Bool := c.inbox.latches.any fun p => p.loc && p.chan.toNat == 48 + k
/-- A landing into the range of a channel whose event is latched waits (R83). -/
def Cell.landBlocked (c : Cell) (a n : Nat) : Bool :=
  wmChans.any fun k => c.wmLatched k.val && c.eng.wm[k].open_ &&
    decide (a < c.eng.wm[k].end_.toNat ∧ c.eng.wm[k].base.toNat < a + n)

/-! ### WOPEN (R240) -/

/-- An instruction of *Streams, copies and barriers*: TIMED_ILLEGAL first (R224). -/
def engineIssue (h : Hdr) (len : Nat) (ill : State → Bool) (body : State → Ctl) (s : State) : Answer :=
  issue h len false ill (fun s => if s.me.tmd then .fault 0x06 0 else body s) s
/-- A body over lane 0 of one source register. -/
def withSrc (a : Spec) (f : W64 → State → Ctl) (s : State) : Ctl :=
  match s.streamNeed [a] [] with
  | some n => .need n
  | none => f (s.src0 a) (s.popAll [a])
/-- WOPEN's effect: ILLEGAL, WINDOW, ALIGN in that order (R240). -/
def wopenAt (n : Fin 8) (v : W64) (s : State) : Ctl :=
  let base := v.extractLsb' 0 16
  let end_ := v.extractLsb' 16 16
  if v.extractLsb' 32 32 ≠ 0 ∨ end_.toNat ≤ base.toNat then .fault 0x01 0
  else if 0x8000 < end_.toNat then .fault 0x03 (zx64 end_)
  else if base.toNat % 32 ≠ 0 then .fault 0x02 (zx64 base)
  else if end_.toNat % 32 ≠ 0 then .fault 0x02 (zx64 end_)
  else .done (modFocus s (·.modWm n fun _ => Watermark.opened base end_))
/-- WOPEN (R240). -/
def execWopen (h : Hdr) (a : Spec) (n : BitVec 3) (s : State) : Answer :=
  engineIssue h 1 (fun _ => !srcOk a) (withSrc a (wopenAt ⟨n.toNat, n.isLt⟩)) s
/-- WOPEN.C (R240). -/
def execWopenC (h : Hdr) (n : BitVec 3) (s : State) : Answer :=
  engineIssue h 1 (fun _ => false)
    (fun s => .done (modFocus s (·.modWm ⟨n.toNat, n.isLt⟩ fun w => { w with open_ := false }))) s

end Sys2Proof.Machine
end

