-- ==== Sys2Proof/Machine/Copies.lean ====
section
/-! DEFINITION. The copy engine (R225–R229): CGET, CPUT and their long forms, the transfer of a copy's pieces, its
completion word or error report; and barrier objects with engine arrivals (R230–R232). -/

namespace Sys2Proof.Machine

/-! ### Issue (R227, R228) -/

/-- An address of the global window (Table 08.3). -/
def inGlobal (a : Nat) : Bool := a / 2 ^ 45 == 4
/-- A row of a copy cut at granule boundaries of both sides. -/
def cutRow : Nat → Nat → Nat → Nat → List Piece
  | 0, _, _, _ => []
  | k + 1, loc, ga, n =>
    let m := Nat.min n (Nat.min (32 - loc % 32) (32 - ga % 32))
    if n = 0 then [] else { loc := loc, len := m, ga := ga } :: cutRow k (loc + m) (ga + m) (n - m)
/-- What a copy is to do. -/
structure CopyArgs where
  g    : Nat
  loff : Nat
  len  : Nat
  lstr : Nat
  rows : Nat
  gstr : Nat
  deriving DecidableEq, Repr
/-- The pieces of a copy (R226, R227). -/
def CopyArgs.pieces (c : CopyArgs) : List Piece :=
  (List.range c.rows).flatMap fun r => cutRow (c.len + 1) (c.loff + r * c.lstr) (c.g + r * 8 * c.gstr) c.len
/-- Last byte of the local range. -/
def CopyArgs.llast (c : CopyArgs) : Nat := c.loff + (c.rows - 1) * c.lstr + c.len - 1
/-- Last byte of the global range. -/
def CopyArgs.glast (c : CopyArgs) : Nat := c.g + (c.rows - 1) * 8 * c.gstr + c.len - 1
/-- The operands of a copy: lane 0 of A and B (R227). -/
def copyArgs (long : Bool) (a b : W64) (rows gstr : Nat) : CopyArgs :=
  { g := a.toNat, loff := bits b.toNat 0 16, len := bits b.toNat 16 16,
    lstr := if long then bits b.toNat 32 16 else 0, rows := rows, gstr := gstr }
/-- The fault of a copy: ILLEGAL, WINDOW (local, global, completion word), ALIGN (R224, R227, R228). -/
def copyFault (long : Bool) (d b : W64) (c : CopyArgs) : Option (BitVec 8 × Nat) :=
  let woff := bits d.toNat 0 16
  if c.len = 0 ∨ bits d.toNat 16 16 ≠ 0 ∨ (if long then bits b.toNat 48 16 else bits b.toNat 32 32) ≠ 0 then some (0x01, 0)
  else if 0x8000 ≤ c.llast then some (0x03, c.loff)
  else if !inGlobal c.g || !inGlobal c.glast then some (0x03, c.g)
  else if 0x1000 ≤ woff ∧ woff ≠ 0xFFFF then some (0x03, 8 * woff)
  else if c.g % 8 ≠ 0 then some (0x02, c.g)
  else if c.loff % 8 ≠ 0 then some (0x02, c.loff)
  else if c.len % 8 ≠ 0 then some (0x02, c.len)
  else if c.lstr % 8 ≠ 0 then some (0x02, c.lstr)
  else none
/-- The first free data entry (R225). -/
def Engines.freeEnt (e : Engines) : Option (Fin 16) := (List.finRange 16).find? fun i => e.ents[i].isNone
/-- Change a data entry. -/
def Cell.setEnt (c : Cell) (i : Fin 16) (x : Option CopyEnt) : Cell :=
  { c with eng := { c.eng with ents := c.eng.ents.set i.val x i.isLt } }
/-- A copy's effect at issue (R225, R227). -/
def copyAt (put long : Bool) (d a b : Spec) (x : BitVec 2) (rows gstr : Nat) (s : State) : Ctl :=
  let u := s.src0After [a] b
  let w := s.src0After [a, b] d
  let c := copyArgs long (s.src0 a) u rows gstr
  match copyFault long w u c with
  | some (k, v) => .fault k (BitVec.ofNat 64 v)
  | none =>
    match s.cell.eng.freeEnt with
    | none => .need .copyEntry
    | some i => .done (modFocus s (·.setEnt i (some
        { t := s.cell.last, put := put, hint := x, woff := w.extractLsb' 0 16, value := w.extractLsb' 32 32,
          todo := c.pieces })))
/-- A copy instruction. -/
def copies (h : Hdr) (len : Nat) (put long : Bool) (d a b : Spec) (x : BitVec 2) (rows gstr : Nat) (s : State) : Answer :=
  engineIssue h len (fun _ => x == 3 || [d, a, b].any fun r => !decide (r.toNat < 42))
    (unbound [d, a, b] (copyAt put long d a b x rows gstr)) s
/-- CGET (R227). -/
def execCget (h : Hdr) (d a b : Spec) (x : BitVec 2) (s : State) : Answer := copies h 1 false false d a b x 1 0 s
/-- CPUT (R227). -/
def execCput (h : Hdr) (d a b : Spec) (x : BitVec 2) (s : State) : Answer := copies h 1 true false d a b x 1 0 s
/-- CGET.L (R227). -/
def execCgetL (h : Hdr) (d a b : Spec) (x : BitVec 2) (rows : BitVec 12) (gstr : BitVec 20) (s : State) : Answer :=
  copies h 2 false true d a b x (rows.toNat + 1) gstr.toNat s
/-- CPUT.L (R227). -/
def execCputL (h : Hdr) (d a b : Spec) (x : BitVec 2) (rows : BitVec 12) (gstr : BitVec 20) (s : State) : Answer :=
  copies h 2 true true d a b x (rows.toNat + 1) gstr.toNat s

/-! ### Barriers (R230, R231) -/

/-- Change a barrier. -/
def Cell.modBar (c : Cell) (i : Fin 16) (f : Barrier → Barrier) : Cell :=
  { c with eng := { c.eng with bars := c.eng.bars.set i.val (f c.eng.bars[i]) i.isLt } }
/-- An arrival (R230). -/
def Barrier.arrive (b : Barrier) : Barrier :=
  if b.arr + 1 = b.target then { b with arr := 0, gen := b.gen + 1 } else { b with arr := b.arr + 1 }
/-- Generation `g` is complete (R230). -/
def Barrier.complete (b : Barrier) (g : W32) : Bool := decide (1 ≤ (b.gen - g).toNat ∧ (b.gen - g).toNat ≤ 2 ^ 31)
/-- A BWAIT passes: GEN to D, and its thread goes on (R231). -/
def Cell.passBar (c : Cell) (t : TIdx) (d : Spec) (i : Fin 16) : Cell :=
  (c.write t d (c.resVal t 0 d (.low (zx64 c.eng.bars[i].gen)))).modTh t fun x => x.fall 1 x.wmark
/-- Sleepers on a barrier re-test (R231). -/
def Cell.wakeBar (c : Cell) (i : Fin 16) : Cell :=
  tids.foldl (fun c t => match (c.th t).wait with
    | .bwait j g d => if j = i ∧ c.eng.bars[i].complete g = true then c.passBar t d i else c
    | _ => c) c
/-- Threads that sleep in BWAIT. -/
def Cell.barSleepers (c : Cell) : List TIdx := tids.filter fun t => match (c.th t).wait with | .bwait .. => true | _ => false
/-- A barrier changes and its sleepers re-test (R230, R231). -/
def State.changeBar (s : State) (i : Fin 16) (f : Barrier → Barrier) : State :=
  (modFocus s fun c => (c.modBar i f).wakeBar i).settleAll s.cell.barSleepers
/-- The barrier an instruction names. -/
def barIx (i : BitVec 4) : Fin 16 := ⟨i.toNat, i.isLt⟩
/-- BINIT (R231). -/
def execBinit (h : Hdr) (a : Spec) (i : BitVec 4) (s : State) : Answer :=
  engineIssue h 1 (fun _ => !srcOk a)
    (withSrc a fun v s =>
      if v.extractLsb' 16 16 ≠ 0 ∨ v.extractLsb' 0 16 = 0 then .fault 0x01 0
      else .done (s.changeBar (barIx i) fun _ => { target := v.extractLsb' 0 16, arr := 0, gen := v.extractLsb' 32 32 })) s
/-- A barrier with no TARGET is ILLEGAL at issue (R231). -/
def onBar (i : BitVec 4) (f : Barrier → State → Ctl) (s : State) : Ctl :=
  if s.cell.eng.bars[barIx i].target = 0 then .fault 0x01 0 else f s.cell.eng.bars[barIx i] s
/-- BARR (R231): D takes GEN before the arrival. -/
def execBarr (h : Hdr) (d : Spec) (i : BitVec 4) (s : State) : Answer :=
  engineIssue h 1 (fun _ => !dstOk d)
    (onBar i fun b s => match s.streamNeed [] [d] with
      | some n => .need n
      | none => .done ((s.putRes d (.low (zx64 b.gen))).changeBar (barIx i) Barrier.arrive)) s
/-- BARR.P (R231). -/
def execBarrP (h : Hdr) (d : Spec) (i : BitVec 4) (s : State) : Answer :=
  engineIssue h 1 (fun _ => !dstOk d)
    (onBar i fun b => putsOnly [] d fun _ => .low (b.gen ++ b.target ++ b.arr)) s
/-- BWAIT (R231). -/
def execBwait (h : Hdr) (d a : Spec) (i : BitVec 4) (s : State) : Answer :=
  engineIssue h 1 (fun _ => !okSpecs [d] [a])
    (onBar i fun b s => match s.streamNeed [a] [d] with
      | some n => .need n
      | none =>
        let g := (s.src0 a).extractLsb' 0 32
        if b.complete g then .done ((s.popAll [a]).putRes d (.low (zx64 b.gen)))
        else .hold .sleeping (.bwait (barIx i) g d) (s.popAll [a])) s
/-- The mask of a thread's taken data entries (R232). -/
def Engines.maskOf (e : Engines) (t : TIdx) : BitVec 16 :=
  BitVec.ofNat 16 ((List.finRange 16).foldl (fun m i =>
    match e.ents[i] with | some x => if x.t = t then m + 2 ^ i.val else m | none => m) 0)
/-- The first free arrival record. -/
def Engines.freeRec (e : Engines) : Option (Fin 4) := (List.finRange 4).find? fun i => e.recs[i].isNone
/-- Write an arrival record. -/
def Cell.setRec (c : Cell) (i : Fin 4) (x : Option ARec) : Cell :=
  { c with eng := { c.eng with recs := c.eng.recs.set i.val x i.isLt } }
/-- A signal entry is free (R225). -/
def Engines.sigFree (e : Engines) : Bool := decide (e.sigs.length < 2)
/-- BARR.E (R232): a record of the thread's copies; one with none fires at once, where a signal entry is free (R225). -/
def execBarrE (h : Hdr) (i : BitVec 4) (s : State) : Answer :=
  engineIssue h 1 (fun _ => false)
    (onBar i fun _ s => match s.cell.eng.freeRec with
      | none => .need .arrivalRecord
      | some r =>
        let m := s.cell.eng.maskOf s.cell.last
        if m = 0 ∧ s.cell.eng.sigFree = true then .done (s.changeBar (barIx i) Barrier.arrive)
        else .done (modFocus s (·.setRec r (some { bar := barIx i, mask := m })))) s
/-- ENGINE_ARRIVAL_FIRE (R232): a record whose mask is empty arrives at its barrier, through a signal entry (R225), and is freed. -/
def execEngineArrivalFire (c : Name) (r : Nat) (s : State) : Answer :=
  .next (within s c.toNat fun s =>
    if h : r < 4 then
      match s.cell.eng.recs[r] with
      | some a => if a.mask = 0 ∧ s.cell.eng.sigFree = true then (modFocus s (·.setRec ⟨r, h⟩ none)).changeBar a.bar Barrier.arrive else s
      | none => s
    else s)

/-! ### Transfers (R226) -/

/-- A data entry is empty, and its bit clears in every arrival record (R225, R232). -/
def Cell.freeEnt (c : Cell) (i : Fin 16) : Cell :=
  { c with eng := { c.eng with
      ents := c.eng.ents.set i.val none i.isLt,
      recs := c.eng.recs.map fun r => r.map fun a => { a with mask := insBits a.mask i.val 1 0 } } }
/-- A data entry of the cell in hand is freed; what it asked of its RTU is asked no more, and answers whose bytes it has not written are
done with (R229, R319, R376). -/
def State.freeEnt (s : State) (i : Fin 16) : State :=
  let via : List (Option Crossing) := match s.cell.eng.ents[i] with | some e => (e.todo.map (·.via)).eraseDups | none => []
  via.foldl State.appliedX ((modFocus s (·.freeEnt i)).dropAskers (· == .copy s.cell.name i.val))
/-- Change a taken data entry. -/
def Cell.modEnt (c : Cell) (i : Fin 16) (f : CopyEnt → CopyEnt) : Cell := c.setEnt i (c.eng.ents[i].map f)
/-- The copy stops at its first error (R229). -/
def State.copyFail (s : State) (i : Fin 16) (cause : BitVec 8) (ga : Nat) : State :=
  modFocus s (·.modEnt i fun e => { e with err := e.err.or (some (cause, BitVec.ofNat 64 ga)) })
/-- Pieces in the granule of one side that another piece lies in. -/
def Piece.sameLoc (p q : Piece) : Bool := p.loc / 32 == q.loc / 32
/-- The same on the global side. -/
def Piece.sameGlob (p q : Piece) : Bool := p.ga / 32 == q.ga / 32
/-- Change the pieces of a taken data entry. -/
def Cell.modPieces (c : Cell) (i : Fin 16) (f : List Piece → List Piece) : Cell := c.modEnt i fun e => { e with todo := f e.todo }
/-- The answers of which every byte is written, once some pieces of a copy are done with (R319). -/
def appliedVias (l : List Piece) (done : Piece → Bool) : List (Option Crossing) :=
  ((l.filter done).map (·.via)).eraseDups.filter fun v => !l.any fun q => !done q && q.via == v
/-- Pieces are done with. A copy with nothing left, no error and no completion word frees its entry (R225, R228). -/
def State.copied (s : State) (i : Fin 16) (done : Piece → Bool) : State :=
  let old : List Piece := match s.cell.eng.ents[i] with | some e => e.todo | none => []
  let s := (appliedVias old done).foldl State.appliedX (modFocus s (·.modPieces i (·.filter fun q => !done q)))
  match s.cell.eng.ents[i] with
  | some e => if e.todo.isEmpty && e.err.isNone && e.woff == 0xFFFF then s.freeEnt i else s
  | none => s
/-- A request of the copy leaves for a cell of another die, once its unit's window lets it (R316, R318): its pieces wait for the answer. -/
def State.askPieces (s : State) (i : Fin 16) (put : Bool) (cell base : Nat) (ps : List Piece) : State :=
  let a : Ask := { who := .copy s.cell.name i.val, id := 0, put := put, cell := cell, base := base, ps := ps }
  (modFocus s (·.modPieces i (·.map fun q => if ps.contains q then { q with out := true } else q))).cputCausal s.cell.name.toNat cell (.ask a)
/-- An answer reaches the copy: its pieces hold the bytes read, or are written; an error stops the copy (R226, R229). Bytes read are
applied when they are written (R319). -/
def State.answered (s : State) (i : Fin 16) (a : Ask) (cause : BitVec 8) (x : Option Crossing) : State :=
  let mine (q : Piece) : Bool := q.out && a.ps.any fun p => p.loc == q.loc && p.ga == q.ga
  let todo : List Piece := match s.cell.eng.ents[i] with | some e => e.todo | none => []
  let later := cause == 0 && !a.put && todo.any mine
  let back (q : Piece) : Piece :=
    if mine q then
      { q with out := false, buf := ((a.ps.find? fun p => p.loc == q.loc && p.ga == q.ga).bind (·.buf)).or q.buf,
               via := if later then x else q.via }
    else q
  let s := if later then s else s.appliedX x
  if cause ≠ 0 then
    (modFocus s (·.modPieces i (·.map back))).copyFail i cause ((a.ps.head?.map (·.ga)).getD 0)
  else if a.put then s.copied i mine
  else modFocus s (·.modPieces i (·.map back))
/-- Another answer that brings bytes of the granule of a piece stands in the hold memory of the cell's die (R319). -/
def State.answerHeld (s : State) (i : Fin 16) (p : Piece) : Bool :=
  (unitOf s (nameDie s.cell.name.toNat)).hold.any fun h => match h with
    | .c _ (.answer a _) => a.who == .copy s.cell.name i.val && a.ps.any (·.sameLoc p)
    | _ => false
/-- Write the pieces of one local granule at one point (R226); where rows of the copy overlap, the last one's bytes stay (assumption
50). -/
def State.landPieces (s : State) (ps : List Piece) : State :=
  let s := ps.foldl (fun s p => modFocus s fun c => c.modPad fun m => m.write p.loc p.len (p.buf.getD 0)) s
  ps.foldl (fun s p => s.landStore p.loc p.len (s.cell.bytes p.loc p.len)) s
/-- The place of the granule that a translated place lies in. -/
def Target.granule (t : Target) (ga : Nat) : Target :=
  match t with
  | .pad n o => .pad n (o - ga % 32)
  | .store m o w c a => .store m (o - ga % 32) w c a
/-- A place `k` bytes further. -/
def Target.plus (t : Target) (k : Nat) : Target :=
  match t with
  | .pad n o => .pad n (o + k)
  | .store m o w c a => .store m (o + k) w c a
/-- The cell of another die that a place lies in. -/
def State.farCell (s : State) (t : Target) : Option (Nat × Nat) :=
  match t with
  | .pad n o => if nameDie n = nameDie s.cell.name.toNat then none else some (n, o)
  | .store .. => none
/-- A place of the same die can be reached now (R350, R358); what a read brings back is held with other inbound traffic. -/
def State.reaches (s : State) (rd : Bool) (t : Target) : State × Bool :=
  match t with
  | .pad n _ => if rd && !s.crosses n s.cell.name.toNat then (s, false) else s.knock n
  | .store .. => (s, !(rd && s.heldAt s.cell.name.toNat))
/-- Read pieces of one global granule at one point (R305): every piece's bytes, or a cause. -/
def State.readPieces (s : State) (hint : BitVec 2) (t : Target) : List Piece → State × Except (BitVec 8) (List (Piece × Nat))
  | [] => (s, .ok [])
  | p :: r =>
    match s.globalRead (p.ga % 2 ^ 45) p.len (t.plus (p.ga % 32)) hint with
    | (s, .error c) => (s, .error c)
    | (s, .ok v) => match s.readPieces hint t r with
      | (s, .error c) => (s, .error c)
      | (s, .ok l) => (s, .ok ((p, v) :: l))
/-- A piece of a CGET (R226, R305): the pieces of its global granule are read at one point, at once or by a request to another die; once
every piece of its local granule is read, that granule is written at one point; where the unit holds an answer that the granule lacks, and
may hold it behind the bytes that are there, these are written first (R319, assumption 113). -/
def State.getPiece (s : State) (i : Fin 16) (e : CopyEnt) (p : Piece) : State :=
  match p.buf with
  | none =>
    let ps := e.todo.filter fun q => q.sameGlob p && q.buf.isNone && !q.out
    match s.translate (.copy s.cell.name i.val) (p.ga % 2 ^ 45) false with
    | (s, .wait) => s
    | (s, .fault c) => s.copyFail i c p.ga
    | (s, .ok t) =>
      let g := t.granule p.ga
      match s.farCell g with
      | some (n, base) => if s.windowShut n then s else s.askPieces i false n base ps
      | none =>
        match s.reaches true g with
        | (s, false) => s
        | (s, true) =>
          match s.readPieces e.hint g ps with
          | (s, .error c) => s.copyFail i c p.ga
          | (s, .ok l) => modFocus s (·.modPieces i (·.map fun q =>
              match l.find? (·.1 == q) with | some (_, v) => { q with buf := some v } | none => q))
  | some _ =>
    let ps := e.todo.filter (·.sameLoc p)
    let here (q : Piece) : Bool := q.sameLoc p && q.buf.isSome
    if ps.any (fun q => s.cell.landBlocked q.loc q.len) || (ps.any (·.buf.isNone) && !s.answerHeld i p) then s
    else (s.landPieces (ps.filter here)).copied i here
/-- A piece of a CPUT (R226): its local granule is read at one point; once every piece of its destination granule is read,
that granule is written at one point, at once or by a request to another die. -/
def State.putPiece (s : State) (i : Fin 16) (e : CopyEnt) (p : Piece) : State :=
  match p.buf with
  | none =>
    let ps := e.todo.filter (·.sameLoc p)
    if ps.any fun q => s.cell.unmarkedBut e.exempt q.loc q.len then s
    else
      let c := s.cell
      let s := ps.foldl (fun s q => modFocus s (·.touched q.loc q.len)) s
      if ps.any fun q => (c.badRead q.loc q.len).isSome then s.copyFail i 0x0A 0
      else modFocus s (·.modEnt i fun e => { e with todo := e.todo.map fun q => if q.sameLoc p then { q with buf := some (c.bytes q.loc q.len) } else q })
  | some _ =>
    let ps := e.todo.filter (·.sameGlob p)
    if ps.any (·.buf.isNone) then s
    else
      match s.translate (.copy s.cell.name i.val) (p.ga % 2 ^ 45) true with
      | (s, .wait) => s
      | (s, .fault c) => s.copyFail i c p.ga
      | (s, .ok t) =>
        let g := t.granule p.ga
        match s.farCell g with
        | some (n, base) => if s.windowShut n then s else s.askPieces i true n base ps
        | none =>
          match s.reaches false g with
          | (s, false) => s
          | (s, true) =>
            let r := ps.foldl (fun (r : State × Option (BitVec 8)) q =>
              let x := r.1.globalWrite q.len (q.buf.getD 0) (g.plus (q.ga % 32))
              (x.1, r.2.or x.2)) (s, none)
            match r with
            | (s, some c) => s.copyFail i c p.ga
            | (s, none) => s.copied i (·.sameGlob p)
/-- The partition of the cell in hand is being pre-empted (R372). -/
def State.stopping (s : State) : Bool := match part s s.cell.part.toNat with | some q => q.preempt.isSome | none => false
/-- A copy whose pieces have changed has started (R241). -/
def Cell.noteBegun (c : Cell) (i : Fin 16) (old : List Piece) : Cell :=
  c.modEnt i fun e => { e with begun := e.begun || e.todo != old }
/-- A message of the C plane goes on for the copy that asks: a request is performed at its cell, an answer comes back (R316). -/
def State.copyMsg (s : State) (i : Fin 16) (k : Nat) : State :=
  match s.cAt k with
  | some (.ask a, x) => s.serveAsk k a x
  | some (.answer a cause, x) => if s.heldAt s.cell.name.toNat then s else (s.dropC k).answered i a cause x
  | _ => s
/-- COPY_TRANSFER (R226, R316): data entry `e` reads or writes one granule, or a request of it to another die goes on, in no specified
order (assumption 2); a copy that has not started waits for a pre-emption to save it (R241), one that has failed only for what it has
asked (R229). -/
def execCopyTransfer (c : Name) (e : Nat) (s : State) : Answer :=
  .next (within s c.toNat fun s =>
    if h : e < 16 then
      match s.cell.eng.ents[e] with
      | some x =>
        let ks := s.asksOf (.copy c e)
        let ps := if x.err.isSome || (s.stopping && !x.begun) then [] else x.todo.filter (!·.out)
        let n := choose s (ks.length + ps.length)
        let s := fresh s
        match ks[n]?, ps[n - ks.length]? with
        | some k, _ => s.copyMsg ⟨e, h⟩ k
        | none, some p => modFocus (if x.put then s.putPiece ⟨e, h⟩ x p else s.getPiece ⟨e, h⟩ x p) (·.noteBegun ⟨e, h⟩ x.todo)
        | none, none => s
      | none => s
    else s)
/-- The completion word of a status (Table 09.2). -/
def CopyEnt.word (x : CopyEnt) (status : BitVec 8) : Nat := x.value.toNat + 2 ^ 32 * status.toNat
/-- Write the completion word and free the entry (R228). -/
def State.complete (s : State) (i : Fin 16) (x : CopyEnt) (status : BitVec 8) : State :=
  (if x.woff = 0xFFFF then s else s.padStore (8 * x.woff.toNat) 8 (x.word status)).freeEnt i
/-- COPY_COMPLETION_WRITE (R228), through a signal entry, which it takes and frees at once (R225). -/
def execCopyCompletionWrite (c : Name) (e : Nat) (s : State) : Answer :=
  .next (within s c.toNat fun s =>
    if h : e < 16 then
      match s.cell.eng.ents[e] with
      | some x => if x.todo.isEmpty && x.err.isNone && s.cell.eng.sigFree then s.complete ⟨e, h⟩ x 0 else s
      | none => s
    else s)
/-- The channel 61 payload of a copy or stream error (Table 09.3). -/
def engineEvent (cause : BitVec 8) (src idx tid : Nat) (value : W32) (ga : W64) : V256 :=
  ofLanes (BitVec.ofNat 64 (cause.toNat + 2 ^ 8 * src + 2 ^ 10 * idx + 2 ^ 14 * tid + 2 ^ 32 * value.toNat)) ga
/-- COPY_ERROR (R229), once nothing that the copy asked of another die is on its way; a completion word takes a signal entry (R225). -/
def execCopyError (c : Name) (e : Nat) (s : State) : Answer :=
  .next (within s c.toNat fun s =>
    if h : e < 16 then
      match s.cell.eng.ents[e] with
      | some x =>
        match x.err with
        | none => s
        | some (k, ga) =>
          if x.todo.any (·.out) || (x.woff != 0xFFFF && !s.cell.eng.sigFree) then s
          else
            let s := modFocus s Cell.countErr
            if x.woff = 0xFFFF then (s.freeEnt ⟨e, h⟩).raise61 (engineEvent k 0 e x.t.val x.value ga)
            else s.complete ⟨e, h⟩ x k
      | none => s
    else s)

end Sys2Proof.Machine
end

