-- ==== Sys2Proof/Machine/Streams.lean ====
section
/-! DEFINITION. Stream engines (R233–R239): SBIND, SBIND.L and SCTL, and the fetch and write-out of packets. -/

namespace Sys2Proof.Machine

/-! ### Descriptors (Table 09.6) -/

/-- HINT. -/
def dHint (d : Nat) : Nat := bits d 8 2
/-- BASE. -/
def dBase (d : Nat) : Nat := bits d 16 15
/-- A count N0, N1 or N2. -/
def dCount (d k : Nat) : Nat := bits d (32 + 16 * k) 16 + 1
/-- A stride. -/
def dStride (d k : Nat) : Int := sintOf 32 (bits d (96 + 32 * k) 32)
/-- GADDR. -/
def dGaddr (d : Nat) : Nat := bits d 192 48
/-- META. -/
def dMeta (d : Nat) : Nat := bits d 240 15
/-- A kind on the global side. -/
def Stream.isGlobal (x : Stream) : Bool := x.kind == 2 || x.kind == 3 || x.kind == 5
/-- A kind with a bitmap. -/
def Stream.skips (x : Stream) : Bool := x.kind == 4 || x.kind == 5
/-- Address of element (0, 0, 0). -/
def Stream.origin (x : Stream) : Nat := if x.isGlobal then dGaddr x.desc.toNat else dBase x.desc.toNat
/-- Address of an element (R235). -/
def Stream.at_ (x : Stream) (e : Nat) : Int :=
  let d := x.desc.toNat
  let n0 := dCount d 0
  let n1 := dCount d 1
  (x.origin : Int) + (e % n0 : Nat) * dStride d 0 + (e / n0 % n1 : Nat) * dStride d 1 + (e / n0 / n1 : Nat) * dStride d 2
/-- The lowest and the highest corner of the pattern (R237). -/
def Stream.corners (x : Stream) : Int × Int :=
  let d := x.desc.toNat
  [0, 1, 2].foldl (fun (r : Int × Int) k =>
    let v := ((dCount d k - 1 : Nat) : Int) * dStride d k
    (r.1 + min 0 v, r.2 + max 0 v)) ((x.origin : Int), (x.origin : Int))
/-- A range of bytes lies in a window (R213). -/
def inWindow (glob : Bool) (lo hi : Int) : Bool :=
  if glob then decide (2 ^ 47 ≤ lo ∧ hi < 2 ^ 47 + 2 ^ 45) else decide (0 ≤ lo ∧ hi < (Config.padBytes : Int))
/-- Fields that must be zero, and values that Table 09.6 reserves. -/
def Stream.reservedDesc (x : Stream) : Bool :=
  let d := x.desc.toNat
  decide (5 < x.kind ∨ 5 < bits d 4 3) || bitOf d 7 || bits d 10 6 != 0 || bitOf d 31 || bits d 80 16 != 0 || bitOf d 255 ||
    dHint d == 3 || (!x.isGlobal && (dHint d != 0 || dGaddr d != 0)) || (x.isGlobal && dBase d != 0) ||
    (!x.skips && dMeta d != 0)
/-- The fault of a descriptor: ILLEGAL, WINDOW, ALIGN (R224, R237). The bitmap's range is checked for every local kind, and for the
global kind that has a bitmap (R213). -/
def Stream.descFault (x : Stream) : Option (BitVec 8 × Int) :=
  let d := x.desc.toNat
  let es := (x.esize : Int)
  if x.reservedDesc then some (0x01, 0)
  else if x.isGlobal && !inGlobal x.origin then some (0x03, x.origin)
  else if !inWindow x.isGlobal x.corners.1 (x.corners.2 + es - 1) then some (0x03, x.corners.1)
  else if (x.skips || !x.isGlobal) && decide (Config.padBytes < dMeta d + (x.packets + 7) / 8) then some (0x03, dMeta d)
  else if (x.origin : Int) % es ≠ 0 then some (0x02, x.origin)
  else ([0, 1, 2].find? fun k => decide (dStride d k % es ≠ 0)).map fun k => (0x02, (bits d (96 + 32 * k) 32 : Nat))

/-! ### SBIND (R237) -/

/-- The engine that q4 to q7 name. -/
def strmOf (d : Spec) : Fin 4 := ⟨d.toNat % 4, Nat.mod_lt _ (by decide)⟩
/-- q4 to q7. -/
def isStrm (d : Spec) : Bool := decide (36 ≤ d.toNat ∧ d.toNat < 40)
/-- Nothing pushed is still to be written (R238). -/
def Stream.drained (x : Stream) : Bool := !x.isWrite || x.buf.isEmpty || x.err
/-- At START, nothing fetched (R237, R238). -/
def Stream.rewound (x : Stream) : Stream :=
  { x with pos := x.start.setWidth 32, fetch := if x.skips then 0 else x.start.toNat, skip := if x.skips then x.start.toNat else 0,
           exh := false, ovr := false, err := false, buf := [], acc := [], fail := none, out := none }
/-- An error stops a stream (R236): ERR, no packet left, an event on channel 61. -/
def State.streamFail (s : State) (n : Fin 4) (cause : BitVec 8) (ga : W64) : State :=
  let x := s.cell.eng.strm[n]
  (modFocus s fun c => (c.modStrm n fun x => { x with err := true, buf := [], acc := [], fail := none }).countErr).raise61
    (engineEvent cause 1 n.val x.own.val 0 ga)
/-- SBIND's effect for a descriptor offset and START (R233, R237). -/
def bindAt (d : Spec) (off : Nat) (start : BitVec 16) (s : State) : Ctl :=
  let n := strmOf d
  if off % 32 ≠ 0 then .fault 0x02 (BitVec.ofNat 64 off)
  else
    let x : Stream := { own := s.cell.last, bound := true, desc := s.cell.gran off, start := start }
    match x.descFault with
    | some (c, v) => .fault c (BitVec.ofInt 64 v)
    | none =>
      let y := s.cell.eng.strm[n]
      if y.bound && y.own != s.cell.last then .need (.engineFree n)
      else if y.bound && !y.drained then .need (.drained n)
      else
        let bad := (s.cell.badRead off 32).isSome
        let s := (modFocus s fun c => (c.touched off 32).modStrm n fun _ => x.rewound).forgetStream n
        .done (if bad then s.streamFail n 0x0A 0 else s)
/-- SBIND (R237). -/
def execSbind (h : Hdr) (d a : Spec) (s : State) : Answer :=
  engineIssue h 1 (fun _ => !isStrm d || !srcOk a)
    (withSrc a fun v s => if v.extractLsb' 15 49 ≠ 0 then .fault 0x01 0 else bindAt d (bits v.toNat 0 15) 0 s) s
/-- SBIND.L (R237). -/
def execSbindL (h : Hdr) (d : Spec) (doff : BitVec 15) (start : BitVec 16) (s : State) : Answer :=
  engineIssue h 2 (fun _ => !isStrm d) (bindAt d doff.toNat start) s

/-! ### SCTL (R238) -/

/-- An engine that the issuing thread does not hold is ILLEGAL (R238). -/
def onStrm (d : Spec) (f : Stream → State → Ctl) (s : State) : Ctl :=
  let x := s.cell.eng.strm[strmOf d]
  if x.bound && x.own == s.cell.last then f x s else .fault 0x01 0
/-- SCTL.UNBIND (R238). -/
def execSctlUnbind (h : Hdr) (d : Spec) (s : State) : Answer :=
  engineIssue h 1 (fun _ => !isStrm d)
    (onStrm d fun x s => if x.drained then .done ((modFocus s (·.modStrm (strmOf d) Stream.unbound)).forgetStream (strmOf d)) else .need (.drained (strmOf d))) s
/-- SCTL.DRAIN (R238). -/
def execSctlDrain (h : Hdr) (d : Spec) (s : State) : Answer :=
  engineIssue h 1 (fun _ => !isStrm d)
    (onStrm d fun x s => if x.drained then .done s else .need (.drained (strmOf d))) s
/-- SCTL.REWIND (R238). -/
def execSctlRewind (h : Hdr) (d : Spec) (s : State) : Answer :=
  engineIssue h 1 (fun _ => !isStrm d)
    (onStrm d fun x s => if x.drained then .done ((modFocus s (·.modStrm (strmOf d) Stream.rewound)).forgetStream (strmOf d)) else .need (.drained (strmOf d))) s

/-! ### Fetch and write-out (R233, R235, R236) -/

/-- Elements of packet `j`. -/
def Stream.inPacket (x : Stream) (j : Nat) : Nat := Nat.min x.perPacket (x.elements - j * x.perPacket)
/-- Packets that an engine fetches ahead: the four of its buffer, or as many as an instruction waits for, which pops those beyond four as
they come (R191, R233; assumption 101). -/
def Cell.bufLimit (c : Cell) (n : Fin 4) : Nat :=
  tids.foldl (fun m t => match (c.th t).wait with | .need (.packets e k) => if e = n then Nat.max m k else m | _ => m) 4
/-- A request for an element leaves for a cell of another die, once its unit's window lets it (R316, R318). -/
def State.askElem (s : State) (n : Fin 4) (x : Stream) (cell off a : Nat) (v : Option Nat) : State :=
  let id := s.cell.eng.req
  let m : Ask := { who := .stream s.cell.name n.val, id := id, put := v.isSome, cell := cell, base := off - a % 32,
                   ps := [{ loc := 0, len := x.esize, ga := a, buf := v, out := true }] }
  if s.windowShut cell then s
  else (modFocus s fun c => { c.modStrm n (fun y => { y with out := some id }) with
    eng := { (c.modStrm n fun y => { y with out := some id }).eng with req := id + 1 } }).cputCausal s.cell.name.toNat cell (.ask m)
/-- Read an element (R209, R211, R236); one in another die by a request, whose answer brings it (R316). -/
def State.elemRead (s : State) (n : Fin 4) (x : Stream) (a : Nat) : State × Xlat × ReadRes :=
  if x.isGlobal then
    match s.translate (.stream s.cell.name n.val) (a % 2 ^ 45) false with
    | (s, .ok t) =>
      match s.farCell t with
      | some (cell, off) => (s.askElem n x cell off a none, .wait, .ok 0)
      | none => match s.reaches true t with
        | (s, false) => (s, .wait, .ok 0)
        | (s, true) =>
          let r := s.globalRead (a % 2 ^ 45) x.esize t (BitVec.ofNat 2 (dHint x.desc.toNat))
          (r.1, .ok t, r.2)
    | (s, r) => (s, r, .ok 0)
  else
    (modFocus s (·.touched a x.esize), .ok (.pad s.cell.name.toNat a),
     if (s.cell.badRead a x.esize).isSome then .error 0x0A else .ok (s.cell.bytes a x.esize))
/-- An element has been read: into the packet, and the packet into the buffer when it is whole. -/
def Stream.gather (x : Stream) (v : Nat) : Stream :=
  let acc := x.acc ++ [v]
  if x.inPacket x.fetch ≤ acc.length then { x with buf := x.buf ++ [pack (8 * x.esize) acc], fetch := x.fetch + 1, acc := [] }
  else { x with acc := acc }
/-- One step of a read engine: a bit of its bitmap, or an element of the packet it fetches (R235). -/
def State.refill (s : State) (n : Fin 4) (x : Stream) : State :=
  let ga (a : Nat) : W64 := if x.isGlobal then BitVec.ofNat 64 a else 0
  if x.out.isSome then s
  else if x.packets ≤ x.fetch then
    if x.buf.isEmpty then modFocus s (·.modStrm n fun x => { x with exh := true }) else s
  else
    let m := dMeta x.desc.toNat + x.fetch / 8
    if x.skips && x.acc.isEmpty && s.cell.unmarked m 1 then s
    else if x.skips && x.acc.isEmpty && (s.cell.badRead m 1).isSome then (modFocus s (·.touched m 1)).streamFail n 0x0A 0
    else
      let s := if x.skips && x.acc.isEmpty then modFocus s (·.touched m 1) else s
      if x.skips && x.acc.isEmpty && !bitOf (s.cell.bytes m 1) (x.fetch % 8) then
        modFocus s (·.modStrm n fun x => { x with fetch := x.fetch + 1 })
      else if 0 < x.skip then modFocus s (·.modStrm n fun x => { x with fetch := x.fetch + 1, skip := x.skip - 1 })
      else
        let a := (x.at_ (x.fetch * x.perPacket + x.acc.length)).toNat
        if !x.isGlobal && s.cell.unmarked a x.esize then s
        else match s.elemRead n x a with
          | (s, .wait, _) => s
          | (s, .fault c, _) => s.streamFail n c (ga a)
          | (s, .ok _, .error c) => s.streamFail n c (ga a)
          | (s, .ok _, .ok v) => modFocus s (·.modStrm n (·.gather v))
/-- An element has been written out; a packet whose elements are all written leaves the buffer. -/
def Stream.wrote (x : Stream) (j : Nat) : Stream :=
  if x.inPacket j ≤ x.acc.length + 1 then
    { x with buf := x.buf.drop 1, acc := [], exh := x.exh || (x.buf.length == 1 && decide (x.packets ≤ x.fetch)) }
  else { x with acc := x.acc ++ [0] }
/-- The oldest buffered packet of a write engine. -/
def Stream.oldest (x : Stream) : Nat := x.fetch - x.buf.length
/-- An answer reaches a stream engine (R235, R236, R316); one that a former binding asked for is nobody's. -/
def State.streamAnswer (s : State) (n : Fin 4) (a : Ask) (cause : BitVec 8) : State :=
  let x := s.cell.eng.strm[n]
  if x.out ≠ some a.id then s
  else
    let p := a.ps.head?
    let s := modFocus s (·.modStrm n fun x => { x with out := none })
    if cause ≠ 0 then (s.streamFail n cause (BitVec.ofNat 64 ((p.map (·.ga)).getD 0))).settle x.own
    else if a.put then (modFocus s (·.modStrm n (·.wrote x.oldest))).settle x.own
    else modFocus s (·.modStrm n (·.gather ((p.bind (·.buf)).getD 0)))
/-- A request or an answer of a stream engine goes on, if one of them can (R316). -/
def State.streamMsg (s : State) (c : Name) (n : Fin 4) : Option State :=
  let ks := s.asksOf (.stream c n.val)
  match ks[choose s ks.length]? with
  | none => none
  | some k => match s.cAt k with
    | some (.ask a, x) => some ((fresh s).serveAsk k a x)
    | some (.answer a cause, x) =>
      some (if s.heldAt c.toNat then s else (((fresh s).dropC k).appliedX x).streamAnswer n a cause)
    | _ => none
/-- STREAM_REFILL (R233). -/
def execStreamRefill (c : Name) (n : Fin 4) (s : State) : Answer :=
  .next (within s c.toNat fun s =>
    match s.streamMsg c n with
    | some s' => s'
    | none =>
    let x := s.cell.eng.strm[n]
    if !x.bound || x.isWrite || x.err || x.exh then s
    else match x.fail with
      | some (k, ga) => s.streamFail n k ga
      | none => if s.cell.bufLimit n ≤ x.buf.length then s else s.refill n x)
/-- One element of a write engine's oldest packet (R235). -/
def State.writeOut (s : State) (n : Fin 4) (x : Stream) (v : V256) : State :=
  let j := x.oldest
  let a := (x.at_ (j * x.perPacket + x.acc.length)).toNat
  let e := el v (8 * x.esize) x.acc.length
  if x.isGlobal then
    match s.translate (.stream s.cell.name n.val) (a % 2 ^ 45) true with
    | (s, .wait) => s
    | (s, .fault c) => s.streamFail n c (BitVec.ofNat 64 a)
    | (s, .ok t) =>
      match s.farCell t with
      | some (cell, off) => s.askElem n x cell off a (some e)
      | none => match s.reaches false t with
        | (s, false) => s
        | (s, true) => match s.globalWrite x.esize e t with
          | (s, some c) => s.streamFail n c (BitVec.ofNat 64 a)
          | (s, none) => modFocus s (·.modStrm n (·.wrote j))
  else
    let bad := s.cell.partBad a x.esize
    let s := s.padStore a x.esize e
    if bad then s.streamFail n 0x0A 0 else modFocus s (·.modStrm n (·.wrote j))
/-- STREAM_WRITE_OUT (R233). A thread that waits to end with RESET may go on once the streams have drained. -/
def execStreamWriteOut (c : Name) (n : Fin 4) (s : State) : Answer :=
  .next (within s c.toNat fun s =>
    match s.streamMsg c n with
    | some s' => s'
    | none =>
    let x := s.cell.eng.strm[n]
    if !x.bound || !x.isWrite || x.err || x.out.isSome then s
    else match x.fail, x.buf with
      | some (k, ga), _ => (s.streamFail n k ga).settle x.own
      | none, [] => if x.packets ≤ x.fetch then modFocus s (·.modStrm n fun x => { x with exh := true }) else s
      | none, v :: _ => (s.writeOut n x v).settle x.own)

end Sys2Proof.Machine
end

