-- ==== Sys2Proof/Machine/Messages.lean ====
section
/-! DEFINITION. The message instructions (R248–R254, R261–R265) with their timed forms (R335, R343); TIME (R344, R345). -/

namespace Sys2Proof.Machine

/-! ### Packets -/

/-- Change the message state of a cell. -/
def Cell.modMsg (c : Cell) (f : Msgs → Msgs) : Cell := { c with msg := f c.msg }
/-- Change the timed state of a cell. -/
def Cell.modTim (c : Cell) (f : Timed → Timed) : Cell := { c with tim := f c.tim }
/-- The next SEQ is taken (R253). -/
def State.takeSeq (s : State) : State := s.modMe fun x => { x with sseq := x.sseq + 1 }
/-- The payload of an event of R254. -/
def unmappedEvent (src : Nat) (t : TIdx) (cls : BitVec 4) (seq : BitVec 16) (chan : BitVec 6) (lane1 : W64) (cause : BitVec 8) : V256 :=
  ofLanes (BitVec.ofNat 64 (cause.toNat + 2 ^ 8 * src + 2 ^ 10 * cls.toNat + 2 ^ 14 * t.val + 2 ^ 32 * seq.toNat + 2 ^ 48 * chan.toNat)) lane1
/-- An event of R254, counted in MERR (Table 10.7). -/
def State.postUnmapped (s : State) (v : V256) : State :=
  (modFocus s (·.modMsg fun m => { m with merr := satInc m.merr })).raise61 v
/-- A packet enters the egress queue (R251). -/
def Cell.toEgress (c : Cell) (x : EgItem) : Cell := c.modMsg fun m => { m with egress := m.egress ++ [x] }
/-- The GVT counters of a timed message or anti-message at issue (R335). -/
def Timed.sent (x : Timed) (running : Bool) (vrt : BitVec 48) : Timed :=
  { x with sc0 := if x.col then x.sc0 else x.sc0 + 1, sc1 := if x.col then x.sc1 + 1 else x.sc1,
           rmin := if running && decide (vrt.toNat < x.rmin.toNat) then vrt else x.rmin }
/-- A GVT computation of the partition of the cell in hand is in progress (R335). -/
def State.gvtRunning (s : State) : Bool := match part s s.cell.part.toNat with | some p => p.gvt.isSome | none => false
/-- A message packet is made: class attributes, egress queue, SENT, and the GVT counters of a timed one (R249, R251, R262,
R335). -/
def State.makeMsg (s : State) (p : Pkt) : State :=
  let run := s.gvtRunning
  modFocus s fun c =>
    let p := { c.stampClass p with colour := p.tmd && c.tim.col }
    let c := c.toEgress (.msg p)
    let c := { c with inbox := { c.inbox with sent := c.inbox.sent + 1 } }
    if p.tmd then c.modTim (·.sent run p.vrt) else c
/-- A message to a name: the event of R254 when its die is not of the partition, else the packet. -/
def State.sendOrPost (s : State) (p : Pkt) : State :=
  if dieInPart s p.dest.toNat s.cell.part.toNat then s.makeMsg p
  else s.postUnmapped (unmappedEvent 2 p.stid p.cls p.seq p.chan (zx64 p.dest) 0x0C)
/-- Word 1 of a send entry (Table 14.3). -/
def Pkt.sendEntry (p : Pkt) : Nat :=
  p.dest.toNat + 2 ^ 20 * p.seq.toNat + 2 ^ 36 * p.stid.val + 2 ^ 39 * p.chan.toNat + 2 ^ 45 * p.cls.toNat

/-! ### SEND, SEND.L (R262, R263, R343) -/

/-- A run of payload registers: g registers up to g31, or zero. -/
def payloadOk (a : Spec) (x : BitVec 2) : Bool := a == 0x2E || decide (a.toNat + x.toNat < 32)
/-- VRT of a timed send (R343). -/
def timedVrt (lvt : BitVec 48) (inc : W32) : BitVec 48 := BitVec.ofNat 48 (Nat.min (lvt.toNat + inc.toNat) (2 ^ 48 - 2))
/-- The effect of a SEND to a name, channel and class, under a spec (R262, R343). -/
def sendAt (name : Name) (chan : BitVec 6) (cls : BitVec 4) (v : W64) (pay : List V256) (s : State) : Ctl :=
  let timed := v.getLsbD 16
  let jour := timed && s.cell.journaled s.cell.last && dieInPart s name.toNat s.cell.part.toNat
  if v.extractLsb' 17 15 ≠ 0 then .fault 0x01 0
  else if cls.toNat < 4 ∨ 48 ≤ chan.toNat then .fault 0x04 0
  else if 8 ≤ s.cell.msg.egress.length then .need .egressRoom
  else if jour && s.cell.journalShort 1 then .need (.journal 1)
  else
    let p : Pkt := { dest := name, src := s.cell.name, stid := s.cell.last, cls := cls, chan := chan, rch := v.extractLsb' 10 6,
                     tmd := timed, vrt := if timed then timedVrt s.cell.tim.lvt (v.extractLsb' 32 32) else 0, seq := s.me.sseq, pay := pay }
    let s := s.takeSeq
    let s := if jour then s.jAppend (jWord0 2 0 p.vrt) p.sendEntry else s
    .done (s.sendOrPost p)
/-- A send whose spec says that it is not timed is TIMED_ILLEGAL in a timed handler, before anything else (R262, R328); then a bound stream
register is ILLEGAL. -/
def sends (b : Spec) (l : List Spec) (body : State → Ctl) (s : State) : Ctl :=
  if s.me.tmd && !(s.src0 b).getLsbD 16 then .fault 0x06 0 else unbound l body s
/-- SEND (R262); D is a source (R48). -/
def execSend (h : Hdr) (d a b : Spec) (x : BitVec 2) (s : State) : Answer :=
  issue h 1 false (fun _ => !dstOk d || !srcOk b || !payloadOk a x)
    (sends b [d, b] fun s =>
      let v := s.src0 b
      sendAt ((s.src0After [b] d).extractLsb' 0 20) (v.extractLsb' 4 6) (v.extractLsb' 0 4) v (s.runAfter [b, d] a (x.toNat + 1)) s) s
/-- SEND.L (R263). -/
def execSendL (h : Hdr) (a b : Spec) (x : BitVec 2) (name : BitVec 20) (chan : BitVec 6) (cls : BitVec 4) (s : State) : Answer :=
  issue h 2 false (fun _ => !srcOk b || !payloadOk a x)
    (sends b [b] fun s => sendAt name chan cls (s.src0 b) (s.runAfter [b] a (x.toNat + 1)) s) s

/-! ### RATOM, RATOM.L (R264) -/

/-- Size of an operation (Table 10.8). -/
def atomSize (opc : Nat) : Nat := if opc = 1 ∨ opc = 2 ∨ opc = 3 ∨ opc = 4 ∨ opc = 14 ∨ opc = 15 then 4 else 8
/-- The effect of a remote atomic at issue (R251, R253, R264). -/
def ratomAt (d a : Spec) (opc cls : BitVec 4) (post : Bool) (s : State) : Ctl :=
  let ga := (s.src0 a).toNat
  let n := atomSize opc.toNat
  if s.me.tmd then .fault 0x06 0
  else if !inGlobal ga || !inGlobal (ga + n - 1) then .fault 0x03 (s.src0 a)
  else if ga % n ≠ 0 then .fault 0x02 (s.src0 a)
  else if cls.toNat < 4 then .fault 0x04 0
  else if 8 ≤ s.cell.msg.egress.length then .need .egressRoom
  else
    let seq := s.me.sseq
    let x : EgItem := .atom s.cell.last seq cls opc post ga (lane0 (s.srcAfter [a] d)) (lane1 (s.srcAfter [a] d)) none
    let s' := modFocus s.takeSeq (·.toEgress x)
    .done (if post then s'
      else s'.modMe fun x => { x with outs := x.outs ++ [{ d := d, bits := 128, val := 0, ready := false, kind := .remote seq }] })
/-- The operand checks of a remote atomic. -/
def ratomIll (d a : Spec) (_ : State) : Bool := !decide (d.toNat < 42) || !srcOk a
/-- The effect of a remote atomic that names these registers. -/
def ratomBody (d a : Spec) (opc cls : BitVec 4) (post : Bool) (s : State) : Ctl :=
  untimed (unbound [d, a] (ratomAt d a opc cls post)) s
/-- RATOM (R264): ADD.I64, MAX.F32, SWP.I64 or CAS.I64 by X. -/
def execRatom (h : Hdr) (d a : Spec) (cls : BitVec 4) (x : BitVec 2) (s : State) : Answer :=
  issue h 1 false (ratomIll d a)
    (ratomBody d a (if x = 0 then 0 else if x = 1 then 3 else if x = 2 then 12 else 13) cls false) s
/-- RATOM.L (R264). -/
def execRatomL (h : Hdr) (d a : Spec) (opc cls : BitVec 4) (post : BitVec 1) (s : State) : Answer :=
  issue h 2 false (ratomIll d a) (ratomBody d a opc cls (post == 1)) s

/-! ### CLMASK (R265) -/

/-- MASK after a CLMASK. -/
def clmaskNew (x : BitVec 2) (old m : BitVec 16) : BitVec 16 := if x = 0 then old ||| m else if x = 1 then old &&& ~~~m else m
/-- CLMASK (R265). -/
def execClmask (h : Hdr) (d a : Spec) (x : BitVec 2) (s : State) : Answer :=
  issue h 1 false (fun _ => x == 3 || !okSpecs [d] [a])
    (unbound [d, a] fun s =>
      let m : BitVec 16 := (s.src0 a).extractLsb' 4 12 ++ 0#4
      let old := s.cell.msg.clmask
      .done (modFocus (s.putRes d (.low (zx64 old))) (·.modMsg fun g => { g with clmask := clmaskNew x old m }))) s

/-! ### TIME (R344, R345) -/

/-- TIME.TNOW. -/
def execTimeTnow (h : Hdr) (d : Spec) (s : State) : Answer :=
  issue h 1 false (fun _ => !dstOk d) (unbound [d] fun s => .done (s.putRes d (.low (zx64 s.cell.tim.lvt)))) s
/-- TIME.TGVT. -/
def execTimeTgvt (h : Hdr) (d : Spec) (s : State) : Answer :=
  issue h 1 false (fun _ => !dstOk d) (unbound [d] fun s => .done (s.putRes d (.low (zx64 s.cell.tim.gvt)))) s
/-- A message of a TDEFER: untimed, lane 0 of one payload register (R344, R345). -/
def deferMsg (src : Name) (t : TIdx) (name : Name) (chan rch : BitVec 6) (cls : BitVec 4) (seq : BitVec 16) (pay : W64) : Pkt :=
  { dest := name, src := src, stid := t, cls := cls, chan := chan, rch := rch, seq := seq, pay := [ofLane0 pay] }
/-- Word 1 of a defer target entry (Table 14.3). -/
def Pkt.deferEntry (p : Pkt) : Nat :=
  p.dest.toNat + 2 ^ 20 * p.chan.toNat + 2 ^ 26 * p.rch.toNat + 2 ^ 32 * p.cls.toNat + 2 ^ 36 * p.stid.val + 2 ^ 39 * p.seq.toNat
/-- TDEFER's effect (R344). -/
def tdeferAt (name : Name) (pay v : W64) (s : State) : Ctl :=
  let jour := s.cell.journaled s.cell.last
  let p := deferMsg s.cell.name s.cell.last name (v.extractLsb' 4 6) (v.extractLsb' 10 6) (v.extractLsb' 0 4) s.me.sseq pay
  if !s.cell.timedThread s.cell.last then .fault 0x01 0
  else if v.extractLsb' 16 48 ≠ 0 then .fault 0x01 0
  else if p.cls.toNat < 4 ∨ 48 ≤ p.chan.toNat then .fault 0x04 0
  else if jour then
    if s.cell.journalShort 2 then .need (.journal 2)
    else .done ((s.takeSeq.jAppend (jWord0 3 0 s.cell.runVrt) pay.toNat).jAppend (jWord0 4 0 s.cell.runVrt) p.deferEntry)
  else if 8 ≤ s.cell.msg.egress.length then .need .egressRoom
  else .done (s.takeSeq.sendOrPost p)
/-- TIME.TDEFER; D is a source (R48). -/
def execTimeTdefer (h : Hdr) (d a b : Spec) (s : State) : Answer :=
  issue h 1 false (fun _ => !dstOk d || !srcOk a || !srcOk b)
    (unbound [d, a, b] fun s => tdeferAt ((s.src0 d).extractLsb' 0 20) (s.src0After [d] a) (s.src0After [d, a] b) s) s

/-! ### A remote atomic leaves (R251, R254, R259, R264) -/

/-- The result of a remote atomic is in (R264): it is written later like any long-latency result (R65). -/
def Thread.answered (x : Thread) (seq : BitVec 16) (old status : W64) : Thread :=
  { x with outs := x.outs.map fun o => if o.kind = .remote seq then { o with val := ofLanes old status, ready := true } else o }
/-- A remote atomic ends with a status: the result, or the event of a posted form that failed (R254, R264). -/
def State.atomDone (s : State) (t : TIdx) (seq : BitVec 16) (cls : BitVec 4) (post : Bool) (ga : W64) (old : W64) (status : BitVec 8) : State :=
  if post then (if status = 0 then s else s.postUnmapped (unmappedEvent 3 t cls seq 0 ga status))
  else s.modTh t (·.answered seq (if status = 0 then old else 0) (zx64 status))
/-- A path is busy (R251). -/
def Msgs.isBusy (m : Msgs) (p : Path) : Bool := m.busy.contains p
/-- Take an item out of the egress queue. -/
def State.dropEgress (s : State) (i : Nat) : State := modFocus s (·.modMsg fun m => { m with egress := dropAt m.egress i })
/-- A path becomes busy; `atom` says that a remote atomic takes it. -/
def Msgs.take (m : Msgs) (k : Path) (atom : Bool) : Msgs :=
  { m with busy := m.busy ++ [k], atoms := if atom then m.atoms ++ [k] else m.atoms }
/-- An item leaves for the network on a path, which becomes busy (R251). -/
def State.launch (s : State) (i : Nat) (p : Pkt) : State :=
  modFocus ((s.dropEgress i).inject p 0) (·.modMsg (·.take ⟨p.stid, p.dest, p.cls⟩ (p.kind == 1)))
/-- A path of the cell in hand may not be used now (R251, R318). -/
def State.pathShut (s : State) (k : Path) : Bool := s.cell.msg.isBusy k || decide (32 ≤ s.cell.msg.busy.length) || s.windowShut k.dest.toNat
/-- The KIND 1 packet of a remote atomic (R243). -/
def atomPkt (src owner : Name) (t : TIdx) (seq : BitVec 16) (cls opc : BitVec 4) (post : Bool) (off : Nat) (v c : W64) : Pkt :=
  { dest := owner, src := src, stid := t, cls := cls, seq := seq, kind := 1, post := post,
    pay := [BitVec.ofNat 256 (off + 2 ^ 16 * opc.toNat + 2 ^ 64 * v.toNat + 2 ^ 128 * c.toNat)] }
/-- The egress queue from item `i` on: the oldest item whose path is free leaves; `held` are the (thread, class) pairs
whose later items must wait for one that is not yet translated (R251). -/
def State.egressFrom (s : State) : Nat → List EgItem → List (TIdx × BitVec 4) → List Path → State
  | _, [], _, _ => s
  | i, .msg p :: r, held, paths =>
    let k : Path := ⟨p.stid, p.dest, p.cls⟩
    if held.contains (p.stid, p.cls) || paths.contains k || s.pathShut k then
      s.egressFrom (i + 1) r held (k :: paths)
    else s.launch i p
  | i, .atom t seq cls opc post ga v c failed :: r, held, paths =>
    match failed with
    | some k => (s.dropEgress i).atomDone t seq cls post (BitVec.ofNat 64 ga) 0 k
    | none =>
      if held.contains (t, cls) then s.egressFrom (i + 1) r held paths
      else match s.translate (.atom s.cell.name t seq) (ga % 2 ^ 45) true with
        | (s, .wait) => s.egressFrom (i + 1) r ((t, cls) :: held) paths
        | (s, .fault k) => (s.dropEgress i).atomDone t seq cls post (BitVec.ofNat 64 ga) 0 k
        | (s, .ok (.store ..)) => (s.dropEgress i).atomDone t seq cls post (BitVec.ofNat 64 ga) 0 0x0B
        | (s, .ok (.pad n off)) =>
          let k : Path := ⟨t, BitVec.ofNat 20 n, cls⟩
          if paths.contains k || s.pathShut k then s.egressFrom (i + 1) r held (k :: paths)
          else
            let s := s.launch i (atomPkt s.cell.name (BitVec.ofNat 20 n) t seq cls opc post off v c)
            if post then modFocus s (·.modMsg fun m => { m with posted := m.posted ++ [{ t := t, seq := seq, cls := cls, ga := BitVec.ofNat 64 ga }] })
            else s
/-- EGRESS_INJECT (R251). -/
def execEgressInject (c : Name) (s : State) : Answer :=
  .next (within s c.toNat fun s => if s.heldAt c.toNat then s else s.egressFrom 0 s.cell.msg.egress [] [])

end Sys2Proof.Machine
end

