-- ==== Sys2Proof/Machine/Mesh.lean ====
section
/-! DEFINITION. The M plane: routing by name (R25–R28, R244, R245), acknowledgements (R252), error replies (R26, R254),
and remote atomics at their owner (R259, R264). Links, credits and buffers carry no state here (assumption 1). -/

namespace Sys2Proof.Machine

/-! ### Places and hops -/

/-- A router one hop away by port: 1 north, 2 east, 3 south, 4 west (R25). -/
def hopFrom (pos : Nat) (port : Nat) : Option Nat :=
  let p := posOf pos
  let gx := p.die % 8 * 128 + p.col
  let gy := p.die / 8 * 128 + p.row
  let at_ (x y : Nat) : Nat := routerOf ⟨y / 128 * 8 + x / 128, y % 128, x % 128⟩
  if port = 1 then (if gy = 0 then none else some (at_ gx (gy - 1)))
  else if port = 2 then (if gx = 1023 then none else some (at_ (gx + 1) gy))
  else if port = 3 then (if gy = 1023 then none else some (at_ gx (gy + 1)))
  else if port = 4 then (if gx = 0 then none else some (at_ (gx - 1) gy))
  else none
/-- The port at which a packet arrives that left by a port. -/
def backPort (port : Nat) : Nat := if port = 1 then 3 else if port = 2 then 4 else if port = 3 then 1 else 2
/-- X first, then Y; 0 at the place itself. -/
def towards (x y tx ty : Nat) : Nat := if x < tx then 2 else if tx < x then 4 else if y < ty then 3 else if ty < y then 1 else 0
/-- The reply set (Table 10.2). -/
def Pkt.isReply (p : Pkt) : Bool := decide (2 ≤ p.kind.toNat)
/-- Consumed by a causal unit, not by a cell (R244). -/
def Pkt.isControl (p : Pkt) : Bool := decide (5 ≤ p.kind.toNat)
/-- The `k`-th packet of the network changes. -/
def State.setFlight (s : State) (k : Nat) (f : Flight) : State := { s with mnet := setAt s.mnet k f }
/-- It leaves the network. -/
def State.dropFlight (s : State) (k : Nat) : State := { s with mnet := dropAt s.mnet k }
/-- A packet starts at a router. -/
def State.injectAt (s : State) (pos : Nat) (p : Pkt) (vc : BitVec 2) : State := { s with mnet := s.mnet ++ [{ p := p, pos := pos, vc := vc }] }
/-- Count in a counter. -/
def countDie (m : Sparse 32) (die : Nat) : Sparse 32 := Sp.set m die (satInc (Sp.get m die))

/-! ### Name tables (R25) -/

/-- A table's entries. -/
def nameTable (s : State) (pos : Nat) : List NameEnt := (KM.get s.routers pos).getD []
/-- Learn a source name: rewrite its entry, else take an invalid entry, else the oldest of the 32 (R25). -/
def learned (l : List NameEnt) (e : NameEnt) : List NameEnt :=
  match firstIx (fun x => x.name == e.name) l 0 with
  | some i => setAt l i e
  | none =>
    match firstIx (fun x => x.age == 15) l 0 with
    | some i => setAt l i e
    | none =>
      if l.length < 32 then l ++ [e]
      else
        let top := l.foldl (fun m x => Nat.max m x.age.toNat) 0
        match firstIx (fun x => x.age.toNat == top) l 0 with
        | some i => setAt l i e
        | none => l
/-- A reply-class packet of a program class passes a router, having come in by a port (R25, R248). -/
def State.learnAt (s : State) (pos : Nat) (p : Pkt) (port : Nat) : State :=
  if p.isReply && !p.isControl && decide (4 ≤ p.cls.toNat) then
    { s with routers := KM.put s.routers pos (learned (nameTable s pos) { name := p.src, port := BitVec.ofNat 3 port, age := 0 }) }
  else s
/-- The valid entry of a name. -/
def tableHit (s : State) (pos : Nat) (n : Name) : Option NameEnt := (nameTable s pos).find? fun e => e.name == n && e.age != 15
/-- A hit resets the age (R25). -/
def State.hitAge (s : State) (pos : Nat) (n : Name) : State :=
  { s with routers := KM.put s.routers pos ((nameTable s pos).map fun e => if e.name == n then { e with age := 0 } else e) }
/-- The tables of a die's routers. -/
def State.mapTables (s : State) (die : Nat) (f : NameEnt → NameEnt) : State :=
  { s with routers := s.routers.map fun r => if r.1 / 16384 = die then (r.1, r.2.map f) else r }
/-- NAME_TABLE_AGEING (R25). -/
def execNameTableAgeing (die : DieSite) (s : State) : Answer :=
  .next (s.mapTables die.toNat fun e => if e.age = 15 then e else { e with age := e.age + 1 })
/-- A name's nominal place lies in a tumbler of a die (R25). -/
def nominalIn (s : State) (die u : Nat) (n : Nat) : Bool :=
  physDie s (nameDie n) == some die && tumOf (nomRow n) (nomCol n) == u
/-- ROTATION_NOTICE (R25). -/
def execRotationNotice (die : DieSite) (u : TumIdx) (s : State) : Answer :=
  .next (s.mapTables die.toNat fun e => if nominalIn s die.toNat u.toNat e.name.toNat then { e with age := 15 } else e)

/-! ### Replies that routers and cells send (R26, R252, R254, R259) -/

/-- The acknowledgement of a packet (R252); its source is the name the packet went to. -/
def ackOf (p : Pkt) : Pkt :=
  { dest := p.src, src := p.dest, stid := p.stid, cls := p.cls, seq := p.seq, kind := 4, rset := true, nolrn := p.nolrn }
/-- The response to a remote atomic (R243, R259). -/
def responseOf (p : Pkt) (old : W64) (status : BitVec 8) : Pkt :=
  { ackOf p with kind := 3, post := p.post, pay := [ofLanes old (zx64 status)] }
/-- The error reply of R26, with the payload of R254. -/
def errorOf (p : Pkt) : Pkt :=
  { ackOf p with kind := 2, chan := 61, pay := [unmappedEvent 2 p.stid p.cls p.seq p.chan (zx64 p.dest) 0x0C] }
/-- A released causal packet ends where no cell takes it: its die's unit counts it as applied, and what follows it is not held for
ever (R319). -/
def State.ended (s : State) (f : Flight) : State :=
  match f.p.causal with
  | some c => if f.rel then s.reportApplied (nameDie f.p.dest.toNat) c else s
  | none => s
/-- What a router answers a packet would leave its die, whose unit may not stamp one more (R318). -/
def State.replyShut (s : State) (f : Flight) : Bool :=
  match logDie s (f.pos / 16384) with
  | some d => nameDie f.p.src.toNat != d && s.unitFull d 1
  | none => false
/-- A router answers a request that it cannot forward: an acknowledgement and an error reply, or the status of an atomic
(R26, R252, R254), which waits for the window of the unit that stamps what it answers (R318). A reply is discarded and counted. -/
def State.unmapped (s : State) (k : Nat) (f : Flight) : State :=
  if !f.p.isReply && s.replyShut f then s
  else
  let s := (s.dropFlight k).ended f
  if f.p.isReply then { s with discarded := countDie s.discarded (f.pos / 16384) }
  else if f.p.kind = 1 then s.injectAt f.pos (responseOf f.p 0 0x0C) 2
  else (s.injectAt f.pos (ackOf f.p) 2).injectAt f.pos (errorOf f.p) 3

/-! ### Hinges (R18, R24, R245, R380) -/

/-- The die beside a die by port. -/
def dieBeside (die port : Nat) : Option Nat :=
  if port = 1 then (if die < 8 then none else some (die - 8))
  else if port = 2 then (if die % 8 = 7 then none else some (die + 1))
  else if port = 3 then (if 56 ≤ die then none else some (die + 8))
  else if port = 4 then (if die % 8 = 0 then none else some (die - 1))
  else none
/-- A defect record takes a hinge row out of service (Table 01.2, KIND 0x4). -/
def hingeRowBad (s : State) (die port row : Nat) : Bool :=
  s.merged.any fun r => recKind r == 4 && recDie r == die && recCell r == (port - 1) * 128 + row
/-- A row of a hinge is in service on both its dies. -/
def hingeRowUp (s : State) (die port row : Nat) : Bool :=
  match dieBeside die port with
  | none => false
  | some e => !hingeRowBad s die port row && !hingeRowBad s e (backPort port) row
/-- A hinge is in service: some row of it is, and carries the traffic of those that are not (R18). -/
def hingeUp (s : State) (die port : Nat) : Bool := (List.range 128).any (hingeRowUp s die port)
/-- A die site, live or dead, lies in the rectangle of a partition (R24). -/
def inRect (s : State) (w d : Nat) : Bool := match part s w with | some q => q.dies.contains d || q.sites.contains d | none => false
/-- A host token, whose SRC is a port's number and no name (R383). -/
def Pkt.isToken (p : Pkt) : Bool := p.kind == 0 && p.chan == 57
/-- The partition whose traffic a packet is: that of the cell that made it, or of the cell that a token, a control packet or a reply
goes to (R24, R380). -/
def Pkt.home (s : State) (p : Pkt) : Nat := (partOfName s (if p.isReply || p.isToken then p.dest else p.src).toNat).getD 64
/-- A packet of a partition. -/
def Flight.inPart (s : State) (p : Nat) (f : Flight) : Bool :=
  dieInPart s f.p.dest.toNat p || (!f.p.isControl && !f.p.isToken && dieInPart s f.p.src.toNat p)
/-- Traffic of partition `w` passes a die's hinge by port: both dies lie in its rectangle, dead dies of it included (R24). -/
def hingeFree (s : State) (w die port : Nat) : Bool :=
  match dieBeside die port with | some e => inRect s w die && inRect s w e && hingeUp s die port | none => false
/-- The row of a hinge that a router of its die edge stands at, or the column. -/
def hingeRow (pos port : Nat) : Nat := if port = 2 ∨ port = 4 then (posOf pos).row else (posOf pos).col
/-- Where a packet that leaves a router by a hinge comes out: straight on at `q`, or, where that row is out of service, at one of the
hinge's remaining rows, over which its traffic is spread (R18; assumption 37). -/
def State.outAt (s : State) (pos port q : Nat) : State × Nat :=
  let die := pos / 16384
  if hingeRowUp s die port (hingeRow pos port) then (s, q)
  else
    let rows := (List.range 128).filter (hingeRowUp s die port)
    let r := rows.getD (choose s rows.length) (hingeRow pos port)
    let z := posOf q
    (fresh s, routerOf (if port = 2 ∨ port = 4 then { z with row := r } else { z with col := r }))
/-- The port of a die toward another, X first (R26). -/
def dieTowards (a b : Nat) : Nat := towards (a % 8) (a / 8) (b % 8) (b / 8)
/-- Every hinge on the way of rule 2 of R26 is free. -/
def straightFree (s : State) (w : Nat) : Nat → Nat → Nat → Bool
  | 0, _, _ => true
  | k + 1, a, b =>
    if a = b then true
    else hingeFree s w a (dieTowards a b) && (match dieBeside a (dieTowards a b) with | some e => straightFree s w k e b | none => false)
/-- Moves between dies under the west-first restriction (R245): a place is a die, and whether the packet has moved north or south. -/
def dieMoves (s : State) (w : Nat) (x : Nat × Bool) : List (Nat × Nat × Bool) :=
  [2, 4, 3, 1].filterMap fun port =>
    if (port = 4 ∧ x.2 = true) ∨ hingeFree s w x.1 port = false then none
    else (dieBeside x.1 port).map fun e => (port, e, x.2 || port == 1 || port == 3)
/-- The first port of a shortest detour to a set of places, which grows by one hop at a time (R24, R245). -/
def detour (s : State) (w : Nat) (x : Nat × Bool) : Nat → List (Nat × Bool) → Option Nat
  | 0, _ => none
  | k + 1, near =>
    match (dieMoves s w x).find? fun m => near.contains m.2 with
    | some m => some m.1
    | none => detour s w x k (near ++ (((List.range 64).flatMap fun d => [(d, false), (d, true)]).filter fun y =>
        !near.contains y && (dieMoves s w y).any fun m => near.contains m.2))
/-- The port toward another die for traffic of partition `w`: that of rule 2, or of a detour where a hinge on that way is not free; none
where no way that R245 allows leads there (R24). A packet to a die outside the rectangle goes to the partition's edge. -/
def diePort (s : State) (w : Nat) (turned : Bool) (a b : Nat) : Option Nat :=
  if straightFree s w 16 a b then (if dieTowards a b = 4 ∧ turned = true then none else some (dieTowards a b))
  else (detour s w (a, turned) 128 [(b, false), (b, true)]).or (if turned || inRect s w b then none else some (dieTowards a b))

/-! ### Forwarding (R26, R27) -/

/-- What a router does with a packet. -/
inductive Way where
  | unmapped
  | control
  | wait
  | place
  | port (n : Nat)
  | flood
  deriving DecidableEq, Repr
/-- A packet for its own die that its unit has not released (R319). -/
def State.unreleased (s : State) (f : Flight) : Bool :=
  f.p.causal.isSome && !f.rel && !f.p.isControl && physDie s (nameDie f.p.dest.toNat) == some (f.pos / 16384)
/-- Rules 2 to 5 of R26, without a turn that R245 bars. -/
def State.byPlace (s : State) (f : Flight) : Way :=
  let p := posOf f.pos
  match physDie s (nameDie f.p.dest.toNat) with
  | none => .unmapped
  | some d =>
    if d ≠ p.die then (match diePort s (f.p.home s) f.turned p.die d with | some n => .port n | none => .flood)
    else if f.p.isControl then .control
    else match curPos s f.p.dest.toNat with
      | none => .unmapped
      | some q =>
        if routerOf q = f.pos then .place
        else if towards p.col p.row q.col q.row = 4 ∧ f.turned = true then .flood
        else .port (towards p.col p.row q.col q.row)
/-- The entry that rule 1 of R26 finds. -/
def State.ruleOne (s : State) (f : Flight) : Option NameEnt := if f.p.nolrn || f.p.isControl then none else tableHit s f.pos f.p.dest
/-- The five rules (R26), with R245. -/
def State.way (s : State) (f : Flight) : Way :=
  if s.unreleased f then .wait
  else match s.ruleOne f with
    | some e => if e.port = 4 ∧ f.turned = true then s.byPlace f else if e.port = 0 then .place else .port e.port.toNat
    | none => s.byPlace f
/-- A packet that reached the boundary of the `k`-th's tumbler before it is still on its way to its cell's new position (R260, R311). -/
def State.laterIn (s : State) (k : Nat) (f : Flight) : Bool :=
  f.kept && match curPos s f.p.dest.toNat with
    | none => false
    | some z => (s.mnet.take k).any fun g =>
        g.kept && g.phase == .moving && !s.unreleased g && s.inTum z.die (tumOf z.row z.col) g.p.dest.toNat
/-- The cell a packet reached takes it in hand; packets that waited at its tumbler's boundary reach their cells in the order in which they
reached that (R260). -/
def State.arriveAt (s : State) (k : Nat) (f : Flight) : State :=
  if s.laterIn k f then s else s.setFlight k { f with phase := .arrived, held := false }
/-- A packet waits at the boundary of a rotating tumbler, behind those that reached it earlier (R260). -/
def State.holdFlight (s : State) (k : Nat) (f : Flight) : State :=
  if f.held then s else { s with mnet := dropAt s.mnet k ++ [{ f with held := true, kept := true }] }
/-- A packet may not enter its name's tumbler: the tumbler holds what is inbound, or an earlier packet that it held is still at its
boundary (R260). -/
def State.boundaryShut (s : State) (f : Flight) : Bool :=
  match curPos s f.p.dest.toNat with
  | none => false
  | some z =>
    holding s z || (match s.mnet.find? fun g => g.held && s.inTum z.die (tumOf z.row z.col) g.p.dest.toNat with
      | some g => g != f
      | none => false)
/-- A move from one place to another enters the tumbler of a packet's name. -/
def State.enters (s : State) (f : Flight) (b : Pos) : Bool :=
  let a := posOf f.pos
  s.inTum b.die (tumOf b.row b.col) f.p.dest.toNat && !(a.die == b.die && tumOf a.row a.col == tumOf b.row b.col)
/-- A packet is dropped at a hinge of its die, which counts it (R24, R380). -/
def State.dropAtHinge (s : State) (k : Nat) (f : Flight) (port : Nat) : State :=
  { s.dropFlight k with crossing := countDie s.crossing (f.pos / 16384 * 4 + (port - 1)) }
/-- A flood (R27): the holder's router learns the sender by the port that leads, in dimension order, back to the flood's start (assumption
38); the holder of the name accepts the one copy; with none, each die of the partition counts it, and the
cell that started it acknowledges it and counts its disposal (R89, R252). -/
def State.flood (s : State) (k : Nat) (f : Flight) : State :=
  let w := f.p.home s
  let p := posOf f.pos
  match (if partOfName s f.p.dest.toNat == some w then curPos s f.p.dest.toNat else none) with
  | some q =>
    let back := if q.die = p.die then towards q.col q.row p.col p.row else dieTowards q.die p.die
    if q.die ≠ p.die ∧ f.p.isCausal = true ∧ f.stamped = false then s
    else if s.enters f q && s.boundaryShut f then s.holdFlight k f
    else
      let g := { f with pos := routerOf q, vc := 1, held := false, flood := some f.pos }
      (if s.unreleased g then s.setFlight k g else s.arriveAt k g).learnAt (routerOf q) f.p back
  | none =>
    let dies := match part s w with | some x => x.dies | none => []
    let s := { (s.dropFlight k).ended f with undelivered := dies.foldl countDie s.undelivered }
    let s := if f.p.kind = 0 then s.injectAt f.pos (ackOf f.p) 2 else s
    match nameAt s (posOf f.pos) with
    | some n => if f.p.counts then modCell s n fun c => { c with inbox := { c.inbox with recv := c.inbox.recv + 1 } } else s
    | none => s
/-- A packet at a place that should hold its name (R26, rule 5). -/
def State.atPlace (s : State) (k : Nat) (f : Flight) : State :=
  match nameAt s (posOf f.pos) with
  | none => s.unmapped k f
  | some n => if n = f.p.dest.toNat then s.arriveAt k f else s.flood k f
/-- A packet moves by a port: it waits at a gate for its stamp, and at the boundary of a tumbler that holds what is inbound; at the
partition's edge, and at a hinge out of service, it is dropped and counted; a hinge row out of service sends it to another (R18, R24,
R260, R316). -/
def State.hop (s : State) (k : Nat) (f : Flight) (port : Nat) : State :=
  match hopFrom f.pos port with
  | none => s.dropAtHinge k f port
  | some q =>
    let out := decide (q / 16384 ≠ f.pos / 16384)
    if out && f.p.isCausal && !f.stamped then s
    else if out && !hingeFree s (f.p.home s) (f.pos / 16384) port then s.dropAtHinge k f port
    else
      let (s, q) := if out then s.outAt f.pos port q else (s, q)
      if s.enters f (posOf q) && s.boundaryShut f then s.holdFlight k f
      else (s.setFlight k { f with pos := q, turned := f.turned || port == 1 || port == 3, held := false }).learnAt q f.p (backPort port)
/-- ROUTER_FORWARD (R26): one hop of the `k`-th packet. A packet waits at a gate until it is stamped, at its destination
die until it is released, and outside a tumbler that holds what is inbound. A lookup that hits resets the entry's age, whether or not
R245 lets the packet take its port (R25). -/
def execRouterForward (k : Nat) (s : State) : Answer :=
  .next (match s.mnet[k]? with
    | none => s
    | some f =>
      if f.phase = .arrived then s
      else
        let w := s.way f
        let s := if nameAt s (posOf f.pos) = some f.p.src.toNat then s.learnAt f.pos f.p 0 else s
        let s := if w ≠ .wait ∧ (s.ruleOne f).isSome = true then s.hitAge f.pos f.p.dest else s
        match w with
        | .unmapped => s.unmapped k f
        | .control => s.arriveAt k f
        | .wait => s
        | .place => s.atPlace k f
        | .port n => s.hop k f n
        | .flood => s.flood k f)

/-! ### What a cell does with packets that bind no thread -/

/-- A token or a start command has still to pass a cell: nothing of the next round reaches it before (R312). -/
def awaits (s : State) (n : Nat) : Bool :=
  match ((partOfName s n).bind (part s)).bind (·.token) with
  | some k => k.left.contains n || k.held.contains n
  | none => false
/-- A residual packet of a restore comes before a packet: one that R319 has it wait for, or an earlier one of its cell and set that waits
for none itself (R311, R375, step 4). -/
def State.residualFirst (s : State) (k : Nat) (f : Flight) : Bool :=
  f.after.any s.ridLeft ||
    (s.mnet.take k).any fun g => g.rid != 0 && g.p.dest == f.p.dest && g.p.isReply == f.p.isReply && !g.after.any s.ridLeft
/-- The disposal of a new arrival, where nothing waits ahead of it; none where it must wait in the network (R79, R80). -/
def Cell.takes (c : Cell) (p : Pkt) : Option Disposal :=
  let i := c.inbox
  if p.kind = 2 then
    if i.rbuf.isEmpty ∧ c.disposal p ≠ .stay then some (c.disposal p)
    else if i.rbuf.length < 2 then some .stay else none
  else if i.latches.isEmpty ∧ i.ibuf.isEmpty ∧ c.disposal p ≠ .stay then some (c.disposal p)
  else if i.latches.isEmpty ∧ i.ibuf.length < 4 then some .stay else none
/-- A message that its cell has no room for now. -/
def State.stuck (s : State) (p : Pkt) : Bool :=
  (p.kind == 0 || p.kind == 2) && !p.anti && ((getCell s p.dest.toNat).takes p).isNone
/-- Packets that pass no packet of their own set by: requests, handler-bound replies, other replies (Table 10.2). -/
def Pkt.sameSet (p q : Pkt) : Bool := p.isReply == q.isReply && (p.kind == 2) == (q.kind == 2)
/-- A packet that waited at the boundary of a tumbler is taken by its cell before the `k`-th, which waited there later, in the order in
which they reached the boundary (R260, R311); one of another set that the cell has no room for is passed by (assumption 97). -/
def State.keptFirst (s : State) (k : Nat) (f : Flight) : Bool :=
  f.kept && (s.mnet.take k).any fun g => g.kept && g.p.dest == f.p.dest && (g.p.sameSet f.p || !s.stuck g.p)
/-- The `k`-th packet, if it has reached a cell that is awake and in its round, and is of one of these kinds. -/
def State.ready (s : State) (k : Nat) (kinds : List (BitVec 4)) : Option Flight :=
  match s.mnet[k]? with
  | none => none
  | some f =>
    if f.phase = .arrived ∧ kinds.contains f.p.kind = true ∧ (getCell s f.p.dest.toNat).drowsy = false ∧
        awaits s f.p.dest.toNat = false ∧ s.residualFirst k f = false ∧ s.keptFirst k f = false then some f else none
/-- The cell reports a causal packet applied (R319). -/
def State.applied (s : State) (f : Flight) : State :=
  match f.p.causal with
  | some c => s.reportApplied (nameDie f.p.dest.toNat) c
  | none => s
/-- The path of a reply is no longer busy (R252). -/
def Cell.clearPath (c : Cell) (p : Pkt) : Cell :=
  c.modMsg fun m => { m with busy := dropFirst (· == ⟨p.stid, p.src, p.cls⟩) m.busy, atoms := dropFirst (· == ⟨p.stid, p.src, p.cls⟩) m.atoms }
/-- ACKNOWLEDGEMENT (R252): the `k`-th packet, of KIND 4. -/
def execAcknowledgement (k : Nat) (s : State) : Answer :=
  .next (match s.ready k [4] with
    | none => s
    | some f => modCell (s.dropFlight k) f.p.dest.toNat (·.clearPath f.p))
/-- The new value of a remote atomic on an old one (Table 10.8); none where it writes nothing. -/
def remoteNew (opc : Nat) (w v c : Nat) : Option Nat :=
  let f32 (x : Nat) : FVal := valueOf 0 x
  match opc with
  | 0 => some ((w + v) % 2 ^ 64)
  | 1 => some ((w + v) % 2 ^ 32)
  | 2 => some (roundF 0 .rne (sumF [f32 w, f32 (v % 2 ^ 32)]))
  | 3 => some (minmaxEl 0 true w (v % 2 ^ 32))
  | 4 => some (minmaxEl 0 false w (v % 2 ^ 32))
  | 5 => some (if sintOf 64 w < sintOf 64 v then v else w)
  | 6 => some (if sintOf 64 v < sintOf 64 w then v else w)
  | 7 => some (Nat.max w v)
  | 8 => some (Nat.min w v)
  | 9 => some (w &&& v)
  | 10 => some (w ||| v)
  | 11 => some (w ^^^ v)
  | 12 => some v
  | 13 => if w = c then some v else none
  | 14 => some (v % 2 ^ 32)
  | _ => if w = c % 2 ^ 32 then some (v % 2 ^ 32) else none
/-- A remote atomic at its point in the owner's order (R259): the old value and the status. -/
def State.performAtom (s : State) (off opc v c : Nat) : State × W64 × BitVec 8 :=
  let n := atomSize opc
  let bad := (s.cell.badRead off n).isSome
  let w := s.cell.bytes off n
  let s' := modFocus s (·.touched off n)
  if bad then (s', 0, 0x0A)
  else match remoteNew opc w v c with
    | some x => (s'.padStore off n x, BitVec.ofNat 64 w, 0)
    | none => (s', BitVec.ofNat 64 w, 0)
/-- REMOTE_ATOMIC_PERFORM (R259): the `k`-th packet, of KIND 1, at its owner; it waits on an open watermark (R217), and for the window of
the unit that stamps the response (R318). -/
def execRemoteAtomicPerform (k : Nat) (s : State) : Answer :=
  .next (match s.ready k [1] with
    | none => s
    | some f =>
      let g := (f.p.pay.headD 0).toNat
      let off := bits g 0 15
      let opc := bits g 16 4
      if (getCell s f.p.dest.toNat).unmarked off (atomSize opc) || s.windowFull f.p.dest.toNat f.p.src.toNat then s
      else within (s.dropFlight k) f.p.dest.toNat fun s =>
        match s.performAtom off opc (bits g 64 64) (bits g 128 64) with
        | (s, old, status) => (s.inject (responseOf f.p old status) 2).applied f)
/-- ATOMIC_RESPONSE (R264): the `k`-th packet, of KIND 3; it also acknowledges its path (R252). -/
def execAtomicResponse (k : Nat) (s : State) : Answer :=
  .next (match s.ready k [3] with
    | none => s
    | some f => within (s.dropFlight k) f.p.dest.toNat fun s =>
      let g := f.p.pay.headD 0
      let me (x : Posted) : Bool := x.t == f.p.stid && x.seq == f.p.seq
      let ga : W64 := match s.cell.msg.posted.find? me with | some x => x.ga | none => 0
      let s := modFocus s fun c => (c.clearPath f.p).modMsg fun m => { m with posted := if f.p.post then dropFirst me m.posted else m.posted }
      (s.atomDone f.p.stid f.p.seq f.p.cls f.p.post ga (lane0 g) ((lane1 g).extractLsb' 0 8)).applied f)

end Sys2Proof.Machine
end

