-- ==== Sys2Proof/Machine/Arrival.lean ====
section
/-! DEFINITION. What reaches the threads of a cell: messages and events that arrive and bind (R75–R83, R250, R335), blocks
(R70, R97), joins (R99), and long-latency results (R65–R67). -/

namespace Sys2Proof.Machine

/-! ### Arrivals (R79, R80, R83) -/

/-- RC counts a timed message when it enters the ingress buffer (R335). -/
def Timed.received (x : Timed) (p : Pkt) : Timed :=
  if p.tmd then { x with rc0 := if p.colour then x.rc0 else x.rc0 + 1, rc1 := if p.colour then x.rc1 + 1 else x.rc1 } else x
/-- An error reply that reaches its cell: MERR counts it, and RECV the message it answers (R89, R254). -/
def Cell.errorReply (c : Cell) (p : Pkt) : Cell :=
  if p.kind = 2 ∧ p.chan = 61 then
    { c.modMsg (fun m => { m with merr := satInc m.merr }) with inbox := { c.inbox with recv := c.inbox.recv + 1 } }
  else c
/-- Into the reply buffer or the ingress buffer, or disposed of. -/
def State.takeIn (s : State) (p : Pkt) (d : Disposal) : State :=
  if p.kind = 2 ∧ d = .stay then s.modInbox fun i => { i with rbuf := i.rbuf ++ [p] } else s.dispose p d
/-- A message is acknowledged by its cell, or, when it came by a flood, by the cell that started that (R252). -/
def State.ackFrom (s : State) (f : Flight) : State :=
  match f.flood with
  | some pos => s.injectAt pos (ackOf f.p) 2
  | none => s.inject (ackOf f.p) 2
/-- MESSAGE_ARRIVAL (R79, R80, R252): the `k`-th packet, a message or a handler-bound reply, reaches its cell; a host token has
no sender to acknowledge (R383). A refusal waits for the window of the unit that stamps it (R318). -/
def execMessageArrival (k : Nat) (s : State) : Answer :=
  .next (match s.ready k [0, 2] with
    | none => s
    | some f =>
      match (getCell s f.p.dest.toNat).takes f.p with
      | none => s
      | some d =>
        if f.p.anti || s.heldAt f.p.dest.toNat || (d == .refuse && s.windowFull f.p.dest.toNat f.p.src.toNat) then s
        else within (s.dropFlight k) f.p.dest.toNat fun s =>
          let s := modFocus s fun c => (c.errorReply f.p).modTim (·.received f.p)
          let s := s.takeIn f.p d
          (if f.p.kind = 0 ∧ f.p.chan ≠ 57 then s.ackFrom f else s).applied f)
/-- The head of a buffer is disposed of, if it can be (R79, R80, R318). -/
def State.fromBuffer (s : State) (l : List Pkt) (drop : State → State) : State :=
  match l with
  | [] => s
  | p :: _ => if s.cell.disposal p = .stay || (s.cell.disposal p == .refuse && s.windowShut p.src.toNat) then s else (drop s).dispose p (s.cell.disposal p)
/-- Granule writes of deposits that may take their points now: the oldest of each granule. -/
def Inbox.dues (i : Inbox) : List (Nat × V256) := i.dep.foldl (fun l g => if l.any (·.1 == g.1) then l else l ++ [g]) []
/-- One granule of a deposit is written, in no specified order (R209, R310). -/
def State.depositOne (s : State) : State :=
  match s.cell.inbox.dues[choose s s.cell.inbox.dues.length]? with
  | some g => ((fresh s).modInbox fun i => { i with dep := dropFirst (· == g) i.dep }).padStore g.1 32 g.2.toNat
  | none => s
/-- INGRESS_TO_SPILL (R80): a granule of an entry is written, or the head of the reply buffer, else of the ingress buffer, binds or enters the
spill queue as it can. -/
def execIngressToSpill (c : Name) (s : State) : Answer :=
  .next (within s c.toNat fun s =>
    if !s.cell.inbox.dep.isEmpty && (s.heldAt c.toNat || (s.cell.inbox.rbuf.isEmpty && s.cell.inbox.ibuf.isEmpty) || choose s 2 == 0)
    then s.depositOne
    else if s.heldAt c.toNat then s
    else match s.cell.inbox.rbuf with
    | p :: _ =>
      if s.cell.disposal p = .stay then s.fromBuffer s.cell.inbox.ibuf (·.modInbox fun i => { i with ibuf := i.ibuf.drop 1 })
      else s.fromBuffer s.cell.inbox.rbuf (·.modInbox fun i => { i with rbuf := i.rbuf.drop 1 })
    | [] => s.fromBuffer s.cell.inbox.ibuf (·.modInbox fun i => { i with ibuf := i.ibuf.drop 1 }))
/-- LATCHED_EVENT_ENTRY (R83). -/
def execLatchedEventEntry (c : Name) (s : State) : Answer :=
  .next (within s c.toNat fun s =>
    match s.cell.inbox.latches with
    | [] => s
    | p :: r => if s.cell.inbox.ibuf.length < 4 ∧ s.cell.pausing = false then s.modInbox fun i => { i with latches := r, ibuf := i.ibuf ++ [p] } else s)
/-- The oldest spill entry leaves the ring. -/
def Inbox.popSpill (i : Inbox) (ent : Nat) : Inbox :=
  { i with head := BitVec.ofNat 8 ((i.head.toNat + 1) % Nat.max 1 ent), occ := i.occ - 1 }
/-- A buffered arrival could bind now: where R79 allows it, it binds before the oldest spill entry. -/
def Cell.arrivalBinds (c : Cell) : Bool :=
  ((c.inbox.rbuf.take 1) ++ (c.inbox.ibuf.take 1)).any fun p => match c.disposal p with | .bind _ => true | _ => false
/-- SPILL_QUEUE_BIND (R79): strictly the oldest entry, once it is written, where no buffered arrival of higher PRIO could bind; an unreadable payload
register is zero, with an event on channel 61 (Table 08.2). An entry whose channel no usable handler entry serves is discarded (R12, R75). -/
def execSpillQueueBind (c : Name) (s : State) : Answer :=
  .next (within s c.toNat fun s =>
    if s.cell.inbox.occ = 0 ∨ s.cell.arrivalBinds = true ∨ s.heldAt c.toNat = true ∨ s.cell.depositing s.cell.sqHead = true then s
    else
      let a := s.cell.sqHead
      let p := s.cell.entryPkt a
      if !s.cell.usable p.chan.toNat then (s.dispose p .discard).modInbox (·.popSpill s.cell.sqEnt)
      else match s.cell.masked p, s.cell.bindable p.chan.toNat with
      | false, some t =>
        let bad := (s.cell.badRead a 160).isSome
        let s := modFocus s fun c =>
          let c := c.touched a 160
          { (c.received p).bind t p with inbox := ((c.received p).inbox).popSpill c.sqEnt }
        if bad then s.eccEvent else s
      | _, _ => s)
/-- DEPOSIT_COMPLETE (R77): the handler starts. -/
def execDepositComplete (c : Name) (t : TIdx) (s : State) : Answer :=
  .next (within s c.toNat fun s => s.modTh t Thread.deposited)

/-! ### Blocks and joins -/

/-- A target of a block as the delivery leaves it (R70, R97). -/
def Thread.delivered (x : Thread) (code : Sparse 32) (b : BitVec 10) (len : BitVec 3) (lprio : BitVec 2) : Thread :=
  { x.takeBlock code b len with st := .running, wait := .none, inb := true, fetched := false, inh := false, tmd := false, lvl := lprio, pc := b }
/-- BCAST_DELIVERY (R70, R97): every target free or stopped; a faulted target is WAIT_DEADLOCK at the BCAST. -/
def execBcastDelivery (n : Name) (s : State) : Answer :=
  .next (within s n.toNat fun s =>
    match (s.cell.th 0).wait with
    | .bcast m b len =>
      let ts := maskThreads m
      let c := s.cell
      if s.heldAt n.toNat then s
      else if ts.any fun t => (c.th t).st == .faulted then s.fault 0 (faultAt 0x07 (c.th 0).pc 0)
      else if ts.all fun t => (c.th t).st == .free || (c.th t).st == .stopped then
        let s := modFocus s fun c => ts.foldl (fun c t => c.modTh t (·.delivered c.plane.active.code b len c.plane.active.lprio)) c
        s.fall 0 1 (c.th 0).wmark
      else s
    | _ => s)
/-- JOINM_COMPLETE (R99). -/
def execJoinmComplete (c : Name) (s : State) : Answer :=
  .next (within s c.toNat fun s =>
    match (s.cell.th 0).wait with
    | .joinm m d free => if s.cell.joined m then (modFocus s (·.join m d free)).fall 0 1 (s.cell.th 0).wmark else s
    | _ => s)

/-! ### Long-latency results (R65–R67) -/

/-- The low bits of a value over a register's (R48, R68). -/
def overLow (n : Nat) (old v : V256) : V256 := insBits old 0 n v.toNat
/-- A long-latency result is written (R65, R68): pushed to a bound stream, its other bits free (assumption 13); else over what the
register held before a short-latency write met it, if one did. -/
def Cell.writeLate (c : Cell) (t : TIdx) (o : LongRes) (ix : Nat) : Cell :=
  match c.bound t o.d with
  | some e => c.modStrm e (·.push (overLow o.bits (Config.freeVal ix) o.val))
  | none => c.modTh t (·.putReg o.d (overLow o.bits (o.base.getD (if o.d = 0x2E then 0 else c.reg t o.d)) o.val))
/-- LONG_LATENCY_WRITEBACK (R65, R66): the `k`-th outstanding result of a thread is written, unless its load met an
uncorrectable word, which the thread raises at its next boundary (Table 08.2). A thread with none left goes on to what it waits to do: one
that another's write to the scratchpad woke at the end of its block (R223). -/
def execLongLatencyWriteback (c : Name) (t : TIdx) (k : Nat) (s : State) : Answer :=
  .next (within s c.toNat fun s =>
    match (s.cell.th t).outs[k]? with
    | none => (s.settle t).settle 0
    | some o =>
      if !o.ready then s
      else
        let s := s.modTh t fun x => { x with outs := dropAt x.outs k }
        let s := match o.bad with
          | some a => s.modTh t (·.defers a)
          | none => fresh (modFocus s fun c => c.writeLate t o s.freeIx)
        (s.settle t).settle 0)

end Sys2Proof.Machine
end

