-- ==== Sys2Proof/Machine/Causality.lean ====
section
/-! DEFINITION. The causal units of the dies (R316–R320): the CAUSAL field, stamping, the hold memory, release, application, notices. A
number `k` of a packet counts the M plane's packets first, then the C plane's, then the S plane's (assumption 12). -/

namespace Sys2Proof.Machine

/-- The CAUSAL field of a head (Table 13.3). -/
def Causal.field (c : Causal) : W64 :=
  0#21 ++ BitVec.ofBool c.fv ++ 1#1 ++ BitVec.ofNat 3 c.deltas.length ++ c.prev ++ c.oseq ++ c.odie
/-- The causal flit, which follows the payload of a packet with deltas: entry i in bits [32i + 31 : 32i] (R316). -/
def Causal.flit (c : Causal) : Option V256 :=
  if c.deltas.isEmpty then none else some (pack 32 (c.deltas.map fun d => d.1 + 2 ^ 16 * d.2.toNat))
/-- A vector as four flits, entry e in bits [16e + 15 : 16e] (R318). -/
def vecFlits (v : Sparse 16) : List V256 :=
  (List.range 4).map fun i => pack 16 ((List.range 16).map fun j => (Sp.get v (16 * i + j)).toNat)
/-- A vector read back. -/
def flitVec (l : List V256) : Sparse 16 :=
  vecDies.foldl (fun m e => Sp.set m e (BitVec.ofNat 16 (el (l.getD (e / 16) 0) 16 (e % 16)))) []
/-- Name 0 of a die: DEST of a control packet (R318). -/
def dieName (t : Nat) : Name := BitVec.ofNat 20 (t * 2 ^ 14)
/-- A control packet of a unit. -/
def ctrlPkt (kind : BitVec 4) (t : Nat) (c : Causal) (pay : List V256) : Pkt :=
  { dest := dieName t, kind := kind, rset := true, pay := pay, causal := some c }

/-! ### Stamping (R318) -/

/-- A packet's next move leaves its die (R26, R27). -/
def State.leaves (s : State) (f : Flight) : Bool :=
  match s.way f with
  | .port n => match hopFrom f.pos n with | some q => decide (q / 16384 ≠ f.pos / 16384) | none => false
  | .flood => true
  | _ => false
/-- A causal packet stands at its first hinge gate: the destination's logical die, and its own. -/
def State.atGate (s : State) (f : Flight) : Option (Nat × Nat) :=
  let t := nameDie f.p.dest.toNat
  match physDie s t, logDie s (f.pos / 16384) with
  | some _, some d =>
    if f.phase = .moving ∧ f.p.isCausal = true ∧ f.stamped = false ∧ t ≠ d ∧ s.leaves f = true then some (d, t) else none
  | _, _ => none
/-- The stamp of a packet for a die, and the unit after it. -/
def CausalUnit.stamp (u : CausalUnit) (d t : Nat) : Causal × CausalUnit :=
  let oseq := Sp.get u.k d + 1
  let k := Sp.set u.k d oseq
  let last := (KM.get u.lastVec t).getD []
  let deltas := (vecDies.filter fun e => Sp.get k e != Sp.get last e).map fun e => (e, Sp.get k e)
  let fv := decide (7 < deltas.length)
  ({ odie := BitVec.ofNat 6 d, oseq := oseq, prev := Sp.get u.lastSeq t, deltas := if fv then [] else deltas, fv := fv },
   { u with k := k, lastVec := KM.put u.lastVec t k, lastSeq := Sp.set u.lastSeq t oseq, unacked := u.unacked ++ [(t, oseq)] })
/-- A unit stamps a packet for a die, if its window lets it; a KIND 5 packet with all of K goes first from a router of its die where
there are more than seven deltas. -/
def State.stampAt (s : State) (d t pos : Nat) : Option (Causal × State) :=
  let u := unitOf s d
  if u.inWindow (Sp.get u.k d + 1) = false then none
  else
    let x := u.stamp d t
    let s := setUnit s d x.2
    some (x.1, if x.1.fv then s.injectAt pos (ctrlPkt 5 t x.1 (vecFlits x.2.k)) 2 else s)
/-- The M-plane packet `k` is stamped at its first hinge gate. -/
def State.stampFlight (s : State) (k : Nat) (f : Flight) : State :=
  match s.atGate f with
  | none => s
  | some (d, t) =>
    match s.stampAt d t f.pos with
    | none => s
    | some (c, s) => s.setFlight k { f with stamped := true, p := { f.p with causal := some c } }
/-- A packet of another plane is stamped once. -/
def State.stampCrossing (s : State) (x : Crossing) (put : State → Crossing → State) : State :=
  if x.causal.isSome || x.rel then s
  else match s.stampAt x.src x.dst ((physDie s x.src).getD 0 * 16384) with
    | none => s
    | some (c, s) => put s { x with causal := some c }
/-- CAUSAL_STAMP (R318): the `k`-th packet. -/
def execCausalStamp (k : Nat) (s : State) : Answer :=
  let i := k - s.mnet.length
  let j := i - s.cnet.length
  .next (match s.mnet[k]? with
    | some f => s.stampFlight k f
    | none => match s.cnet[i]? with
      | some (.crossing x m) => s.stampCrossing x fun s y => { s with cnet := setAt s.cnet i (.crossing y m) }
      | some _ => s
      | none => match s.snet[j]? with
        | some (.crossing x m) =>
          if m.resultKey.isSome && (s.snet.take j).any fun y => y.leaving == m.resultKey then s
          else s.stampCrossing x fun s y => { s with snet := setAt s.snet j (.crossing y m) }
        | _ => s)

/-! ### Holding and release (R319) -/

/-- V of a held packet, once it can be formed (R319). -/
def CausalUnit.vector (u : CausalUnit) (c : Causal) : Option (Sparse 16) :=
  if c.fv then (u.vecs.find? fun v => v.1 == c.odie.toNat && v.2.1 == c.oseq).map (·.2.2)
  else some (c.deltas.foldl (fun m x => Sp.set m x.1 x.2) ((KM.get u.prevVec c.odie.toNat).getD []))
/-- The entries on which a packet waits at die `t`. A[t] is at or beyond every V[t], since no packet of die t is addressed to t (R317;
assumption 113). -/
def CausalUnit.behind (u : CausalUnit) (t : Nat) (c : Causal) (v : Sparse 16) : List Nat :=
  vecDies.filter fun e => e != c.odie.toNat && e != t && !atOrBeyond (Sp.get u.a e) (Sp.get v e)
/-- The three conditions of R319. -/
def CausalUnit.releasable (u : CausalUnit) (t : Nat) (c : Causal) : Option (Sparse 16) :=
  if c.prev = Sp.get u.a c.odie.toNat then
    match u.vector c with
    | some v => if (u.behind t c v).isEmpty then some v else none
    | none => none
  else none
/-- Packets of a hold memory (R320). -/
def holdSize : Nat := 2048
/-- The CAUSAL field of a held packet. -/
def Held.causal (h : Held) : Option Causal := match h with | .m f => f.p.causal | .s x _ => x.causal | .c x _ => x.causal
/-- A packet into the hold memory; since when it has been full is kept for R320. -/
def CausalUnit.take (u : CausalUnit) (h : Held) (now : W64) : CausalUnit :=
  { u with hold := u.hold ++ [h], fullSince := if holdSize ≤ u.hold.length + 1 then u.fullSince.or (some now) else u.fullSince }
/-- A packet that has reached its destination die and is not yet released there. -/
def State.atHome (s : State) (f : Flight) : Option (Nat × Causal) :=
  match f.p.causal, logDie s (f.pos / 16384) with
  | some c, some t => if nameDie f.p.dest.toNat = t ∧ f.rel = false then some (t, c) else none
  | _, _ => none
/-- The unit of die `t` accepts a packet: its hold memory has room, or R319 releases the packet at once (R320). -/
def CausalUnit.accepts (u : CausalUnit) (t : Nat) (c : Causal) : Bool := decide (u.hold.length < holdSize) || (u.releasable t c).isSome
/-- A packet enters the hold memory of a die. -/
def State.holdAt (s : State) (t : Nat) (h : Held) : State :=
  setUnit s t ((unitOf s t).take h (Sp.get s.dieCycle ((physDie s t).getD 64)))
/-- The M-plane packet `k` enters the hold memory of its destination die; a KIND 5 packet's vector is kept for the packet it
precedes. -/
def State.holdM (s : State) (k : Nat) (f : Flight) : State :=
  match s.atHome f with
  | none => s
  | some (t, c) =>
    let u := unitOf s t
    if f.p.kind = 5 then setUnit (s.dropFlight k) t { u with vecs := u.vecs ++ [(c.odie.toNat, c.oseq, flitVec f.p.pay)] }
    else if f.p.isControl then s
    else if u.accepts t c then (s.dropFlight k).holdAt t (.m f)
    else s
/-- A stamped packet of another plane that is not released yet. -/
def Crossing.arriving (x : Crossing) : Option Causal := if x.rel then none else x.causal
/-- CAUSAL_ARRIVAL (R319, R320): the `k`-th packet. -/
def execCausalArrival (k : Nat) (s : State) : Answer :=
  let i := k - s.mnet.length
  let j := i - s.cnet.length
  .next (match s.mnet[k]? with
    | some f => s.holdM k f
    | none => match s.cnet[i]? with
      | some (.crossing x m) => match x.arriving with
        | some c => if (unitOf s x.dst).accepts x.dst c then (s.dropC i).holdAt x.dst (.c x m) else s
        | none => s
      | some _ => s
      | none => match s.snet[j]? with
        | some (.crossing x m) => match x.arriving with
          | some c => if (unitOf s x.dst).accepts x.dst c then { s with snet := dropAt s.snet j }.holdAt x.dst (.s x m) else s
          | none => s
        | _ => s)
/-- A held packet goes on into its die. -/
def State.release (s : State) (h : Held) : State :=
  match h with
  | .m f => { s with mnet := s.mnet ++ [{ f with rel := true }] }
  | .s x m => { s with snet := s.snet ++ [.crossing { x with rel := true } m] }
  | .c x m => { s with cnet := s.cnet ++ [.crossing { x with rel := true } m] }
/-- The hold memory without a packet that is released; where it is still full, the 2^20 cycles of R320 begin anew. -/
def CausalUnit.letGo (u : CausalUnit) (k : Nat) (c : Causal) (v : Sparse 16) (now : W64) : CausalUnit :=
  { u with
    hold := dropAt u.hold k, prevVec := KM.put u.prevVec c.odie.toNat v,
    vecs := u.vecs.filter fun x => !(x.1 == c.odie.toNat && x.2.1 == c.oseq),
    released := u.released ++ [(c.odie.toNat, c.oseq, v)],
    fullSince := if holdSize ≤ (dropAt u.hold k).length then some now else none }
/-- CAUSAL_RELEASE (R319): the `k`-th held packet of a die goes on into the die. -/
def execCausalRelease (t : BitVec 6) (k : Nat) (s : State) : Answer :=
  .next (
    let u := unitOf s t.toNat
    match u.hold[k]? with
    | none => s
    | some h =>
      match h.causal with
      | none => s
      | some c => match u.releasable t.toNat c with
        | none => s
        | some v => (setUnit s t.toNat (u.letGo k c v (Sp.get s.dieCycle ((physDie s t.toNat).getD 64)))).release h)
/-- Notices whose PREV has been reached move A on (R319). -/
def CausalUnit.applyNotices (u : CausalUnit) : CausalUnit :=
  u.notices.foldl (fun u n =>
    if atOrBeyond (Sp.get u.a n.1) n.2.1 then
      { u with a := if atOrBeyond (Sp.get u.a n.1) n.2.2 then u.a else Sp.set u.a n.1 n.2.2,
               notices := dropFirst (· == n) u.notices }
    else u) u
/-- CAUSAL_APPLIED (R319): the cell's report of the `k`-th released packet reaches the unit: A and K move on, and it is acknowledged
(R318). -/
def execCausalApplied (t : BitVec 6) (k : Nat) (s : State) : Answer :=
  .next (
    let u := unitOf s t.toNat
    match u.released[k]? with
    | none => s
    | some (d, o, v) =>
      if u.done.contains (d, o) then
        { setUnit s t.toNat ({ u.learns d o v with a := Sp.set u.a d o, released := dropAt u.released k,
                                                   done := dropFirst (· == (d, o)) u.done } : CausalUnit).applyNotices with
          cacks := s.cacks ++ [(d, t.toNat, o)] }
      else s)
/-- CAUSAL_ACKNOWLEDGEMENT (R318): the `k`-th acknowledgement on its way reaches the origin unit. -/
def execCausalAcknowledgement (k : Nat) (s : State) : Answer :=
  .next (match s.cacks[k]? with
    | none => s
    | some (d, t, o) =>
      let u := unitOf s d
      { setUnit s d { u with unacked := dropFirst (· == (t, o)) u.unacked } with cacks := dropAt s.cacks k })

/-! ### Queries and notices (R319) -/

/-- A unit sends a control packet from its die's gate. -/
def State.fromUnit (s : State) (t : Nat) (p : Pkt) : State := s.injectAt ((physDie s t).getD 0 * 16384) p 2
/-- CAUSAL_QUERY (R319): the `k`-th held packet of die `t` waits on entry `e`. -/
def execCausalQuery (t : BitVec 6) (k : Nat) (e : BitVec 6) (s : State) : Answer :=
  .next (
    let u := unitOf s t.toNat
    match u.hold[k]? with
    | none => s
    | some h =>
      match h.causal with
      | none => s
      | some c =>
        match u.vector c with
        | none => s
        | some v =>
          if (u.behind t.toNat c v).contains e.toNat then
            s.fromUnit t.toNat (ctrlPkt 7 e.toNat { odie := t, oseq := 0, prev := 0, deltas := [], fv := false } [])
          else s)
/-- CAUSAL_QUERY_ANSWER (R319): the `k`-th packet, of KIND 7, has reached its die, which answers with a notice. The notice's OSEQ is from
then on the last sent to the asking die: A moves to it there, and the next packet's PREV is to equal A (assumption 113). -/
def execCausalQueryAnswer (k : Nat) (s : State) : Answer :=
  .next (match s.mnet[k]? with
    | none => s
    | some f =>
      match s.atHome f with
      | none => s
      | some (e, c) =>
        if f.p.kind ≠ 7 then s
        else
          let u := unitOf s e
          let n : Causal := { odie := BitVec.ofNat 6 e, oseq := Sp.get u.k e, prev := Sp.get u.lastSeq c.odie.toNat, deltas := [], fv := false }
          (setUnit (s.dropFlight k) e { u with lastSeq := Sp.set u.lastSeq c.odie.toNat n.oseq }).fromUnit e (ctrlPkt 6 c.odie.toNat n []))
/-- CAUSAL_NOTICE (R319): the `k`-th packet, of KIND 6, has reached its die. -/
def execCausalNotice (k : Nat) (s : State) : Answer :=
  .next (match s.mnet[k]? with
    | none => s
    | some f =>
      match s.atHome f with
      | none => s
      | some (t, c) =>
        if f.p.kind ≠ 6 then s
        else
          let u := unitOf s t
          setUnit (s.dropFlight k) t ({ u with notices := u.notices ++ [(c.odie.toNat, c.prev, c.oseq)] } : CausalUnit).applyNotices)
/-- A SWAP sets every vector of a die's unit to zero (R317); what was released before it is not reported into the new vectors. -/
def CausalUnit.swapped (u : CausalUnit) : CausalUnit :=
  { u with k := [], a := [], lastVec := [], lastSeq := [], unacked := [], vecs := [], prevVec := [], notices := [], released := [],
           done := [] }

end Sys2Proof.Machine
end

