-- ==== Sys2Proof/Machine/Reduction.lean ====
section
/-! DEFINITION. Reduction slots and buckets (R284–R304): RDCON and RDCON.L, how contributions climb a tree, how a slot
combines them, and how a result is delivered. -/

namespace Sys2Proof.Machine

/-! ### RDCON (R304) -/

/-- Change a cell's reduction state. -/
def Cell.modRed (c : Cell) (f : Reduce → Reduce) : Cell := { c with red := f c.red }
/-- A contribution once its checks have passed: the epoch to D, the data to the buffer. -/
def State.contributes (s : State) (d : Spec) (tag : Nat) (empty : Bool) (data : List V256) : Ctl :=
  .done ((modFocus s (·.contribute tag empty data)).putRes d (.low (zx64 (Sp.get s.cell.red.epochs tag))))
/-- RDCON of one register's data. -/
def rdconAt (d a : Spec) (empty : Bool) (data : State → V256) (s : State) : Ctl :=
  if s.me.tmd then .fault 0x06 0
  else match s.specTag (s.src0 a) 1 with
    | none => .fault 0x01 0
    | some tag =>
      if s.cell.red.buf.isSome then .need .outputRoom
      else s.contributes d tag (empty || specEmpty (s.src0 a)) [data s]
/-- RDCON. -/
def execRdcon (h : Hdr) (d a b : Spec) (s : State) : Answer :=
  issue h 1 false (fun _ => !okSpecs [d] [a, b]) (untimed (unbound [d, a, b] (rdconAt d a false fun s => s.srcAfter [a] b))) s
/-- RDCON.E. -/
def execRdconE (h : Hdr) (d a : Spec) (s : State) : Answer :=
  issue h 1 false (fun _ => !okSpecs [d] [a]) (untimed (unbound [d, a] (rdconAt d a true fun _ => 0))) s
/-- RDCON.L's effect: the data are read at the issue point; an uncorrectable word as a load (Table 08.2). -/
def rdconLAt (d a : Spec) (empty : Bool) (loff w : Nat) (s : State) : Ctl :=
  if s.me.tmd then .fault 0x06 0
  else match s.specTag (s.src0 a) w with
    | none => .fault 0x01 0
    | some tag =>
      let e := empty || specEmpty (s.src0 a)
      if !inPad loff (32 * w) then .fault 0x03 (BitVec.ofNat 64 loff)
      else if loff % 32 ≠ 0 then .fault 0x02 (BitVec.ofNat 64 loff)
      else if s.cell.unmarked loff (32 * w) then .need (.unmarked loff (32 * w))
      else if s.cell.red.buf.isSome then .need .outputRoom
      else if e then s.contributes d tag true []
      else
        let s' := modFocus s (·.touched loff (32 * w))
        if (s.cell.badRead loff (32 * w)).isSome then .done (s'.modMe (·.defers (BitVec.ofNat 64 loff)))
        else s'.contributes d tag false ((List.range w).map fun i => s.cell.gran (loff + 32 * i))
/-- RDCON.L. -/
def execRdconL (h : Hdr) (d a : Spec) (x : BitVec 2) (loff : BitVec 15) (wm1 : BitVec 3) (s : State) : Answer :=
  issue h 2 false (fun _ => decide (1 < x.toNat) || !okSpecs [d] [a])
    (untimed (unbound [d, a] (rdconLAt d a (x == 1) loff.toNat (wm1.toNat + 1)))) s

/-! ### Trees (R284, R287) -/

/-- The labels of a node's children: 0 its own cell, 1 to 4 W, N, E, S. -/
def Globals.children (g : Globals) (t : Nat) (n : TreeNode) : List Nat :=
  (if n.loc then [0] else []) ++
    ([1, 2, 3, 4].filter fun l => (g.tree t).any fun x => x.pname == n.name && x.lbl == l)
/-- A node that hosts a slot (R287). -/
def Globals.hosts (g : Globals) (t : Nat) (n : TreeNode) : Bool := n.isRoot || (g.children t n).any (· != 0)
/-- A bucket with the node of the cell in hand. -/
def State.bucketNode (s : State) (tag : Nat) : Option (Bucket × TreeNode) :=
  match s.globals.bucket tag with
  | none => none
  | some b => (s.globals.node b.tree s.cell.name).map fun n => (b, n)

/-! ### Combining (R291–R293) -/

/-- Element width of an operation (Table 12.3). -/
def opBits (op : Nat) : Nat := if op < 5 then 32 else if op < 6 ∨ op = 8 then 64 else 256
/-- An operation on floating elements. -/
def opFloat (op : Nat) : Bool := decide (op < 4)
/-- The first present value, canonicalised (R291). -/
def opFirst (op v : Nat) : Nat :=
  if opFloat op && nanF 0 v then canonNaN 0 else if op = 3 then v % 2 ^ 31 else v
/-- Combine two elements (Table 12.3). -/
def opCombine (op a v : Nat) : Nat :=
  match op with
  | 0 => roundF 0 .rne (sumF [valueOf 0 a, valueOf 0 v])
  | 1 => minmaxEl 0 true a v
  | 2 => minmaxEl 0 false a v
  | 3 => minmaxEl 0 true a (if nanF 0 v then v else v % 2 ^ 31)
  | 4 => (a + v) % 2 ^ 32
  | 5 => (a + v) % 2 ^ 64
  | 6 => a &&& v
  | 7 => a ||| v
  | _ => Nat.min (a % 2 ^ 48) (v % 2 ^ 48)
/-- An element from the present values in order, with NAN set for a skip; no value left is the canonical NaN (R291, R292). -/
def opElem (op : Nat) (sup : Bool) (vs : List Nat) : Nat × Bool :=
  let r := vs.foldl (fun (r : Option Nat × Bool) v =>
    if opFloat op && sup && nanF 0 v then (r.1, true)
    else match r.1 with
      | none => (some (opFirst op v), r.2)
      | some a =>
        let x := opCombine op a v
        if opFloat op && sup && nanF 0 x then (some a, true) else (some x, r.2)) (none, false)
  (r.1.getD (canonNaN 0), r.2)
/-- A granule from the children's granules in order. -/
def opGranule (op : Nat) (sup : Bool) (gs : List V256) : V256 × Bool :=
  let w := opBits op
  let es := (List.range (256 / w)).map fun i => opElem op sup (gs.map fun g => el g w i)
  (pack w (es.map (·.1)), es.any (·.2))
/-- A slot's partial at close: the arrived children in the order local, W, N, E, S; `expect` are the labels configured. -/
def combineAll (b : Bucket) (expect : List Nat) (arrived : List (Nat × Partial)) : Partial :=
  let ps := ([0, 1, 2, 3, 4].filterMap fun l => (arrived.find? (·.1 == l)).map (·.2))
  let miss := (expect.filter fun l => !(arrived.any (·.1 == l))).length
  let full := ps.filter fun p => !p.empty
  let gs := (List.range b.width).map fun i => opGranule b.op b.sup (full.map fun p => p.data.getD i 0)
  { empty := full.isEmpty,
    partial_ := ps.any (·.partial_) || decide (0 < miss),
    nan := ps.any (·.nan) || (!full.isEmpty && gs.any (·.2)),
    missing := BitVec.ofNat 16 (Nat.min 0xFFFF ((ps.map (·.missing.toNat)).foldl (· + ·) miss)),
    data := if full.isEmpty then [] else gs.map (·.1) }

/-! ### Slots (R287–R295) -/

/-- S-plane traffic starts. -/
def State.sput (s : State) (m : SMsg) : State := { s with snet := s.snet ++ [m] }
/-- A contribution or a result starts from the cell in hand to another, a causal packet where that lies in another die (R316). -/
def State.sputCausal (s : State) (to_ : Name) (m : SMsg) : State :=
  match crossingOf s.cell.name.toNat to_.toNat with | some x => s.sput (.crossing x m) | none => s.sput m
/-- S-plane message `k` with its way, once its destination's unit has released it (R319). -/
def State.sAt (s : State) (k : Nat) : Option (SMsg × Option Crossing) :=
  match s.snet[k]? with
  | none => none
  | some (.crossing x m) => if x.rel && !x.after.any s.ridLeft then some (m, some x) else none
  | some m => some (m, none)
/-- Take a message out of the S plane. -/
def State.dropS (s : State) (k : Nat) : State := { s with snet := dropAt s.snet k }
/-- A gateway admits packets of a tag between a partition and a panel link (R380). -/
def State.admits (s : State) (p link tag : Nat) : Bool := s.gateways.any fun g => g.part.toNat == p && g.link == link && g.tags.contains tag
/-- An S-plane packet of a tag goes out by a panel link; without a gateway it is dropped and counted at the edge (R300, R380). -/
def State.overLink (s : State) (p link tag : Nat) (m : SMsg) : State :=
  if s.admits p link tag then { s with linkOut := s.linkOut ++ [(link, m)] }
  else { s with crossing := countDie s.crossing (256 + link) }
/-- A credit for a child of the node in hand (R289). -/
def State.creditTo (s : State) (b : Bucket) (n : TreeNode) (tag lbl : Nat) : State :=
  if lbl = 0 then modFocus s (·.modRed fun r => { r with localOut := r.localOut.filter (· != tag) })
  else match s.globals.child b.tree n lbl with
    | some x =>
      let m : SMsg := .credit s.cell.part x.name tag
      if x.xp then s.overLink s.cell.part.toNat x.plink tag m else s.sput m
    | none => s
/-- A node's cell receives a result (R296). -/
def TreeNode.receives (n : TreeNode) (b : Bucket) : Bool := n.isRoot || (b.all && n.loc)
/-- Children of the node in hand in other dies, to which a result goes on as a causal packet (R316). -/
def State.farChildren (s : State) (b : Bucket) (n : TreeNode) : Nat :=
  (([1, 2, 3, 4].filterMap (s.globals.child b.tree n)).filter fun x =>
    !x.xp && nameDie x.name.toNat != nameDie s.cell.name.toNat).length
/-- A result may not go on now: the unit of the die may not stamp it for every child (R318). -/
def State.downShut (s : State) (b : Bucket) (n : TreeNode) : Bool :=
  b.all && s.farChildren b n != 0 && s.unitFull (nameDie s.cell.name.toNat) (s.farChildren b n)
/-- A result goes on from the node in hand to its children, in label order (R296). -/
def State.forwardResult (s : State) (b : Bucket) (n : TreeNode) (k : Contribution) : State :=
  if b.all then
    ([1, 2, 3, 4].filterMap (s.globals.child b.tree n)).foldl (fun s x =>
      let m : SMsg := .result s.cell.part x.name k
      if x.xp then s.overLink s.cell.part.toNat x.plink k.tag m else s.sputCausal x.name m) s
  else s
/-- A slot closes (R291–R294): the partial goes up or is delivered, every arrived child has its credit, the slot is free. -/
def State.closeSlot (s : State) (b : Bucket) (n : TreeNode) (x : RSlot) : State :=
  let g := s.globals
  let k : Contribution := { tag := x.tag, epoch := x.epoch, part := combineAll b (g.children b.tree n) x.arrived }
  let s := modFocus s (·.modRed fun r => { r with slots := r.slots.filter (· != x), closed := KM.put r.closed x.tag x.epoch })
  let s := x.arrived.foldl (fun s a => s.creditTo b n x.tag a.1) s
  if n.isRoot then s.sput (.result s.cell.part n.name k)
  else modFocus s (·.modRed fun r => { r with upq := r.upq ++ [k] })
/-- The last closed epoch of a tag is at or beyond an epoch: a contribution to it is late (R295); epochs are compared by half
their range (assumption 120). -/
def Reduce.late (r : Reduce) (tag : Nat) (e : BitVec 16) : Bool :=
  match KM.get r.closed tag with | some c => decide ((c - e).toNat < 2 ^ 15) | none => false
/-- A contribution reaches the slot of the cell in hand (R291, R294, R295). `none` where it must wait. -/
def State.atSlot (s : State) (lbl : Nat) (k : Contribution) : Option State :=
  match s.bucketNode k.tag with
  | none => some (modFocus s (·.modRed fun r => { r with drop := satInc r.drop }))
  | some (b, n) =>
    if s.cell.red.late k.tag k.epoch then
      some ((modFocus s (·.modRed fun r => { r with drop := satInc r.drop })).creditTo b n k.tag lbl)
    else
      let now := cycleOf s s.cell.name.toNat
      let old : RSlot := (s.cell.red.slots.find? (·.tag == k.tag)).getD { tag := k.tag, epoch := k.epoch, t0 := now, arrived := [] }
      if old.epoch ≠ k.epoch then none
      else
        let x := { old with arrived := old.arrived ++ [(lbl, k.part)] }
        let s := modFocus s (·.modRed fun r => { r with slots := r.slots.filter (·.tag != k.tag) ++ [x] })
        some (if (s.globals.children b.tree n).all fun l => x.arrived.any (·.1 == l) then s.closeSlot b n x else s)
/-- A contribution of the node in hand goes to its parent; over a panel link it leaves the panel (R300). -/
def State.sendUp (s : State) (n : TreeNode) (k : Contribution) : State :=
  let s := modFocus s (·.modRed fun r => { r with upOut := r.upOut ++ [k.tag] })
  let m : SMsg := .contrib s.cell.part n.pname n.lbl k
  if n.xp then s.overLink s.cell.part.toNat n.plink k.tag m else s.sputCausal n.pname m
/-- A contribution may not go up now: its tag's credit is not held (R289), or the unit of its die may not stamp one more (R318). -/
def State.upShut (s : State) (tag : Nat) : Bool :=
  s.cell.red.upOut.contains tag ||
    match s.bucketNode tag with | some (_, n) => !n.xp && s.windowShut n.pname.toNat | none => false
/-- Partials that wait for a credit: the first that may goes up. -/
def State.drainUp (s : State) : Option State :=
  match s.cell.red.upq.find? fun k => !s.upShut k.tag with
  | none => none
  | some k => (s.bucketNode k.tag).map fun x =>
      (modFocus s (·.modRed fun r => { r with upq := dropFirst (· == k) r.upq })).sendUp x.2 k
/-- REDUCTION_OUTPUT_DRAIN (R289): a partial that waits for its credit, else the output buffer. -/
def execReductionOutputDrain (c : Name) (s : State) : Answer :=
  .next (within s c.toNat fun s =>
    match s.drainUp with
    | some s' => s'
    | none =>
      match s.cell.red.buf with
      | none => s
      | some k =>
        match s.bucketNode k.tag with
        | none => modFocus s (·.modRed fun r => { r with buf := none })
        | some (b, n) =>
          if s.globals.hosts b.tree n then
            if s.cell.red.localOut.contains k.tag then s
            else
              let s' := modFocus s (·.modRed fun r => { r with buf := none, localOut := r.localOut ++ [k.tag] })
              (s'.atSlot 0 k).getD s
          else if s.upShut k.tag then s
          else (modFocus s (·.modRed fun r => { r with buf := none })).sendUp n k)
/-- CONTRIBUTION_ARRIVAL (R291): the `k`-th S-plane message; nothing of the next round reaches a cell before the token (R302, R312). -/
def execContributionArrival (k : Nat) (s : State) : Answer :=
  .next (match s.sAt k with
    | some (.contrib _ node lbl x, cr) =>
      if s.sReady node && !awaits s node.toNat then
        within s node.toNat fun s => (((s.dropS k).atSlot lbl x).map (·.appliedX cr)).getD s
      else s
    | _ => s)
/-- The timers of the cell in hand stand still: from the hold of a rotation, or in a pre-emption (R301). -/
def State.frozen (s : State) : Bool := s.stopping || s.heldAt s.cell.name.toNat
/-- SLOT_TIMEOUT (R294): 2^TOK cycles after the first contribution. -/
def execSlotTimeout (c : Name) (tag : BitVec 12) (s : State) : Answer :=
  .next (within s c.toNat fun s =>
    match s.bucketNode tag.toNat, s.cell.red.slots.find? (·.tag == tag.toNat) with
    | some (b, n), some x =>
      if s.frozen = false ∧ b.tok ≠ 0 ∧ 2 ^ b.tok ≤ (cycleOf s s.cell.name.toNat - x.t0).toNat then
        (modFocus s (·.modRed fun r => { r with tout := satInc r.tout })).closeSlot b n x
      else s
    | _, _ => s)
/-- CREDIT_RETURN (R289): the `k`-th S-plane message. -/
def execCreditReturn (k : Nat) (s : State) : Answer :=
  .next (match s.snet[k]? with
    | some (.credit _ node tag) =>
      if s.sReady node then modCell (s.dropS k) node.toNat (·.modRed fun r => { r with upOut := r.upOut.filter (· != tag) }) else s
    | _ => s)
/-- The channel 56 payload (Table 12.4). -/
def Contribution.event (k : Contribution) : V256 :=
  ofLane0 (BitVec.ofNat 64 (k.tag + 2 ^ 16 * k.epoch.toNat + 2 ^ 32 * bit k.part.partial_ + 2 ^ 33 * bit k.part.nan +
    2 ^ 34 * bit k.part.empty + 2 ^ 48 * k.part.missing.toNat))
/-- A latch of a channel is full (R83). -/
def Cell.latched (c : Cell) (ch : Nat) : Bool := c.inbox.latches.any fun p => p.loc && p.chan.toNat == ch
/-- S-plane traffic on its way between two dies, or within one. -/
def SMsg.on (m : SMsg) (cr : Option Crossing) : SMsg := match cr with | some x => .crossing x m | none => m
/-- A result is done with at the node in hand: it is applied (R319), and then goes on to the children, so that what goes on comes after
it (R309, R317). -/
def State.passResult (s : State) (x : Contribution) (cr : Option Crossing) : State :=
  match s.bucketNode x.tag with
  | none => s.appliedX cr
  | some (b, n) => (s.appliedX cr).forwardResult b n x
/-- The result would go on to a die whose packets may not be stamped now (R318). -/
def State.resultShut (s : State) (x : Contribution) : Bool :=
  match s.bucketNode x.tag with | some (b, n) => s.downShut b n | none => false
/-- A result reaches the node in hand (R296): its cell, where it receives it, begins to write it; else it goes on. -/
def State.takeResult (s : State) (p : PartIdx) (node : Name) (x : Contribution) (cr : Option Crossing) : State :=
  match s.bucketNode x.tag with
  | none => s.appliedX cr
  | some (b, n) =>
    if n.receives b then s.sput ((SMsg.writing p node x (if x.part.empty then [] else List.range x.part.data.length)).on cr)
    else s.passResult x cr
/-- One granule of a result is written, in no specified order; with none left the event is raised, and the result goes on (R296, R297,
R310). -/
def State.writeResult (s : State) (k : Nat) (p : PartIdx) (node : Name) (x : Contribution) (left : List Nat) (cr : Option Crossing) : State :=
  match left[choose s left.length]? with
  | some i =>
    let base := match s.globals.bucket x.tag with | some b => 32 * b.rbase | none => 0
    (fresh { s with snet := setAt s.snet k ((SMsg.writing p node x (left.filter (· != i))).on cr) }).padStore (base + 32 * i) 32
      ((x.part.data.getD i 0).toNat)
  | none => ((s.dropS k).raise 56 x.event).passResult x cr
/-- No earlier result of its tag is on its last way to the node. -/
def State.firstResult (s : State) (k : Nat) (p : PartIdx) (node : Name) (x : Contribution) : Bool :=
  !(s.snet.take k).any fun m => m.atDie == some (p, node, x.tag)
/-- A result for the cell in hand waits at its S-plane input: the channel 56 latch is full, or an earlier result of its tag is being
written (R83, R296). -/
def State.resultWaits (s : State) (node : Name) (x : Contribution) : Bool :=
  match s.bucketNode x.tag with
  | some (b, n) => n.receives b && (s.cell.latched 56 || s.snet.any fun m => m.writer == some (node, x.tag))
  | none => false
/-- RESULT_DELIVERY (R296, R297): the `k`-th S-plane message, a result that reaches a node, or one that a cell writes. -/
def execResultDelivery (k : Nat) (s : State) : Answer :=
  .next (match s.sAt k with
    | some (.result p node x, cr) =>
      if s.sReady node && !awaits s node.toNat && s.firstResult k p node x then
        within s node.toNat fun s =>
          if s.resultWaits node x || s.resultShut x then s else (s.dropS k).takeResult p node x cr
      else s
    | some (.writing p node x left, cr) =>
      if left.isEmpty && (getCell s node.toNat).latched 56 then s
      else within s node.toNat fun s => if left.isEmpty && s.resultShut x then s else s.writeResult k p node x left cr
    | _ => s)

end Sys2Proof.Machine
end

