-- ==== Sys2Proof/Machine/Light.lean ====
section
/-! DEFINITION. Light (R266–R280): landing slots and LREL, release reports and combiners, sources, frames and rings. Blocks
follow one another on the light path as the members release their slots; members are not synchronised (R273). -/

namespace Sys2Proof.Machine

/-! ### Landing slots (Table 11.3) -/

/-- Cell configuration word of a slot in force. -/
def Cell.slotWord (c : Cell) (n : Fin 8) : Nat := (Sp.get c.plane.live (16 + n.val)).toNat
/-- BASE in bytes. -/
def Cell.slotBase (c : Cell) (n : Fin 8) : Nat := 32 * bits (c.slotWord n) 0 10
/-- KEY. -/
def Cell.slotKey (c : Cell) (n : Fin 8) : Nat := bits (c.slotWord n) 10 8
/-- GSLOT. -/
def Cell.slotG (c : Cell) (n : Fin 8) : Nat := bits (c.slotWord n) 18 2
/-- WM. -/
def Cell.slotWm (c : Cell) (n : Fin 8) : Fin 8 := ⟨bits (c.slotWord n) 20 3, Nat.mod_lt _ (by decide)⟩
/-- V. -/
def Cell.slotV (c : Cell) (n : Fin 8) : Bool := bitOf (c.slotWord n) 23
/-- The slots of a cell. -/
def slots : List (Fin 8) := [0, 1, 2, 3, 4, 5, 6, 7]
/-- Valid slots of a group. -/
def Cell.groupSlots (c : Cell) (key : Nat) : List (Fin 8) := slots.filter fun n => c.slotV n && c.slotKey n == key
/-- Change a slot. -/
def Cell.modSlot (c : Cell) (n : Fin 8) (f : Landing → Landing) : Cell := { c with land := c.land.set n.val (f c.land[n]) n.isLt }
/-- The keyring entry of a key in the partition of the cell in hand. -/
def State.keyEnt (s : State) (key : Nat) : Option KeyEnt := KM.get s.globals.keys key
/-- Bytes of a slot: its entry's block. -/
def State.slotBytes (s : State) (key : Nat) : Nat := match s.keyEnt key with | some k => 32 * k.blk | none => 0
/-- The channel of a slot opened over its range, as WOPEN does (R216, R273, R277). -/
def Cell.openSlot (c : Cell) (n : Fin 8) (bytes : Nat) : Cell :=
  c.modWm (c.slotWm n) fun _ => Watermark.opened (BitVec.ofNat 16 (c.slotBase n)) (BitVec.ofNat 16 (c.slotBase n + bytes))

/-! ### LREL (R277) -/

/-- A held slot of the group holds an older block. -/
def Cell.olderHeld (c : Cell) (n : Fin 8) : Bool :=
  (c.groupSlots (c.slotKey n)).any fun m => c.land[m].held && decide (c.land[m].blk < c.land[n].blk)
/-- A range meets another. -/
def overlaps (a n b m : Nat) : Bool := decide (a < b + m ∧ b < a + n)
/-- A queued matrix instruction has still to read bytes of a range (R194, R277); B lags behind where steps were skipped (R196). -/
def MEntry.readsRange (e : MEntry) (b m : Nat) : Bool :=
  (List.range (e.steps - e.step)).any fun k => (e.wants k).any fun r => e.unread r && overlaps r.1 r.2 b m
/-- Reads of a slot by instructions issued before its release keep the released block (R277). -/
def Cell.exemptReads (c : Cell) (w b m : Nat) : Cell :=
  { c with
    mx := { c.mx with queue := c.mx.queue.map fun e => if e.readsRange b m then { e with exempt := w :: e.exempt } else e },
    eng := { c.eng with ents := c.eng.ents.map fun x => x.map fun e =>
      if e.put && e.todo.any fun p => p.buf.isNone && overlaps p.loc p.len b m then { e with exempt := w :: e.exempt } else e } }
/-- LREL's effect on a slot (R277). -/
def lrelAt (n : Fin 8) (s : State) : Ctl :=
  let c := s.cell
  if s.me.tmd then .fault 0x06 0
  else if !c.slotV n || !c.land[n].held || c.olderHeld n then .fault 0x01 0
  else
    let bytes := s.slotBytes (c.slotKey n)
    let step := match s.keyEnt (c.slotKey n) with | some k => k.nslot | none => 1
    .done (modFocus s fun c =>
      ((c.exemptReads (c.slotWm n).val (c.slotBase n) bytes).openSlot n bytes).modSlot n fun l =>
        { l with held := false, armed := true, rels := l.rels + 1, latch := true, blk := l.blk + step, got := [], fails := [] })
/-- LREL. -/
def execLrel (h : Hdr) (n : BitVec 3) (s : State) : Answer := issue h 1 false (fun _ => false) (lrelAt ⟨n.toNat, n.isLt⟩) s
/-- LREL.R. -/
def execLrelR (h : Hdr) (a : Spec) (s : State) : Answer :=
  issue h 1 false (fun _ => !srcOk a) (withSrc a fun v => lrelAt ⟨v.toNat % 8, Nat.mod_lt _ (by decide)⟩) s

/-! ### Release reports (R275–R277) -/

/-- A member's release count: the LRELs it has issued on a group's slots this round (R275). -/
def State.releaseCount (s : State) (key : Nat) : Nat :=
  let c := s.cell
  let nslot := match s.keyEnt key with | some k => Nat.max 1 k.nslot | none => 1
  ((c.groupSlots key).map fun n => (c.land[n].blk - c.slotG n) / nslot).foldl (· + ·) 0
/-- Reads of a slot by instructions issued before its release are still to be done (R277). -/
def State.slotRead (s : State) (n : Fin 8) : Bool :=
  let w := (s.cell.slotWm n).val
  let b := s.cell.slotBase n
  let m := s.slotBytes (s.cell.slotKey n)
  (s.cell.mx.queue.any fun e => e.exempt.contains w && e.readsRange b m) ||
    s.cell.eng.ents.toList.any fun x => match x with
      | some e => e.exempt.contains w && e.todo.any fun q => q.buf.isNone && overlaps q.loc q.len b m
      | none => false
/-- Change the landing slots whose release holds a signal entry. -/
def Cell.modSigs (c : Cell) (f : List (Fin 8) → List (Fin 8)) : Cell := { c with eng := { c.eng with sigs := f c.eng.sigs } }
/-- Where the reports of a node's own cell go: its combiner, or its parent's (R276). -/
def State.reportTo (s : State) (key : Nat) : Option (Name × Nat) :=
  match s.keyEnt key with
  | none => none
  | some k => (s.globals.node k.tree s.cell.name).map fun n =>
      if s.globals.hosts k.tree n then (n.name, 0) else (n.pname, n.lbl)
/-- RELEASE_REPORT (R277): the reads of the slot are done and its event has left its latch: the release takes a signal entry (R225);
then the S plane takes the count, and the entry and the latch are free. -/
def execReleaseReport (c : Name) (n : Fin 8) (s : State) : Answer :=
  .next (within s c.toNat fun s =>
    let key := s.cell.slotKey n
    if s.cell.eng.sigs.contains n then
      let s := modFocus s fun c => (c.modSlot n fun l => { l with latch := false }).modSigs (·.filter (· != n))
      match s.reportTo key with
      | some (node, child) => s.sput (.relCount s.cell.part key node child (s.releaseCount key))
      | none => s
    else if !s.cell.land[n].latch || s.cell.wmLatched (s.cell.slotWm n).val || s.slotRead n || !s.cell.eng.sigFree then s
    else modFocus s (·.modSigs (· ++ [n])))

/-! ### Combiners (R276) -/

/-- Key of a combiner: the keyring entry and the node. -/
def combKey (key : Nat) (node : Name) : Nat := key * 2 ^ 20 + node.toNat
/-- The children whose reports a combiner joins. -/
def Globals.relChildren (g : Globals) (key : Nat) (node : Name) : List Nat :=
  match KM.get g.keys key with
  | none => []
  | some k => match g.node k.tree node with | some n => g.children k.tree n | none => []
/-- The least of the children's counts. -/
def Combiner.least (x : Combiner) (ch : List Nat) : Nat :=
  match ch with
  | [] => 0
  | l :: r => r.foldl (fun m l => Nat.min m ((KM.get x.counts l).getD 0)) ((KM.get x.counts l).getD 0)
/-- Traffic from a combiner to its parent, or from the root's to the source. -/
def Globals.relUp (g : Globals) (key : Nat) (node : Name) (toParent : Name → Nat → SMsg) (toSource : SMsg) : Option SMsg :=
  match KM.get g.keys key with
  | none => none
  | some k => (g.node k.tree node).bind fun n => if n.isRoot then some toSource else if n.xp then none else some (toParent n.pname n.lbl)
/-- Send what a combiner sends. -/
def State.sputSome (s : State) (m : Option SMsg) : State := match m with | some m => s.sput m | none => s
/-- Messages of one route arrive in the order in which they were sent (R276): a child's counts, STARTs and repair requests at its
combiner, and the root's at the source. -/
def SMsg.route : SMsg → Option (PartIdx × Nat × Option (Name × Nat))
  | .relCount p key node child _ => some (p, key, some (node, child))
  | .relStart p key node child => some (p, key, some (node, child))
  | .srcCount p key _ => some (p, key, none)
  | .srcStart p key => some (p, key, none)
  | .relRepair p key node child _ _ => some (p, key, some (node, child))
  | .srcRepair p key _ _ => some (p, key, none)
  | _ => none
/-- No earlier message of its route is still on its way. -/
def State.firstOnRoute (s : State) (k : Nat) (m : SMsg) : Bool :=
  m.route.isNone || !(s.snet.take k).any fun x => x.route == m.route
/-- Every block sent to a tumbler has landed (Table 15.4, step 4). -/
def State.tumLanded (s : State) (die u : Nat) : Bool :=
  s.parts.all fun q => q.2.srcs.all fun x => x.2.air.all fun b => (b.owed ++ b.lost).all fun o => !s.inTum die u o.1
/-- The cell whose traffic a child's label stands for at a node's combiner: the node's own, or the child's (R276). -/
def Globals.relChild (g : Globals) (key : Nat) (node : Name) (child : Nat) : Name :=
  match (KM.get g.keys key).bind fun k => (g.node k.tree node).bind fun n => g.child k.tree n child with
  | some x => x.name
  | none => node
/-- A message of a release tree is held at the boundary of its node's tumbler (R280), once what was sent there has landed: until then repair
requests, and what comes before them, are let in, since that lands before state moves (assumption 97). -/
def State.relHeld (s : State) (m : SMsg) : Bool :=
  match m.route with
  | some (p, key, some (node, child)) =>
    let from_ := match part s p.toNat with | some q => q.globals.relChild key node child | none => node
    !s.crosses from_.toNat node.toNat && (match curPos s node.toNat with | some z => s.tumLanded z.die (tumOf z.row z.col) | none => true)
  | _ => false
/-- The `k`-th S-plane message, in the order of its route, unless it is held. -/
def State.relAt (s : State) (k : Nat) : Option SMsg :=
  match s.snet[k]? with
  | none => none
  | some m => if s.firstOnRoute k m && !s.relHeld m then some m else none
/-- RELEASE_COMBINE (R276): the `k`-th S-plane message, a count, a START or a repair request, at a combiner. -/
def execReleaseCombine (k : Nat) (s : State) : Answer :=
  .next (match s.relAt k with
    | some (.relCount p key node child n) =>
      match part s p.toNat with
      | none => s.dropS k
      | some q =>
        let x := (KM.get q.combs (combKey key node)).getD {}
        let x := { x with counts := KM.put x.counts child n }
        let m := x.least (q.globals.relChildren key node)
        let s := modPart (s.dropS k) p.toNat fun q => { q with combs := KM.put q.combs (combKey key node) { x with sent := m } }
        if m = x.sent then s
        else s.sputSome (q.globals.relUp key node (fun a l => .relCount p key a l m) (.srcCount p key m))
    | some (.relStart p key node child) =>
      match part s p.toNat with
      | none => s.dropS k
      | some q =>
        let x := (KM.get q.combs (combKey key node)).getD {}
        let st := child :: x.starts
        if (q.globals.relChildren key node).all st.contains then
          let s := modPart (s.dropS k) p.toNat fun q => { q with combs := KM.put q.combs (combKey key node) {} }
          (s.sputSome (q.globals.relUp key node (fun a l => .relStart p key a l) (.srcStart p key))).sputSome
            (q.globals.relUp key node (fun a l => .relCount p key a l 0) (.srcCount p key 0))
        else modPart (s.dropS k) p.toNat fun q => { q with combs := KM.put q.combs (combKey key node) { x with starts := st } }
    | some (.relRepair p key node _ m g) =>
      match part s p.toNat with
      | none => s.dropS k
      | some q => (s.dropS k).sputSome (q.globals.relUp key node (fun a l => .relRepair p key a l m g) (.srcRepair p key m g))
    | _ => s)

/-! ### Sources (R274, R276, R279) -/

/-- Change a source. -/
def Part.modSrc (p : Part) (key : Nat) (f : Source → Source) : Part := { p with srcs := KM.put p.srcs key (f ((KM.get p.srcs key).getD {})) }
/-- A frame that a member lost is sent again with its block (R274). -/
def Source.resend (x : Source) (o : Nat × Nat) : Source :=
  match firstIx (fun b => b.lost.contains o) x.air 0 with
  | none => x
  | some i => { x with air := setAt x.air i (match x.air[i]? with
      | some b => { b with lost := dropFirst (· == o) b.lost, owed := b.owed ++ [o] }
      | none => { k := 0 }) }
/-- Some block is on the light path. -/
def Source.flying (x : Source) : Bool := !x.air.isEmpty
/-- SOURCE_COUNT_RECEIPT (R276): the `k`-th S-plane message reaches its source; counts before START are ignored, and a
repair request has the frame sent again (R274). -/
def execSourceCountReceipt (k : Nat) (s : State) : Answer :=
  .next (match s.relAt k with
    | some (.srcCount p key n) => modPart (s.dropS k) p.toNat (·.modSrc key fun x => if x.started then { x with m := n } else x)
    | some (.srcStart p key) => modPart (s.dropS k) p.toNat (·.modSrc key fun x => { x with started := true, m := 0, k := 0, reads := [] })
    | some (.srcRepair p key m g) => modPart (s.dropS k) p.toNat (·.modSrc key (·.resend (m.toNat, g)))
    | _ => s)
/-- Names of a tile's cells that a mask selects (R20, R268). -/
def tileMembers (t : Nat × Nat × Nat × Bool × W64) : List Nat :=
  ((List.range 64).filter fun i => t.2.2.2.2.getLsbD i).map fun i => t.1 * 2 ^ 14 + t.2.2.1 * 2 ^ 10 + t.2.1 * 2 ^ 6 + i
/-- Member cells of an entry, each once (R268). -/
def KeyEnt.members (k : KeyEnt) : List Nat := (k.tiles.flatMap tileMembers).eraseDups
/-- Frames of a block, of 256 bytes each (assumption 110). -/
def KeyEnt.frames (k : KeyEnt) : Nat := (k.blk + 7) / 8
/-- Read a granule of a plan for a source: an edge streamer from its module, a slice transmitter through its die's slices
with the allocate hint (R270). It walks the tables anew at each read (assumption 119). -/
def State.planRead (s : State) (p : Nat) (k : KeyEnt) (va : Nat) : State × ReadRes :=
  let die := if k.skind then (physDie s k.sidx).getD 0 else match part s p with | some q => q.dies.headD 0 | none => 0
  match walkEnd s die va p with
  | .ok (g, e) =>
    match targetOf g e va with
    | .store m a w c al => s.weightRead die va m a 32 (if k.skind then policy w c al 1 else .bypass)
    | .pad .. => (s, .error 0x0A)
  | .error _ => (s, .error 0x0A)
/-- What a read gives a block: no data where it failed. -/
def ReadRes.data (r : ReadRes) : Option V256 := match r with | .ok x => some (BitVec.ofNat 256 x) | .error _ => none
/-- A source whose members' tumblers stand still and whose partition goes on (R280). -/
def State.sourceFree (s : State) (q : Part) (k : KeyEnt) : Bool :=
  q.preempt.isNone && k.members.all fun n => match curPos s n with | some p => !holding s p | none => true
/-- Every ring that a partition's load names is tuned (R267). -/
def State.tuned (s : State) (p : Nat) : Bool := s.rings.all fun r => r.1 != p || r.2.2
/-- A block as it leaves: its data, the frames the source could not read, and every frame owed to every member. -/
def KeyEnt.block (k : KeyEnt) (n : Nat) (l : List (Option V256)) : Block :=
  { k := n, data := l.map (·.getD 0), bad := (List.range k.frames).filter fun i => ((l.drop (8 * i)).take 8).any Option.isNone,
    owed := k.members.flatMap fun m => (List.range k.frames).map fun i => (m, i) }
/-- Granules of its next block that a source has not read. -/
def Source.unread (x : Source) (n : Nat) : List Nat := (List.range n).filter fun i => !x.reads.any (·.1 == i)
/-- The granules of a block in their order, as a source has read them. -/
def Source.lines (x : Source) (n : Nat) : List (Option V256) := (List.range n).map fun i => (x.reads.find? (·.1 == i)).bind (·.2)
/-- A source has read a granule of its next block, which leaves with the last one. -/
def Source.took (x : Source) (k : KeyEnt) (i : Nat) (v : Option V256) : Source :=
  let y := { x with reads := x.reads ++ [(i, v)] }
  if (y.unread k.blk).isEmpty then { y with reads := [], air := x.air ++ [k.block x.k (y.lines k.blk)], k := x.k + 1 } else y
/-- BLOCK_SEND (R276, R310): once every member has released block k − NSLOT, a granule of block k is read, in no specified order; with the
last one the block leaves. -/
def execBlockSend (p : PartIdx) (key : BitVec 8) (s : State) : Answer :=
  .next (match part s p.toNat with
    | none => s
    | some q =>
      let x := (KM.get q.srcs key.toNat).getD {}
      match KM.get q.globals.keys key.toNat, KM.get q.globals.plans key.toNat with
      | some k, some pl =>
        if x.started && decide (x.k < pl.nblk ∧ x.k < x.m + k.nslot) && s.tuned p.toNat && s.sourceFree q k then
          let base := pl.gaddr + x.k * 256 * pl.gstr
          let left := x.unread k.blk
          let i := left.getD (choose s left.length) 0
          let r := (fresh s).planRead p.toNat k ((base + 32 * i) % 2 ^ 45)
          modPart r.1 p.toNat (·.modSrc key.toNat (·.took k i r.2.data))
        else s
      | _, _ => s)

/-! ### Landing (R272–R274) -/

/-- The frame is in the slot; with the block's last one the slot is HELD (R273). -/
def Landing.landed (l : Landing) (i frames : Nat) : Landing :=
  let got := i :: l.got
  let part := l.part.filter fun g => g / 8 != i
  if frames ≤ got.length then { l with got := [], part := part, held := true, armed := false, lands := l.lands + 1 }
  else { l with got := got, part := part }
/-- A (member, frame) pair of a block is done; a block that has landed at every member is off the light path (R279). -/
def Source.landedPair (x : Source) (k : Nat) (o : Nat × Nat) : Source :=
  { x with air := (x.air.map fun b => if b.k = k then { b with owed := dropFirst (· == o) b.owed } else b).filter fun b =>
      !(b.k == k && b.owed.isEmpty && b.lost.isEmpty) }
/-- A pair waits for its repair request (R274). -/
def Source.losePair (x : Source) (k : Nat) (o : Nat × Nat) : Source :=
  { x with air := x.air.map fun b => if b.k = k then { b with owed := dropFirst (· == o) b.owed, lost := o :: b.lost } else b }
/-- The block whose frame `i` may land at a member now: the oldest that it has not all of (R273). -/
def Source.blockFor (x : Source) (c i : Nat) : Option Block :=
  match x.air.find? fun b => (b.owed ++ b.lost).any (·.1 == c) with
  | some b => if b.owed.contains (c, i) then some b else none
  | none => none
/-- Granules of a frame that have not landed. -/
def Landing.missing (l : Landing) (i n : Nat) : List Nat := (List.range n).filter fun j => !l.part.contains (8 * i + j)
/-- One granule of a frame lands, in no specified order; with the frame's last one the pair is done, and zeroed data raises its event
(R273, R274, R310). -/
def State.landGranule (s : State) (n : Fin 8) (key : Nat) (k : KeyEnt) (b : Block) (i : Nat) (zero : Bool) : State :=
  let gs := (b.data.drop (8 * i)).take 8
  let left := s.cell.land[n].missing i gs.length
  let j := left.getD (choose s left.length) 0
  let s := (fresh s).landStore (s.cell.slotBase n + 256 * i + 32 * j) 32 (if zero then 0 else (gs.getD j 0).toNat)
  if 1 < left.length then modFocus s (·.modSlot n fun l => { l with part := (8 * i + j) :: l.part })
  else
    let s := modFocus s (·.modSlot n (·.landed i k.frames))
    let s := modPart s s.cell.part.toNat (·.modSrc key (·.landedPair b.k (s.cell.name.toNat, i)))
    if zero then s.further61 (engineEvent 0x0A 1 (8 + n.val) 0 0 0) else s
/-- LIGHT_FRAME_LANDING (R273, R274): frame `i` of the block that a member awaits reaches slot `n`, granule by granule; `good` says
that its error correction succeeded. After three failed resends, and for data the source could not read, the granules are zero, with
an event on channel 61. A slot whose release latch is full takes no granule: reads of its released block are still to be done. -/
def execLightFrameLanding (c : Name) (n : Fin 8) (i : Nat) (good : Bool) (s : State) : Answer :=
  .next (within s c.toNat fun s =>
    let key := s.cell.slotKey n
    let p := s.cell.part.toNat
    let l := s.cell.land[n]
    match s.keyEnt key, ((part s p).bind fun q => KM.get q.srcs key).bind (·.blockFor c.toNat i) with
    | some k, some b =>
      if !s.cell.slotV n || !l.armed || l.latch || l.blk != b.k || s.cell.wmLatched (s.cell.slotWm n).val then s
      else
        let fails := (l.fails.filter (· == i)).length
        let begun := l.part.any fun g => g / 8 == i
        let zero := b.bad.contains i || decide (4 ≤ fails) || (!good && !begun && decide (3 ≤ fails))
        if !good && !begun && !zero then
          let s := modFocus s (·.modSlot n fun l => { l with fails := i :: l.fails })
          let s := modPart s p (·.modSrc key (·.losePair b.k (c.toNat, i)))
          match s.reportTo key with
          | some (node, child) => s.sput (.relRepair s.cell.part key node child c i)
          | none => s
        else
          let s := if zero && !b.bad.contains i && decide (fails < 4) then modFocus s (·.modSlot n fun l => { l with fails := i :: l.fails }) else s
          s.landGranule n key k b i zero
    | _, _ => s)
/-- RING_RETUNE (R267): the `i`-th ring that a partition's load names is tuned. -/
def execRingRetune (p : PartIdx) (i : Nat) (s : State) : Answer :=
  .next (match s.rings[i]? with
    | some r => if r.1 = p.toNat then { s with rings := setAt s.rings i (r.1, r.2.1, true) } else s
    | none => s)

end Sys2Proof.Machine
end

