-- ==== Sys2Proof/Machine/Circuits.lean ====
section
/-! DEFINITION. Configured circuits (R256–R258). -/

namespace Sys2Proof.Machine

/-- A circuit of the partition of the cell in hand. -/
def State.circuit (s : State) (id : Nat) : Option Circuit := KM.get s.globals.circs id
/-- A circuit's end in a cell. -/
def Cell.circEnd (c : Cell) (id : Nat) : CircuitEnd := (KM.get c.msg.circ id).getD {}
/-- Change it. -/
def Cell.modCirc (c : Cell) (id : Nat) (f : CircuitEnd → CircuitEnd) : Cell := c.modMsg fun m => { m with circ := KM.put m.circ id (f (c.circEnd id)) }
/-- A 64-bit counter word. -/
def Cell.counter (c : Cell) (off : Nat) : Nat := c.bytes off 8
/-- An engine's read of a counter word (R211): a correctable error is scrubbed; an uncorrectable one is reported, and gives no count
(Table 08.2, assumption 16). -/
def State.readCounter (s : State) (off : Nat) : State × Option Nat :=
  let s' := modFocus s (·.touched off 8)
  if (s.cell.badRead off 8).isSome then (s'.eccEvent, none) else (s', some (s.cell.counter off))
/-- CIRCUIT_SOURCE_READ (R257): granule `sent` is read once PCNT covers it, the ring has room and its unit's window lets it go (R318), SENT
is written, and the granule leaves. What leaves for a granule with an uncorrectable word is not stated (assumption 16). -/
def execCircuitSourceRead (c : Name) (id : BitVec 8) (s : State) : Answer :=
  .next (within s c.toNat fun s =>
    match s.circuit id.toNat with
    | none => s
    | some k =>
      let e := s.cell.circEnd id.toNat
      if k.sname ≠ c ∨ awaits s c.toNat = true ∨ s.windowShut k.dname.toNat = true then s
      else match s.readCounter (8 * k.pidx) with
      | (s, none) => s
      | (s, some n) =>
      if e.sent < n ∧ e.sent - e.credit < k.size then
        let a := k.sbase + 32 * (e.sent % k.size)
        let bad := (s.cell.badRead a 32).isSome
        let v := if bad then Config.freeVal s.freeIx else s.cell.gran a
        let s := modFocus s fun c => (c.touched a 32).modCirc id.toNat fun e => { e with sent := e.sent + 1 }
        let s := (if bad then s.eccEvent else s).padStore (8 * k.pidx + 8) 8 (e.sent + 1)
        s.cputCausal c.toNat k.dname.toNat (.granule s.cell.part id.toNat e.sent v)
      else s)
/-- CIRCUIT_LAND (R257, R83): the `k`-th C-plane packet, a granule, is written in order into its ring slot, and at a later point LCNT is
(R310); nothing of the next round or load lands before the token has passed the cell (R307, R312). -/
def execCircuitLand (k : Nat) (s : State) : Answer :=
  .next (match s.cAt k with
    | some (.granule p id i v, cr) =>
      match (part s p.toNat).bind fun q => KM.get q.globals.circs id with
      | none => (s.dropC k).appliedX cr
      | some x =>
        let c := getCell s x.dname.toNat
        let a := x.dbase + 32 * (i % x.size)
        if (c.circEnd id).landed ≠ i ∨ s.sReady x.dname = false ∨ awaits s x.dname.toNat = true then s
        else if (c.circEnd id).wrote then
          within (s.dropC k) x.dname.toNat fun s =>
            (modFocus s (·.modCirc id fun e => { e with landed := i + 1, wrote := false })).padStore (8 * x.lidx) 8 (i + 1)
        else if c.landBlocked a 32 then s
        else
          within { s with cnet := setAt s.cnet k (.granule p id i v) } x.dname.toNat fun s =>
            (modFocus (s.landStore a 32 v.toNat) (·.modCirc id fun e => { e with wrote := true })).appliedX cr
    | _ => s)
/-- CIRCUIT_CREDIT (R257): a credit flit of circuit `k mod 256` of partition `k div 256` brings CCNT to the source engine; one for a
cell of a rotating tumbler is held at the boundary (R260). -/
def execCircuitCredit (k : Nat) (s : State) : Answer :=
  .next (match (part s (k / 256)).bind fun q => KM.get q.globals.circs (k % 256) with
    | none => s
    | some x =>
      if !s.crosses x.dname.toNat x.sname.toNat || awaits s x.dname.toNat || awaits s x.sname.toNat then s
      else
        let n := ((focus s x.dname.toNat).readCounter (8 * x.lidx + 8)).2
        let s := within s x.dname.toNat fun s => (s.readCounter (8 * x.lidx + 8)).1
        match n with
        | none => s
        | some n => modCell s x.sname.toNat (·.modCirc (k % 256) fun e => { e with credit := n }))
/-- A write of CCNT that no credit flit has brought to the source (R257, step 4). -/
def State.creditDue (s : State) (id : Nat) (x : Circuit) : Bool :=
  let d := getCell s x.dname.toNat
  (d.badRead (8 * x.lidx + 8) 8).isNone && d.counter (8 * x.lidx + 8) != ((getCell s x.sname.toNat).circEnd id).credit
/-- A granule of a circuit. -/
def CMsg.granuleOf (p : PartIdx) (id : Nat) (m : CMsg) : Bool := match m with | .granule q i _ _ => q == p && i == id | _ => false
/-- A granule of a circuit has reached its destination's die and is not landed. -/
def State.granuleIn (s : State) (p : PartIdx) (id : Nat) : Bool :=
  s.cnet.any fun m => m.granuleOf p id || (match m with | .crossing x m => x.rel && m.granuleOf p id | _ => false)
/-- Circuit engines of the cell in hand have work left (R258). What has reached it before the token has passed it is of the next round, and
does not keep it (R312). -/
def State.circuitsBusy (s : State) : Bool :=
  s.globals.circs.any fun x =>
    x.2.sname == s.cell.name && decide ((s.cell.circEnd x.1).sent < s.cell.counter (8 * x.2.pidx)) ||
    x.2.dname == s.cell.name && s.granuleIn s.cell.part x.1 && !awaits s s.cell.name.toNat

end Sys2Proof.Machine
end

