-- ==== Sys2Proof/Machine/Fence.lean ====
section
/-! DEFINITION. FENCE (R313–R315): what a thread has issued and Table 13.2 still waits for. An engine's accesses are judged one by one
(assumption 11). -/

namespace Sys2Proof.Machine

/-- Where an access has its point: in the cell's own scratchpad, in another's of its die or of another die, or at a module line; none
where its translation faults. -/
inductive Reach where
  | own
  | pad
  | far
  | store
  deriving DecidableEq, Repr

/-- Where an engine access of the cell in hand to a global address has its point (R30, R305). -/
def State.reach (s : State) (ga : Nat) : Option Reach :=
  let va := ga % 2 ^ 45
  match walkEnd s s.place.die va s.cell.part.toNat with
  | .error _ => none
  | .ok (g, e) =>
    match targetOf g e va with
    | .pad c _ =>
      some (if c = s.cell.name.toNat then .own else if nameDie c = nameDie s.cell.name.toNat then .pad else .far)
    | .store .. => some .store
/-- A scope takes in an access that is not done; `stamped` says that its packet to another die has its stamp, which is all that DIE
asks of it (Table 13.2). One that will end in an error is waited for until the error is reported. -/
def inScope (scope : BitVec 2) (stamped : Bool) (r : Option Reach) : Bool :=
  match r with
  | none => true
  | some .own => true
  | some .pad => scope != 0
  | some .far => scope == 2 || (scope == 1 && !stamped)
  | some .store => scope == 2

/-- A request of an engine of the cell in hand for an address is on its way without a stamp (R316). -/
def State.unstamped (s : State) (w : Waiter) (ga : Nat) : Bool :=
  s.cnet.any fun m => match m with
    | .crossing x (.ask a) => a.who == w && x.causal.isNone && a.ps.any (·.ga == ga)
    | _ => false
/-- A piece of a copy has been asked of another die, and its request has its stamp. -/
def State.pieceStamped (s : State) (i : Nat) (p : Piece) : Bool := p.out && !s.unstamped (.copy s.cell.name i) p.ga
/-- Taken data entries of a thread, with their numbers. -/
def Cell.copiesOf (c : Cell) (t : TIdx) : List (Nat × CopyEnt) :=
  (List.finRange 16).filterMap fun i => (c.eng.ents[i]).bind fun e => if e.t = t then some (i.val, e) else none
/-- Copies of a thread: its writes not yet done, of pieces or of an error not yet reported (R229, R314). -/
def State.copyWrites (s : State) (t : TIdx) (scope : BitVec 2) : Bool :=
  (s.cell.copiesOf t).any fun x =>
    x.2.err.isSome || x.2.todo.any fun p => !x.2.put || inScope scope (s.pieceStamped x.1 p) (s.reach p.ga)
/-- Copies of a thread: its reads not yet done. -/
def State.copyReads (s : State) (t : TIdx) (scope : BitVec 2) : Bool :=
  (s.cell.copiesOf t).any fun x =>
    x.2.err.isSome || x.2.todo.any fun p => p.buf.isNone && (x.2.put || inScope scope (s.pieceStamped x.1 p) (s.reach p.ga))
/-- Packets in the network or in a hold memory. -/
def State.flights (s : State) : List Flight :=
  s.mnet ++ s.causal.flatMap fun u => u.2.hold.filterMap fun h => match h with | .m f => some f | _ => none
/-- The status of a remote atomic's response (R259). -/
def Pkt.status (p : Pkt) : BitVec 8 := (lane1 (p.pay.headD 0)).extractLsb' 0 8
/-- A remote atomic of a thread that has not reached what a scope asks (R259, Table 13.2): performed, or, across dies under DIE,
stamped; one that failed until its error is reported (R314). -/
def State.atomsWait (s : State) (t : TIdx) (scope : BitVec 2) : Bool :=
  let me := s.cell.name
  let r (n : Name) : Option Reach := some (if n = me then .own else if nameDie n.toNat = nameDie me.toNat then .pad else .far)
  (s.cell.msg.egress.any fun x => match x with
    | .atom u _ _ _ _ ga _ _ _ => u == t && inScope scope false (s.reach ga)
    | .msg _ => false) ||
  s.flights.any fun f =>
    (f.p.kind == 1 && f.p.src == me && f.p.stid == t && inScope scope f.stamped (r f.p.dest)) ||
    (f.p.kind == 3 && f.p.dest == me && f.p.stid == t && f.p.status != 0 && inScope scope true (r f.p.src))
/-- A SEND of a thread that is not acknowledged (R252), or whose error reply has not arrived: one that fails is done when its error is
reported (R254, R314). -/
def State.sendsWait (s : State) (t : TIdx) : Bool :=
  let c := s.cell
  (c.msg.egress.any fun x => match x with | .msg p => p.stid == t | .atom .. => false) ||
    (c.msg.busy.any fun p => p.t == t && !c.msg.atoms.contains p) ||
    s.flights.any fun f => f.p.kind == 2 && f.p.chan == 61 && f.p.dest == c.name && f.p.stid == t
/-- Addresses of the elements that a write engine has still to write out (R235). -/
def Stream.pending (x : Stream) : List Nat :=
  (List.range x.buf.length).flatMap fun j =>
    ((List.range (x.inPacket (x.oldest + j))).drop (if j = 0 then x.acc.length else 0)).map fun i =>
      (x.at_ ((x.oldest + j) * x.perPacket + i)).toNat
/-- A write stream of a thread with pushed packets that have not reached what a scope asks (R233, Table 13.2). -/
def State.streamsWait (s : State) (t : TIdx) (scope : BitVec 2) : Bool :=
  (List.finRange 4).any fun n =>
    let x := s.cell.eng.strm[n]
    x.own == t && x.isWrite && !x.buf.isEmpty &&
      (!x.isGlobal || x.pending.any fun a =>
        inScope scope (x.out.isSome && x.pending.head? == some a && !s.unstamped (.stream s.cell.name n.val) a) (s.reach a))
/-- A queued matrix instruction still writes scratchpad (MST.S). -/
def MEntry.writesPad (e : MEntry) : Bool := match e.op with | .store .. => true | _ => false
/-- One that has still to read it (MMA.L, MMR.L, MST.L, CBLOAD; R194, R315). -/
def MEntry.readsPad (e : MEntry) : Bool := (List.range (e.steps - e.step)).any fun k => (e.wants k).any e.unread
/-- A matrix instruction of a thread with a property waits in the queue. -/
def Cell.matrixWait (c : Cell) (t : TIdx) (f : MEntry → Bool) : Bool := c.mx.queue.any fun e => e.t == t && f e

/-- What REL waits for (Table 13.2). -/
def State.relWaits (s : State) (t : TIdx) (scope : BitVec 2) : Bool :=
  s.copyWrites t scope || s.atomsWait t scope || s.streamsWait t scope || s.cell.matrixWait t MEntry.writesPad ||
    (scope != 0 && s.sendsWait t)
/-- What ACQ waits for (Table 13.2). -/
def State.acqWaits (s : State) (t : TIdx) (scope : BitVec 2) : Bool :=
  s.copyReads t scope || s.atomsWait t scope || s.cell.matrixWait t MEntry.readsPad
/-- What a FENCE of a kind and scope waits for (R314); FULL is both. -/
def State.fenceWaits (s : State) (t : TIdx) (kind : BitVec 6) (scope : BitVec 2) : Bool :=
  (kind != 1 && s.relWaits t scope) || (kind != 0 && s.acqWaits t scope)

/-- FENCE (R313, R314). -/
def execFence (h : Hdr) (kind : BitVec 6) (x : BitVec 2) (s : State) : Answer :=
  issue h 1 false (fun _ => decide (2 < kind.toNat) || x == 3)
    (fun s => if s.fenceWaits s.cell.last kind x then .need (.fence (kind.setWidth 2) x) else .done s) s

end Sys2Proof.Machine
end

