-- ==== Sys2Proof/Machine/Timed.lean ====
section
/-! DEFINITION. Virtual time (R323–R345): the timed input queue, binding, the journal read back, stragglers and rollback,
anti-messages, GVT computations and commits. -/

namespace Sys2Proof.Machine

/-! ### The timed input queue (R326) -/

/-- TQBASE in bytes (Table 14.2). -/
def Cell.tqBase (c : Cell) : Nat := 32 * bits (Sp.get c.plane.live 4).toNat 0 10
/-- TQENT. -/
def Cell.tqEnt (c : Cell) : Nat := bits (Sp.get c.plane.live 4).toNat 10 8
/-- Offset of an overflow entry. -/
def Cell.tqAt (c : Cell) (i : Nat) : Nat := c.tqBase + 160 * i
/-- Where the next entry of the queue goes: among the 64 of the hardware, else to the lowest free overflow entry; none when
the queue is full (R326). -/
def Cell.tqFree (c : Cell) : Option (Option Nat) :=
  let q := c.tim.tq
  if (q.filter fun e => e.slot.isNone).length < 64 then some none
  else ((List.range c.tqEnt).find? fun i => !(q.any fun e => e.slot == some i)).map some
/-- STID and P of an overflow entry, its byte 7's bits [7:2] (R326). -/
def TqEnt.extra (e : TqEnt) : Nat := e.p.stid.val + 8 * bit e.done
/-- The scratchpad image of an overflow entry: Table 03.8 with STID and P (R326). -/
def Cell.tqImage (c : Cell) (e : TqEnt) : Cell :=
  match e.slot with
  | none => c
  | some i => c.deposit (c.tqAt i) (e.p.entryBytes e.extra)
/-- P of an overflow entry changes: its byte 7 is written, and no word of it whole (R211, R326). -/
def Cell.tqFlag (c : Cell) (e : TqEnt) : Cell :=
  match e.slot with
  | none => c
  | some i => c.store (c.tqAt i + 7) 1 (e.p.pay.length - 1 + 4 * e.extra)
/-- An entry of a message, in a state, goes to another. -/
def TqEnt.turn (p : Pkt) (old new : Bool) (e : TqEnt) : TqEnt :=
  if e.done = old ∧ e.p.sameMsg p = true then { e with done := new, counted := true } else e
/-- The entry of a message with a flag. -/
def Cell.tqOf (c : Cell) (p : Pkt) (done : Bool) : Option TqEnt := c.tim.tq.find? fun e => e.done == done && e.p.sameMsg p
/-- The flag of the entry of a message becomes so. -/
def Cell.setDone (c : Cell) (p : Pkt) (old new : Bool) : Cell :=
  let c := c.modTim fun x => { x with tq := x.tq.map (·.turn p old new) }
  match c.tqOf p new with
  | some e => c.tqFlag e
  | none => c
/-- The unprocessed message of least VRT, the first to enter among equals (R326). -/
def lowestVrt (l : List TqEnt) : Option TqEnt :=
  l.foldl (fun m e => match m with
    | none => some e
    | some x => if e.p.vrt.toNat < x.p.vrt.toNat then some e else m) none
/-- The message that may bind next. -/
def Cell.nextTimed (c : Cell) : Option TqEnt := lowestVrt (c.tim.tq.filter fun e => !e.done)

/-! ### The journal read back (R330) -/

/-- Word 0 and word 1 of the `i`-th entry in use, the oldest first. -/
def Cell.jEntry (c : Cell) (i : Nat) : Nat × Nat :=
  let a := c.jAt (c.tim.jhead + i)
  (c.bytes a 8, c.bytes (a + 8) 8)
/-- The GVT engine reads the `i`-th entry: corrected words are scrubbed, an uncorrectable word is counted, and what the entry then
says is not stated (R211; assumption 16). -/
def State.jRead (s : State) (i : Nat) : State × (Nat × Nat) :=
  let a := s.cell.jAt (s.cell.tim.jhead + i)
  let e := s.cell.jEntry i
  let word (o v : Nat) : Nat := if (s.cell.badRead (a + o) 8).isSome then bits (Config.freeVal s.freeIx).toNat (8 * o) 64 else v
  let s' := modFocus s (·.touched a 16)
  (if (s.cell.badRead a 16).isSome then fresh s' else s', (word 0 e.1, word 8 e.2))
/-- KIND. -/
def jKind (e : Nat × Nat) : Nat := bits e.1 0 3
/-- VRT. -/
def jVrt (e : Nat × Nat) : Nat := bits e.1 16 48
/-- Word 1 of a start entry (Table 14.3). -/
def Pkt.startEntry (p : Pkt) : Nat := p.src.toNat + 2 ^ 20 * p.seq.toNat + 2 ^ 36 * p.stid.val + 2 ^ 39 * p.chan.toNat
/-- The entries from the `i`-th on that belong to the starts below a VRT are read, oldest first, of `n`; the first start that stays is read
too (R338). -/
def State.jWalk (s : State) (g : Nat) : Nat → Nat → List (Nat × Nat) → State × List (Nat × Nat)
  | 0, _, l => (s, l)
  | n + 1, i, l =>
    let x := s.jRead i
    if jKind x.2 = 1 ∧ g ≤ jVrt x.2 then (x.1, l) else x.1.jWalk g n (i + 1) (l ++ [x.2])
/-- The first `n` entries are read, newest first, until what has been read shows something. -/
def State.jDown (s : State) (shows : List (Nat × Nat) → Bool) : Nat → List (Nat × Nat) → State × List (Nat × Nat)
  | 0, l => (s, l)
  | n + 1, l =>
    let x := s.jRead n
    if shows (l ++ [x.2]) then (x.1, l ++ [x.2]) else x.1.jDown shows n (l ++ [x.2])

/-! ### Binding (R323, R331) -/

/-- A message's payload as its entry holds it. -/
def Cell.tqPay (c : Cell) (e : TqEnt) : List V256 := match e.slot with | none => e.p.pay | some i => (c.entryPkt (c.tqAt i)).pay
/-- The payload of a message is read at its binding; an unreadable register of an overflow entry is zero, with an event on channel 61,
as for the spill ring, whose layout it has (R211, R326, Table 08.2; assumption 16). -/
def State.tqRead (s : State) (e : TqEnt) : State :=
  match e.slot with
  | none => s
  | some i =>
    let s' := modFocus s (·.touched (s.cell.tqAt i) 160)
    if (s.cell.badRead (s.cell.tqAt i) 160).isSome then s'.eccEvent else s'
/-- An overflow entry is not yet written whole (R310). -/
def Cell.tqDepositing (c : Cell) (e : TqEnt) : Bool := match e.slot with | some i => c.depositing (c.tqAt i) | none => false
/-- TIMED_MESSAGE_BIND (R323): the lowest unprocessed message binds, journaled when its VRT is above GVT and the journal has
room for the start entry. -/
def execTimedMessageBind (c : Name) (s : State) : Answer :=
  .next (within s c.toNat fun s =>
    match s.cell.tim.run, s.cell.tim.rbk, s.cell.nextTimed with
    | none, none, some e =>
      let p := { e.p with pay := s.cell.tqPay e }
      let unj := decide (p.vrt.toNat ≤ s.cell.tim.gvt.toNat)
      match s.cell.bindable p.chan.toNat with
      | none => s
      | some t =>
        if s.cell.masked p || s.cell.tqDepositing e || (!unj && s.cell.journalShort 1) || s.heldAt c.toNat then s
        else
          let s := modFocus (s.tqRead e) fun c => ((if e.counted then c else c.received p).setDone p false true).modTim fun x =>
            { x with lvt := p.vrt, run := some { t := t, p := p, vrt := p.vrt, unj := unj } }
          let s := if unj then s else s.jAppend (jWord0 1 0 p.vrt) p.startEntry
          modFocus s (·.bind t p)
    | _, _, _ => s)

/-! ### Annihilation (R333) -/

/-- RECV counts an anti-message that is matched or discarded (R89). -/
def Cell.antiSeen (c : Cell) : Cell := { c with inbox := { c.inbox with recv := c.inbox.recv + 1 } }
/-- A positive leaves the queue with its anti-message. -/
def Cell.annihilate (c : Cell) (p : Pkt) : Cell :=
  match c.tim.tq.find? (·.p.sameMsg p) with
  | none => c
  | some e =>
    let c := if e.counted then c else c.received e.p
    (c.modTim fun x => { x with tq := dropFirst (·.p.sameMsg p) x.tq, annih := satInc x.annih }).antiSeen
/-- A rollback starts, or one in progress goes further (R332). -/
def Timed.rollTo (x : Timed) (r : Rollback) : Timed :=
  match x.rbk with
  | some q => { x with rbk := some { q with v := if r.v.toNat < q.v.toNat then r.v else q.v, keep := none } }
  | none => { x with rbk := some r, rolls := satInc x.rolls }
/-- An anti-message is matched (R333). -/
def Cell.matchAnti (c : Cell) (a : Pkt) : Cell :=
  match c.inbox.ibuf.find? fun p => p.tmd && !p.anti && p.sameMsg a with
  | some p =>
    (({ c with inbox := { c.inbox with ibuf := dropFirst (fun q => q.tmd && !q.anti && q.sameMsg a) c.inbox.ibuf } } : Cell).received p
      |>.modTim fun x => { x with annih := satInc x.annih }).antiSeen
  | none =>
    match c.tim.tq.find? (·.p.sameMsg a) with
    | none => (c.modTim fun x => { x with orph := satInc x.orph }).antiSeen
    | some e =>
      if e.done then
        c.modTim (·.rollTo { v := BitVec.ofNat 48 (2 ^ 48 - 1), mark := some (BitVec.ofNat 64 e.p.startEntry), post := some (e.p, a) })
      else c.annihilate e.p
/-- The anti-messages that waited for a rollback to end are matched, until one starts another (R332). -/
def Cell.matchWaiting (c : Cell) : List Pkt → Cell
  | [] => c
  | a :: r =>
    if c.tim.rbk.isSome then c.modTim fun x => { x with antiw := a :: r }
    else ((c.modTim fun x => { x with antiw := r }).matchAnti a).matchWaiting r

/-! ### Rollback (R332) -/

/-- The anti-message of a send entry (R333). -/
def antiOf (src : Name) (e : Nat × Nat) : Pkt :=
  { dest := BitVec.ofNat 20 e.2, src := src, stid := ⟨bits e.2 36 3, Nat.mod_lt _ (by decide)⟩, cls := BitVec.ofNat 4 (bits e.2 45 4),
    chan := BitVec.ofNat 6 (bits e.2 39 6), tmd := true, anti := true, vrt := BitVec.ofNat 48 (jVrt e),
    seq := BitVec.ofNat 16 (bits e.2 20 16), pay := [0] }
/-- The message of a start entry, by its key. -/
def startKey (e : Nat × Nat) : Pkt :=
  { src := BitVec.ofNat 20 e.2, seq := BitVec.ofNat 16 (bits e.2 20 16), stid := ⟨bits e.2 36 3, Nat.mod_lt _ (by decide)⟩,
    chan := BitVec.ofNat 6 (bits e.2 39 6) }
/-- The newest entry leaves the ring. -/
def State.jPop (s : State) : State := modFocus s (·.modTim fun x => { x with jused := x.jused - 1 })
/-- One entry is undone (R332); the anti-message of a send entry that software has overwritten stays in its partition (R4). -/
def State.undo (s : State) (e : Nat × Nat) : State :=
  let s := s.jPop
  if jKind e = 0 then s.padStore (8 * bits e.1 3 12) 8 e.2
  else if jKind e = 2 then
    modFocus (s.sendOrPost (antiOf s.cell.name e)) (·.modTim fun x => { x with antis := satInc x.antis })
  else if jKind e = 1 then
    let bad := match s.cell.tqOf (startKey e) true with
      | some q => (match q.slot with | some i => s.cell.partBad (s.cell.tqAt i + 7) 1 | none => false)
      | none => false
    let s := modFocus s (·.setDone (startKey e) true false)
    if bad then s.eccEvent else s
  else s
/-- The start entry that a rollback is marked with. -/
def Rollback.isMark (r : Rollback) (e : Nat × Nat) : Bool := jKind e == 1 && (match r.mark with | some w => e.2 == w.toNat | none => false)
/-- How many of the newest entries a rollback undoes, of those read, the newest first: down to the oldest start above its target, or to its
mark (R332, R333). -/
def Rollback.undone (r : Rollback) (l : List (Nat × Nat)) : Nat :=
  ((l.zip (List.range l.length)).filter fun x => r.isMark x.1 || (jKind x.1 == 1 && decide (r.v.toNat < jVrt x.1))).foldl (fun m x => Nat.max m (x.2 + 1)) 0
/-- The entry read last is a start that stays: nothing older is undone. -/
def Rollback.shows (r : Rollback) (l : List (Nat × Nat)) : Bool :=
  (match l.getLast? with | some e => jKind e == 1 && !r.isMark e && decide (jVrt e ≤ r.v.toNat) | none => false) &&
    (r.mark.isNone || l.any r.isMark)
/-- The journal is read to find what a rollback leaves, and the LVT at its end: the VRT of the newest start that stays, or GVT. -/
def State.rollScan (s : State) (r : Rollback) : State × Nat × BitVec 48 :=
  let n := s.cell.tim.jused
  let x := s.jDown r.shows n []
  let u := r.undone x.2
  (x.1, n - u, match (x.2.drop u).find? fun e => jKind e == 1 with | some e => BitVec.ofNat 48 (jVrt e) | none => s.cell.tim.gvt)
/-- The rollback ends: LVT, the pair to annihilate, and the anti-messages that waited (R332, R333). -/
def Cell.rollEnd (c : Cell) (r : Rollback) (lvt : BitVec 48) : Cell :=
  let c := c.modTim fun x => { x with lvt := lvt, rbk := none }
  let c := match r.post with | some x => c.annihilate x.1 | none => c
  c.matchWaiting c.tim.antiw
/-- The newest entry is undone, or the rollback ends. -/
def State.rollTail (s : State) (r : Rollback) (keep : Nat) (lvt : BitVec 48) : State :=
  if keep < s.cell.tim.jused then
    let x := s.jRead (s.cell.tim.jused - 1)
    x.1.undo x.2
  else modFocus s (·.rollEnd r lvt)
/-- A step of a rollback that leaves `keep` entries: end the handler it undoes, whose start is the newest; else undo the newest entry, else
finish (R332). -/
def State.rollOn (s : State) (r : Rollback) (keep : Nat) (lvt : BitVec 48) : State :=
  match s.cell.tim.run with
  | some x =>
    if !x.unj && decide (keep < s.cell.tim.jused) then
      match (s.cell.th x.t).wait with
      | .finish (.kill _) => s
      | _ => (s.modTh x.t Thread.deposited).endWith x.t (.kill false)
    else s.rollTail r keep lvt
  | none => s.rollTail r keep lvt
/-- One step of a rollback; the first reads the journal (R332). -/
def State.rollStep (s : State) : State :=
  match s.cell.tim.rbk with
  | none => s
  | some r =>
    match r.keep with
    | some k => s.rollOn r k.1 k.2
    | none =>
      let x := s.rollScan r
      let r := { r with keep := some x.2 }
      (modFocus x.1 (·.modTim fun t => { t with rbk := some r })).rollOn r x.2.1 x.2.2

/-! ### Entry and anti-messages (R326, R332, R333) -/

/-- The message at the head of the ingress buffer enters the queue; a straggler starts a rollback (R332). -/
def Cell.enterQueue (c : Cell) (p : Pkt) (slot : Option Nat) : Cell :=
  let e : TqEnt := { p := p, done := false, slot := slot }
  let c := ({ c with inbox := { c.inbox with ibuf := c.inbox.ibuf.drop 1 } } : Cell).modTim fun x => { x with tq := x.tq ++ [e] }
  let c := c.tqImage e
  if p.vrt.toNat < c.tim.lvt.toNat then c.modTim (·.rollTo { v := p.vrt }) else c
/-- The head of the ingress buffer, if it is a timed message of a timed channel and the queue has room. -/
def Cell.mayEnter (c : Cell) : Option (Pkt × Option Nat) :=
  match c.inbox.ibuf with
  | [] => none
  | p :: _ =>
    if c.usable p.chan.toNat && hTimed (c.hword p.chan.toNat) && p.tmd then c.tqFree.map fun q => (p, q) else none
/-- TIMED_QUEUE_ENTRY (R326): a timed message enters the queue; while a rollback is in progress, either that or the
rollback's next step. -/
def execTimedQueueEntry (c : Name) (s : State) : Answer :=
  .next (within s c.toNat fun s =>
    match (if s.heldAt c.toNat then none else s.cell.mayEnter) with
    | some (p, q) => if s.cell.tim.rbk.isSome && choose s 2 == 0 then s.rollStep else modFocus s (·.enterQueue p q)
    | none => s.rollStep)
/-- ANTI_MESSAGE_ARRIVAL (R333): the `k`-th packet, an anti-message; it waits out a rollback (R332). -/
def execAntiMessageArrival (k : Nat) (s : State) : Answer :=
  .next (match s.ready k [0] with
    | none => s
    | some f =>
      if !f.p.anti || s.heldAt f.p.dest.toNat then s
      else within (s.dropFlight k) f.p.dest.toNat fun s =>
        let s := modFocus s fun c =>
          let c := c.modTim (·.received f.p)
          if c.tim.rbk.isSome then c.modTim fun x => { x with antiw := x.antiw ++ [f.p] } else c.matchAnti f.p
        (s.ackFrom f).applied f)

/-! ### GVT (R335–R338) -/

/-- LMIN (R335); the anti-message whose own rollback is in progress waits for its end too (R333). -/
def Cell.lmin (c : Cell) : Nat :=
  let l := (match c.tim.run with | some r => [r.vrt.toNat] | none => []) ++
    ((c.tim.tq.filter fun e => !e.done).map fun e => e.p.vrt.toNat) ++
    ((c.inbox.ibuf.filter fun p => p.tmd).map fun p => p.vrt.toNat) ++
    (c.tim.antiw.map fun p => p.vrt.toNat) ++ (match c.tim.rbk.bind (·.post) with | some x => [x.2.vrt.toNat] | none => [])
  l.foldl Nat.min (2 ^ 48 - 1)
/-- SC less RC of a colour (R336). -/
def Timed.balance (x : Timed) (old : Bool) : W64 := if old then x.sc1 - x.rc1 else x.sc0 - x.rc0
/-- A computation begins: START goes to every cell of the partition (R336). -/
def State.gvtBegin (s : State) (p : Nat) (final : Bool) : State :=
  let cells := partCells s p
  modPart s p fun q => { q with gvtReq := false, gvtN := q.gvtN + 1, gvt := some { n := q.gvtN + 1, left := cells, final := final } }
/-- GVT computations run in this load, and none is in progress (R336, R337). -/
def Part.gvtFree (q : Part) : Bool := q.timed && q.gvt.isNone && q.loaded && !q.paused && q.token.isNone && q.preempt.isNone
/-- The first of `k` names from `n` upward that a live cell holds. -/
def firstName (s : State) (n : Nat) : Nat → Option Nat
  | 0 => none
  | k + 1 => if isName s n then some n else firstName s (n + 1) k
/-- The partition root: its lowest name (R284). -/
def partRoot (s : State) (p : Nat) : Option Nat :=
  match part s p with
  | none => none
  | some x => ((List.range s.dieMap.length).filter fun l => x.dies.contains ((s.dieMap[l]?).getD 64)).findSome? fun l => firstName s (l * 16384) 16384
/-- The partition root is in a tumbler that holds. -/
def State.rootMoves (s : State) (p : Nat) : Bool := match partRoot s p with | some n => s.heldAt n | none => false
/-- What passes over tree 0 between a cell and the partition root is held at the boundary of a tumbler: the cell moves, or the root does
(R301, R342; assumption 45). -/
def State.rootHeld (s : State) (p n : Nat) : Bool :=
  s.heldAt n || (match partRoot s p with | some r => !s.crosses n r | none => false)
/-- The time of the partition root's die. -/
def State.rootTime (s : State) (p : Nat) : W64 := match partRoot s p with | some n => cycleOf s n | none => 0
/-- GINT at the partition root (Table 14.2). -/
def State.gint (s : State) (p : Nat) : Nat :=
  match partRoot s p with | some n => bits (Sp.get (getCell s n).plane.live 4).toNat 18 5 | none => 0
/-- GVT_INTERVAL (R337): 2^GINT cycles of the root's die since the last computation ended. -/
def execGvtInterval (p : PartIdx) (s : State) : Answer :=
  .next (match part s p.toNat with
    | none => s
    | some q =>
      if q.gvtFree && s.gint p.toNat != 0 && decide (2 ^ s.gint p.toNat ≤ (s.rootTime p.toNat - q.gvtEnd).toNat) then s.gvtBegin p.toNat false else s)
/-- A cell whose journal is full, or whose timed message waits for queue room (R337). A journal of no entries counts as full while a
timed message or handler of the cell could use it (assumption 85). -/
def Cell.wantsGvt (c : Cell) : Bool :=
  (decide (c.jLen ≤ c.tim.jused) && (decide (0 < c.jLen) || c.nextTimed.isSome || c.tim.run.isSome)) ||
    match c.inbox.ibuf with | p :: _ => c.usable p.chan.toNat && hTimed (c.hword p.chan.toNat) && p.tmd && c.tqFree.isNone | [] => false
/-- GVT_REQUEST (R337): while a computation is in progress the request waits for its end. -/
def execGvtRequest (c : Name) (s : State) : Answer :=
  .next (
    let p := (partOfName s c.toNat).getD 64
    match part s p with
    | none => s
    | some q =>
      if !(getCell s c.toNat).wantsGvt || !q.timed || s.rootHeld p c.toNat then s
      else if q.gvtFree then s.gvtBegin p false else modPart s p fun q => { q with gvtReq := true })
/-- START at a cell, and its contribution to the pass under way (R336). -/
def Timed.started (x : Timed) (n : Nat) : Timed := { x with col := n % 2 == 1, rmin := BitVec.ofNat 48 (2 ^ 48 - 1) }
/-- GVT_START (R336): START(n), or a further pass of it, reaches a cell, which contributes; one for a cell of a tumbler that moves is
held at the boundary (R342). -/
def execGvtStart (c : Name) (s : State) : Answer :=
  .next (
    let p := (partOfName s c.toNat).getD 64
    match (part s p).bind (·.gvt) with
    | none => s
    | some g =>
      if !g.left.contains c.toNat || s.rootHeld p c.toNat then s
      else
        let s := if g.first then modCell s c.toNat (·.modTim (·.started g.n)) else s
        let x := getCell s c.toNat
        let m := Nat.min x.lmin x.tim.rmin.toNat
        let g' := { g with left := g.left.filter (· != c.toNat), min := BitVec.ofNat 48 (Nat.min g.min.toNat m),
                           sum := g.sum + x.tim.balance (g.n % 2 == 0) }
        modPart s p fun q => { q with gvt := some g' })
/-- GVT_PASS_RESULT (R336): with messages of the old colour on their way another pass, else COMMIT; the final computation
commits everything (R341). -/
def execGvtPassResult (p : PartIdx) (s : State) : Answer :=
  .next (match (part s p.toNat).bind (·.gvt) with
    | none => s
    | some g =>
      if !g.left.isEmpty || g.commit.isSome || s.rootMoves p.toNat then s
      else
        let cells := partCells s p.toNat
        let g' : GvtRun :=
          if g.sum ≠ 0 then { g with left := cells, first := false, min := BitVec.ofNat 48 (2 ^ 48 - 1), sum := 0 }
          else { g with commit := some (if g.final then BitVec.ofNat 48 (2 ^ 48 - 1) else g.min), todo := cells }
        modPart s p.toNat fun q => { q with gvt := some g' })

/-! ### Commit (R338) -/

/-- The messages of the defer pairs among some entries, in order (R345). -/
def deferred (src : Name) : List (Nat × Nat) → List Pkt
  | d :: t :: r =>
    if jKind d = 3 ∧ jKind t = 4 then
      deferMsg src ⟨bits t.2 36 3, Nat.mod_lt _ (by decide)⟩ (BitVec.ofNat 20 t.2) (BitVec.ofNat 6 (bits t.2 20 6))
        (BitVec.ofNat 6 (bits t.2 26 6)) (BitVec.ofNat 4 (bits t.2 32 4)) (BitVec.ofNat 16 (bits t.2 39 16)) (BitVec.ofNat 64 d.2) :: deferred src r
    else deferred src (t :: r)
  | _ => []
/-- The channel 58 payload (R338). -/
def commitEvent (g : BitVec 48) (epoch : BitVec 16) (reclaimed released : Nat) : V256 :=
  ofLanes (epoch ++ g) (BitVec.ofNat 64 (Nat.min reclaimed 0xFFFF + 2 ^ 16 * Nat.min released 0xFFFF))
/-- The channel 58 event is raised, or merged into the one in the latch (R83). -/
def State.raiseCommit (s : State) (g : BitVec 48) (epoch : BitVec 16) (reclaimed released : Nat) : State :=
  let is58 (p : Pkt) : Bool := p.loc && p.chan == 58
  match s.cell.inbox.latches.find? is58 with
  | none => s.raise 58 (commitEvent g epoch reclaimed released)
  | some p =>
    let l1 := (lane1 (p.pay.headD 0)).toNat
    let v := commitEvent g epoch (bits l1 0 16 + reclaimed) (bits l1 16 16 + released)
    s.modInbox fun i => { i with latches := i.latches.map fun q => if is58 q then { q with pay := [v] } else q }
/-- A running handler that the commit passes: it is unjournaled from now on (R331), and a held fault is posted (R340). -/
def State.releaseRun (s : State) (g : BitVec 48) : State :=
  match s.cell.tim.run with
  | none => s
  | some r =>
    if g.toNat < r.vrt.toNat then s
    else
      let s := modFocus s (·.modTim fun x => { x with run := some { r with unj := true, held := false } })
      if r.held then modFocus (s.raise 62 ((s.cell.th r.t).record.event r.t)) (·.stopFault) else s
/-- COMMIT(n, G) at the cell in hand: R338's steps in order, and how many defer pairs it released. -/
def State.commit (s : State) (n : Nat) (g : BitVec 48) : State × Nat :=
  let epoch := BitVec.ofNat 16 n
  let s := modFocus s (·.modTim fun x => { x with gvt := g, gepoch := epoch, lvt := if x.lvt.toNat < g.toNat then g else x.lvt })
  let x := s.jWalk g.toNat s.cell.tim.jused 0 []
  let k := x.2.length
  let s := x.1
  let ms := deferred s.cell.name x.2
  let jh := (s.cell.tim.jhead + k) % Nat.max 1 s.cell.jLen
  let s := modFocus s (·.modTim fun x => { x with jhead := jh, jused := x.jused - k })
  let s := ms.foldl State.sendOrPost s
  let s := modFocus s (·.modTim fun x => { x with tq := x.tq.filter fun e =>
    !(e.done && decide (e.p.vrt.toNat < g.toNat) && !(match x.run with | some r => r.p.sameMsg e.p | none => false)) })
  let s := s.releaseRun g
  (s.raiseCommit g epoch k ms.length, ms.length)
/-- GVT_COMMIT (R338): COMMIT passes a cell; with the last one the computation ends, and a request that waited starts the
next (R336, R341). A rollback in progress goes first; one for a cell of a tumbler that moves is held at the boundary (R342). -/
def execGvtCommit (c : Name) (s : State) : Answer :=
  .next (
    let p := (partOfName s c.toNat).getD 64
    match (part s p).bind (·.gvt) with
    | none => s
    | some g =>
      match g.commit with
      | none => s
      | some v =>
        if !g.todo.contains c.toNat || (getCell s c.toNat).tim.rbk.isSome || s.rootHeld p c.toNat then s
        else
          let r := (focus s c.toNat).commit g.n v
          let s := focus r.1 s.cur
          let g' := { g with todo := g.todo.filter (· != c.toNat), released := g.released || decide (0 < r.2) }
          if !g'.todo.isEmpty then modPart s p fun q => { q with gvt := some g' }
          else
            let again := g.final && g'.released
            let s := modPart s p fun q =>
              { q with gvt := none, gvtEnd := s.rootTime p, finalDone := g.final && !again,
                       wave := if again then none else q.wave, lastTot := if again then none else q.lastTot }
            match part s p with
            | some q => if q.gvtReq && q.gvtFree then s.gvtBegin p false else s
            | none => s)

end Sys2Proof.Machine
end

