-- ==== Sys2Proof/Machine/Islands.lean ====
section
/-! DEFINITION. Voltage islands and clock spines (R346–R349): the limit of Table 15.1, and what follows a change of an island or of a
cell's spine selection. -/

namespace Sys2Proof.Machine

/-! ### Islands and spines (R346–R348) -/

/-- Highest spine frequency at an island voltage in units of 10 mV, MHz: Table 15.1, linear between its rows. -/
def limitMhz (v : Nat) : Nat :=
  if v ≤ 35 then 450 + 60 * (v - 30) else if v ≤ 40 then 750 + 50 * (v - 35) else if v ≤ 45 then 1000 + 30 * (v - 40)
  else if v ≤ 50 then 1150 + 30 * (v - 45) else 1300 + 20 * (v - 50)
/-- An island of a die (R346). -/
def State.island (s : State) (die : Nat) (east : Bool) : Island := (KM.get s.islands (islandKey die east)).getD {}
/-- Write it. -/
def State.setIsland (s : State) (die : Nat) (east : Bool) (x : Island) : State :=
  { s with islands := KM.put s.islands (islandKey die east) x }
/-- In Run or Slow. -/
def Island.isAwake (x : Island) : Bool := x.st == .run || x.st == .slow
/-- SPINE of a cell in force (R347). -/
def Cell.spine (c : Cell) : Nat := bits (Sp.get c.plane.live 5).toNat 0 3
/-- Some tile of an island selects a spine (R347); a cell that is not listed selects spine 0. -/
def State.feeds (s : State) (die k : Nat) (east : Bool) : Bool :=
  (List.range 128).any fun row => (List.range 64).any fun c =>
    match nameAt s ⟨die, row, c + 64 * bit east⟩ with
    | some n => (getCell s n).spine == k
    | none => false
/-- The limit of a spine: the range of R346, and Table 15.1 for each island it feeds, at the voltage asked for, which the island has when it
is awake (R346, R348). -/
def State.spineLimit (s : State) (die k : Nat) : Nat :=
  [false, true].foldl (fun m e => if s.feeds die k e then Nat.min m (limitMhz (s.island die e).want.toNat) else m) 1400
/-- Slow where the island is below 0.40 V or a spine that feeds it below 1.00 GHz, else Run (Table 15.2). -/
def State.runState (s : State) (die : Nat) (east : Bool) : PowerState :=
  if (s.island die east).volt.toNat < 40 ∨ ((List.range 8).any fun k => decide (spineMhz s die k < 1000) && s.feeds die k east) then .slow
  else .run
/-- A requested island voltage, clamped to its range; 0 leaves it (R346, Table 17.2). -/
def State.setVolt (s : State) (die : Nat) (east : Bool) (v : Nat) : State :=
  if v = 0 then s
  else
    let x := s.island die east
    let w := BitVec.ofNat 8 (Nat.max 30 (Nat.min 55 v))
    s.setIsland die east { x with want := w, volt := if x.isAwake then w else x.volt }
/-- An awake island's state follows its voltage and spines. -/
def State.settleIsland (s : State) (die : Nat) (east : Bool) : State :=
  let x := s.island die east
  if x.isAwake then s.setIsland die east { x with st := s.runState die east } else s
/-- Every spine of a die is within the limits of the islands that it feeds (R346, R348). -/
def State.clampSpines (s : State) (die : Nat) : State :=
  (List.range 8).foldl (fun s k =>
    if s.spineLimit die k < spineMhz s die k then { s with spines := KM.put s.spines (die * 8 + k) (s.spineLimit die k) } else s) s
/-- An island comes back to its voltage, in Run or Slow; the spines that feed it are first lowered to its limit: cells that Gated has
cleared select spine 0 (R207, R348, R349, R351). -/
def State.wakeIsland (s : State) (die : Nat) (east : Bool) : State :=
  let x := s.island die east
  if x.isAwake then s
  else (((s.setIsland die east { x with volt := x.want, st := .run }).clampSpines die).settleIsland die false).settleIsland die true
/-- A read by a host port or the controller raises an island from Retain to Run (R352), which is at 0.40 V or more (Table 15.2;
assumption 88). -/
def State.raiseToRun (s : State) (die : Nat) (east : Bool) : State :=
  let x := s.island die east
  if x.st = .retain then
    let v : BitVec 8 := if x.want.toNat < 40 then 40 else x.want
    s.setIsland die east { volt := v, want := v, st := .run }
  else s
/-- A cell's SPINE selection has changed from `old`: the spine it now takes is clamped under Table 15.1 for the cell's island, and the
state of every island that it feeds follows (R348, R349). -/
def State.reselect (s : State) (n old : Nat) : State :=
  match curPos s n with
  | none => s
  | some q =>
    let k := (getCell s n).spine
    let east := decide (64 ≤ q.col)
    if k = old then s
    else
      let f := Nat.min (spineMhz s q.die k) (limitMhz (s.island q.die east).want.toNat)
      (({ s with spines := KM.put s.spines (q.die * 8 + k) f } : State).settleIsland q.die false).settleIsland q.die true

end Sys2Proof.Machine
end

