-- ==== Sys2Proof/Machine/Rounds.lean ====
section
/-! DEFINITION. Rounds (R37–R45, R59, R87–R89, R102, R341, R382, R408): when a cell is done, completion waves, the round-end
token and start commands, what a round start resets, and the reports of round ends. -/

namespace Sys2Proof.Machine

/-! ### Reports (R382) -/

/-- The register file of a port. -/
def State.port (s : State) (q : Port) : PortSt := match q with | .a => s.portA | .b => s.portB
/-- Change it. -/
def State.modPort (s : State) (q : Port) (f : PortSt → PortSt) : State :=
  match q with | .a => { s with portA := f s.portA } | .b => { s with portB := f s.portB }
/-- What a report says: code, partition, round, failing image word, and the fault with its cell and thread. -/
structure Report where
  code  : Nat
  part  : Nat
  round : Nat := 0
  word  : Nat := 0
  name  : Nat := 0
  t     : Nat := 0
  rec_  : Option FaultRec := none
  deriving DecidableEq, Repr
/-- REPORT (R382). -/
def Report.word256 (r : Report) : V256 :=
  let f (g : FaultRec → Nat) : Nat := match r.rec_ with | some x => g x | none => 0
  BitVec.ofNat 256 (r.code % 256 + 2 ^ 8 * (r.part % 64) + 2 ^ 16 * (r.round % 2 ^ 16) + 2 ^ 32 * (r.word % 2 ^ 32) +
    2 ^ 64 * (r.name % 2 ^ 32) + 2 ^ 96 * (r.t % 256) + 2 ^ 104 * f (·.cause.toNat) + 2 ^ 112 * f (·.info.toNat) +
    2 ^ 128 * f (·.fpc.toNat) + 2 ^ 192 * f (·.faddr.toNat))
/-- An unasked report on the port that launched a partition, with vector 1 (R382). -/
def State.reportTo1 (s : State) (q : Port) (r : Report) : State :=
  s.modPort q fun x => { x with report := r.word256, msix := x.msix ++ [1] }

/-! ### When a cell is done (R87) -/

/-- The timed input queue is empty for R87 (R341). -/
def Timed.quiet (x : Timed) : Bool :=
  x.rbk.isNone && x.antiw.isEmpty && (x.tq.all (·.done)) && (match x.run with | some r => !r.held | none => true)
/-- No contribution stands in the reduction unit: the output buffer, the slots, the partials that wait to go up (R302). -/
def Reduce.still (r : Reduce) : Bool := r.buf.isNone && r.slots.isEmpty && r.upq.isEmpty
/-- The engines of the cell in hand have drained (R87, R225, R233, R238, R251, R258, R277, R302). -/
def State.drained (s : State) : Bool :=
  let c := s.cell
  c.eng.ents.toList.all Option.isNone && c.eng.recs.toList.all Option.isNone &&
    (c.eng.strm.toList.all fun x => !(x.bound && x.isWrite && !x.err) || x.buf.isEmpty) &&
    c.mx.queue.isEmpty && c.mx.leaseQ.isEmpty && c.mx.torOut.toList.all (!·) &&
    c.red.still &&
    c.msg.egress.isEmpty && c.msg.busy.isEmpty && c.msg.posted.isEmpty && c.land.toList.all (fun l => !l.latch) && !s.circuitsBusy
/-- A thread has nothing more to do in the round (R87). -/
def Cell.threadsDone (c : Cell) : Bool :=
  (c.th 0).st == .stopped && micro.all fun t => (c.th t).st == .stopped || (c.th t).st == .free
/-- The cell in hand is done (R87); one that holds no load counts as done (R408), but for the slots it hosts (R302; assumption 115). An event raised in a pause waits in its latch for the
next round (R59, R83; assumption 102). -/
def State.cellDone (s : State) : Bool :=
  (!s.cell.plane.loaded && s.cell.red.still) || (s.cell.threadsDone && s.cell.inbox.occ == 0 && s.cell.inbox.dep.isEmpty && s.cell.inbox.ibuf.isEmpty && s.cell.inbox.rbuf.isEmpty &&
    (s.cell.inbox.latches.isEmpty || s.cell.pausing) && s.cell.tim.quiet && s.drained && s.cell.lead.isNone)
/-- A named cell is done. -/
def State.doneAt (s : State) (n : Nat) : Bool := (focus s n).cellDone
/-- The partition of S-plane traffic. -/
def SMsg.part : SMsg → PartIdx
  | .contrib p _ _ _ => p
  | .credit p _ _ => p
  | .result p _ _ => p
  | .writing p _ _ _ => p
  | .relCount p _ _ _ _ => p
  | .relStart p _ _ _ => p
  | .relRepair p _ _ _ _ _ => p
  | .srcCount p _ _ => p
  | .srcStart p _ => p
  | .srcRepair p _ _ _ => p
  | .crossing _ m => m.part
/-- The cell that waits. -/
def Waiter.cell : Waiter → Nat | .copy c _ => c.toNat | .stream c _ => c.toNat | .atom c _ _ => c.toNat
/-- Whether C-plane traffic is a partition's. -/
def CMsg.inPart (s : State) (p : Nat) : CMsg → Bool
  | .torus src _ _ _ => dieInPart s src.toNat p
  | .granule q _ _ _ => q.toNat == p
  | .ask a => dieInPart s a.who.cell p
  | .answer a _ => dieInPart s a.who.cell p
  | .crossing _ m => m.inPart s p
/-- A held packet is a partition's. -/
def Held.inPart (s : State) (p : Nat) : Held → Bool | .m f => f.inPart s p | .s _ y => y.part.toNat == p | .c _ y => y.inPart s p
/-- Everything in a partition has settled: every cell is done, and nothing of it is in the network (R88, R302, R312, R322). -/
def State.settled (s : State) (p : Nat) : Bool :=
  (partCells s p).all s.doneAt && s.mnet.all (fun f => !f.inPart s p) && s.snet.all (fun m => m.part.toNat != p) &&
    s.cnet.all (fun m => !m.inPart s p) &&
    s.causal.all fun u => u.2.hold.all fun h => !h.inPart s p
/-- A partition is in a round: no token on its way, not paused, not being pre-empted. -/
def Part.running (q : Part) : Bool := q.loaded && !q.paused && q.token.isNone && q.preempt.isNone

/-! ### What a round start sets (R59, R102) -/

/-- A thread's control state at a round start (R59). -/
def Thread.atStart (x : Thread) (t : TIdx) (b : Bank) : Thread :=
  { x with st := if t = 0 then .running else .free, wait := .none, wmark := false, pc := if t = 0 then b.entry else x.pc,
           lvl := if t = 0 then b.lprio else x.lvl, p := 0, pp := false, pfx := 0, lp0 := {}, lp1 := {}, inh := false, inb := false,
           tmd := false, outs := [], deferred := none, yielded := false }
/-- A thread after a SWAP (R102, R109, R140, R253, R368). -/
def Thread.swapped (x : Thread) (t : TIdx) (n : Name) : Thread :=
  { x.cleared t n with sseq := 0, fcause := 0, fpc := 0, faddr := 0, ftid := BitVec.ofNat 3 t.val }
/-- What every round start resets in timed mode (R327). -/
def Timed.newRound (x : Timed) : Timed :=
  { x with lvt := 0, gvt := 0, gepoch := 0, jhead := 0, jused := 0, tq := [], run := none, rbk := none, antiw := [], col := false,
           sc0 := 0, sc1 := 0, rc0 := 0, rc1 := 0, rmin := BitVec.ofNat 48 (2 ^ 48 - 1) }
/-- What a SWAP clears there (R324). -/
def Timed.swapped (x : Timed) : Timed := { x with jhwm := 0, jpages := 0, rolls := 0, antis := 0, annih := 0, orph := 0 }
/-- What every round start resets in a cell: threads, leases (R181), arrivals and their counters (R59), reduction (R302), timed
state (R327); configuration words take effect (R45). -/
def Cell.newRound (c : Cell) : Cell :=
  { c with thr := Vector.ofFn fun t => (c.th t).atStart t c.plane.active,
           plane := { c.plane with live := c.plane.cfg, inRound := true, shadow := c.plane.active.consts, cstage := false },
           mx := { c.mx with owner := Vector.replicate 4 none, leaving := Vector.replicate 4 false },
           inbox := { c.inbox with occ := 0, ibuf := [], rbuf := [], sent := 0, recv := 0 },
           red := { drop := c.red.drop, tout := c.red.tout }, tim := c.tim.newRound }
/-- What a round start resets in a cell that holds no load: the counters of R89 (R408), its reduction state (R302) and its timed
state (R327); a SWAP the counters of R303 and R324 and the circuits (R256) too. -/
def Cell.passedBy (c : Cell) (swap : Bool) : Cell :=
  { c with inbox := { c.inbox with sent := 0, recv := 0 },
           red := if swap then {} else { drop := c.red.drop, tout := c.red.tout },
           tim := if swap then c.tim.newRound.swapped else c.tim.newRound,
           msg := if swap then { c.msg with circ := [] } else c.msg }
/-- What a SWAP clears in a cell: registers (R102), tiles (R178), MLCAP and MSTEP (R184, R202), the counters of R85, R214, R225,
R254, R303, R324 and R368, CLMASK (R250), barriers (R230), watermarks (R216) and circuits (R256). -/
def Cell.swapClears (c : Cell) : Cell :=
  { c with thr := Vector.ofFn fun t => (c.th t).swapped t c.name,
           mx := { c.mx with tiles := Vector.replicate 4 [], mlcap := 0x924924, hstep := 0, vstep := 0 },
           inbox := { c.inbox with head := 0, hwm := 0, refused := 0, nohdl := 0, spilled := 0 },
           pad := { c.pad with corr := 0, uncorr := 0 },
           red := { c.red with drop := 0, tout := 0 },
           eng := { c.eng with errs := 0, bars := Vector.replicate 16 {}, wm := Vector.replicate 8 {} },
           msg := { c.msg with merr := 0, clmask := 0, circ := [] },
           tim := c.tim.swapped, flt := 0, lost61 := 0 }

/-! ### The round actions (Table 02.2) -/

/-- A kept write meets the word as it stands (R45); its merge is no checked read, and a word with an uncorrectable error stays so,
unreported (R211; assumption 117). -/
def Cell.applyKept (c : Cell) (k : KeptWrite) : Cell :=
  if k.pad then c.store (4 * k.off) 4 (insBits (BitVec.ofNat 32 (c.bytes (4 * k.off) 4) : W32) k.lsb k.width k.val.toNat).toNat
  else { c with plane := { c.plane with cfg := Sp.set c.plane.cfg k.off (insBits (Sp.get c.plane.cfg k.off) k.lsb k.width k.val.toNat) } }
/-- Staged constants are copied into the active bank (R41). -/
def Plane.takeStaged (p : Plane) : Plane :=
  if p.cstage then { p.setActive { p.active with consts := p.shadow } with cstage := false } else p
/-- The banks exchange roles; the former active bank becomes EMPTY and is cleared (R38, R39). -/
def Plane.exchange (p : Plane) : Plane :=
  { p with act := !p.act, idle := .empty, ended := false, clearing := true, round := 0, cstage := false, loaded := true }
/-- Stream bindings end as the token passes (R241). -/
def Cell.endBindings (c : Cell) : Cell := { c with eng := { c.eng with strm := c.eng.strm.map Stream.unbound } }
/-- REPEAT at a cell. -/
def Cell.doRepeat (c : Cell) : Cell :=
  let c := c.endBindings
  ({ c with plane := { c.plane.takeStaged with round := c.plane.round + 1 } } : Cell).newRound
/-- SWAP at a cell whose idle bank is READY: the kept writes apply in the order of the image, before the lead issues (R45). -/
def Cell.doSwap (c : Cell) : Cell :=
  let c := c.endBindings
  let c := c.plane.kept.foldl Cell.applyKept { c with plane := { c.plane with kept := [] } }
  (({ c with plane := c.plane.exchange } : Cell).swapClears).newRound
/-- PAUSE at a cell. -/
def Cell.doPause (c : Cell) : Cell :=
  let c := c.endBindings
  { c with plane := { c.plane.takeStaged with inRound := false } }

/-- Landing slots at a round start, the counts of all of them at zero (R272, R273), and the member's START (R276). -/
def State.armSlots (s : State) : State :=
  let s := slots.foldl (fun s n =>
    if s.cell.slotV n then
      modFocus s fun c => (c.openSlot n (s.slotBytes (c.slotKey n))).modSlot n fun _ => { armed := true, blk := c.slotG n }
    else s) (modFocus s fun c => { c with land := Vector.replicate 8 {} })
  (((slots.filter s.cell.slotV).map s.cell.slotKey).eraseDups).foldl (fun s key =>
    match s.reportTo key with
    | some (node, child) => s.sput (.relStart s.cell.part key node child)
    | none => s) s

/-! ### The token (R39, R88) -/

/-- Number of a drop ring: tile and ring (R267). -/
def ringId (t : Nat × Nat × Nat × Bool × W64) : Nat := ((t.1 * 16 + t.2.2.1) * 16 + t.2.1) * 2 + bit t.2.2.2.1
/-- The rings that a load names. -/
def Globals.ringIds (g : Globals) : List Nat := (g.keys.flatMap fun k => k.2.tiles.map ringId).eraseDups
/-- The logical dies of a partition. -/
def Part.logDies (q : Part) (s : State) : List Nat := q.dies.filterMap (logDie s)
/-- The new load's structures take over at the first cell that a SWAP passes: keyring, trees, buckets, circuits and plans
(R256, R268, R284, R286), rings to retune (R267), causal vectors at zero (R317). -/
def State.installLoad (s : State) (p : Nat) : State :=
  match part s p with
  | none => s
  | some q =>
    if !q.swapDue then s
    else
      let g := q.endGlobals.getD {}
      let s := modPart s p fun q =>
        { q with globals := g, endGlobals := none, nextGlobals := if q.loadOk then none else q.nextGlobals, timed := q.nextTimed, swapDue := false }
      let s := { s with rings := (s.rings.filter fun r => r.1 != p) ++ g.ringIds.map fun i => (p, i, false),
                        cacks := s.cacks.filter fun a => !(q.logDies s).contains a.1 && !(q.logDies s).contains a.2.1 }
      (q.logDies s).foldl (fun s t => setUnit s t (unitOf s t).swapped) s
/-- A cell that a SWAP brings a bank in at: it holds a load or its idle bank is READY (R39, R408). -/
def Plane.wantsSwap (p : Plane) : Bool := p.loaded || p.idle == .ready
/-- A cell can apply a SWAP now: its idle bank is READY, and an image has passed END since it was sealed, without which no round of it
starts (R39, R44). -/
def Plane.canSwap (p : Plane) : Bool := p.idle == .ready && p.ended
/-- A cell applies a SWAP and starts its round. -/
def State.swapCell (s : State) (p n : Nat) : State :=
  (within (s.installLoad p) n fun s => (modFocus s Cell.doSwap).armSlots).reselect n (getCell s n).spine
/-- The token has passed every cell (R322, R382): the round end is reported; without PAUSE the next round has started. -/
def State.tokenDone (s : State) (p : Nat) : State :=
  match part s p with
  | none => s
  | some q =>
    match q.token with
    | none => s
    | some k =>
      if !k.left.isEmpty || !k.held.isEmpty then s
      else
        let n : BitVec 16 := q.roundNo + 1
        let s := modPart s p fun q =>
          { q with token := none, paused := k.act == .pause, gvtN := 0, gvtReq := false, gvtEnd := s.rootTime p, finalDone := false,
                   roundNo := if k.act = .swap then 0 else if k.ends then n else q.roundNo }
        if k.ends then s.reportTo1 q.port { code := 0, part := p, round := n.toNat } else s
/-- The token's record changes. -/
def State.modToken (s : State) (p : Nat) (f : Token → Token) : State := modPart s p fun q => { q with token := q.token.map f }
/-- The token passes a cell (Table 02.2, R408). -/
def State.passCell (s : State) (p n : Nat) (k : Token) : State :=
  let s := s.modToken p fun k => { k with left := k.left.filter (· != n) }
  let pl := (getCell s n).plane
  match k.act with
  | .repeat_ =>
    if pl.loaded then (within s n fun s => (modFocus s Cell.doRepeat).armSlots).reselect n (getCell s n).spine
    else modCell s n (·.passedBy false)
  | .pause => if pl.loaded then modCell s n Cell.doPause else s
  | .swap =>
    if !pl.wantsSwap then modCell (s.installLoad p) n (·.passedBy true)
    else if pl.canSwap then s.swapCell p n
    else s.modToken p fun k => { k with held := n :: k.held }
/-- The tumbler of a name stands still: a token to a rotating one is held (R363). -/
def State.still (s : State) (n : Nat) : Bool := match curPos s n with | some q => !rotating s q | none => true
/-- A cell that the token may pass now: the root first, then any; done, and not moving (R39, R88, R363). -/
def State.tokenAt (s : State) (p n : Nat) : Option Token :=
  match (part s p).bind (·.token) with
  | none => none
  | some k =>
    let rootFirst := match partRoot s p with | some r => r == n || !(k.left.contains r || k.held.contains r) | none => true
    if k.left.contains n && rootFirst && s.doneAt n && s.still n then some k else none
/-- ROUND_END_TOKEN (R39): the token, or a start command, passes a cell. -/
def execRoundEndToken (c : Name) (s : State) : Answer :=
  .next (
    let p := (partOfName s c.toNat).getD 64
    match s.tokenAt p c.toNat with
    | some k => (s.passCell p c.toNat k).tokenDone p
    | none => s)
/-- HELD_SWAP_APPLY (R39, R45): a cell that holds a SWAP token applies it once its idle bank is READY. -/
def execHeldSwapApply (c : Name) (s : State) : Answer :=
  .next (
    let p := (partOfName s c.toNat).getD 64
    match (part s p).bind (·.token) with
    | none => s
    | some k =>
      if k.held.contains c.toNat && (getCell s c.toNat).plane.canSwap && s.still c.toNat then
        ((s.modToken p fun k => { k with held := k.held.filter (· != c.toNat) }).swapCell p c.toNat).tokenDone p
      else s)
/-- BANK_CLEAR (R38): the bank that left the active role takes the cleared contents. -/
def execBankClear (c : Name) (s : State) : Answer :=
  .next (modCell s c.toNat fun c =>
    if c.plane.clearing then { c with plane := { c.plane.setIdle {} with clearing := false } } else c)
/-- A token or a start command sets out to every cell that the state lists; the others hold no load, and it passes them by
(R408). What the sources have not sent is abandoned (R279). -/
def State.sendToken (s : State) (p : Nat) (act : Action) (ends : Bool) : State :=
  let cells := partCells s p
  (modPart s p fun q =>
    { q with token := some { act := act, left := cells, ends := ends }, swapDue := act == .swap, startAct := none,
             wave := none, lastTot := none, srcs := [], combs := [], count := if ends then q.count + 1 else 0,
             gvt := none, faults := [] }).tokenDone p
/-- Every island of a partition is in Run or Slow (R351). -/
def State.awake (s : State) (p : Nat) : Bool :=
  match part s p with
  | none => true
  | some q => q.dies.all fun d => [false, true].all fun e =>
      (s.island d e).isAwake
/-- START_COMMAND (R39, R351, R382): the start command of a LAUNCH, or of a ROUND after a PAUSE, sets out. -/
def execStartCommand (p : PartIdx) (s : State) : Answer :=
  .next (match part s p.toNat with
    | none => s
    | some q =>
      match q.startAct with
      | some a => if q.loaded && q.paused && q.token.isNone && q.preempt.isNone && s.awake p.toNat then s.sendToken p.toNat a false else s
      | none => s)

/-! ### Completion waves (R88, R89, R341) -/

/-- COMPLETION_WAVE_START (R88): the root is done and sends a wave. -/
def execCompletionWaveStart (p : PartIdx) (s : State) : Answer :=
  .next (match part s p.toNat, partRoot s p.toNat with
    | some q, some r =>
      if q.running && q.wave.isNone && s.doneAt r && !s.heldAt r then modPart s p.toNat fun q => { q with wave := some { left := partCells s p.toNat } }
      else s
    | _, _ => s)
/-- COMPLETION_WAVE_ANSWER (R88): a done cell adds its status word (R89); what goes over tree 0 by a cell that moves is held (R342). -/
def execCompletionWaveAnswer (c : Name) (s : State) : Answer :=
  .next (
    let p := (partOfName s c.toNat).getD 64
    match (part s p).bind (·.wave) with
    | none => s
    | some w =>
      if w.left.contains c.toNat && s.doneAt c.toNat && !s.rootHeld p c.toNat then
        let i := (getCell s c.toNat).inbox
        modPart s p fun q => { q with wave := some { left := w.left.filter (· != c.toNat), sent := w.sent + i.sent, recv := w.recv + i.recv } }
      else s)
/-- The action of the next round-end token: PAUSE after the last of ROUNDS rounds, else the action in force (R382). -/
def Part.nextAction (q : Part) : Action := if q.rounds ≠ 0 ∧ q.rounds.toNat ≤ q.count + 1 then .pause else q.action
/-- No source has a block sent but not fully landed (R279). -/
def Part.lightQuiet (q : Part) : Bool := q.srcs.all fun x => !x.2.flying
/-- COMPLETION_WAVE_RESULT (R88): two identical waves with SENT = RECV complete the round if everything has settled: the final GVT
computation in a timed load (R341), then the token; otherwise another wave, and, where something is still on its way, two more. -/
def execCompletionWaveResult (p : PartIdx) (s : State) : Answer :=
  .next (match part s p.toNat with
    | none => s
    | some q =>
      match q.wave with
      | none => s
      | some w =>
        if !w.left.isEmpty || !q.lightQuiet || q.gvt.isSome || !q.running || s.rootMoves p.toNat then s
        else if w.sent = w.recv ∧ q.lastTot = some (w.sent, w.recv) then
          if !s.settled p.toNat then modPart s p.toNat fun q => { q with wave := none, lastTot := none }
          else if q.timed && !q.finalDone then s.gvtBegin p.toNat true else s.sendToken p.toNat q.nextAction true
        else modPart s p.toNat fun q => { q with wave := none, lastTot := some (w.sent, w.recv) })

end Sys2Proof.Machine
end

