-- ==== Sys2Proof/Machine/Requests.lean ====
section
/-! DEFINITION. Requests of the host ports (R381, R382): the fields of a launch record, how a request ends, whether a partition
has one in progress, and what discarding a load, releasing a partition and beginning a pre-emption do. -/

namespace Sys2Proof.Machine

/-! ### The launch record (Table 17.2) -/

/-- Bits `lo` to `lo + n - 1` of a launch record. -/
def recBits (r : BitVec 512) (lo n : Nat) : Nat := bits r.toNat lo n
/-- OP. -/
def recOp (r : BitVec 512) : Nat := recBits r 0 8
/-- PART. -/
def recPart (r : BitVec 512) : Nat := recBits r 8 6
/-- ACTION. -/
def recAction (r : BitVec 512) : Nat := recBits r 33 2
/-- IMAGE. -/
def recImage (r : BitVec 512) : Nat := recBits r 64 64
/-- ILEN. -/
def recIlen (r : BitVec 512) : Nat := recBits r 128 32
/-- ROTP: interval in ms, threshold, enable. -/
def recRotp (r : BitVec 512) : Nat × Nat × Bool := (recBits r 256 6 + 1, recBits r 262 5, bitOf r.toNat 267)
/-- A round action by its number (Table 17.2). -/
def actionOf (n : Nat) : Action := if n = 1 then .swap else if n = 2 then .pause else .repeat_

/-! ### How a request ends (R382) -/

/-- A request of a port ends: REPORT, CODE and DONE are written, BUSY clears, vector 0 is raised. -/
def State.respond (s : State) (q : Port) (r : Report) : State :=
  s.modPort q fun x => { x with code := BitVec.ofNat 8 r.code, done := true, busy := false, pend := none, report := r.word256,
                                msix := x.msix ++ [0] }
/-- Rounds that the load of a partition has completed. -/
def State.roundOf (s : State) (p : Nat) : Nat := match part s p with | some q => q.roundNo.toNat | none => 0
/-- A request ends with a code. -/
def State.endReq (s : State) (q : Port) (p code : Nat) : State := s.respond q { code := code, part := p, round := s.roundOf p }

/-! ### Requests in progress -/

/-- A port's request that waits names a partition. -/
def PortSt.waitsOn (x : PortSt) (p : Nat) : Bool := match x.pend with | some r => recPart r == p | none => false
/-- An image of a partition is being applied, or waits for its turn. -/
def State.imageOf (s : State) (p : Nat) : Bool := s.images.any fun i => i.part.toNat == p
/-- A request of a partition that makes a NEXT answer BUSY (R382). -/
def State.reqOn (s : State) (p : Nat) : Bool :=
  s.imageOf p || s.portA.waitsOn p || s.portB.waitsOn p || (match part s p with | some q => q.preempt.isSome | none => false)
/-- A tumbler of a partition's dies is rotating (R363). -/
def State.rotatingIn (s : State) (q : Part) : Bool :=
  q.dies.any fun d => (List.range 64).any fun t => (tumbler s d t).busy

/-! ### Discarding a load (R370, R382) -/

/-- A cell whose load is discarded: as a named cell without a load, its scratchpad and configuration words as they stand
(R45, R408). -/
def Cell.unloaded (c : Cell) : Cell :=
  { name := c.name, part := c.part, mapgen := c.mapgen, pad := c.pad, drowsy := c.drowsy,
    plane := { act := c.plane.act, cfg := c.plane.cfg, live := c.plane.live } }
/-- The traffic of a partition, its walks and its shootdowns are gone. -/
def State.noTraffic (s : State) (p : Nat) : State :=
  let own (d : Nat) : Bool := partOfDie s d == some p
  { s with mnet := s.mnet.filter fun f => !f.inPart s p, snet := s.snet.filter fun m => m.part.toNat != p,
           cnet := s.cnet.filter fun m => !m.inPart s p, walks := s.walks.filter fun w => !own w.die,
           missQ := s.missQ.filter fun m => !own m.die, xlated := s.xlated.filter fun x => !own x.ent.die, shoot := s.shoot.filter fun x => x.part.toNat != p,
           causal := s.causal.filter fun u => !own ((physDie s u.1).getD 64),
           cacks := s.cacks.filter fun a => !own ((physDie s a.1).getD 64),
           rings := s.rings.filter fun r => r.1 != p }
/-- Every listed cell of a partition changes. -/
def State.modCells (s : State) (p : Nat) (f : Cell → Cell) : State := (partCells s p).foldl (fun s n => modCell s n f) s
/-- A partition without its load; what the launch record set stays. -/
def Part.unloaded (q : Part) : Part :=
  { port := q.port, dies := q.dies, sites := q.sites, debug := q.debug, action := q.action, strel := q.strel, strm := q.strm, tol := q.tol,
    ctx := q.ctx, rounds := q.rounds, rotMs := q.rotMs, rotTh := q.rotTh, rotEn := q.rotEn, metered := q.metered, thr := q.thr }
/-- The load of a partition is discarded. -/
def State.discardLoad (s : State) (p : Nat) : State :=
  let s := s.noTraffic p
  let s := s.modCells p Cell.unloaded
  modPart s p Part.unloaded
/-- A partition is no more: its dies are free and under no limit of R354, its access entries and gateways gone, its translations
invalid. -/
def State.dropPart (s : State) (p : Nat) : State :=
  let own (d : Nat) : Bool := partOfDie s d == some p
  { s with parts := KM.del s.parts p, rtu := s.rtu.filter fun e => !own e.die,
           tumblers := s.tumblers.map fun e => if own (e.1 / 64) then (e.1, { e.2 with mask := 32 }) else e,
           access := s.access.filter fun a => a.1 != p, gateways := s.gateways.filter fun g => g.part.toNat != p }

/-! ### Pre-emption begins (R370, R372) -/

/-- A pre-emption may begin: no image of the partition is being applied, no tumbler rotates, and no cell stands between the passage of a
round-end token and its next round start (R363, R372, R382). -/
def State.canPreempt (s : State) (p : Nat) (q : Part) : Bool :=
  !s.imageOf p && !s.rotatingIn q && q.token.isNone && !q.paused && q.preempt.isNone
/-- Issue and the sources stop (Table 16.4, step 1). -/
def State.beginPreempt (s : State) (p : Nat) (port : Option Port) (cause : BitVec 8) : State :=
  modPart s p fun q => { q with preempt := some { port := port, cause := cause, since := s.dieCycle } }

end Sys2Proof.Machine
end

