-- ==== Sys2Proof/Machine/Image.lean ====
section
/-! DEFINITION. The load image (R42–R45, R408): the controller applies the image at the head of `State.images` one command at a
time; each event carries the words of the command that comes next in it, and does nothing otherwise. The checks at END (R269–R271,
R276, R284–R287, R347). -/

namespace Sys2Proof.Machine

/-! ### The image in hand (R42, R44) -/

/-- Status code MALFORMED (R44). -/
def malformed : Nat := 1
/-- Status code RANGE (R44). -/
def outOfRange : Nat := 2
/-- Status code BUSY (R44, R382). -/
def busyCode : Nat := 3
/-- The image that the controller applies. -/
def State.image (s : State) : Option Image := s.images.head?
/-- Its words from the next one on. -/
def Image.rest (i : Image) : List W32 := i.words.drop i.idx
/-- Change it. -/
def State.modImage (s : State) (f : Image → Image) : State :=
  { s with images := match s.images with | i :: r => f i :: r | [] => [] }
/-- CMD of a command word. -/
def cmdOf (w : W32) : Nat := bits w.toNat 28 4
/-- The words that follow a command word (Table 02.3). -/
def cmdTail (w : W32) : Nat :=
  if cmdOf w = 1 ∨ cmdOf w = 3 then 1 else if cmdOf w = 4 ∨ cmdOf w = 6 then bits w.toNat 0 16 else 0
/-- The load of a LAUNCH is applied: cells whose idle bank is still EMPTY hold no load (R408), and the start command, a SWAP, is
due (R382). -/
def State.launched (s : State) (p : Nat) : State :=
  modPart (s.modCells p fun c => { c with plane := { c.plane with loaded := c.plane.idle != .empty } }) p fun q =>
    { q with loaded := true, startAct := some .swap }
/-- The image ends: with a failure at a word (R44), or well. -/
def State.imageOver (s : State) (i : Image) (code word : Nat) : State :=
  let p := i.part.toNat
  let s := { s with images := s.images.tail }
  let s := if code = 0 ∧ i.next = false then s.launched p else s
  s.respond i.port { code := code, part := p, round := s.roundOf p, word := word }
/-- A failure: its code and the index of its word. -/
abbrev ImgErr := Nat × Nat
/-- The image may go on: its partition is awake (R351). -/
def State.imageReady (s : State) (i : Image) : Bool := s.awake i.part.toNat
/-- A command whose words come next in the image takes effect, or ends the image (R44). -/
def State.command (s : State) (ws : List W32) (f : Image → State → Except ImgErr (Image × State)) : State :=
  match s.image with
  | none => s
  | some i =>
    if s.imageReady i && i.rest.take ws.length == ws then
      match f i s with
      | .ok (j, t) => t.modImage fun _ => { j with idx := i.idx + ws.length }
      | .error e => s.imageOver i e.1 e.2
    else s

/-! ### The span and its cells -/

/-- The names that the span selects (Table 02.3, SPAN). -/
def State.selected (s : State) (i : Image) : List Nat :=
  ((List.range (i.last.toNat + 1 - i.first.toNat)).map (i.first.toNat + ·)).filter fun n => isName s n && dieInPart s n i.part.toNat
/-- Writes to a cell are held: its bank is being cleared (R38) or its tumbler rotates (R363). -/
def State.holdsWrites (s : State) (n : Nat) : Bool := (getCell s n).plane.clearing || !s.still n

/-! ### Cell configuration words (R43) -/

/-- A configuration word that Table 02.3b defines. -/
def cfgDefined (w : Nat) : Bool := w == 0 || decide (2 ≤ w ∧ w ≤ 5) || decide (16 ≤ w ∧ w ≤ 23)
/-- The three scratchpad regions that words 0, 3 and 4 place: start and end (R78, R325). -/
def cfgRegions (w0 w3 w4 : Nat) : List (Nat × Nat) :=
  let sq := bits w0 0 16
  let j := 16 * bits w3 0 11
  let tq := 32 * bits w4 0 10
  [(sq, sq + 160 * bits w0 16 8), (j, j + 16 * bits w3 11 11), (tq, tq + 160 * bits w4 10 8)]
/-- Two regions share a byte. -/
def regionsMeet (a b : Nat × Nat) : Bool := decide (Nat.max a.1 b.1 < Nat.min a.2 b.2)
/-- A region runs past 0x7FFF, or two overlap (R78, R325). -/
def regionsBad (l : List (Nat × Nat)) : Bool :=
  l.any (fun r => decide (Config.padBytes < r.2)) ||
    match l with | [a, b, c] => regionsMeet a b || regionsMeet a c || regionsMeet b c | _ => false
/-- The value of a configuration word makes the image MALFORMED; `m` are the words as the writes before it leave them
(R43, R78, R249, R271, R325, R347). -/
def cfgBad (m : Sparse 32) (w v : Nat) : Bool :=
  let old (k : Nat) : Nat := if k = w then v else (Sp.get m k).toNat
  let regions := regionsBad (cfgRegions (old 0) (old 3) (old 4))
  if !cfgDefined w then v != 0
  else if w = 0 then bits v 24 8 != 0 || bits v 0 16 % 32 != 0 || regions
  else if w = 2 then bits v 24 8 != 0
  else if w = 3 then bits v 22 10 != 0 || regions
  else if w = 4 then bits v 23 9 != 0 || decide (1 ≤ bits v 18 5 ∧ bits v 18 5 ≤ 9) || regions
  else if w = 5 then bits v 3 29 != 0
  else bits v 24 8 != 0
/-- A write of part of a word, as a value of the word. -/
def KeptWrite.merge (k : KeptWrite) (w : W32) : W32 := insBits w k.lsb k.width k.val.toNat
/-- A write to the configuration words. -/
def KeptWrite.onCfg (m : Sparse 32) (k : KeptWrite) : Sparse 32 :=
  if k.pad || !cfgDefined k.off then m else Sp.set m k.off (k.merge (Sp.get m k.off))
/-- The configuration words as the writes taken so far leave them at the next round start (R45, R325). -/
def Cell.staged (c : Cell) : Sparse 32 := c.plane.kept.foldl KeptWrite.onCfg c.plane.cfg
/-- The index of the first of some configuration writes that fails at a cell (R43, R44). -/
def cfgFail (m : Sparse 32) (i : Nat) : List KeptWrite → Option Nat
  | [] => none
  | k :: r => if cfgBad m k.off (k.merge (Sp.get m k.off)).toNat then some i else cfgFail (KeptWrite.onCfg m k) (i + 1) r

/-! ### Writes (R38, R41, R45) -/

/-- Words of a structure (Table 02.3, SELECT); none for a reserved bank or structure. -/
def structSize (bank st : Nat) : Option Nat :=
  if bank < 2 then ([1024, 2, 128, 128] : List Nat)[st]? else if bank = 2 then ([8192, 64] : List Nat)[st]? else none
/-- A write to a structure of a bank. -/
def Bank.put (b : Bank) (st : Nat) (k : KeptWrite) : Bank :=
  let at_ (m : Sparse 32) : Sparse 32 := Sp.set m k.off (k.merge (Sp.get m k.off))
  if st = 0 then { b with code := at_ b.code }
  else if st = 1 then (if k.off = 0 then { b with hdr0 := k.merge b.hdr0 } else { b with hdr1 := k.merge b.hdr1 })
  else if st = 2 then { b with handlers := at_ b.handlers }
  else { b with consts := at_ b.consts }
/-- One word of a command at a cell: the idle bank becomes LOADING (R38); active constants of a cell in a round are staged (R41);
what reaches a cell in a round beside the banks is kept for its next SWAP (R45). -/
def Cell.imageWrite (c : Cell) (bank st : Nat) (k : KeptWrite) : Cell :=
  let p := c.plane
  if bank = 0 then { c with plane := { p.setIdle (p.idleBank.put st k) with idle := .loading } }
  else if bank = 1 then
    if st = 3 ∧ p.inRound then { c with plane := { p with shadow := Sp.set p.shadow k.off (k.merge (Sp.get p.shadow k.off)), cstage := true } }
    else { c with plane := p.setActive (p.active.put st k) }
  else if !k.pad && !cfgDefined k.off then c
  else if p.inRound then { c with plane := { p with kept := p.kept ++ [k] } }
  else c.applyKept k
/-- A header word has no reserved value and no nonzero reserved field (R9, R38, Table 02.1). -/
def hdrOk (off : Nat) (w : W32) : Bool :=
  if off = 0 then decide (bits w.toNat 12 3 ≤ 4) && bits w.toNat 15 17 == 0 else bits w.toNat 16 16 == 0
/-- Header word 0 or 1. -/
def Bank.hdr (b : Bank) (off : Nat) : W32 := if off = 0 then b.hdr0 else b.hdr1
/-- The index of the first of some writes that leaves a malformed word in a header (R9, R44). -/
def hdrFail (b : Bank) (i : Nat) : List KeptWrite → Option Nat
  | [] => none
  | k :: r => if hdrOk k.off (k.merge (b.hdr k.off)) then hdrFail b (i + 1) r else some i
/-- A write command, from its word on: BUSY (R44), the checks of configuration words and of the active header, which no SEAL will check
(R9, R43), then every selected cell takes every word. While a selected cell holds its writes, nothing happens yet. -/
def State.writeCells (s : State) (i : Image) (bank st : Nat) (ks : List KeptWrite) : Except ImgErr State :=
  let names := s.selected i
  if bank = 1 ∧ st < 3 ∧ (names.any fun n => (getCell s n).plane.inRound) then .error (busyCode, i.idx)
  else
    let fails := if bank = 2 ∧ st = 1 then names.filterMap fun n => cfgFail (getCell s n).staged (i.idx + 1) ks
      else if bank = 1 ∧ st = 1 then names.filterMap fun n => hdrFail (getCell s n).plane.active (i.idx + 1) ks else []
    match fails with
    | f :: r => .error (malformed, r.foldl Nat.min f)
    | [] => .ok (names.foldl (fun s n => modCell s n fun c => ks.foldl (fun c k => c.imageWrite bank st k) c) s)
/-- A command on the cells of the span waits while one of them holds its writes. -/
def State.writeCommand (s : State) (ws : List W32) (f : Image → State → Except ImgErr (Image × State)) : State :=
  match s.image with
  | some i => if (s.selected i).any s.holdsWrites then s else s.command ws f
  | none => s

/-! ### Commands (Table 02.3) -/

/-- A single word that is no command of two or more words in full: PAD; or a reserved command, or one that the end of the image
cuts off, which is MALFORMED (R42, R44). -/
def padAt (w0 : W32) (i : Image) (s : State) : Except ImgErr (Image × State) :=
  if cmdOf w0 = 0 then (if w0 = 0 then .ok (i, s) else .error (malformed, i.idx)) else .error (malformed, i.idx)
/-- PAD (R42). -/
def execPad (w0 : W32) (s : State) : Answer :=
  .next (match s.image with
    | none => s
    | some i =>
      let cut := decide (i.rest.length < 1 + cmdTail w0)
      if cmdOf w0 = 0 ∨ decide (7 ≤ cmdOf w0 ∧ cmdOf w0 ≤ 14) ∨ cut then s.command [w0] (padAt w0) else s)
/-- SPAN (R42). -/
def execSpan (w0 w1 : W32) (s : State) : Answer :=
  .next (
    if cmdOf w0 ≠ 1 then s
    else s.command [w0, w1] fun i s =>
      if bits w0.toNat 20 8 ≠ 0 then .error (malformed, i.idx)
      else if bits w1.toNat 20 12 ≠ 0 ∨ bits w1.toNat 0 20 < bits w0.toNat 0 20 then .error (malformed, i.idx + 1)
      else .ok ({ i with first := w0.extractLsb' 0 20, last := w1.extractLsb' 0 20 }, s))
/-- SELECT (R42): an offset beyond its structure is RANGE (R44). -/
def execSelect (w0 : W32) (s : State) : Answer :=
  .next (
    if cmdOf w0 ≠ 2 then s
    else s.command [w0] fun i s =>
      let w := w0.toNat
      match structSize (bits w 20 2) (bits w 16 4) with
      | none => .error (malformed, i.idx)
      | some n =>
        if bits w 22 6 ≠ 0 then .error (malformed, i.idx)
        else if n ≤ bits w 0 16 then .error (outOfRange, i.idx)
        else .ok ({ i with cursor := some (w0.extractLsb' 20 2, w0.extractLsb' 16 4, bits w 0 16) }, s))
/-- FIELD (R42). Of several failures a MALFORMED command word is reported first, then RANGE, then BUSY, then the second word (assumption
111). -/
def execField (w0 w1 : W32) (s : State) : Answer :=
  .next (
    if cmdOf w0 ≠ 3 then s
    else s.writeCommand [w0, w1] fun i s =>
      let w := w0.toNat
      let off := bits w 0 16
      let lsb := bits w 16 5
      let width := bits w 21 5 + 1
      match i.cursor with
      | none => .error (malformed, i.idx)
      | some (bank, st, _) =>
        if bits w 26 2 ≠ 0 ∨ 32 < lsb + width then .error (malformed, i.idx)
        else if (structSize bank.toNat st.toNat).getD 0 ≤ off then .error (outOfRange, i.idx)
        else if bank.toNat = 1 ∧ st.toNat < 3 ∧ ((s.selected i).any fun n => (getCell s n).plane.inRound) then .error (busyCode, i.idx)
        else if 2 ^ width ≤ w1.toNat then .error (malformed, i.idx + 1)
        else (s.writeCells i bank.toNat st.toNat
          [{ pad := bank.toNat == 2 && st.toNat == 0, off := off, lsb := lsb, width := width, val := w1 }]).map fun s => (i, s))
/-- BURST (R42): the cursor advances by COUNT. One that reaches beyond its structure is reported at the command word (assumption 86), a
MALFORMED command word first, then RANGE, then BUSY, then a failing word of the payload (assumption 111). -/
def execBurst (w0 : W32) (ws : List W32) (s : State) : Answer :=
  .next (
    let n := bits w0.toNat 0 16
    if cmdOf w0 ≠ 4 ∨ ws.length ≠ n then s
    else s.writeCommand (w0 :: ws) fun i s =>
      match i.cursor with
      | none => .error (malformed, i.idx)
      | some (bank, st, off) =>
        if bits w0.toNat 16 12 ≠ 0 ∨ n = 0 then .error (malformed, i.idx)
        else if (structSize bank.toNat st.toNat).getD 0 < off + n then .error (outOfRange, i.idx)
        else
          let ks := (List.range n).map fun j =>
            ({ pad := bank.toNat == 2 && st.toNat == 0, off := off + j, lsb := 0, width := 32, val := ws.getD j 0 } : KeptWrite)
          (s.writeCells i bank.toNat st.toNat ks).map fun s => ({ i with cursor := some (bank, st, off + n) }, s))
/-- A header that SEAL accepts (R38, Table 02.1). -/
def Bank.sealable (b : Bank) : Bool := hdrOk 0 b.hdr0 && hdrOk 1 b.hdr1
/-- The idle bank becomes READY; one sealed anew waits for an END (R44). -/
def Plane.seal (p : Plane) : Plane := { p with idle := .ready, ended := p.ended && p.idle == .ready }
/-- SEAL (R38, R44): every selected idle bank becomes READY, or none. -/
def execSealRec (w0 : W32) (s : State) : Answer :=
  .next (
    if cmdOf w0 ≠ 5 then s
    else s.writeCommand [w0] fun i s =>
      let names := s.selected i
      if bits w0.toNat 0 28 ≠ 0 then .error (malformed, i.idx)
      else if names.any fun n => (getCell s n).plane.idle != .ready && !(getCell s n).plane.idleBank.sealable then .error (malformed, i.idx)
      else .ok (i, names.foldl (fun s n => modCell s n fun c => { c with plane := c.plane.seal }) s))

/-! ### GLOBAL (R42) -/

/-- Enter a record; a second one of the same number is remembered (R269, R285, R286). -/
def putOnce {α : Type} (m : KMap α) (k : Nat) (x : α) (twice : Bool) : KMap α × Bool := (KM.put m k x, twice || (KM.get m k).isSome)
/-- A record parser: from the index of the record's first word and the words left, the words it took and the structures. -/
abbrev RecParser := Nat → List W32 → Globals → Except ImgErr (Nat × Globals)
/-- Every record of a payload, in order (R42). -/
def records (one : RecParser) : Nat → Nat → List W32 → Globals → Except ImgErr Globals
  | 0, _, _, g => .ok g
  | k + 1, at_, ws, g =>
    if ws.isEmpty then .ok g
    else match one at_ ws g with
      | .error e => .error e
      | .ok (n, g) => records one k (at_ + n) (ws.drop n) g
/-- Tile records (Table 11.1). -/
def tileRecords : Nat → Nat → List W32 → Except ImgErr (List (Nat × Nat × Nat × Bool × W64))
  | 0, _, _ => .ok []
  | n + 1, at_, a :: lo :: hi :: r =>
    if bits a.toNat 15 17 ≠ 0 then .error (malformed, at_)
    else (tileRecords n (at_ + 3) r).map fun l =>
      (bits a.toNat 0 6, bits a.toNat 6 4, bits a.toNat 10 4, bitOf a.toNat 14, hi ++ lo) :: l
  | _ + 1, at_, _ => .error (malformed, at_)
/-- A keyring entry record (Table 11.1). -/
def keyRecord : RecParser := fun at_ ws g =>
  match ws with
  | w0 :: w1 :: r =>
    let a := w0.toNat
    let n := bits w1.toNat 8 14 + 1
    if bitOf a 8 || bitOf a 31 || decide (r.length < 3 * n) then .error (malformed, at_)
    else if bits w1.toNat 22 10 ≠ 0 then .error (malformed, at_ + 1)
    else if bits w1.toNat 0 8 = 0 then .error (outOfRange, at_ + 1)
    else (tileRecords n (at_ + 2) r).map fun tiles =>
      let e := putOnce g.keys (bits a 0 8)
        { skind := bitOf a 9, sidx := bits a 10 6, wl := bits a 16 5, nslot := bits a 21 2 + 1, blk := bits a 23 8 + 1,
          tree := bits w1.toNat 0 8, tiles := tiles } g.twice
      (2 + 3 * n, { g with keys := e.1, twice := e.2 })
  | _ => .error (malformed, at_)
/-- Node records (Table 12.1). -/
def nodeRecords : Nat → Nat → List W32 → Except ImgErr (List TreeNode)
  | 0, _, _ => .ok []
  | n + 1, at_, a :: b :: r =>
    if bits a.toNat 23 9 ≠ 0 ∨ 6 ≤ bits a.toNat 20 3 then .error (malformed, at_)
    else if bits b.toNat 26 6 ≠ 0 then .error (malformed, at_ + 1)
    else (nodeRecords n (at_ + 2) r).map fun l =>
      { name := a.extractLsb' 0 20, lbl := bits a.toNat 20 3, pname := b.extractLsb' 0 20, loc := bitOf b.toNat 20,
        plink := bits b.toNat 21 4, xp := bitOf b.toNat 25 } :: l
  | _ + 1, at_, _ => .error (malformed, at_)
/-- A tree record (Table 12.1); tree 0 is the controller's (R284). -/
def treeRecord : RecParser := fun at_ ws g =>
  match ws with
  | w0 :: r =>
    let n := bits w0.toNat 8 14 + 1
    if bits w0.toNat 22 10 ≠ 0 ∨ r.length < 2 * n then .error (malformed, at_)
    else if bits w0.toNat 0 8 = 0 then .error (outOfRange, at_)
    else (nodeRecords n (at_ + 1) r).map fun l =>
      let e := putOnce g.trees (bits w0.toNat 0 8) l g.twice
      (1 + 2 * n, { g with trees := e.1, twice := e.2 })
  | [] => .error (malformed, at_)
/-- A bucket record (Table 12.2, R286). -/
def bucketRecord : RecParser := fun at_ ws g =>
  match ws with
  | w0 :: w1 :: _ =>
    let a := w0.toNat
    let tag := bits a 0 12
    let tok := bits a 21 5
    if bits a 26 6 ≠ 0 ∨ tag = 0 ∨ tag = 4095 ∨ 8 < bits a 12 4 ∨ (1 ≤ tok ∧ tok ≤ 7) then .error (malformed, at_)
    else if bits w1.toNat 18 14 ≠ 0 then .error (malformed, at_ + 1)
    else if bits w1.toNat 0 8 = 0 then .error (outOfRange, at_ + 1)
    else
      let e := putOnce g.bucks tag
        { op := bits a 12 4, sup := bitOf a 16, all := bitOf a 17, width := bits a 18 3 + 1, tok := tok, tree := bits w1.toNat 0 8,
          rbase := bits w1.toNat 8 10 } g.twice
      .ok (2, { g with bucks := e.1, twice := e.2 })
  | _ => .error (malformed, at_)
/-- A ring or a pair of counter words that reaches past 0x7FFF (R256). -/
def Circuit.beyond (x : Circuit) : Bool :=
  decide (Config.padBytes < x.sbase + 32 * x.size) || decide (Config.padBytes < x.dbase + 32 * x.size) ||
    decide (Config.padBytes < 8 * x.pidx + 16) || decide (Config.padBytes < 8 * x.lidx + 16)
/-- A circuit record (Table 10.6, R256). A ring offset that is no multiple of 32 has a reserved value. -/
def circuitRecord (s : State) (p : Nat) : RecParser := fun at_ ws g =>
  match ws with
  | w0 :: w1 :: w2 :: w3 :: _ =>
    let id := bits w0.toNat 20 8
    let x : Circuit :=
      { sname := w0.extractLsb' 0 20, dname := w1.extractLsb' 0 20, sbase := bits w2.toNat 0 15, dbase := bits w2.toNat 16 15,
        size := bits w3.toNat 0 8 + 1, pidx := bits w3.toNat 8 12, lidx := bits w3.toNat 20 12 }
    let held (n : Name) : Bool := isName s n.toNat && dieInPart s n.toNat p
    if bits w0.toNat 28 4 ≠ 0 then .error (malformed, at_)
    else if (KM.get g.circs id).isSome ∨ !held x.sname ∨ 4 ≤ (g.circs.filter fun c => c.2.sname == x.sname).length then .error (outOfRange, at_)
    else if bits w1.toNat 20 12 ≠ 0 then .error (malformed, at_ + 1)
    else if !held x.dname ∨ 4 ≤ (g.circs.filter fun c => c.2.dname == x.dname).length then .error (outOfRange, at_ + 1)
    else if bitOf w2.toNat 15 ∨ bitOf w2.toNat 31 ∨ x.sbase % 32 ≠ 0 ∨ x.dbase % 32 ≠ 0 then .error (malformed, at_ + 2)
    else if x.beyond then .error (outOfRange, at_ + 3)
    else .ok (4, { g with circs := KM.put g.circs id x })
  | _ => .error (malformed, at_)
/-- A stream plan record (Table 11.2). -/
def planRecord : RecParser := fun at_ ws g =>
  match ws with
  | w0 :: w1 :: w2 :: w3 :: w4 :: _ =>
    if bits w0.toNat 8 24 ≠ 0 then .error (malformed, at_)
    else if bits w3.toNat 16 16 ≠ 0 then .error (malformed, at_ + 3)
    else
      let x : Plan := { nblk := w1.toNat, gaddr := w2.toNat + 2 ^ 32 * bits w3.toNat 0 16, gstr := w4.toNat }
      .ok (5, { g with plans := KM.put g.plans (bits w0.toNat 0 8) x })
  | _ => .error (malformed, at_)
/-- A GLOBAL command: the payload's records join the structures of the load that the next SWAP brings in, all or none
(R42, R44). -/
def State.globalCommand (s : State) (target : Nat) (one : State → Nat → RecParser) (w0 : W32) (ws : List W32) : State :=
  let w := w0.toNat
  if cmdOf w0 ≠ 6 ∨ ws.length ≠ bits w 0 16 then s
  else s.command (w0 :: ws) fun i s =>
    if bits w 20 8 ≠ 0 ∨ 4 < bits w 16 4 then .error (malformed, i.idx)
    else if bits w 16 4 ≠ target then .ok ({ i with idx := i.idx }, s)
    else
      let g := match part s i.part.toNat with | some q => q.nextGlobals.getD {} | none => {}
      match records (one s i.part.toNat) ws.length (i.idx + 1) ws g with
      | .error e => .error e
      | .ok g => .ok (i, modPart s i.part.toNat fun q => { q with nextGlobals := some g })
/-- A GLOBAL word belongs to a target's event; one with a reserved TARGET or field to every one, since it fails. -/
def targets (k : Nat) (w0 : W32) : Bool := bits w0.toNat 16 4 == k || decide (4 < bits w0.toNat 16 4)
/-- GLOBAL_KEYRING (R268). -/
def execGlobalKeyring (w0 : W32) (ws : List W32) (s : State) : Answer :=
  .next (if targets 0 w0 then s.globalCommand 0 (fun _ _ => keyRecord) w0 ws else s)
/-- GLOBAL_TREE (R284). -/
def execGlobalTree (w0 : W32) (ws : List W32) (s : State) : Answer :=
  .next (if targets 1 w0 then s.globalCommand 1 (fun _ _ => treeRecord) w0 ws else s)
/-- GLOBAL_BUCKET (R286). -/
def execGlobalBucket (w0 : W32) (ws : List W32) (s : State) : Answer :=
  .next (if targets 2 w0 then s.globalCommand 2 (fun _ _ => bucketRecord) w0 ws else s)
/-- GLOBAL_CIRCUIT (R256): a COUNT that is no multiple of 4 leaves a last record that runs past it, which fails at its first word
(R42). -/
def execGlobalCircuit (w0 : W32) (ws : List W32) (s : State) : Answer :=
  .next (if targets 3 w0 then s.globalCommand 3 circuitRecord w0 ws else s)
/-- GLOBAL_STREAM_PLAN (R270). -/
def execGlobalStreamPlan (w0 : W32) (ws : List W32) (s : State) : Answer :=
  .next (if targets 4 w0 then s.globalCommand 4 (fun _ _ => planRecord) w0 ws else s)

/-! ### The checks at END -/

/-- No member twice. -/
def noneTwice (l : List Nat) : Bool := l.eraseDups.length == l.length
/-- A live cell of the partition holds the name. -/
def State.holds (s : State) (p n : Nat) : Bool := isName s n && dieInPart s n p
/-- The landing slots that a cell's words set, as they will be at the next round start (Table 11.3). -/
def Cell.stagedSlots (c : Cell) : List Nat := (slots.map fun n => (Sp.get c.staged (16 + n.val)).toNat).filter (bitOf · 23)
/-- A member has the slots 0 to NSLOT − 1 of an entry, each once (R269, R272). -/
def Cell.slotsFit (c : Cell) (key nslot : Nat) : Bool :=
  let gs := (c.stagedSlots.filter fun w => bits w 10 8 == key).map (bits · 18 2)
  gs.length == nslot && (List.range nslot).all gs.contains
/-- The slots of a cell lie in scratchpad and name distinct watermark channels (R271). -/
def Cell.slotsLie (c : Cell) (g : Globals) : Bool :=
  (c.stagedSlots.all fun w => match KM.get g.keys (bits w 10 8) with
    | some k => decide (32 * bits w 0 10 + 32 * k.blk ≤ Config.padBytes)
    | none => true) && noneTwice (c.stagedSlots.map (bits · 20 3))
/-- A page that the plan of an entry may touch (R270); of a key without an entry, any weight-store page. -/
def State.planPage (s : State) (p : Nat) (k : Option KeyEnt) (va : Nat) : Bool :=
  let first := match part s p with | some q => q.dies.headD 0 | none => 0
  let die := match k with | some k => if k.skind then (physDie s k.sidx).getD 0 else first | none => first
  match walkEnd s die va p with
  | .ok (g, e) =>
    match targetOf g e va with
    | .store m _ w c _ => match k with | some k => if k.skind then c && !w else m == k.sidx | none => true
    | .pad .. => false
  | .error _ => false
/-- A stream plan (R270); where its key has no entry, a block counts as one granule (assumption 87). -/
def State.planFits (s : State) (p : Nat) (k : Option KeyEnt) (x : Plan) : Bool :=
  let blk := match k with | some k => k.blk | none => 1
  decide (x.nblk ≠ 0) && x.gaddr % 32 == 0 && inGlobal x.gaddr && inGlobal (x.gaddr + (x.nblk - 1) * 256 * x.gstr + 32 * blk - 1) &&
    (List.range x.nblk).all fun b => (List.range blk).all fun i => s.planPage p k ((x.gaddr + b * 256 * x.gstr + 32 * i) % 2 ^ 45)
/-- The chain of parents of a node reaches the root (R285). -/
def climbs (l : List TreeNode) : Nat → Name → Bool
  | 0, _ => false
  | k + 1, n =>
    match l.find? (·.name == n) with
    | some x => x.isRoot || climbs l k x.pname
    | none => false
/-- A tree that a load uses (R285). A node with XP is no exception: the two panels of a tree configure the same names (R300). -/
def State.treeFits (s : State) (p : Nat) (l : List TreeNode) : Bool :=
  let inner := l.filter fun x => !x.isRoot
  (l.all fun x => s.holds p x.name.toNat) && (inner.all fun x => s.holds p x.pname.toNat) && noneTwice (l.map (·.name.toNat)) &&
    (l.filter TreeNode.isRoot).length == 1 &&
    (l.all fun x => climbs l l.length x.name) && noneTwice (inner.map fun x => x.pname.toNat * 8 + x.lbl)
/-- The label of a tree's root. -/
def rootLabel (l : List TreeNode) : Option Nat := (l.find? TreeNode.isRoot).map (·.lbl)
/-- The release tree of an entry (R276). -/
def State.releaseFits (s : State) (p : Nat) (g : Globals) (k : KeyEnt) : Bool :=
  match KM.get g.trees k.tree with
  | none => false
  | some l =>
    let locals := (l.filter (·.loc)).map (·.name.toNat)
    s.treeFits p l && rootLabel l == some 5 && k.members.all locals.contains && locals.all k.members.contains
/-- A source that the partition owns (R269). -/
def State.ownsSource (s : State) (q : Part) (k : KeyEnt) : Bool :=
  if k.skind then (match physDie s k.sidx with | some d => q.dies.contains d | none => false)
  else decide (k.sidx < 16) && q.strm.getLsbD k.sidx
/-- A keyring entry (R269). -/
def State.keyFits (s : State) (p : Nat) (q : Part) (g : Globals) (e : Nat × KeyEnt) : Bool :=
  (e.2.members.all fun n => s.holds p n && (getCell s n).slotsFit e.1 e.2.nslot) && s.ownsSource q e.2 && s.releaseFits p g e.2 &&
    (KM.get g.plans e.1).isSome
/-- No two entries share a light channel or a ring; a slice transmitter carries at most four (R266, R267, R269). -/
def Globals.lightFits (g : Globals) : Bool :=
  noneTwice (g.keys.map fun e => bit e.2.skind + 2 * (e.2.sidx + 64 * e.2.wl)) &&
    noneTwice (g.keys.flatMap fun e => (e.2.tiles.map ringId).eraseDups) &&
    g.keys.all fun e => !e.2.skind || decide ((g.keys.filter fun f => f.2.skind && f.2.sidx == e.2.sidx).length ≤ 4)
/-- The nodes at whose routers an entry needs a combiner (R276). -/
def Globals.combinersAt (g : Globals) (k : KeyEnt) : List Nat :=
  ((g.tree k.tree).filter fun n => n.isRoot || (g.children k.tree n).any (· != 0)).map (·.name.toNat)
/-- At most so many of each. -/
def atMost (k : Nat) (l : List Nat) : Bool := l.eraseDups.all fun x => decide ((l.filter (· == x)).length ≤ k)
/-- A bucket (R286). -/
def State.bucketFits (s : State) (p : Nat) (g : Globals) (b : Bucket) : Bool :=
  decide (32 * (b.rbase + b.width) ≤ Config.padBytes) &&
    match KM.get g.trees b.tree with
    | some l => s.treeFits p l && rootLabel l != some 5
    | none => false
/-- Slots hosted and LOCAL buckets of each cell (R287). -/
def Globals.slotsFit (g : Globals) : Bool :=
  atMost 16 (g.bucks.flatMap fun b => ((g.tree b.2.tree).filter (g.hosts b.2.tree)).map (·.name.toNat)) &&
    atMost 32 (g.bucks.flatMap fun b => ((g.tree b.2.tree).filter (·.loc)).map (·.name.toNat))
/-- SPINE of a cell at its next round start (R347). -/
def Cell.stagedSpine (c : Cell) : Nat := bits (Sp.get c.staged 5).toNat 0 3
/-- Every named cell of the tile of each listed cell carries its SPINE; a cell that is not listed carries 0 (R347). -/
def State.spinesFit (s : State) (p : Nat) : Bool :=
  (partCells s p).all fun n =>
    match curPos s n with
    | none => true
    | some q => (List.range 64).all fun i =>
      match nameAt s ⟨q.die, q.row / 8 * 8 + i / 8, q.col / 8 * 8 + i % 8⟩ with
      | some m => (getCell s m).stagedSpine == (getCell s n).stagedSpine
      | none => true
/-- The checks that the controller makes at END. -/
def State.endFits (s : State) (p : Nat) (q : Part) (g : Globals) : Bool :=
  !g.twice && (g.keys.all (s.keyFits p q g)) && (g.plans.all fun x => s.planFits p (KM.get g.keys x.1) x.2) && g.lightFits && atMost 8 (g.keys.flatMap fun e => g.combinersAt e.2) &&
    (g.bucks.all fun b => s.bucketFits p g b.2) && g.slotsFit && ((partCells s p).all fun n => (getCell s n).slotsLie g) && s.spinesFit p
/-- A bank has a timed channel (R337). -/
def Bank.timed (b : Bank) : Bool := (List.range 63).any fun ch =>
  hTimed (Sp.get b.handlers (2 * ch))
/-- END (R44): the checks, and the image ends; words after it are not read (assumption 86). Also the end of an image without END, one
past its last word. -/
def execImageEnd (w0 : W32) (s : State) : Answer :=
  .next (match s.image with
    | none => s
    | some i =>
      if !s.imageReady i then s
      else if i.rest.isEmpty then s.imageOver i malformed i.idx
      else if i.rest.head? ≠ some w0 ∨ cmdOf w0 ≠ 15 then s
      else if bits w0.toNat 0 28 ≠ 0 then s.imageOver i malformed i.idx
      else
        let p := i.part.toNat
        match part s p with
        | none => s.imageOver i malformed i.idx
        | some q =>
          if s.endFits p q (q.nextGlobals.getD {}) then
            let cells := (partCells s p).map (getCell s)
            (modPart (s.modCells p fun c => { c with plane := { c.plane with ended := c.plane.idle == .ready } }) p fun q =>
              { q with loadOk := true, endGlobals := some (q.nextGlobals.getD {}), nextTimed := cells.any fun c => c.plane.idleBank.timed,
                       timed := cells.any fun c => c.plane.loaded && c.plane.active.timed }).imageOver i 0 0
          else s.imageOver i outOfRange i.idx)

end Sys2Proof.Machine
end

