-- ==== Sys2Proof/Machine/Power.lean ====
section
/-! DEFINITION. Power, clocks and tumbler rotation (R346–R364): spines and island voltages, power states, metering and
throttling, and the rotation of a tumbler. -/

namespace Sys2Proof.Machine

/-! ### Settings of a launch record (R346–R348, R357) -/

/-- Voltages and spines of a die as a launch record asks for them, clamped under Table 15.1 at the voltages asked for
(R346, R348). -/
def State.powerDie (s : State) (r : BitVec 512) (die : Nat) : State :=
  let s := (s.setVolt die false (recBits r 448 16)).setVolt die true (recBits r 464 16)
  let s := (List.range 8).foldl (fun s k =>
    let ask := recBits r (320 + 16 * k) 16
    let f := if ask = 0 then spineMhz s die k else Nat.max 250 ask
    { s with spines := KM.put s.spines (die * 8 + k) (Nat.min f (s.spineLimit die k)) }) s
  (s.settleIsland die false).settleIsland die true
/-- Of every die of a partition. -/
def State.powerDies (s : State) (p : Nat) (r : BitVec 512) : State :=
  match part s p with
  | some q => q.dies.foldl (fun s d => s.powerDie r d) s
  | none => s
/-- The threshold of a launch record, within Table 15.3. -/
def rotThreshold (r : BitVec 512) : Nat := Nat.max 2 (Nat.min 30 (recRotp r).2.1)

/-! ### Power states (R349–R352) -/

/-- A stream engine has work: packets to write out, or to fetch into a buffer that has room (R233, R350). -/
def Cell.streamWorks (c : Cell) (n : Fin 4) : Bool :=
  let x := c.eng.strm[n]
  x.bound && !x.err && (if x.isWrite then !x.buf.isEmpty
    else x.out.isSome || x.fail.isSome || decide (x.fetch < x.packets ∧ x.buf.length < c.bufLimit n))
/-- An engine of the cell in hand has work; a result or an acknowledgement that a thread or a path awaits, an open reduction slot and a
waiting lease are none (R350). -/
def State.engineWork (s : State) : Bool :=
  let c := s.cell
  c.eng.ents.toList.any Option.isSome || c.eng.recs.toList.any Option.isSome || !c.eng.sigs.isEmpty ||
    (List.finRange 4).any c.streamWorks || !c.mx.queue.isEmpty ||
    c.mx.torOut.toList.any id || c.red.buf.isSome || !c.red.upq.isEmpty || !c.msg.egress.isEmpty ||
    c.land.toList.any (·.latch) || !c.inbox.dep.isEmpty || s.circuitsBusy
/-- No thread of the cell in hand wants to issue, no engine has work, no deposit, binding or rollback is in progress (R350). -/
def State.restful (s : State) : Bool :=
  !s.engineWork && s.cell.tim.rbk.isNone && s.cell.inbox.ibuf.isEmpty && s.cell.inbox.rbuf.isEmpty && s.cell.inbox.latches.isEmpty &&
    tids.all fun t => (s.cell.th t).st != .running && (s.cell.th t).st != .bound
/-- DROWSY_ENTRY (R350): after 64 idle cycles. -/
def execDrowsyEntry (c : Name) (s : State) : Answer :=
  .next (within s c.toNat fun s =>
    if 64 ≤ s.cell.idleCyc ∧ s.restful then modFocus s fun c => { c with drowsy := true } else s)
/-- The cell that S-plane traffic goes to. -/
def SMsg.dest : SMsg → Option Name
  | .contrib _ x _ _ => some x
  | .credit _ x _ => some x
  | .result _ x _ => some x
  | .writing _ x _ _ => some x
  | .relCount _ _ x _ _ => some x
  | .relStart _ _ x _ => some x
  | .relRepair _ _ x _ _ _ => some x
  | .srcCount .. => none
  | .srcStart .. => none
  | .srcRepair .. => none
  | .crossing _ m => m.dest
/-- The cell that C-plane traffic goes to. -/
def CMsg.dest (s : State) : CMsg → Option Nat
  | .torus _ d _ _ => some d.toNat
  | .granule p id _ _ => ((part s p.toNat).bind fun q => KM.get q.globals.circs id).map (·.dname.toNat)
  | .ask a => some a.cell
  | .answer a _ => some a.who.cell
  | .crossing _ m => m.dest s
/-- Something waits for a Drowsy cell: a packet or a flit on any plane, a rotation or a pre-emption, the controller (R350). -/
def State.wakes (s : State) (n : Nat) : Bool :=
  let c := getCell s n
  (s.mnet.any fun f => f.p.dest.toNat == n && f.phase == .arrived) || (s.snet.any fun m => m.dest == some (BitVec.ofNat 20 n)) ||
    (s.cnet.any fun m => m.dest s == some n) || !s.still n ||
    (match part s c.part.toNat with | some q => q.preempt.isSome || q.token.isSome || q.wave.isSome || q.gvt.isSome | none => false)
/-- DROWSY_WAKE (R350). -/
def execDrowsyWake (c : Name) (s : State) : Answer :=
  .next (if (getCell s c.toNat).drowsy && s.wakes c.toNat then modCell s c.toNat Cell.awake else s)
/-- The listed cells of an island. -/
def State.islandCells (s : State) (die : Nat) (east : Bool) : List Nat :=
  (listedCells s).filter fun n => match curPos s n with | some q => q.die == die && decide (64 ≤ q.col) == east | none => false
/-- A cell as firmware leaves it, cleared (R207, R351). -/
def State.forget (s : State) (n : Nat) : State :=
  if s.cur = n then { s with cell := freshCell s n } else { s with others := KM.del s.others n }
/-- Every cell of an island is done and its partition is paused or holds no load, with no start command and no image to come (R351). -/
def State.islandIdle (s : State) (die : Nat) (east : Bool) : Bool :=
  ((s.islandCells die east).all s.doneAt) &&
    match partOfDie s die with
    | none => true
    | some p => match part s p with
      | some q => q.paused && q.startAct.isNone && q.token.isNone && q.preempt.isNone && s.images.all fun i => i.part.toNat != p
      | none => true
/-- The tolerance of an island's partition, in µs (R351); without one, any. -/
def State.tolerance (s : State) (die : Nat) : Nat :=
  match (partOfDie s die).bind (part s) with | some q => q.tol.toNat | none => 0xFFFF
/-- The lowest state that the controller may place an island in (R351): Gated and Retain as the tolerance and its cells allow, else
awake. -/
def State.lowest (s : State) (die : Nat) (east : Bool) : PowerState :=
  let free : Bool := match (partOfDie s die).bind (part s) with | some q => q.strel | none => true
  if !s.islandIdle die east then .run
  else if free && decide (5000 ≤ s.tolerance die) then .gated
  else if 50 ≤ s.tolerance die then .retain
  else .run
/-- An island loses its power, and its cells all they held (Table 15.2, R207). -/
def State.gate (s : State) (die : Nat) (east : Bool) : State :=
  let s := (s.islandCells die east).foldl State.forget s
  s.setIsland die east { s.island die east with st := .gated }
/-- ISLAND_STATE_CHANGE (R351): the controller moves an island to the lowest state allowed: to Retain, at 0.30 V, from Gated too, its cells
cleared (R207); to Gated; or back to Run or Slow as its voltage and spines have it. -/
def execIslandStateChange (die : DieSite) (east : Bool) (target : PowerState) (s : State) : Answer :=
  .next (
    let d := die.toNat
    let x := s.island d east
    match target with
    | .retain => if (x.isAwake = true ∨ x.st = .gated) ∧ s.lowest d east = .retain then s.setIsland d east { x with volt := 30, st := .retain } else s
    | .gated => if x.st ≠ .gated ∧ s.lowest d east = .gated then s.gate d east else s
    | .drowsy => s
    | t0 =>
      let t := s.wakeIsland d east
      if x.isAwake ∨ s.lowest d east ≠ .run ∨ (t.island d east).st ≠ t0 then s else t)

/-! ### Metering and throttling (R353–R355) -/

/-- POWER_MEASURE (R353): a partition over its share is metered. -/
def execPowerMeasure (p : PartIdx) (excess : Bool) (s : State) : Answer := .next (modPart s p.toNat fun q => { q with metered := excess })
/-- The tumblers of a partition's dies. -/
def Part.tumblers (q : Part) : List (Nat × Nat) := q.dies.flatMap fun d => (List.range 64).map fun t => (d, t)
/-- Each mask duty of a partition changes, by what the controller chooses. -/
def State.maskDuties (s : State) (q : Part) (f : State → Nat → Nat) : State :=
  q.tumblers.foldl (fun s x => let y := tumbler s x.1 x.2; fresh (setTumbler s x.1 x.2 { y with mask := f s y.mask })) s
/-- The limit of a partition without its tumblers' masks, which end with it (R354). -/
def Throttle.unmasked (x : Throttle) : Throttle := if x = .mask then .none else x
/-- THROTTLE_STEP (R354): a metered partition still over its share is limited; one back within it is relaxed by a step. -/
def execThrottleStep (p : PartIdx) (excess : Bool) (s : State) : Answer :=
  .next (match part s p.toNat with
    | none => s
    | some q =>
      if excess then
        if !q.metered then s
        else if q.dies.length ≤ 4 then modPart s p.toNat fun q => { q with thr := .halfRow }
        else modPart (s.maskDuties q fun s _ => 1 + choose s 32) p.toNat fun q => { q with thr := .mask }
      else match q.thr with
        | .none => s
        | .halfRow => modPart s p.toNat fun q => { q with thr := .none }
        | .mask =>
          let s := s.maskDuties q fun _ k => Nat.min 32 (k + 1)
          if q.tumblers.all fun x => (tumbler s x.1 x.2).mask == 32 then modPart s p.toNat fun q => { q with thr := .none } else s)

/-! ### Rotation (R356–R363) -/

/-- Interval in ms and threshold of a die's tumblers (Table 15.3). -/
def State.rotParams (s : State) (die : Nat) : Nat × Nat :=
  match (partOfDie s die).bind (part s) with | some q => (q.rotMs, q.rotTh) | none => (8, 6)
/-- A rotation may start: no pre-emption of the partition, and no cell of the tumbler still has its channel 59 latch full
(R83, R363). -/
def State.mayRotate (s : State) (die u : Nat) : Bool :=
  (match (partOfDie s die).bind (part s) with | some q => q.preempt.isNone | none => true) &&
    (s.tumCells die u).all fun n => !(getCell s n).latched 59
/-- Hottest less coolest of four readings. -/
def Tumbler.spread (x : Tumbler) : Nat :=
  let l := [x.t0.toNat, x.t1.toNat, x.t2.toNat, x.t3.toNat]
  l.foldl Nat.max 0 - l.foldl Nat.min 255
/-- TUMBLER_INTERVAL (R357, R360): the sensors are read; a rotation starts, or a tumbler that never rotates adjusts its duty. -/
def execTumblerInterval (die : DieSite) (u : TumIdx) (t0 t1 t2 t3 : BitVec 8) (s : State) : Answer :=
  .next (
    let d := die.toNat
    let x := tumbler s d u.toNat
    let p := s.rotParams d
    let now := Sp.get s.dieCycle d
    if x.busy ∨ (now - x.since).toNat < p.1 * 1000000 then s
    else
      let x := { x with t0 := t0, t1 := t1, t2 := t2, t3 := t3, since := now }
      let hot := decide (p.2 < x.spread)
      if noRot s d u.toNat then
        setTumbler s d u.toNat
          { x with duty := if hot then Nat.max 8 (x.duty - 1) else if 2 * x.spread ≤ p.2 then Nat.min 32 (x.duty + 1) else x.duty }
      else setTumbler s d u.toNat { x with duty := 32, hold := none, late := false, busy := hot && s.mayRotate d u.toNat })
/-- A timer goes on from where it stood still at `start`; one started since has not run (R301). -/
def RSlot.thaw (x : RSlot) (now start : W64) : RSlot :=
  { x with t0 := if (now - start).toNat < (now - x.t0).toNat then x.t0 + (now - start) else now }
/-- The reduction timers of a tumbler's cells go on, from its hold (R301). -/
def State.thaw (s : State) (die u : Nat) : State :=
  (s.tumCells die u).foldl (fun s n => modCell s n fun c =>
    { c with red := { c.red with slots := c.red.slots.map (·.thaw (Sp.get s.dieCycle die) ((tumbler s die u).hold.getD (Sp.get s.dieCycle die))) } }) s
/-- The packets injected from a tumbler have left it; one that waits at another's boundary has (Table 15.4, step 3; R363). -/
def State.tumSent (s : State) (die u : Nat) : Bool :=
  s.mnet.all fun f => !(f.phase == .moving && !f.held && f.pos / 16384 == die && tumOf (f.pos / 128 % 128) (f.pos % 128) == u &&
    s.inTum die u f.p.src.toNat)
/-- A step of a rotation has exceeded its bound: step 1 after 2 µs, step 3 after 1.5 µs from the end of step 1 (Table 15.4). -/
def State.overdue (s : State) (die u : Nat) : Bool :=
  let now := Sp.get s.dieCycle die
  match (tumbler s die u).hold with
  | none => decide (2000 < (now - (tumbler s die u).since).toNat)
  | some h => decide (1500 < (now - h).toNat) && !s.tumSent die u
/-- A rotation under way goes on: a tumbler whose cells have come to rest holds what is inbound from then on (Table 15.4, step 2), and a step
that has exceeded its bound is remembered, since its rotation is abandoned (R358). -/
def State.turnTumbler (s : State) (die u : Nat) : State :=
  let x := tumbler s die u
  let s := setTumbler s die u { x with hold := if x.hold.isNone && s.tumStill die u then some (Sp.get s.dieCycle die) else x.hold }
  setTumbler s die u { tumbler s die u with late := s.overdue die u }
/-- The rotations under way go on. -/
def State.turnTumblers (s : State) : State :=
  (s.tumblers.filter fun e => e.2.busy && !e.2.late).foldl (fun s e => s.turnTumbler (e.1 / 64) (e.1 % 64)) s
/-- ROTATION_ABANDON (R358): a step exceeded its bound; nothing moves, ABORT counts, and a tumbler that is still hot is
duty-throttled. -/
def execRotationAbandon (die : DieSite) (u : TumIdx) (s : State) : Answer :=
  .next (
    let x := tumbler s die.toNat u.toNat
    if !x.busy || !(x.late || s.overdue die.toNat u.toNat) then s
    else setTumbler (s.thaw die.toNat u.toNat) die.toNat u.toNat
      { x with busy := false, hold := none, late := false, abort := satInc x.abort,
               duty := if (s.rotParams die.toNat).2 < x.spread then Nat.max 8 (x.duty - 1) else x.duty })
/-- The places of a tumbler. -/
def tumPlaces (die u : Nat) : List Pos :=
  (List.range 256).map fun i => ⟨die, u / 8 * 16 + i / 16, u % 8 * 16 + i % 16⟩
/-- The names that a tumbler holds. -/
def State.tumNames (s : State) (die u : Nat) : List Nat := (tumPlaces die u).filterMap (nameAt s)
/-- A packet that a moved cell has not yet taken in moves with it. -/
def State.carryArrived (s : State) (names : List Nat) : State :=
  { s with mnet := s.mnet.map fun f =>
      if f.phase == .arrived && names.contains f.p.dest.toNat then
        { f with pos := match curPos s f.p.dest.toNat with | some q => routerOf q | none => f.pos }
      else f }
/-- ROT advances; each moved cell learns of it on channel 59 (R362, Table 15.5). -/
def State.rotate (s : State) (die u : Nat) : State :=
  let names := s.tumNames die u
  let old := names.map fun n => (n, match curPos s n with | some q => cellId q | none => 0)
  let x := tumbler s die u
  let y := { x with rot := x.rot + 1, rcnt := x.rcnt + 1, busy := false, hold := none, duty := 32 }
  let s := (setTumbler s die u y).carryArrived names
  old.foldl (fun s e =>
    let new := match curPos s e.1 with | some q => cellId q | none => 0
    within s e.1 (·.raise 59 (ofLane0 (BitVec.ofNat 64 (e.2 + 2 ^ 20 * new + 2 ^ 40 * y.rot.toNat + 2 ^ 48 * y.rcnt.toNat))))) s
/-- ROTATION_MOVE_DONE (R358, R361, R362): the state has moved; rotation notices go to the die's routers. -/
def execRotationMoveDone (die : DieSite) (u : TumIdx) (s : State) : Answer :=
  .next (
    let x := tumbler s die.toNat u.toNat
    if x.busy && x.hold.isSome && !x.late && s.tumSent die.toNat u.toNat && s.tumLanded die.toNat u.toNat then
      let t := (s.thaw die.toNat u.toNat).rotate die.toNat u.toNat
      { t with agenda := t.agenda ++ [.rotationNotice die u] }
    else s)

end Sys2Proof.Machine
end

