-- ==== Sys2Proof/Machine/Residue.lean ====
section
/-! DEFINITION. Residual packets (R311, R372 step 4, R375 step 4): what a save takes out of the link buffers and the hold memories, in
order, and which of them R319 still has each wait for, since a restore sets the causal vectors to zero. -/

namespace Sys2Proof.Machine

/-! ### What is taken out -/

/-- The packets of a partition that its causal units still hold. -/
def State.heldTraffic (s : State) (q : Part) : List Held := (q.logDies s).flatMap fun t => (unitOf s t).hold
/-- The residual packets of a save, by plane: M, S, C. -/
structure Residue where
  m : List Flight
  s : List SMsg
  c : List CMsg
  deriving DecidableEq, Repr
/-- The traffic of a partition, the hold memories' after that of the links. -/
def State.residueOf (s : State) (p : Nat) (q : Part) : Residue :=
  let held := s.heldTraffic q
  { m := (s.mnet.filter fun f => f.inPart s p && !f.p.isControl) ++ held.filterMap fun h => match h with | .m f => some f | _ => none,
    s := (s.snet.filter fun m => m.part.toNat == p) ++ held.filterMap fun h => match h with | .s x y => some (.crossing x y) | _ => none,
    c := (s.cnet.filter fun m => m.inPart s p) ++ held.filterMap fun h => match h with | .c x y => some (.crossing x y) | _ => none }

/-! ### What each waits for -/

/-- A causal packet on its way: the dies it goes from and to, and its CAUSAL field once it is stamped. -/
structure OnWay where
  src : Nat
  dst : Nat
  causal : Option Causal
  deriving DecidableEq, Repr
/-- The way of an M-plane packet, if it is causal: from the die that stamped it, or, not stamped yet, that it stands in, a host token
among them, whose SRC is no name (R318, R383). -/
def State.onWay (s : State) (f : Flight) : Option OnWay :=
  let b := nameDie f.p.dest.toNat
  match (f.p.causal.map fun c => c.odie.toNat).or (logDie s (f.pos / 16384)) with
  | some a => if f.p.isCausal && a != b then some { src := a, dst := b, causal := f.p.causal } else none
  | none => none
/-- Of S-plane traffic. -/
def SMsg.onWay : SMsg → Option OnWay | .crossing x _ => some { src := x.src, dst := x.dst, causal := x.causal } | _ => none
/-- Of C-plane traffic. -/
def CMsg.onWay : CMsg → Option OnWay | .crossing x _ => some { src := x.src, dst := x.dst, causal := x.causal } | _ => none
/-- The vectors of KIND 5 packets that a die has, or that are on their way to it. -/
def State.vecsTo (s : State) (t : Nat) : List (Nat × BitVec 16 × Sparse 16) :=
  (unitOf s t).vecs ++ s.mnet.filterMap fun f =>
    match f.p.causal with
    | some c => if f.p.kind = 5 ∧ nameDie f.p.dest.toNat = t then some (c.odie.toNat, c.oseq, flitVec f.p.pay) else none
    | none => none
/-- V of a packet to die `t` (R319), formed over the packets of its origin that are still on their way. -/
def State.vecOf (s : State) (t : Nat) (l : List Causal) : Nat → Causal → Sparse 16
  | 0, _ => []
  | n + 1, c =>
    let u := unitOf s t
    let mine (v : Nat × BitVec 16 × Sparse 16) : Bool := v.1 == c.odie.toNat && v.2.1 == c.oseq
    match u.released.find? mine with
    | some v => v.2.2
    | none =>
      if c.fv then match (s.vecsTo t).find? mine with | some v => v.2.2 | none => []
      else
        let base := match l.find? fun x => x.odie == c.odie && x.oseq == c.prev with
          | some x => s.vecOf t l n x
          | none => (KM.get u.prevVec c.odie.toNat).getD []
        c.deltas.foldl (fun m x => Sp.set m x.1 x.2) base
/-- A packet that is applied before another to the same die: an earlier one of its origin, or one that its vector covers; one not
yet stamped comes after all that its die knows of (R318, R319). -/
def State.comesFirst (s : State) (l : List Causal) (x : OnWay) (y : Causal) : Bool :=
  match x.causal with
  | none => atOrBeyond (Sp.get (unitOf s x.src).k y.odie.toNat) y.oseq
  | some c =>
    if c.odie = y.odie then c.oseq != y.oseq && atOrBeyond c.oseq y.oseq
    else atOrBeyond (Sp.get (s.vecOf x.dst l (l.length + 1) c) y.odie.toNat) y.oseq
/-- The numbers, from 1, of the packets that each of some packets waits for. -/
def State.waitsFor (s : State) (l : List (Option OnWay)) : List (List Nat) :=
  l.map fun o => match o with
    | none => []
    | some x =>
      let cs := l.filterMap fun y => match y with | some y => if y.dst = x.dst then y.causal else none | none => none
      (List.range l.length).filterMap fun j => match l[j]? with
        | some (some y) => if y.dst = x.dst then (match y.causal with
            | some c => if s.comesFirst cs x c then some (j + 1) else none
            | none => none) else none
        | _ => none
/-- S-plane traffic with its number among the residual packets and those that it waits for; it is released. -/
def SMsg.numbered (rid : Nat) (after : List Nat) : SMsg → SMsg
  | .crossing x m => .crossing { x with causal := none, rel := true, rid := rid, after := after } m
  | m => m
/-- C-plane traffic likewise. -/
def CMsg.numbered (rid : Nat) (after : List Nat) : CMsg → CMsg
  | .crossing x m => .crossing { x with causal := none, rel := true, rid := rid, after := after } m
  | m => m
/-- The residual packets of a save, numbered, each with those that it waits for. -/
def State.takeResidue (s : State) (p : Nat) (q : Part) : Residue :=
  let r := s.residueOf p q
  let w := s.waitsFor ((r.m.map s.onWay) ++ (r.s.map SMsg.onWay) ++ r.c.map CMsg.onWay)
  let i := r.m.length
  let j := i + r.s.length
  { m := r.m.mapIdx fun k f => { f with p := { f.p with causal := none }, stamped := true, rel := true, rid := k + 1, after := w.getD k [] },
    s := r.s.mapIdx fun k m => m.numbered (i + k + 1) (w.getD (i + k) []),
    c := r.c.mapIdx fun k m => m.numbered (j + k + 1) (w.getD (j + k) []) }

/-! ### What is put back -/

/-- The highest number of a residual packet in the network. -/
def State.topRid (s : State) : Nat :=
  let sr (m : SMsg) : Nat := match m with | .crossing x _ => x.rid | _ => 0
  let cr (m : CMsg) : Nat := match m with | .crossing x _ => x.rid | _ => 0
  (s.mnet.map (fun f => f.rid) ++ s.snet.map sr ++ s.cnet.map cr).foldl Nat.max 0
/-- S-plane traffic of a restored partition, its numbers above those in use. -/
def SMsg.restored (p : PartIdx) (top : Nat) : SMsg → SMsg
  | .contrib _ n l k => .contrib p n l k
  | .credit _ n t => .credit p n t
  | .result _ n k => .result p n k
  | .writing _ n k l => .writing p n k l
  | .relCount _ k n c x => .relCount p k n c x
  | .relStart _ k n c => .relStart p k n c
  | .relRepair _ k n c m g => .relRepair p k n c m g
  | .srcCount _ k n => .srcCount p k n
  | .srcStart _ k => .srcStart p k
  | .srcRepair _ k m g => .srcRepair p k m g
  | .crossing x m => .crossing { x with rid := x.rid + top, after := x.after.map (· + top) } (m.restored p top)
/-- C-plane traffic likewise. -/
def CMsg.restored (p : PartIdx) (top : Nat) : CMsg → CMsg
  | .torus a b d g => .torus a b d g
  | .granule _ id i v => .granule p id i v
  | .ask a => .ask a
  | .answer a c => .answer a c
  | .crossing x m => .crossing { x with rid := x.rid + top, after := x.after.map (· + top) } (m.restored p top)
/-- A residual packet as it is injected at its destination (R375, step 4). -/
def State.residual (s : State) (top : Nat) (f : Flight) : Flight :=
  { f with pos := match curPos s f.p.dest.toNat with | some q => routerOf q | none => f.pos,
           phase := .arrived, turned := false, held := false, kept := false, flood := none, rid := f.rid + top, after := f.after.map (· + top) }
/-- The residual packets of a partition are in the network again, in their saved order. -/
def State.putResidue (s : State) (p : PartIdx) (k : SavedPart) : State :=
  let top := s.topRid
  { s with mnet := s.mnet ++ k.resid.map (s.residual top), snet := s.snet ++ k.sres.map (SMsg.restored p top),
           cnet := s.cnet ++ k.cres.map (CMsg.restored p top) }

end Sys2Proof.Machine
end

