-- ==== Sys2Proof/Machine/Context.lean ====
section
/-! DEFINITION. Lead faults at the controller, pre-emption, the context area and restore (R320, R370, R372–R375). The sections that
R374 leaves to CTXVER, and the round state of the partition section, hold the place of what `State.saved` and `State.savedParts`
keep (assumption 10). -/

namespace Sys2Proof.Config

/-- What the opaque sections of a record restore after the host has altered them, at the `i`-th free value and for a name: R374 and R4
leave it open, an empty cell among it (assumption 10). -/
opaque alteredCell (i n : Nat) : Option Sys2Proof.Machine.Cell

end Sys2Proof.Config

namespace Sys2Proof.Machine

/-! ### Bytes -/

/-- The low `n` bytes of a number, lowest first (R6). -/
def bytesOf (n v : Nat) : List Byte := (List.range n).map fun i => BitVec.ofNat 8 (v / 256 ^ i)
/-- Fields in ascending order, each with its length in bytes. -/
def fieldBytes (l : List (Nat × Nat)) : List Byte := l.flatMap fun f => bytesOf f.1 f.2
/-- A number of bytes, lowest first. -/
def natOf (l : List Byte) : Nat := l.foldr (fun b r => b.toNat + 256 * r) 0
/-- The number at an offset. -/
def numAt (l : List Byte) (off n : Nat) : Nat := natOf ((l.drop off).take n)
/-- Bytes at an offset are all zero. -/
def zeroAt (l : List Byte) (off n : Nat) : Bool := numAt l off n == 0

/-! ### Thread entries (Table 16.7) -/

/-- State code. -/
def TState.code : TState → Nat
  | .free => 0 | .bound => 1 | .running => 2 | .parked => 3 | .sleeping => 4 | .stopped => 5 | .faulted => 6
/-- The state of a code; none of the codes that the table leaves out. -/
def TState.ofCode (n : Nat) : Option TState :=
  match n with
  | 0 => some .free | 2 => some .running | 3 => some .parked | 4 => some .sleeping | 5 => some .stopped | 6 => some .faulted
  | _ => none
/-- Bytes 1344–1351. -/
def Thread.control (x : Thread) : Nat :=
  x.st.code + 2 ^ 3 * x.pc.toNat + 2 ^ 13 * bit x.pp + 2 ^ 14 * bit x.inh + 2 ^ 15 * bit x.inb + 2 ^ 16 * bit x.tmd +
    2 ^ 17 * x.lvl.toNat + 2 ^ 19 * (x.p.toNat / 2) + 2 ^ 26 * bit x.lp0.active + 2 ^ 27 * bit x.lp1.active + 2 ^ 28 * x.pfx.toNat +
    2 ^ 48 * Nat.min 255 x.starve
/-- A loop level. -/
def Loop.word (l : Loop) : Nat := l.start.toNat + 2 ^ 10 * l.stop.toNat + 2 ^ 20 * l.count.toNat
/-- A loop level from its word. -/
def Loop.ofWord (active : Bool) (v : Nat) : Loop :=
  { active := active, start := BitVec.ofNat 10 v, stop := BitVec.ofNat 10 (v / 2 ^ 10), count := BitVec.ofNat 32 (v / 2 ^ 20) }
/-- A thread entry. -/
def Thread.entry (x : Thread) : List Byte :=
  fieldBytes ((x.g.toList.map fun v => (32, v.toNat)) ++ (x.q.toList.map fun v => (32, v.toNat)) ++
    [(32, x.y0.toNat), (32, x.y1.toNat), (8, x.control), (8, x.lp0.word), (8, x.lp1.word),
     (8, x.fmt.toNat + 2 ^ 16 * x.mshape.toNat + 2 ^ 37 * x.sseq.toNat), (8, x.rseed.toNat),
     (8, x.link.toNat + 2 ^ 32 * x.fcause.toNat), (8, x.fpc.toNat), (8, x.faddr.toNat), (8, x.hsrc.toNat), (8, x.hchan.toNat),
     (8, x.hvrt.toNat), (8, x.hreply.toNat)] ++ x.blk.toList.map fun v => (4, v.toNat))
/-- A thread from its entry, over what the opaque sections keep of it: a state that the host rewrote waits for
nothing; the reserved bits of the head registers read as zero (R9). -/
def Thread.ofEntry (x : Thread) (b : List Byte) : Thread :=
  let c := numAt b 1344 8
  let v (off : Nat) : V256 := BitVec.ofNat 256 (numAt b off 32)
  let w (off : Nat) : W64 := BitVec.ofNat 64 (numAt b off 8)
  let st := (TState.ofCode (c % 8)).getD .free
  { x with
    g := Vector.ofFn fun i => v (32 * i.val), q := Vector.ofFn fun i => v (1024 + 32 * i.val), y0 := v 1280, y1 := v 1312,
    st := st, wait := if st = x.st then x.wait else .none, pc := BitVec.ofNat 10 (c / 2 ^ 3), pp := bitOf c 13, inh := bitOf c 14,
    inb := bitOf c 15, tmd := bitOf c 16, lvl := BitVec.ofNat 2 (c / 2 ^ 17), p := BitVec.ofNat 8 (2 * bits c 19 7),
    lp0 := Loop.ofWord (bitOf c 26) (numAt b 1352 8), lp1 := Loop.ofWord (bitOf c 27) (numAt b 1360 8),
    pfx := BitVec.ofNat 20 (c / 2 ^ 28), starve := bits c 48 8, fmt := BitVec.ofNat 16 (numAt b 1368 2),
    mshape := BitVec.ofNat 21 (numAt b 1368 8 / 2 ^ 16), sseq := BitVec.ofNat 16 (numAt b 1368 8 / 2 ^ 37), rseed := w 1376,
    link := BitVec.ofNat 32 (numAt b 1384 4), fcause := BitVec.ofNat 17 (numAt b 1388 4), fpc := BitVec.ofNat 10 (numAt b 1392 8),
    faddr := w 1400, hsrc := w 1408 &&& 0x1FFFFF, hchan := w 1416 &&& 0xFFFF0FFF, hvrt := w 1424 &&& 0xFFFFFFFFFFFF,
    hreply := w 1432 &&& 0x3F,
    blk := Vector.ofFn fun i => BitVec.ofNat 32 (numAt b (1440 + 4 * i.val) 4) }

/-! ### Cell records (R374, Table 16.6) -/

/-- Words as bytes. -/
def wordBytes (l : List W32) : List Byte := l.flatMap fun w => bytesOf 4 w.toNat
/-- Section 3: the active bank, its staged constants, and ROUND and CSTAGE after the header words. -/
def Plane.section (p : Plane) : List Byte :=
  let b := p.active
  wordBytes (Sp.getMany b.code 0 1024) ++
    fieldBytes [(4, b.hdr0.toNat), (4, b.hdr1.toNat), (4, p.round.toNat), (4, bit p.cstage), (16, 0)] ++
    wordBytes (Sp.getMany b.handlers 0 128) ++ wordBytes (Sp.getMany b.consts 0 128) ++ wordBytes (Sp.getMany p.shadow 0 128)
/-- Words read back from bytes. -/
def wordsAt (b : List Byte) (off n : Nat) : Sparse 32 :=
  (List.range n).foldl (fun m i => Sp.set m i (BitVec.ofNat 32 (numAt b (off + 4 * i) 4))) []
/-- The planes of a restored cell: the active bank from section 3, the idle bank cleared (R374); kept writes are discarded
(R45). -/
def Plane.ofSection (p : Plane) (b : List Byte) : Plane :=
  let bank : Bank :=
    { code := wordsAt b 0 1024, hdr0 := BitVec.ofNat 32 (numAt b 4096 4), hdr1 := BitVec.ofNat 32 (numAt b 4100 4),
      handlers := wordsAt b 4128 128, consts := wordsAt b 4640 128 }
  { (p.setActive bank).setIdle {} with
    idle := .empty, clearing := false, kept := [], round := BitVec.ofNat 16 (numAt b 4104 4), cstage := bitOf (numAt b 4108 4) 0,
    shadow := wordsAt b 5152 128 }
/-- A section: TYPE, payload length, payload. -/
def sectionBytes (type : Nat) (payload : List Byte) : List Byte :=
  fieldBytes [(4, type), (4, payload.length), (24, 0)] ++ payload
/-- The record of a cell; `ix` is the place of its opaque state among `State.saved`. -/
def cellRecord (c : Cell) (cellid : Nat) (faulted : Bool) (ix : Nat) : List Byte :=
  let body := sectionBytes 1 (bytesOf 32768 (c.bytes 0 32768)) ++ sectionBytes 2 (c.thr.toList.flatMap Thread.entry) ++
    sectionBytes 3 c.plane.section ++ sectionBytes 4 (bytesOf 32 ix)
  fieldBytes [(4, c.name.toNat + 2 ^ 20 * bit faulted), (4, 32 + body.length), (8, cellid), (16, 0)] ++ body
/-- The bytes of a record (R374). -/
def stride : Nat := 81920

/-! ### The partition section (R373) -/

/-- A GLOBAL command over one record (Table 02.3). -/
def globalWords (target : Nat) (ws : List Nat) : List Nat := (6 * 2 ^ 28 + 2 ^ 16 * target + ws.length) :: ws
/-- A keyring entry as its record (Table 11.1). -/
def KeyEnt.words (i : Nat) (k : KeyEnt) : List Nat :=
  [i + 2 ^ 9 * bit k.skind + 2 ^ 10 * k.sidx + 2 ^ 16 * k.wl + 2 ^ 21 * (k.nslot - 1) + 2 ^ 23 * (k.blk - 1),
   k.tree + 2 ^ 8 * (k.tiles.length - 1)] ++
  k.tiles.flatMap fun t => [t.1 + 2 ^ 6 * t.2.1 + 2 ^ 10 * t.2.2.1 + 2 ^ 14 * bit t.2.2.2.1, t.2.2.2.2.toNat % 2 ^ 32, t.2.2.2.2.toNat / 2 ^ 32]
/-- A tree as its record (Table 12.1). -/
def treeWords (i : Nat) (l : List TreeNode) : List Nat :=
  (i + 2 ^ 8 * (l.length - 1)) :: l.flatMap fun n =>
    [n.name.toNat + 2 ^ 20 * n.lbl, n.pname.toNat + 2 ^ 20 * bit n.loc + 2 ^ 21 * n.plink + 2 ^ 25 * bit n.xp]
/-- A bucket as its record (Table 12.2). -/
def Bucket.words (i : Nat) (b : Bucket) : List Nat :=
  [i + 2 ^ 12 * b.op + 2 ^ 16 * bit b.sup + 2 ^ 17 * bit b.all + 2 ^ 18 * (b.width - 1) + 2 ^ 21 * b.tok, b.tree + 2 ^ 8 * b.rbase]
/-- A circuit as its record (Table 10.6). -/
def Circuit.words (i : Nat) (x : Circuit) : List Nat :=
  [x.sname.toNat + 2 ^ 20 * i, x.dname.toNat, x.sbase + 2 ^ 16 * x.dbase, (x.size - 1) + 2 ^ 8 * x.pidx + 2 ^ 20 * x.lidx]
/-- A stream plan as its record (Table 11.2). -/
def Plan.words (i : Nat) (x : Plan) : List Nat := [i, x.nblk, x.gaddr % 2 ^ 32, x.gaddr / 2 ^ 32, x.gstr]
/-- The structures of a load as GLOBAL commands. -/
def Globals.words (g : Globals) : List Nat :=
  (g.keys.flatMap fun e => globalWords 0 (e.2.words e.1)) ++ (g.trees.flatMap fun e => globalWords 1 (treeWords e.1 e.2)) ++
    (g.bucks.flatMap fun e => globalWords 2 (e.2.words e.1)) ++ (g.circs.flatMap fun e => globalWords 3 (e.2.words e.1)) ++
    g.plans.flatMap fun e => globalWords 4 (e.2.words e.1)
/-- The partition section: the load's structures, then the place of its round state among `State.savedParts`. -/
def partSection (g : Globals) (ix : Nat) : List Byte := (g.words.flatMap (bytesOf 4)) ++ bytesOf 32 ix

/-! ### The context area in the panel virtual space (R373) -/

/-- Where a byte of the area lies, through a die's tables: a weight-store page with W = 1. -/
def State.ctxAt (s : State) (die p va : Nat) : Option Nat :=
  match walkEnd s die (va % 2 ^ 45) p with
  | .ok (g, e) => match targetOf g e (va % 2 ^ 45) with
    | .store m a true _ _ => some (storeAddr m a)
    | _ => none
  | .error _ => none
/-- Write bytes of the area; a byte whose page is not there is not written. -/
def State.ctxPut (s : State) (die p : Nat) : Nat → List Byte → State
  | _, [] => s
  | va, b :: r =>
    ({ s with store := match s.ctxAt die p va with | some a => Sp.set s.store a b | none => s.store } : State).ctxPut die p (va + 1) r
/-- Read bytes of the area; none where a page is not there. -/
def State.ctxGet (s : State) (die p va n : Nat) : Option (List Byte) :=
  (List.range n).foldr (fun i r => match s.ctxAt die p (va + i), r with
    | some a, some l => some (Sp.get s.store a :: l)
    | _, _ => none) (some [])

/-! ### Lead faults (R370) -/

/-- The report of a lead fault: CODE is 0x20 + CAUSE (Table 17.3). -/
def LeadFault.report (x : LeadFault) (p round : Nat) (n : Nat) : Report :=
  { code := 0x20 + x.r.cause.toNat, part := p, round := round, name := n, t := x.t.val, rec_ := some x.r }
/-- The controller ends a partition's round (R370): with a context area it begins to save it; without one it discards the load. -/
def State.endRound (s : State) (p : Nat) (q : Part) (cause : BitVec 8) : State :=
  if q.ctx = 0 then s.discardLoad p
  else if q.preempt.isNone then s.beginPreempt p none cause
  else modPart s p fun q => { q with preempt := q.preempt.map fun x => if x.cause = 0 then { x with cause := cause } else x }
/-- LEAD_FAULT (R370): the controller learns of a cell's lead fault. The first of a round is reported; every cell is marked. A
rotation, an image or a token under way ends first (R363, R372). -/
def execLeadFault (c : Name) (s : State) : Answer :=
  .next (
    let n := c.toNat
    let p := (partOfName s n).getD 64
    match (getCell s n).lead, part s p with
    | some x, some q =>
      if !q.loaded then modCell s n fun c => { c with lead := none }
      else if q.preempt.isNone && !s.canPreempt p q then s
      else
        let first := q.faults.isEmpty
        let round := s.roundOf p
        let s := modCell s n fun c => { c with lead := none }
        let s := modPart s p fun q => { q with faults := q.faults ++ [n] }
        let s := s.endRound p q x.r.cause
        if first then s.reportTo1 q.port (x.report p round n) else s
    | _, _ => s)
/-- HOLD_TIMEOUT (R320, R370): a die's hold memory has been full for 2^20 cycles and nothing in it is releasable. -/
def execHoldTimeout (t : BitVec 6) (s : State) : Answer :=
  .next (
    let u := unitOf s t.toNat
    let die := (physDie s t.toNat).getD 64
    let stuck := u.hold.all fun h => match h.causal with | some c => (u.releasable t.toNat c).isNone | none => true
    match u.fullSince, partOfDie s die with
    | some t0, some p =>
      match part s p with
      | some q =>
        if holdSize ≤ u.hold.length ∧ stuck ∧ 2 ^ 20 ≤ (Sp.get s.dieCycle die - t0).toNat ∧ q.loaded ∧ q.faults.isEmpty ∧ s.canPreempt p q
        then
          let round := s.roundOf p
          (s.endRound p q 0x0D).reportTo1 q.port { code := 0x2D, part := p, round := round, rec_ := some { cause := 0x0D, fpc := 0 } }
        else s
      | none => s
    | _, _ => s)

/-! ### Saving (R372–R374) -/

/-- A cell has completed what a pre-emption completes (Table 16.4, steps 1 and 3): its results, remote ones too, its started
copies and the packets its write streams have begun; no request of an engine is on its way. -/
def State.cellSaved (s : State) (n : Nat) : Bool :=
  let c := getCell s n
  s.cellStill n && (tids.all fun t => (c.th t).outs.all fun o => match o.kind with | .matrix _ => !o.ready | _ => false) &&
    (c.eng.ents.toList.all fun e => match e with | some x => !x.begun | none => true) &&
    (c.eng.strm.toList.all fun x => x.out.isNone && (!(x.bound && x.isWrite) || x.acc.isEmpty)) && c.msg.posted.isEmpty &&
    c.msg.egress.all fun e => match e with | .atom .. => false | .msg _ => true
/-- A thread outside every block, with no other fault to take, has a deferred error that is raised at a pre-emption (R367, R372). -/
def Thread.raisesNow (x : Thread) : Bool :=
  x.deferred.isSome && x.outside && x.st != .faulted && !(match x.wait with | .finish (.fault _) => true | _ => false)
/-- The threads of a partition's listed cells that do (R372, step 1). -/
def State.deferredIn (s : State) (p : Nat) : List (Nat × TIdx) :=
  (partCells s p).flatMap fun n => (tids.filter fun t => ((getCell s n).th t).raisesNow).map fun t => (n, t)
/-- Raise them now (R367, R372). -/
def State.raiseAllDeferred (s : State) (l : List (Nat × TIdx)) : State :=
  l.foldl (fun s e => within s e.1 fun s => match (s.cell.th e.2).deferred with
    | some a => s.fault e.2 { cause := 0x0A, defer := true, fpc := (s.cell.th e.2).pc, faddr := a }
    | none => s) s
/-- Everything that a save waits for; a lead fault on its way reaches the controller first, which marks its cell (R370). -/
def State.saveReady (s : State) (p : Nat) (q : Part) : Bool :=
  q.gvt.isNone && (q.srcs.all fun x => !x.2.flying) && (partCells s p).all fun n => s.cellSaved n && (getCell s n).lead.isNone
/-- The state of a cell as it is kept: with the words of the scratchpad read once (Table 08.2), and how long its reduction timers
have run (R301). -/
def Cell.kept (c : Cell) (since : W64) : Cell :=
  let c := c.touched 0 32768
  let ran (t0 : W64) : W64 := if (since - t0).toNat < 2 ^ 63 then since - t0 else 0
  { c with red := { c.red with slots := c.red.slots.map fun x => { x with t0 := ran x.t0 } }, lead := none, drowsy := false }
/-- The header (Table 16.5): of the 64 bits of POFF and PLEN, 37 for the offset and 27 for the length, so that they hold those of a full panel
with the largest load (assumption 89). -/
def ctxHeader (s : State) (q : Part) (pr : Preempt) (ncell plen : Nat) : List Byte :=
  let dies := (q.logDies s).foldl (fun (l : List Nat) d => (l.filter (· < d)) ++ [d] ++ l.filter (d < ·)) []
  fieldBytes [(4, 0x5843504B), (4, 1), (4, ncell), (4, dies.length), (4, stride), (4, s.mapgen.toNat),
    (4, if pr.cause = 0 then 0 else 1), (4, pr.cause.toNat), (8, 4096 + ncell * stride + 2 ^ 37 * plen), (24, 0)] ++
    dies.map (BitVec.ofNat 8) ++ List.replicate (4096 - 64 - dies.length) 0
/-- The records of some names, each with what is kept of it, into the area and `State.saved`. -/
def State.saveCells (s : State) (die p ctx : Nat) (q : Part) (pr : Preempt) : Nat → List Nat → State
  | _, [] => s
  | i, n :: r =>
    let c := (getCell s n).kept (Sp.get pr.since ((physDie s (nameDie n)).getD 64))
    let id := match curPos s n with | some x => cellId x | none => 0
    let ix := s.saved.length
    let s := { s with saved := s.saved ++ [c] }
    (s.ctxPut die p (ctx + 4096 + i * stride) (cellRecord c id (q.faults.contains n) ix)).saveCells die p ctx q pr (i + 1) r
/-- Steps 4 to 6 of Table 16.4: residual packets, records, partition section; the partition is no more. A cell that
the controller reads in Retain is raised to Run (R352). -/
def State.savePart (s : State) (p : Nat) (q : Part) (pr : Preempt) : State :=
  let die := q.dies.headD 0
  let names := partNames s p
  let ctx := q.ctx.toNat
  let ix := s.savedParts.length
  let sec := partSection q.globals ix
  let s := q.dies.foldl (fun s d => (s.raiseToRun d false).raiseToRun d true) s
  let s := s.ctxPut die p ctx (ctxHeader s q pr names.length sec.length)
  let s := s.saveCells die p ctx q pr 0 names
  let s := s.ctxPut die p (ctx + 4096 + names.length * stride) sec
  let tabs := (s.tables.filter fun c => c.1 / Config.tableBytes == die).map fun c => (c.1 % Config.tableBytes, c.2)
  let r := s.takeResidue p q
  let keep : SavedPart :=
    { num := p, ctx := q.ctx, part := { q with preempt := none, faults := [], token := none, thr := q.thr.unmasked }, tabs := tabs,
      resid := r.m, sres := r.s, cres := r.c }
  let s := { s with savedParts := s.savedParts ++ [keep] }
  ((s.noTraffic p).modCells p Cell.unloaded).dropPart p
/-- PREEMPT_DRAIN_BOUND (R372): the drain is over; deferred errors are raised, and once nothing that completes is outstanding the
partition is saved. -/
def execPreemptDrainBound (p : PartIdx) (s : State) : Answer :=
  .next (match part s p.toNat with
    | none => s
    | some q =>
      match q.preempt with
      | none => s
      | some pr =>
        match s.deferredIn p.toNat with
        | x :: l => s.raiseAllDeferred (x :: l)
        | [] =>
          if s.saveReady p.toNat q then
            let round := s.roundOf p.toNat
            let t := s.savePart p.toNat q pr
            match pr.port with
            | some port => t.respond port { code := 0, part := p.toNat, round := round }
            | none => t
          else s)

/-! ### Restore (R375) -/

/-- CORNERS: the die sites of the rectangle (Table 17.2); none unless x0 ≤ x1 and y0 ≤ y1. -/
def recSites (r : BitVec 512) : Option (List Nat) :=
  let x0 := recBits r 16 3
  let y0 := recBits r 19 3
  let x1 := recBits r 22 3
  let y1 := recBits r 25 3
  if x0 ≤ x1 ∧ y0 ≤ y1 then
    some ((List.range 64).filter fun d => decide (x0 ≤ d % 8 ∧ d % 8 ≤ x1 ∧ y0 ≤ d / 8 ∧ d / 8 ≤ y1))
  else none
/-- The live dies of some sites, in ascending physical order. -/
def State.liveOf (s : State) (l : List Nat) : List Nat := l.filter fun d => (logDie s d).isSome
/-- The tables of a die are replaced. -/
def State.setTables (s : State) (die : Nat) (tabs : Memory) : State :=
  let rest : Memory := s.tables.filter fun c => c.1 / Config.tableBytes != die
  { s with tables := tabs.foldl (fun m c => Sp.set m (die * Config.tableBytes + c.1 % Config.tableBytes) c.2) rest }
/-- The area's parts, as a restore reads them: header, records, partition section. -/
structure Area where
  header : List Byte
  records : List (List Byte)
  section_ : List Byte
  deriving DecidableEq, Repr
/-- Read the area. -/
def State.area (s : State) (die p ctx : Nat) : Option Area :=
  match s.ctxGet die p ctx 4096 with
  | none => none
  | some h =>
    let n := numAt h 8 4
    let recs := (List.range n).map fun i => s.ctxGet die p (ctx + 4096 + i * stride) 50400
    match s.ctxGet die p (ctx + numAt h 32 8 % 2 ^ 37) (numAt h 32 8 / 2 ^ 37) with
    | none => none
    | some sec => if recs.all Option.isSome then some { header := h, records := recs.filterMap id, section_ := sec } else none
/-- DIES of a header. -/
def Area.dies (a : Area) : List Nat := ((a.header.drop 64).take (numAt a.header 12 4)).map BitVec.toNat
/-- Rising strictly. -/
def rising : List Nat → Bool
  | a :: b :: r => decide (a < b) && rising (b :: r)
  | _ => true
/-- NAME of a record. -/
def recName (b : List Byte) : Nat := numAt b 0 4 % 2 ^ 20
/-- A section header at an offset: its type and length. -/
def sectionAt (b : List Byte) (off type len : Nat) : Bool :=
  numAt b off 4 == type && numAt b (off + 4) 4 == len && zeroAt b (off + 8) 24
/-- The sections of a record begin here: 1, 2, 3 and the opaque one. -/
def secOff : List Nat := [32, 32832, 44640, 50336]
/-- The thread entries of a record have a state code of Table 16.7 each, and zero where it says so. -/
def threadsOk (b : List Byte) : Bool :=
  (List.range 8).all fun t =>
    let c := numAt b (32864 + 1472 * t + 1344) 8
    (TState.ofCode (c % 8)).isSome && bits c 56 8 == 0
/-- A record is well formed (R374). -/
def recordOk (b : List Byte) : Bool :=
  bits (numAt b 0 4) 21 11 == 0 && numAt b 4 4 == 50400 && zeroAt b 16 16 && sectionAt b 32 1 32768 && sectionAt b 32832 2 11776 &&
    sectionAt b 44640 3 5664 && sectionAt b 50336 4 32 && threadsOk b
/-- MAGIC, CTXVER, the reserved fields and the sections are well formed (R375). -/
def Area.wellFormed (a : Area) : Bool :=
  let h := a.header
  numAt h 0 4 == 0x5843504B && numAt h 4 4 == 1 && numAt h 16 4 == stride && decide (numAt h 24 4 ≤ 1) && zeroAt h 40 24 &&
    decide (numAt h 12 4 ≤ 64) && zeroAt h (64 + numAt h 12 4) (4032 - numAt h 12 4) && rising a.dies && (a.dies.all (· < 64)) &&
    decide (32 ≤ a.section_.length) && (a.records.all recordOk) && rising (a.records.map recName)
/-- The die map after the rebinding (R375, step 1): saved numbers to the target's dies in ascending order, the target's former
numbers to the dies that had the saved ones. -/
def rebound (old : List Nat) (saved target : List Nat) : List Nat :=
  let former := ((List.range old.length).filter fun l => target.contains (old.getD l 64)).filter fun l => !saved.contains l
  let given := (saved.map fun l => old.getD l 64).filter fun d => !target.contains d
  (List.range old.length).map fun l =>
    match firstIx (· == l) saved 0 with
    | some i => target.getD i 64
    | none => match firstIx (· == l) former 0 with
      | some i => given.getD i 64
      | none => old.getD l 64
/-- A cell under its new name. -/
def Cell.renamed (c : Cell) (n : Nat) : Cell := { c with name := BitVec.ofNat 20 n }
/-- The die map changes; every listed cell stays in its die and takes the name that its place now has. -/
def State.rebind (s : State) (map : List Nat) : State :=
  let name (n : Nat) : Nat := match firstIx (· == (physDie s (nameDie n)).getD 64) map 0 with
    | some l => l * 2 ^ 14 + n % 2 ^ 14
    | none => n
  { s with dieMap := map, cur := name s.cur, cell := s.cell.renamed (name s.cur),
           others := s.others.foldl (fun m e => KM.put m (name e.1) (e.2.renamed (name e.1))) [] }
/-- What a restored cell holds for others, kept inside its partition, as R4 has it where its opaque sections were altered: packets of its
own to cells of the partition, arrivals from them, answers between the partition's dies. -/
def State.confine (s : State) (p n : Nat) (c : Cell) : Cell :=
  let near (q : Pkt) : Bool := q.loc || q.isToken || dieInPart s q.src.toNat p
  let inDies (v : Crossing) : Bool := dieInPart s (v.src * 2 ^ 14) p && v.dst == nameDie n
  { c with
    msg := { c.msg with egress := c.msg.egress.filter fun e => match e with
      | .msg q => q.src.toNat == n && dieInPart s q.dest.toNat p
      | .atom .. => true },
    inbox := { c.inbox with ibuf := c.inbox.ibuf.filter near, rbuf := c.inbox.rbuf.filter near },
    eng := { c.eng with ents := c.eng.ents.map fun e => e.map fun x =>
      { x with todo := x.todo.map fun i => { i with via := i.via.filter inDies } } } }
/-- A cell from its record, over its opaque sections (R4, R374, R375 step 2). -/
def State.restoreCell (s : State) (p : Nat) (b : List Byte) (c : Cell) : State :=
  let n := recName b
  let die := (physDie s (nameDie n)).getD 0
  let sec (off len : Nat) : List Byte := (b.drop (off + 32)).take len
  let now := Sp.get s.dieCycle die
  let c := s.confine p n c
  let c : Cell :=
    { c with
      name := BitVec.ofNat 20 n, part := BitVec.ofNat 6 p, mapgen := s.mapgen,
      thr := Vector.ofFn fun t => (c.th t).ofEntry ((sec 32832 11776).drop (1472 * t.val)),
      plane := c.plane.ofSection (sec 44640 5664),
      pad := { c.pad with mem := Memory.writeNat [] 0 32768 (natOf (sec 32 32768)), ecc1 := [], ecc2 := [] },
      red := { c.red with slots := c.red.slots.map fun x => { x with t0 := now - x.t0 } } }
  within (putCell s n c) n fun s => modFocus s fun c =>
    { c with mx := { c.mx with hstep := BitVec.ofNat 8 (c.mx.hstep.toNat % s.hlen), vstep := BitVec.ofNat 8 (c.mx.vstep.toNat % s.vlen) } }
/-- A partition's access entry: reads and writes of every module (R379). -/
def State.grantAccess (s : State) (p : Nat) : State :=
  { s with access := s.access ++ (List.range 16).map fun m => (p, m, true) }
/-- Every record's cell can take it: named in the target, and no record of the defect map at its place (R375). -/
def State.takesRecords (s : State) (target : List Nat) (a : Area) : Bool :=
  a.records.all fun b =>
    match curPos s (recName b) with
    | some q => target.contains q.die && !(badCells s q.die).contains (q.row * 128 + q.col)
    | none => false
/-- What the opaque sections of an area's records say, which are this model's numbers of the cells it saved; a record whose section
names none that the partition saved under its name was altered (R374, R4). -/
def State.opaqueOf (s : State) (p : Nat) (a : Area) : List (List Byte × Cell) :=
  a.records.map fun b =>
    let own := (s.saved[numAt b 50368 32]?).filter fun c => c.name.toNat == recName b && c.part.toNat == p
    (b, own.getD ((Config.alteredCell s.freeIx (recName b)).getD {}))
/-- The round state that a partition section names, of those that the partition itself left (R373, R4). -/
def State.sectionOf (s : State) (p : Nat) (a : Area) : Option SavedPart :=
  (s.savedParts[numAt a.section_ (a.section_.length - 32) 32]?).filter (·.num == p)
/-- The parser of a GLOBAL command's records. -/
def State.recordsOf (s : State) (p target : Nat) : RecParser :=
  match target with
  | 0 => keyRecord
  | 1 => treeRecord
  | 2 => bucketRecord
  | 3 => circuitRecord s p
  | _ => planRecord
/-- The GLOBAL commands of a partition section, replayed (R375, step 3); none where one is not well formed. -/
def State.replay (s : State) (p : Nat) : Nat → List W32 → Globals → Option Globals
  | 0, _, g => some g
  | _ + 1, [], g => some g
  | k + 1, w :: r, g =>
    let n := bits w.toNat 0 16
    if cmdOf w ≠ 6 ∨ bits w.toNat 20 8 ≠ 0 ∨ 4 < bits w.toNat 16 4 ∨ r.length < n then none
    else match records (s.recordsOf p (bits w.toNat 16 4)) n 1 (r.take n) g with
      | .ok g => s.replay p k (r.drop n) g
      | .error _ => none
/-- The words of the section before its round state. -/
def Area.globals (a : Area) : List W32 :=
  (List.range ((a.section_.length - 32) / 4)).map fun i => BitVec.ofNat 32 (numAt a.section_ (4 * i) 4)
/-- A partition stands on a target: its record, and its dies' islands awake, since none of a running round is in Retain or Gated
(R351, R352). -/
def State.settlePart (s : State) (p : Nat) (q : Part) : State :=
  q.dies.foldl (fun s d => (s.wakeIsland d false).wakeIsland d true) { s with parts := KM.put s.parts p q }
/-- The restore itself (R375): the partition's cells, its residual packets, its rings to retune. -/
def State.restorePart (s : State) (p : Nat) (q : Part) (k : SavedPart) (cells : List (List Byte × Cell)) : State :=
  let s := cells.foldl (fun s e => (s.restoreCell p e.1 e.2).reselect (recName e.1) 8) s
  let s := s.grantAccess p
  let s := (q.logDies s).foldl (fun s t => setUnit s t {}) s
  { s.putResidue (BitVec.ofNat 6 p) k with rings := s.rings ++ q.globals.ringIds.map fun i => (p, i, false) }
/-- A RESTORE ends with RESTORE_MISMATCH, the cause of Table 16.1 in REPORT (R375, R382). -/
def State.mismatch (s : State) (port : Port) (p : Nat) : State :=
  s.respond port { code := 0x2E, part := p, round := s.roundOf p, rec_ := some { cause := 0x0E, fpc := 0 } }
/-- RESTORE of a record that R381 lets through (R375). The area is read through the tables that the pre-emption of the partition
left, which the target's dies take; an area that its pages do not hold is MALFORMED, and so is a
partition section that cannot be replayed. -/
def State.restoreAt (s : State) (port : Port) (r : BitVec 512) (sites : List Nat) : State :=
  let p := recPart r
  let ctx := recBits r 192 64
  let target := s.liveOf sites
  if (part s p).isSome ∨ (sites.any fun d => (partOfDie s d).isSome) then s.endReq port p 0x11
  else if target.isEmpty then s.mismatch port p
  else
    let t := match s.savedParts.reverse.find? fun k => k.num == p && k.ctx.toNat == ctx with
      | some k => target.foldl (fun (s : State) d => s.setTables d k.tabs) s
      | none => s
    match t.area (target.headD 0) p ctx with
    | none => s.endReq port p malformed
    | some a =>
      if !a.wellFormed then s.endReq port p malformed
      else if target.length ≠ a.dies.length then s.mismatch port p
      else
        let t := t.rebind (rebound t.dieMap a.dies target)
        if !t.takesRecords target a then s.mismatch port p
        else
          match t.sectionOf p a with
          | none => s.endReq port p malformed
          | some k =>
            let q := { k.part with dies := target, sites := sites, ctx := BitVec.ofNat 64 (recBits r 192 64) }
            match (t.settlePart p q).replay p a.globals.length a.globals {} with
            | none => s.endReq port p malformed
            | some g =>
              let q := { q with globals := g }
              fresh (((t.settlePart p q).restorePart p q k (t.opaqueOf p a)).endReq port p 0)

end Sys2Proof.Machine
end

