-- ==== Sys2Proof/Machine/Host.lean ====
section
/-! DEFINITION. The host ports (R377–R384, R386, R387): the hasp, requests and their checks, BAR0, BAR2, host tokens, gateways, the
management port and the controller's watchdog. -/

namespace Sys2Proof.Machine

/-! ### Register writes (Table 17.1) -/

/-- A write of bytes at an offset touches a register of `size` bytes at `base`. -/
def touchesReg (base size off : Nat) (bytes : List Byte) : Bool := decide (off < base + size) && decide (base < off + bytes.length)
/-- The value of a register of `size` bytes at `base` after a write of bytes at an offset; bytes that are not written keep their old
value. -/
def regWrite (old base size off : Nat) (bytes : List Byte) : Nat :=
  natOf ((List.range size).map fun i =>
    if off ≤ base + i ∧ base + i < off + bytes.length then bytes.getD (base + i - off) 0 else BitVec.ofNat 8 (old / 256 ^ i))

/-! ### The hasp (R378) -/

/-- The hasp goes to a port, if it is free. -/
def State.takeHasp (s : State) (q : Port) : State := if s.hasp.isNone then { s with hasp := some q, haspLast := q } else s
/-- The other port. -/
def otherPort : Port → Port | .a => .b | .b => .a
/-- The next event is an ACQ of a port. -/
def State.asksNext (s : State) (q : Port) : Bool :=
  match s.agenda with
  | .haspAcq p :: _ => p == q
  | .hostRegisterWrite p off bytes :: _ => p == q && bitOf (regWrite 0 0x100 8 off.toNat bytes) 0
  | _ => false
/-- An ACQ (R378): while the hasp is held nothing changes; of two that arrive together, the next event being the other port's, the
one of the port that held it last gives way. -/
def State.acquire (s : State) (q : Port) : State :=
  if !s.booted then s
  else if s.haspLast = q ∧ s.asksNext (otherPort q) then s
  else s.takeHasp q
/-- HASP_ACQ (R378). -/
def execHaspAcq (q : Port) (s : State) : Answer := .next (s.acquire q)
/-- Number of a port: 0 for A, 1 for B. -/
def portNum : Port → Nat | .a => 0 | .b => 1
/-- The entries of both ports as the hasp's holder leaves them: a free value, since no operation of the manual says what it writes (R379,
assumption 18). -/
def State.writeEntries (s : State) : State :=
  fresh { s with portAccess := [Port.a, .b].flatMap fun q => (List.range 80).filterMap fun k =>
    (Config.portEntry s.freeIx (portNum q) k).map fun w => (q, k, w) }
/-- The holder gives the hasp up, and what it has written of the ports' access entries stands (R378, R379). -/
def State.giveUp (s : State) (q : Port) : State := if s.hasp = some q then { s.writeEntries with hasp := none } else s
/-- HASP_REL (R378). -/
def execHaspRel (q : Port) (s : State) : Answer := .next (s.giveUp q)
/-- HASP_LINK_DOWN (R378): the holder's link has been down for 10 ms. -/
def execHaspLinkDown (s : State) : Answer := .next (match s.hasp with | some q => s.giveUp q | none => s)
/-- MANAGEMENT_CLEAR_HASP (R378, R387). -/
def execManagementClearHasp (s : State) : Answer := .next (match s.hasp with | some q => s.giveUp q | none => s)

/-! ### Requests (R381, R382) -/

/-- Bits of the record that an operation uses, as (lowest, count) (Table 17.2). -/
def recUses (op : Nat) : List (Nat × Nat) :=
  [(0, 8), (8, 6)] ++
    if op = 1 then [(16, 12), (32, 4), (64, 64), (128, 32), (160, 16), (176, 16), (192, 64), (256, 12), (288, 32), (320, 128), (448, 32)]
    else if op = 2 then [(64, 64), (128, 32)]
    else if op = 3 then [(33, 2)]
    else if op = 5 then [(16, 12), (192, 64)]
    else if op = 7 then [(176, 16), (256, 12), (320, 128), (448, 32)]
    else if op = 8 then [(64, 16), (80, 12), (96, 12), (112, 12)]
    else []
/-- The used bits as a mask. -/
def usedMask (op : Nat) : BitVec 512 := BitVec.ofNat 512 ((recUses op).foldl (fun m f => m ||| ((2 ^ f.2 - 1) <<< f.1)) 0)
/-- Operations that need the hasp (R378). -/
def needsHasp (op : Nat) : Bool := [1, 4, 5, 6, 7, 8].contains op
/-- A nonzero unused field or another reserved value of the record (R381, Table 17.2). -/
def recMalformed (r : BitVec 512) : Bool :=
  let op := recOp r
  r &&& ~~~(usedMask op) != 0 || ((op == 1 || op == 3) && recAction r == 3) || ((op == 1 || op == 2) && recIlen r % 4 != 0) ||
    ((op == 1 || op == 5) && (recSites r).isNone) || (op == 8 && (decide (16 ≤ recBits r 64 16) || [80, 96, 112].any fun b => recBits r b 12 == 4095))
/-- The words of an image, read from the host by DMA (R42, R382). -/
def State.dma (s : State) (r : BitVec 512) : List W32 :=
  (List.range (recIlen r / 4)).map fun k => BitVec.ofNat 32 (Memory.readNat s.hostMem (recImage r + 4 * k) 4)
/-- The image of a request joins those that the controller applies. -/
def State.takeImage (s : State) (q : Port) (r : BitVec 512) (next : Bool) : State :=
  { s with images := s.images ++ [{ port := q, part := BitVec.ofNat 6 (recPart r), next := next, words := s.dma r }] }
/-- The partition that a LAUNCH creates. -/
def launchedPart (q : Port) (r : BitVec 512) (dies : List Nat) : Part :=
  { port := q, dies := dies, debug := bitOf r.toNat 32, action := actionOf (recAction r), strel := bitOf r.toNat 35,
    strm := BitVec.ofNat 16 (recBits r 160 16), tol := BitVec.ofNat 16 (recBits r 176 16), ctx := BitVec.ofNat 64 (recBits r 192 64),
    sites := (recSites r).getD [], rounds := BitVec.ofNat 32 (recBits r 288 32), rotMs := (recRotp r).1, rotTh := rotThreshold r, rotEn := (recRotp r).2.2 }
/-- The page tables that a LAUNCH writes, the same in every live die (R31, R382; assumption 19). -/
def State.launchTables (s : State) (dies : List Nat) : State :=
  let tabs : Memory := (Config.launchTables s.freeIx).foldl (fun m c => Sp.set m (c.1 % Config.tableBytes) c.2) []
  fresh (dies.foldl (fun s d => s.setTables d tabs) s)
/-- LAUNCH: the checks, the partition, its tables, its access entry, its power settings, its image (R382). -/
def State.doLaunch (s : State) (q : Port) (r : BitVec 512) : State :=
  let p := recPart r
  let sites := (recSites r).getD []
  if (part s p).isSome ∨ (sites.any fun d => (partOfDie s d).isSome) then s.endReq q p 0x11
  else if (s.liveOf sites).isEmpty then s.endReq q p 0x02
  else
    let s := ({ s with parts := KM.put s.parts p (launchedPart q r (s.liveOf sites)) } : State).launchTables (s.liveOf sites)
    let s := (s.modCells p fun c => { c with part := BitVec.ofNat 6 p }).grantAccess p
    (s.powerDies p r).takeImage q r false
/-- The partition holds no load. -/
def State.noLoad (s : State) (p : Nat) : Bool := match part s p with | some q => !q.loaded | none => true
/-- NEXT (R382). -/
def State.doNext (s : State) (q : Port) (r : BitVec 512) : State :=
  let p := recPart r
  if s.reqOn p then s.endReq q p busyCode
  else if s.noLoad p then s.endReq q p 0x13
  else (modPart s p fun x => { x with loadOk := false }).takeImage q r true
/-- ROUND (R382): after a PAUSE an action other than PAUSE also sends the start command. -/
def State.doRound (s : State) (q : Port) (r : BitVec 512) : State :=
  let p := recPart r
  if s.noLoad p then s.endReq q p 0x13
  else
    let a := actionOf (recAction r)
    (modPart s p fun x =>
      { x with action := a, startAct := if x.paused && x.token.isNone && x.startAct.isNone && a != .pause then some a else x.startAct }).endReq q p 0
/-- A request that waits (R363, R372). -/
def State.postpone (s : State) (q : Port) (r : BitVec 512) : State := s.modPort q fun x => { x with pend := some r }
/-- PREEMPT (R372): without a context area there is nowhere to save to, RANGE. -/
def State.doPreempt (s : State) (q : Port) (r : BitVec 512) : State :=
  let p := recPart r
  match part s p with
  | none => s.endReq q p 0x13
  | some x =>
    if !x.loaded && !s.imageOf p then s.endReq q p 0x13
    else if x.ctx = 0 then s.endReq q p 0x02
    else if s.canPreempt p x then (s.beginPreempt p (some q) 0).modPort q fun y => { y with pend := none }
    else s.postpone q r
/-- RELEASE (R382): it waits for an image or a pre-emption of the partition to end. -/
def State.doRelease (s : State) (q : Port) (r : BitVec 512) : State :=
  let p := recPart r
  match part s p with
  | none => s.endReq q p 0x13
  | some x =>
    if s.imageOf p || x.preempt.isSome || s.rotatingIn x then s.postpone q r
    else ((s.discardLoad p).dropPart p).endReq q p 0
/-- POWER (R382). -/
def State.doPower (s : State) (q : Port) (r : BitVec 512) : State :=
  let p := recPart r
  if (part s p).isNone then s.endReq q p 0x13
  else
    let s := modPart s p fun x =>
      { x with tol := BitVec.ofNat 16 (recBits r 176 16), rotMs := (recRotp r).1, rotTh := rotThreshold r, rotEn := (recRotp r).2.2 }
    (s.powerDies p r).endReq q p 0
/-- GATEWAY (R380): the tags between a partition and a panel link. -/
def State.doGateway (s : State) (q : Port) (r : BitVec 512) : State :=
  let p := recPart r
  let link := recBits r 64 16
  let tags := ([80, 96, 112].map fun b => recBits r b 12).filter (· ≠ 0)
  if (part s p).isNone then s.endReq q p 0x13
  else
    ({ s with gateways := (s.gateways.filter fun g => !(g.part.toNat == p && g.link == link)) ++
        [{ part := BitVec.ofNat 6 p, link := link, tags := tags }] } : State).endReq q p 0
/-- What an accepted request does. -/
def State.serve (s : State) (q : Port) (r : BitVec 512) : State :=
  match recOp r with
  | 1 => s.doLaunch q r
  | 2 => s.doNext q r
  | 3 => s.doRound q r
  | 4 => s.doPreempt q r
  | 5 => s.restoreAt q r ((recSites r).getD [])
  | 6 => s.doRelease q r
  | 7 => s.doPower q r
  | 8 => s.doGateway q r
  | _ => s.endReq q (recPart r) malformed
/-- A BAR2 access refused, or a token or a GO discarded (Table 17.1). -/
def State.hostError (s : State) (q : Port) : State := s.modPort q fun x => { x with herr := satInc x.herr }
/-- GO (R381): while BUSY, before boot too, it is discarded and counted; else the record is copied, and the checks follow in their
order. -/
def State.ring (s : State) (q : Port) : State :=
  let x := s.port q
  let r := x.launch
  let p := recPart r
  if x.busy then s.hostError q
  else if recOp r = 0 ∨ 8 < recOp r then s.endReq q p malformed
  else if needsHasp (recOp r) ∧ s.hasp ≠ some q then s.endReq q p 0x10
  else if recMalformed r then s.endReq q p malformed
  else (s.modPort q fun x => { x with busy := true }).serve q r
/-- A request of an operation that waits goes on (R363, R372); otherwise a GO by a port whose record has the operation. -/
def State.request (s : State) (q : Port) (op : Nat) : Answer :=
  .next (match (s.port q).pend with
    | some r => if recOp r = op then s.serve q r else if recOp (s.port q).launch = op then s.ring q else s
    | none => if recOp (s.port q).launch = op then s.ring q else s)
/-- LAUNCH (R382). -/
def execLaunch (q : Port) (s : State) : Answer := s.request q 1
/-- NEXT (R382). -/
def execNext (q : Port) (s : State) : Answer := s.request q 2
/-- ROUND (R382). -/
def execRound (q : Port) (s : State) : Answer := s.request q 3
/-- PREEMPT (R372). -/
def execPreempt (q : Port) (s : State) : Answer := s.request q 4
/-- RESTORE (R375). -/
def execRestore (q : Port) (s : State) : Answer := s.request q 5
/-- RELEASE (R382). -/
def execRelease (q : Port) (s : State) : Answer := s.request q 6
/-- POWER (R382). -/
def execPower (q : Port) (s : State) : Answer := s.request q 7
/-- GATEWAY (R380). -/
def execGateway (q : Port) (s : State) : Answer := s.request q 8
/-- The reduction timers of a partition whose pre-emption is given up go on from where it found them (R301). -/
def State.resumeTimers (s : State) (p : Nat) (x : Preempt) : State :=
  (partCells s p).foldl (fun s n => modCell s n fun c =>
    let d := (physDie s (nameDie n)).getD 64
    { c with red := { c.red with slots := c.red.slots.map (·.thaw (Sp.get s.dieCycle d) (Sp.get x.since d)) } }) s
/-- CONTROLLER_WATCHDOG (R387): the firmware restarts; requests in progress end with BUSY, rounds go on, and so does a save for
a lead fault. -/
def execControllerWatchdog (s : State) : Answer :=
  .next (
    let s := s.images.foldl (fun s i => s.endReq i.port i.part.toNat busyCode) { s with images := [] }
    let s := [Port.a, Port.b].foldl (fun s q => match (s.port q).pend with
      | some r => s.endReq q (recPart r) busyCode
      | none => s) s
    s.parts.foldl (fun s e => match e.2.preempt with
      | some x => match x.port with
        | some q =>
          (if x.cause = 0 then modPart (s.resumeTimers e.1 x) e.1 fun y => { y with preempt := none }
           else modPart s e.1 fun y => { y with preempt := some { x with port := none } }).endReq q e.1 busyCode
        | none => s
      | none => s) s)

/-! ### Host tokens (R383) -/

/-- The message of a token. -/
def tokenPkt (q : Port) (seq : BitVec 16) (d : V256) : Pkt :=
  { dest := d.extractLsb' 0 20, src := BitVec.ofNat 20 (portNum q), cls := 1, chan := 57, seq := seq,
    pay := [(d.extractLsb' 64 192).setWidth 256] }
/-- A partition is in a round: a start command has set out (R382) and no round-end token since. -/
def Part.inRound (q : Part) : Bool :=
  q.loaded && q.preempt.isNone && (match q.token with | some k => !k.ends | none => !q.paused || q.startAct.isSome)
/-- A token write (R383): a message to its cell, or a discard, which HERR counts; a partition under pre-emption takes none (R372). -/
def State.token (s : State) (q : Port) (d : V256) (whole : Bool) : State :=
  let x := s.port q
  let p := x.winPart.toNat
  let n := (d.extractLsb' 0 20).toNat
  match part s p with
  | none => s.hostError q
  | some y =>
    if !whole || d.extractLsb' 20 12 != 0 || !s.holds p n || !y.inRound then s.hostError q
    else
      let s := s.modPort q fun x => { x with tokens := x.tokens + 1 }
      match curPos s n with
      | some z => s.injectAt (routerOf z) (tokenPkt q x.tokens d) 0
      | none => s
/-- HOST_TOKEN (R383). -/
def execHostToken (q : Port) (d : V256) (whole : Bool) (s : State) : Answer := .next (s.token q d whole)

/-! ### BAR2 (R377, R352, R379) -/

/-- What a host access finds at a byte: its place; a fault of R30; a refusal by the table of a target; an island in Gated or Retain; a
cell that responds to no host write. -/
inductive HostAt where
  | at_ (t : Target)
  | refused
  | denied (target : Nat)
  | gated
  | retained (die : Nat) (east : Bool)
  deriving DecidableEq, Repr
/-- The access completes as Unsupported Request. -/
def HostAt.stops : HostAt → Bool | .refused => true | .denied _ => true | _ => false
/-- A port's access entry lets it reach a partition, or 64 + a module (R379; assumption 18). -/
def State.portGrants (s : State) (q : Port) (k : Nat) (wr : Bool) : Bool := s.portAccess.any fun a => a.1 == q && a.2.1 == k && (a.2.2 || !wr)
/-- The place of a byte of a port's window: through the partition's tables (R29–R31), the access entries of the port (R379), and the
state of the island (R352); a cell under pre-emption responds to no write (R372). -/
def State.hostAt (s : State) (q : Port) (p : Nat) (y : Part) (va : Nat) (wr : Bool) : HostAt :=
  match walkEnd s (y.dies.headD 0) va p with
  | .error _ => .refused
  | .ok (g, e) =>
    if wr && !bitOf e 1 then .refused
    else match targetOf g e va with
      | .store m a w c al => if s.portGrants q (64 + m) wr then .at_ (.store m a w c al) else .denied m
      | .pad n o =>
        if !s.portGrants q p wr then .denied (64 + p)
        else if wr && y.preempt.isSome then .refused
        else match curPos s n with
          | none => .refused
          | some z =>
            let east := decide (64 ≤ z.col)
            match (s.island z.die east).st with
            | .gated => .gated
            | .retain => .retained z.die east
            | _ => .at_ (.pad n o)
/-- The addresses of an access through BAR2. -/
def PortSt.window (x : PortSt) (off n : Nat) : List Nat := (List.range n).map fun i => (x.winBase.toNat * 2 ^ 36 + off + i) % 2 ^ 45
/-- An island leaves Retain for an access (R352). -/
def State.raiseIsland (s : State) : HostAt → State
  | .retained d e => s.raiseToRun d e
  | _ => s
/-- The bytes of an access are all within the window and reach a partition. -/
def State.hostAccess (s : State) (q : Port) (off n : Nat) (wr : Bool) : Option (Nat × Part × List (Nat × HostAt)) :=
  let x := s.port q
  let p := x.winPart.toNat
  match part s p with
  | none => none
  | some y =>
    if n = 0 ∨ 2 ^ 36 < off + n then none
    else some (p, y, (x.window off n).map fun va => (va, s.hostAt q p y va wr))
/-- A refused access is counted by the port, and by each target whose table refused it (R377, R379). -/
def State.refuseHost (s : State) (q : Port) (l : List (Nat × HostAt)) : State :=
  let ks := (l.filterMap fun e => match e.2 with | .denied k => some k | _ => none).eraseDups
  ks.foldl (fun s k => { s with refused := countDie s.refused k }) (s.hostError q)
/-- A byte follows another in one 64-bit word of one cell or module. -/
def Target.follows (a b : Target) : Bool :=
  match a, b with
  | .pad n o, .pad m p => n == m && p == o + 1 && o / 8 == p / 8
  | .store m x _ _ _, .store k y _ _ _ => m == k && y == x + 1 && x / 8 == y / 8
  | _, _ => false
/-- Where a run of bytes starts, and its bytes; the place after its first one. -/
structure HostRun where
  tgt  : Target
  next : Target
  bytes : List Byte
  deriving DecidableEq, Repr
/-- Places and bytes as runs, each within one word: a host access takes one point a word (R209). -/
def hostRuns : List (Target × Byte) → List HostRun
  | [] => []
  | (t, b) :: r =>
    match hostRuns r with
    | x :: rest => if t.follows x.tgt then { tgt := t, next := x.tgt, bytes := b :: x.bytes } :: rest else ⟨t, t, [b]⟩ :: x :: rest
    | [] => [⟨t, t, [b]⟩]
/-- A run written at its place, a word written whole with fresh check bits (R211). -/
def State.hostPut (s : State) (x : HostRun) : State :=
  match x.tgt with
  | .pad n o => within s n (·.padStore o x.bytes.length (natOf x.bytes))
  | .store m a _ _ _ => s.moduleWrite m a x.bytes.length (natOf x.bytes)
/-- A run read at its place; a read of scratchpad wakes a Drowsy cell (R352). -/
def State.hostGet (s : State) (x : HostRun) : State × Option (List Byte) :=
  let n := x.bytes.length
  match x.tgt with
  | .pad c _ =>
    let r := (modCell s c Cell.awake).globalRead 0 n x.tgt 2
    (r.1, match r.2 with | .ok v => some (bytesOf n v) | .error _ => none)
  | .store m a _ _ _ =>
    (s, if (List.range n).any fun i => s.lineBad m (a + i) then none else some (bytesOf n (s.moduleRead m a n)))
/-- The places of an access, once its islands are awake. -/
def State.hostPlaces (s : State) (q : Port) (y : Part) (l : List (Nat × HostAt)) (wr : Bool) : List Target :=
  l.filterMap fun e => match s.hostAt q (s.port q).winPart.toNat y e.1 wr with | .at_ t => some t | _ => none
/-- BAR2_WRITE (R377): every page is translated first; one that faults or is refused refuses all; a byte for a Gated cell is reported
as GATED (R352). The words of one access are written together (R310; assumption 116). -/
def execBar2Write (q : Port) (off : BitVec 36) (bytes : List Byte) (s : State) : Answer :=
  .next (match s.hostAccess q off.toNat bytes.length true with
    | none => s.hostError q
    | some (_, y, l) =>
      if l.any (·.2.stops) then s.refuseHost q l
      else if l.any (·.2 == .gated) then (s.hostError q).modPort q fun x => { x with code := 0x12 }
      else
        let s := l.foldl (fun s e => s.raiseIsland e.2) s
        (hostRuns ((s.hostPlaces q y l true).zip bytes)).foldl State.hostPut s)
/-- BAR2_READ (R377, R352): the data, or Unsupported Request. -/
def execBar2Read (q : Port) (off : BitVec 36) (n : Nat) (s : State) : Answer :=
  .next (
    let fail (s : State) : State := s.modPort q fun x => { x with reads := x.reads ++ [none] }
    match s.hostAccess q off.toNat n false with
    | none => fail (s.hostError q)
    | some (_, y, l) =>
      if l.any (·.2.stops) then fail (s.refuseHost q l)
      else if l.any (·.2 == .gated) then fail (s.modPort q fun x => { x with code := 0x12 })
      else
        let s := l.foldl (fun s e => s.raiseIsland e.2) s
        let r := (hostRuns ((s.hostPlaces q y l false).map fun t => (t, 0))).foldl (fun (r : State × Option (List Byte)) x =>
          let z := r.1.hostGet x
          (z.1, match r.2, z.2 with | some bs, some b => some (bs ++ b) | _, _ => none)) (s, some [])
        match r.2 with
        | some bs => r.1.modPort q fun x => { x with reads := x.reads ++ [some bs] }
        | none => fail (r.1.hostError q))

/-! ### BAR0 (R8, Table 17.1) -/

/-- OWNER (Table 17.1). -/
def ownerCode : Option Port → Nat | none => 0 | some .a => 1 | some .b => 2
/-- STATUS of a port. -/
def State.statusWord (s : State) (q : Port) : Nat :=
  let x := s.port q
  x.code.toNat + 2 ^ 8 * bit x.done + 2 ^ 9 * bit x.busy + 2 ^ 10 * bit s.gradeLow + 2 ^ 32 * x.herr.toNat
/-- WINSEL of a port. -/
def PortSt.winsel (x : PortSt) : Nat := x.winPart.toNat + 2 ^ 6 * x.winBase.toNat
/-- The registers of BAR0 that read as more than zero: base, size in bytes, value. -/
def State.bar0Regs (s : State) (q : Port) : List (Nat × Nat × Nat) :=
  [(0x100, 8, 4 * ownerCode s.hasp), (0x110, 8, s.statusWord q), (0x118, 8, (s.port q).winsel),
   (0x400, 32, (s.port q).report.toNat), (0x1000, 64, (s.port q).launch.toNat)]
/-- What a host read of BAR0 returns for a byte (R8, R377): the field's state; zero for a field that triggers an action, and for an offset
that is not listed. A read changes nothing. -/
def State.bar0Byte (s : State) (q : Port) (off : Nat) : Byte :=
  match (s.bar0Regs q).find? fun r => decide (r.1 ≤ off ∧ off < r.1 + r.2.1) with
  | some r => BitVec.ofNat 8 (r.2.2 / 256 ^ (off - r.1))
  | none => 0
/-- A host read of `n` bytes of BAR0. -/
def State.bar0Read (s : State) (q : Port) (off n : Nat) : List Byte := (List.range n).map fun i => s.bar0Byte q (off + i)
/-- A write to STATUS (W1C, RW): DONE and HERR. -/
def PortSt.writeStatus (x : PortSt) (off : Nat) (bytes : List Byte) : PortSt :=
  { x with done := x.done && !bitOf (regWrite 0 0x110 8 off bytes) 8,
           herr := BitVec.ofNat 16 (regWrite (2 ^ 32 * x.herr.toNat) 0x110 8 off bytes / 2 ^ 32) }
/-- A write to WINSEL. -/
def PortSt.writeWinsel (x : PortSt) (off : Nat) (bytes : List Byte) : PortSt :=
  let v := regWrite x.winsel 0x118 8 off bytes
  { x with winPart := BitVec.ofNat 6 v, winBase := BitVec.ofNat 9 (v / 2 ^ 6) }
/-- A write to LAUNCH. -/
def PortSt.writeLaunch (x : PortSt) (off : Nat) (bytes : List Byte) : PortSt :=
  { x with launch := BitVec.ofNat 512 (regWrite x.launch.toNat 0x1000 64 off bytes) }
/-- A write to HASP: ACQ, then REL (R378). -/
def State.writeHasp (s : State) (q : Port) (off : Nat) (bytes : List Byte) : State :=
  let v := regWrite 0 0x100 8 off bytes
  let s := if bitOf v 0 then s.acquire q else s
  if bitOf v 1 then s.giveUp q else s
/-- A write to TOKEN: one of its 32 bytes, or a discard (R383). -/
def State.writeToken (s : State) (q : Port) (off : Nat) (bytes : List Byte) : State :=
  s.token q (BitVec.ofNat 256 (regWrite 0 0x200 32 off bytes)) (off == 0x200 && bytes.length == 32)
/-- HOST_REGISTER_WRITE (R8, R377): a write of bytes at an offset of BAR0 reaches every register that it touches, GO last; every other
offset ignores it. -/
def execHostRegisterWrite (q : Port) (off : BitVec 16) (bytes : List Byte) (s : State) : Answer :=
  .next (
    let k := off.toNat
    let on (base size : Nat) (f : State → State) (s : State) : State := if touchesReg base size k bytes then f s else s
    let s := on 0x100 8 (·.writeHasp q k bytes) s
    let s := on 0x110 8 (·.modPort q (·.writeStatus k bytes)) s
    let s := on 0x118 8 (·.modPort q (·.writeWinsel k bytes)) s
    let s := on 0x200 32 (·.writeToken q k bytes) s
    let s := on 0x1000 64 (·.modPort q (·.writeLaunch k bytes)) s
    if bitOf (regWrite 0 0x108 8 k bytes) 0 then s.ring q else s)

/-! ### Panel links and management (R386, R387) -/

/-- A bucket as word 0 of its record without its timeout: TAG, OP, NANP, ALL, WIDTH (R300, Table 12.2). -/
def Bucket.match_ (tag : Nat) (b : Bucket) : Nat := (b.words tag).headD 0 % 2 ^ 21
/-- The nodes of a tree whose parent is across a link (R300). -/
def Globals.ups (g : Globals) (tree link : Nat) : List TreeNode := (g.tree tree).filter fun n => n.xp && n.plink == link && !n.isRoot
/-- A tag is set alike on both sides of a link: the same OP, NANP, ALL and WIDTH, and on each side the edges across it that the other has, with
the same parent and label (R300). -/
def Globals.agrees (g : Globals) (link tag : Nat) (remote : List LinkTag) : Bool :=
  match KM.get g.bucks tag, remote.find? fun w => w.word.toNat % 2 ^ 12 == tag with
  | some b, some w =>
    let ups := (g.ups b.tree link).map fun n => (n.pname, BitVec.ofNat 3 n.lbl)
    w.word.toNat % 2 ^ 21 == b.match_ tag && ups.all w.ups.contains && w.ups.all ups.contains
  | none, none => true
  | _, _ => false
/-- What a frame carries, as an S-plane message has it. -/
def linkContribution (tag : Nat) (k : LinkPart) : Contribution :=
  { tag := tag, epoch := k.epoch,
    part := { empty := k.empty, partial_ := k.partial_, nan := k.nan, missing := k.missing, data := if k.empty then [] else k.data } }
/-- TAG of a frame. -/
def frameTag : LinkFrame → Nat | .contrib t _ _ _ _ => t.toNat | .credit t _ => t.toNat | .result t _ _ => t.toNat
/-- A node here whose parent is across the link. -/
def Part.upNode (q : Part) (link tag : Nat) (node : Name) : Bool :=
  match KM.get q.globals.bucks tag with
  | some b => (q.globals.ups b.tree link).any (·.name == node)
  | none => false
/-- A node here has, with this label, a child across the link (R300). -/
def Part.farChild (q : Part) (link tag : Nat) (node : Name) (lbl : Nat) : Bool :=
  match KM.get q.globals.bucks tag with
  | some b => (q.globals.ups b.tree link).any fun n => n.pname == node && n.lbl == lbl
  | none => false
/-- A frame goes on into a partition: to its node; a contribution that the two loads do not agree on is dropped and counted there, with
its credit returned (R295, R300), and anything else that finds no node is dropped and counted at the edge (R380). -/
def State.frameIn (s : State) (p link : Nat) (q : Part) (ok : Bool) (f : LinkFrame) : State :=
  let pi : PartIdx := BitVec.ofNat 6 p
  let drop : State := { s with crossing := countDie s.crossing (256 + link) }
  match f with
  | .contrib t c n l k =>
    if ok && q.farChild link t.toNat n l.toNat then s.sput (.contrib pi n l.toNat (linkContribution t.toNat k))
    else if s.holds p n.toNat then
      (modCell s n.toNat (·.modRed fun r => { r with drop := satInc r.drop })).overLink p link t.toNat (.credit pi c t.toNat)
    else drop
  | .credit t n => if q.upNode link t.toNat n then s.sput (.credit pi n t.toNat) else drop
  | .result t n k => if q.upNode link t.toNat n then s.sput (.result pi n (linkContribution t.toNat k)) else drop
/-- A frame arrives by a link: a gateway lets it through to its partition, if the link's access entry grants that (R379, R380); without
one it is dropped and counted at the edge. -/
def State.linkIn (s : State) (link : Nat) (remote : List LinkTag) (f : LinkFrame) : State :=
  match s.gateways.find? fun g => g.link == link && g.tags.contains (frameTag f) with
  | none => { s with crossing := countDie s.crossing (256 + link) }
  | some g =>
    if !s.linkAccess.any fun a => a.1 == link && a.2.1 == g.part.toNat && a.2.2 then { s with refused := countDie s.refused (64 + g.part.toNat) }
    else match part s g.part.toNat with
      | some q => s.frameIn g.part.toNat link q (q.globals.agrees link (frameTag f) remote) f
      | none => { s with crossing := countDie s.crossing (256 + link) }
/-- PANEL_GATEWAY_EXCHANGE (R300, R386): the tags that the panel behind a link has set; a tag of a gateway that the two sides set
otherwise is reported as RANGE on the launching port. With them come the S-plane packets that the link brings. -/
def execPanelGatewayExchange (link : BitVec 4) (remote : LinkInput) (s : State) : Answer :=
  .next (
    let s := (s.gateways.filter fun g => g.link == link.toNat).foldl (fun s g =>
      match part s g.part.toNat with
      | none => s
      | some q =>
        if g.tags.all fun t => q.globals.agrees link.toNat t remote.tags then s
        else s.reportTo1 q.port { code := outOfRange, part := g.part.toNat, round := s.roundOf g.part.toNat }) s
    remote.frames.foldl (fun s f => s.linkIn link.toNat remote.tags f) s)
/-- Live dies and named cells of the merged map, as the shortfall is reported (R1). -/
def State.capacity (s : State) : Nat × Nat :=
  (s.dieMap.length, s.dieMap.foldl (fun n d => n + (16384 - absentNames s d)) 0)
/-- What a management read returns (R387): records of the merged map; live dies and named cells of a shortfall; per die the discards
and the undelivered floods, then the accesses refused by each target (R379) and the parity errors of each slice (R282); the crossings
of each hinge, then of each link (R24, R380); per tumbler the four sensors. -/
def State.mgmtRead (s : State) : MgmtItem → List W64
  | .defectMap => s.merged
  | .gradeShortfall => if s.gradeLow then [BitVec.ofNat 64 (s.capacity.1 + 2 ^ 32 * s.capacity.2)] else []
  | .errorCounters => ((List.range 64).map fun d => BitVec.ofNat 64 ((Sp.get s.discarded d).toNat + 2 ^ 32 * (Sp.get s.undelivered d).toNat)) ++
      ((List.range 129).map fun k => (Sp.get s.refused k).setWidth 64) ++ ((List.range 1024).map fun k => (Sp.get s.parity k).setWidth 64)
  | .crossingCounters => (List.range 272).map fun d => (Sp.get s.crossing d).setWidth 64
  | .sensors => s.tumblers.map fun e => BitVec.ofNat 64 (e.1 + 2 ^ 32 * (e.2.t0.toNat + 2 ^ 8 * e.2.t1.toNat + 2 ^ 16 * e.2.t2.toNat + 2 ^ 24 * e.2.t3.toNat))
/-- MANAGEMENT_READ (R379, R387): the management port's entry at the controller grants it. -/
def execManagementRead (what : MgmtItem) (s : State) : Answer :=
  .next (if s.mgmtAccess.any (·.1 == 128) then { s with mgmt := s.mgmt ++ s.mgmtRead what }
         else { s with refused := countDie s.refused 128 })
/-- MANAGEMENT_FIRMWARE_UPDATE (R387): it takes effect at the next boot. -/
def execManagementFirmwareUpdate (v : W32) (s : State) : Answer := .next { s with fwNew := some v }
/-- DELTA_RECORD_APPEND (R17): a record, with the generation in force. -/
def execDeltaRecordAppend (r : W64) (s : State) : Answer :=
  .next { s with delta := s.delta ++ [insBits r 32 32 s.mapgen.toNat] }

/-! ### Boot (R1, R17–R22, R207, R385) -/

/-- The generation after one more merge that takes in a new record; 0 is never used (R17). -/
def nextGen (g : W32) : W32 := if g = 0xFFFFFFFF then 1 else g + 1
/-- A die that firmware declares dead: recorded, failed at self-test, or with too few names (R19). -/
def State.deadDie (s : State) (failed : List DieSite) (d : Nat) : Bool :=
  (s.merged.any fun r => recKind r == 3 && recDie r == d) || (failed.any (·.toNat == d)) || decide (1024 < absentNames s d)
/-- The panel as power comes up: what is not volatile stays. -/
def State.cold (s : State) : State :=
  { factory := s.factory, delta := s.delta, taken := s.taken, mapgen := s.mapgen, grade := s.grade, tables := s.tables, store := s.store,
    hostMem := s.hostMem, mgmt := s.mgmt, tick := s.tick, freeIx := s.freeIx, agenda := s.agenda, saved := s.saved,
    savedParts := s.savedParts, firmware := s.fwNew.getD s.firmware }
/-- Live dies and named cells that a grade must have (Table 00.1). -/
def gradeMinimum (s : Bool) : Nat × Nat := if s then (63, 1030000) else (62, 1000000)
/-- The delta records of the dies that the self-test condemns: KIND 0x3, with the generation in force; none for a die that the map
already records as dead (R17, R18; assumption 68). -/
def State.condemn (s : State) (failed : List DieSite) : List W64 :=
  (failed.eraseDups.filter fun d => !(s.factory ++ s.delta).any fun r => recOk r && recKind r == 3 && recDie r == d.toNat).map fun d =>
    BitVec.ofNat 64 (3 + 2 ^ 4 * d.toNat + 2 ^ 32 * s.mapgen.toNat)
/-- POWER_UP (R385): the self-tests, the merge, the dies and their numbers, the names; the hasp is free and the ports are open. A
shortfall is reported as one word, the live dies in its low half and the named cells above them (R1; assumption 103). -/
def execPowerUp (failed : List DieSite) (s : State) : Answer :=
  .next (
    let s := { s with delta := s.delta ++ s.condemn failed }
    let all := s.factory ++ s.delta
    let new := (s.delta.drop s.taken).any recOk
    let s := { s.cold with merged := all.filter recOk, mgmt := s.mgmt ++ all.filter fun r => !recOk r,
                           mapgen := if new then nextGen s.mapgen else s.mapgen, taken := s.delta.length }
    let dead := (List.range 64).filter (s.deadDie failed)
    let s := { s with failed := dead, dieMap := (List.range 64).filter fun d => !dead.contains d }
    let min := gradeMinimum s.grade
    let low := decide (s.capacity.1 < min.1 ∨ s.capacity.2 < min.2)
    let short := BitVec.ofNat 64 (s.capacity.1 + 2 ^ 32 * s.capacity.2)
    let s := { s with gradeLow := low, mgmt := if low then s.mgmt ++ [short] else s.mgmt, booted := true, hasp := none, haspLast := .b }
    let s := { s with portA := { s.portA with busy := false }, portB := { s.portB with busy := false } }
    { s with cell := freshCell s s.cur })

end Sys2Proof.Machine
end

