-- ==== Sys2Proof/Machine/Scalar.lean ====
section
/-! DEFINITION. The scalar integer, compare, predicate, immediate and bit-field instructions (R110–R125). -/

namespace Sys2Proof.Machine

/-- Layout I, a register result: f(a, b) on lane 0 (R110, R111). -/
def scalarI (h : Hdr) (d a : Spec) (b : BitVec 6) (x : BitVec 2) (f : W64 → W64 → W64) (s : State) : Answer :=
  issue h 1 false (fun _ => !okSpecs [d] (srcsI a b x) || x == 3)
    (produces (srcsI a b x) d fun s => .low (f (s.src0 a) (s.opB a b x))) s
/-- Two register operands (R112, R114). -/
def scalarR (h : Hdr) (d a b : Spec) (f : W64 → W64 → W64) (s : State) : Answer :=
  issue h 1 false (fun _ => !okSpecs [d] [a, b]) (produces [a, b] d fun s => .low (f (s.src0 a) (s.src0Next [a] b))) s
/-- One register operand of an instruction of `len` words (R115, R116, R124). -/
def scalarU (h : Hdr) (len : Nat) (d a : Spec) (bad : Bool) (f : W64 → W64) (s : State) : Answer :=
  issue h len false (fun _ => !okSpecs [d] [a] || bad) (produces [a] d fun s => .low (f (s.src0 a))) s

/-- ADD (R111). -/
def execAdd (h : Hdr) (d a b : Spec) (x : BitVec 2) (s : State) : Answer := scalarI h d a b x (· + ·) s
/-- SUB (R111). -/
def execSub (h : Hdr) (d a b : Spec) (x : BitVec 2) (s : State) : Answer := scalarI h d a b x (· - ·) s
/-- MUL (R111). -/
def execMul (h : Hdr) (d a b : Spec) (x : BitVec 2) (s : State) : Answer := scalarI h d a b x (· * ·) s
/-- AND (R111). -/
def execAnd (h : Hdr) (d a b : Spec) (x : BitVec 2) (s : State) : Answer := scalarI h d a b x (· &&& ·) s
/-- OR (R111). -/
def execOr (h : Hdr) (d a b : Spec) (x : BitVec 2) (s : State) : Answer := scalarI h d a b x (· ||| ·) s
/-- XOR (R111). -/
def execXor (h : Hdr) (d a b : Spec) (x : BitVec 2) (s : State) : Answer := scalarI h d a b x (· ^^^ ·) s
/-- ANDN (R111). -/
def execAndn (h : Hdr) (d a b : Spec) (x : BitVec 2) (s : State) : Answer := scalarI h d a b x (fun a b => a &&& ~~~b) s

/-- A shift left by an unsigned 64-bit count; 0 for 64 or more (R111). -/
def shl64 (a n : W64) : W64 := if n.toNat < 64 then a <<< n.toNat else 0
/-- A logical shift right (R113). -/
def shr64 (a n : W64) : W64 := if n.toNat < 64 then a >>> n.toNat else 0
/-- An arithmetic shift right by min(n, 63) (R113). -/
def sar64 (a n : W64) : W64 := a.sshiftRight (Nat.min n.toNat 63)
/-- SHL (R111). -/
def execShl (h : Hdr) (d a b : Spec) (x : BitVec 2) (s : State) : Answer := scalarI h d a b x shl64 s
/-- SHR (R113): X = 0b00 and 0b11 take a register count, 0b01 and 0b10 the unsigned immediate. -/
def execShr (h : Hdr) (d a b : Spec) (x : BitVec 2) (s : State) : Answer :=
  let reg := x == 0 || x == 3
  let srcs := if reg then [a, b] else [a]
  issue h 1 false (fun _ => !okSpecs [d] srcs)
    (produces srcs d fun s =>
      let n := if reg then s.src0Next [a] b else zx64 b
      .low (if x = 0 ∨ x = 1 then shr64 (s.src0 a) n else sar64 (s.src0 a) n)) s

/-- The high half of the exact product, signed for X = 0 (R112). -/
def mulh64 (x : BitVec 1) (a b : W64) : W64 :=
  if x = 0 then ((a.signExtend 128 * b.signExtend 128).extractLsb' 64 64)
  else ((a.setWidth 128 * b.setWidth 128).extractLsb' 64 64)
/-- MULH (R112). -/
def execMulh (h : Hdr) (d a b : Spec) (x : BitVec 1) (s : State) : Answer := scalarR h d a b (mulh64 x) s

/-- The quotient of R112, truncated toward zero. -/
def div64 (x : BitVec 1) (a b : W64) : W64 :=
  if b = 0 then -1 else if x = 0 then BitVec.ofInt 64 (a.toInt.tdiv b.toInt) else a / b
/-- The remainder of R112, of the dividend's sign. -/
def rem64 (x : BitVec 1) (a b : W64) : W64 :=
  if b = 0 then a else if x = 0 then BitVec.ofInt 64 (a.toInt.tmod b.toInt) else a % b
/-- A long-latency result on lane 0 that the divider gives; not eligible while it is busy (R65, R103, R112). -/
def divides (h : Hdr) (d a b : Spec) (f : W64 → W64 → W64) (s : State) : Answer :=
  eligible (fun s => s.cell.dividerNeed) (issue h 1 false (fun _ => !okSpecs [d] [a, b])
    (fun s => match s.streamNeed [a, b] [d] with
      | some n => .need n
      | none => .done ((s.popAll [a, b]).outstanding d 64 (ofLane0 (f (s.src0 a) (s.src0Next [a] b))) none .divider))) s
/-- DIV (R112). -/
def execDiv (h : Hdr) (d a b : Spec) (x : BitVec 1) (s : State) : Answer := divides h d a b (div64 x) s
/-- REM (R112). -/
def execRem (h : Hdr) (d a b : Spec) (x : BitVec 1) (s : State) : Answer := divides h d a b (rem64 x) s

/-- MIN (R114). -/
def execMin (h : Hdr) (d a b : Spec) (s : State) : Answer := scalarR h d a b (fun a b => if b.slt a then b else a) s
/-- MAX (R114). -/
def execMax (h : Hdr) (d a b : Spec) (s : State) : Answer := scalarR h d a b (fun a b => if a.slt b then b else a) s
/-- MINU (R114). -/
def execMinu (h : Hdr) (d a b : Spec) (s : State) : Answer := scalarR h d a b (fun a b => if b.ult a then b else a) s
/-- MAXU (R114). -/
def execMaxu (h : Hdr) (d a b : Spec) (s : State) : Answer := scalarR h d a b (fun a b => if a.ult b then b else a) s

/-- Zeros above the highest one of an n-bit number; n for zero. -/
def clz (n v : Nat) : Nat := if v = 0 then n else n - 1 - Nat.log2 v
/-- The lowest set bit below `n`; n for zero. -/
def ctz (n v : Nat) : Nat := ((List.range n).find? fun i => bitOf v i).getD n
/-- Set bits below `n`. -/
def popc (n v : Nat) : Nat := ((List.range n).filter fun i => bitOf v i).length
/-- BITC's operations (R115). -/
def bitc64 (x : BitVec 2) (a : W64) : W64 :=
  match x.toNat with
  | 0 => BitVec.ofNat 64 (clz 64 a.toNat)
  | 1 => BitVec.ofNat 64 (ctz 64 a.toNat)
  | 2 => BitVec.ofNat 64 (popc 64 a.toNat)
  | _ => a.reverse
/-- BITC (R115). -/
def execBitc (h : Hdr) (d a : Spec) (x : BitVec 2) (s : State) : Answer := scalarU h 1 d a false (bitc64 x) s
/-- EXT's selection (R116). -/
def ext64 (sgn : BitVec 6) (x : BitVec 2) (a : W64) : W64 :=
  let z := sgn == 0
  match x.toNat with
  | 0 => if z then zx64 (a.extractLsb' 0 8) else sx64 (a.extractLsb' 0 8)
  | 1 => if z then zx64 (a.extractLsb' 0 16) else sx64 (a.extractLsb' 0 16)
  | _ => if z then zx64 (a.extractLsb' 0 32) else sx64 (a.extractLsb' 0 32)
/-- EXT (R116). -/
def execExt (h : Hdr) (d a : Spec) (sgn : BitVec 6) (x : BitVec 2) (s : State) : Answer :=
  scalarU h 1 d a (decide (1 < sgn.toNat) || x == 3) (ext64 sgn x) s
/-- MOV (R117): all 256 bits, or lane 0 only. -/
def execMov (h : Hdr) (d a : Spec) (x : BitVec 2) (s : State) : Answer :=
  issue h 1 false (fun _ => !okSpecs [d] [a] || decide (1 < x.toNat))
    (produces [a] d fun s => if x = 0 then .whole (s.src a) else .low (s.src0 a)) s

/-- CMP (R118). -/
def execCmp (h : Hdr) (cond pd : BitVec 3) (a : Spec) (b : BitVec 6) (x : BitVec 2) (s : State) : Answer :=
  issue h 1 false (fun _ => !okSpecs [] (srcsI a b x) || x == 3 || pd == 0)
    (putsPred (srcsI a b x) fun s t => t.setPred pd (cmpCond cond (s.src0 a) (s.opB a b x))) s
/-- FCMP (R119). -/
def execFcmp (h : Hdr) (cond pd : BitVec 3) (a b : Spec) (s : State) : Answer :=
  issue h 1 false (fun _ => !okSpecs [] [a, b] || pd == 0)
    (putsPred [a, b] fun s t =>
      t.setPred pd (fcmpCond cond ((s.src0 a).extractLsb' 0 32) ((s.src0Next [a] b).extractLsb' 0 32))) s
/-- PLOG (R121). -/
def execPlog (h : Hdr) (pd : BitVec 3) (na : BitVec 1) (pa : BitVec 3) (nb : BitVec 1) (pb : BitVec 3) (x : BitVec 2)
    (s : State) : Answer :=
  issue h 1 false (fun _ => pd == 0)
    (putsPred [] fun _ t => t.setPred pd (plogOp x (t.pred pa != (na == 1)) (t.pred pb != (nb == 1)))) s
/-- PSET from a constant bit (R122). -/
def execPset (h : Hdr) (pd : BitVec 3) (v : BitVec 1) (s : State) : Answer :=
  issue h 1 false (fun _ => pd == 0) (putsPred [] fun _ t => t.setPred pd (v == 1)) s
/-- PSET.BIT (R122). -/
def execPsetBit (h : Hdr) (pd : BitVec 3) (a : Spec) (n : BitVec 6) (s : State) : Answer :=
  issue h 1 false (fun _ => pd == 0 || !srcOk a) (putsPred [a] fun s t => t.setPred pd ((s.src0 a).getLsbD n.toNat)) s
/-- PSET.ALL (R122). -/
def execPsetAll (h : Hdr) (a : Spec) (s : State) : Answer :=
  issue h 1 false (fun _ => !srcOk a) (putsPred [a] fun s t => t.setPreds ((s.src0 a).extractLsb' 0 8)) s
/-- PRD (R123). -/
def execPrd (h : Hdr) (d : Spec) (s : State) : Answer :=
  issue h 1 false (fun _ => !dstOk d) (produces [] d fun s => .low (zx64 s.me.preds)) s

/-- MOVI's value (Table 04.12). -/
def movi64 (x : BitVec 2) (imm : W32) (old : W64) : W64 :=
  if x = 0 then zx64 imm else if x = 1 then sx64 imm else imm ++ old.extractLsb' 0 32
/-- MOVI (R124): MOVI.HI reads D. -/
def execMovi (h : Hdr) (d : Spec) (x : BitVec 2) (imm : W32) (s : State) : Answer :=
  let srcs := if x = 2 then [d] else []
  issue h 2 false (fun _ => !dstOk d || x == 3) (produces srcs d fun s => .low (movi64 x imm (s.src0 d))) s
/-- ADDI (R124). -/
def execAddi (h : Hdr) (d a : Spec) (x : BitVec 2) (imm : W32) (s : State) : Answer :=
  scalarU h 2 d a (decide (1 < x.toNat)) (fun a => a + (if x = 0 then sx64 imm else zx64 imm)) s
/-- ANDI (R124). -/
def execAndi (h : Hdr) (d a : Spec) (x : BitVec 2) (imm : W32) (s : State) : Answer :=
  scalarU h 2 d a (decide (1 < x.toNat)) (fun a => a &&& (if x = 0 then zx64 imm else sx64 imm)) s
/-- ORI (R124). -/
def execOri (h : Hdr) (d a : Spec) (x : BitVec 2) (imm : W32) (s : State) : Answer :=
  scalarU h 2 d a (decide (1 < x.toNat)) (fun a => a ||| (if x = 0 then zx64 imm else sx64 imm)) s

/-- BFX's value: bits [l + w − 1 : l] of a, extended (R125). -/
def bfx64 (x : BitVec 2) (l w : Nat) (a : W64) : W64 :=
  BitVec.ofInt 64 (if x = 0 then ((bits a.toNat l w : Nat) : Int) else sintOf w (bits a.toNat l w))
/-- BFX (R125). -/
def execBfx (h : Hdr) (d a : Spec) (x : BitVec 2) (lsb wm1 : BitVec 6) (s : State) : Answer :=
  scalarU h 2 d a (decide (1 < x.toNat) || decide (64 < lsb.toNat + wm1.toNat + 1)) (bfx64 x lsb.toNat (wm1.toNat + 1)) s
/-- BFI (R125): D is a source. -/
def execBfi (h : Hdr) (d a : Spec) (lsb wm1 : BitVec 6) (s : State) : Answer :=
  issue h 2 false (fun _ => !okSpecs [d] [a] || decide (64 < lsb.toNat + wm1.toNat + 1))
    (produces [a, d] d fun s => .low (insBits (s.src0Next [a] d) lsb.toNat (wm1.toNat + 1) (s.src0 a).toNat)) s

end Sys2Proof.Machine
end

