-- ==== Sys2Proof/Machine/Dispatch.lean ====
section
/-! DEFINITION. One arm per row of spec/opcode_table.json. -/

namespace Sys2Proof.Machine

/-- What an instruction, or an event of the part, does to the panel. -/
def exec (i : Instr) (s : State) : Host.Outcome State Fault Refusal :=
  match i with
  | .nop h => Sys2Proof.Machine.execNop h s
  | .br h o => Sys2Proof.Machine.execBr h o s
  | .call h o => Sys2Proof.Machine.execCall h o s
  | .jmp h a => Sys2Proof.Machine.execJmp h a s
  | .callr h a => Sys2Proof.Machine.execCallr h a s
  | .ret h a => Sys2Proof.Machine.execRet h a s
  | .loop h a len x => Sys2Proof.Machine.execLoop h a len x s
  | .stop h => Sys2Proof.Machine.execStop h s
  | .bcast h mask len off => Sys2Proof.Machine.execBcast h mask len off s
  | .fetchb h a => Sys2Proof.Machine.execFetchb h a s
  | .joinm h d a => Sys2Proof.Machine.execJoinm h d a s
  | .joinmF h d a => Sys2Proof.Machine.execJoinmF h d a s
  | .yield h => Sys2Proof.Machine.execYield h s
  | .hret h => Sys2Proof.Machine.execHret h s
  | .trap h a code => Sys2Proof.Machine.execTrap h a code s
  | .brk h a code => Sys2Proof.Machine.execBrk h a code s
  | .tctlResume h a => Sys2Proof.Machine.execTctlResume h a s
  | .tctlKill h a => Sys2Proof.Machine.execTctlKill h a s
  | .tctlReset h a => Sys2Proof.Machine.execTctlReset h a s
  | .sysrd h d n => Sys2Proof.Machine.execSysrd h d n s
  | .syswr h d n => Sys2Proof.Machine.execSyswr h d n s
  | .fpcWrite h d => Sys2Proof.Machine.execFpcWrite h d s
  | .add h d a b x => Sys2Proof.Machine.execAdd h d a b x s
  | .sub h d a b x => Sys2Proof.Machine.execSub h d a b x s
  | .mul h d a b x => Sys2Proof.Machine.execMul h d a b x s
  | .mulh h d a b x => Sys2Proof.Machine.execMulh h d a b x s
  | .div h d a b x => Sys2Proof.Machine.execDiv h d a b x s
  | .rem h d a b x => Sys2Proof.Machine.execRem h d a b x s
  | .and h d a b x => Sys2Proof.Machine.execAnd h d a b x s
  | .or h d a b x => Sys2Proof.Machine.execOr h d a b x s
  | .xor h d a b x => Sys2Proof.Machine.execXor h d a b x s
  | .andn h d a b x => Sys2Proof.Machine.execAndn h d a b x s
  | .shl h d a b x => Sys2Proof.Machine.execShl h d a b x s
  | .shr h d a b x => Sys2Proof.Machine.execShr h d a b x s
  | .min h d a b => Sys2Proof.Machine.execMin h d a b s
  | .max h d a b => Sys2Proof.Machine.execMax h d a b s
  | .minu h d a b => Sys2Proof.Machine.execMinu h d a b s
  | .maxu h d a b => Sys2Proof.Machine.execMaxu h d a b s
  | .bitc h d a x => Sys2Proof.Machine.execBitc h d a x s
  | .ext h d a sgn x => Sys2Proof.Machine.execExt h d a sgn x s
  | .mov h d a x => Sys2Proof.Machine.execMov h d a x s
  | .cmp h cond pd a b x => Sys2Proof.Machine.execCmp h cond pd a b x s
  | .fcmp h cond pd a b => Sys2Proof.Machine.execFcmp h cond pd a b s
  | .plog h pd na pa nb pb x => Sys2Proof.Machine.execPlog h pd na pa nb pb x s
  | .pset h pd v => Sys2Proof.Machine.execPset h pd v s
  | .psetBit h pd a n => Sys2Proof.Machine.execPsetBit h pd a n s
  | .psetAll h a => Sys2Proof.Machine.execPsetAll h a s
  | .prd h d => Sys2Proof.Machine.execPrd h d s
  | .ld h d a off x => Sys2Proof.Machine.execLd h d a off x s
  | .lds h d a off x => Sys2Proof.Machine.execLds h d a off x s
  | .st h d a off x => Sys2Proof.Machine.execSt h d a off x s
  | .ldv h d a off => Sys2Proof.Machine.execLdv h d a off s
  | .stv h d a off => Sys2Proof.Machine.execStv h d a off s
  | .ldvBc h d a off => Sys2Proof.Machine.execLdvBc h d a off s
  | .aop h d a op => Sys2Proof.Machine.execAop h d a op s
  | .waita h d a b x => Sys2Proof.Machine.execWaita h d a b x s
  | .vadd h d a b x => Sys2Proof.Machine.execVadd h d a b x s
  | .vsub h d a b x => Sys2Proof.Machine.execVsub h d a b x s
  | .vmul h d a b x => Sys2Proof.Machine.execVmul h d a b x s
  | .vfma h d a b x => Sys2Proof.Machine.execVfma h d a b x s
  | .vminmax h d a b x => Sys2Proof.Machine.execVminmax h d a b x s
  | .vun h d a x => Sys2Proof.Machine.execVun h d a x s
  | .vred h d a x => Sys2Proof.Machine.execVred h d a x s
  | .vcmp h pd m a b x => Sys2Proof.Machine.execVcmp h pd m a b x s
  | .vsel h d a b x => Sys2Proof.Machine.execVsel h d a b x s
  | .vshuf h d a b x => Sys2Proof.Machine.execVshuf h d a b x s
  | .vbc h d a b x => Sys2Proof.Machine.execVbc h d a b x s
  | .vlog h d a b x => Sys2Proof.Machine.execVlog h d a b x s
  | .vsh h d a b x => Sys2Proof.Machine.execVsh h d a b x s
  | .vlane h d a k x => Sys2Proof.Machine.execVlane h d a k x s
  | .vscale h d a b x => Sys2Proof.Machine.execVscale h d a b x s
  | .vrint h d a x => Sys2Proof.Machine.execVrint h d a x s
  | .cvt h d a t r x => Sys2Proof.Machine.execCvt h d a t r x s
  | .qblk h d a b x => Sys2Proof.Machine.execQblk h d a b x s
  | .dqblk h d a b x => Sys2Proof.Machine.execDqblk h d a b x s
  | .vspec h d a fn => Sys2Proof.Machine.execVspec h d a fn s
  | .pfx h fs fd sc rs => Sys2Proof.Machine.execPfx h fs fd sc rs s
  | .setfmt h sc ef rf rs => Sys2Proof.Machine.execSetfmt h sc ef rf rs s
  | .setfmtF h ef rf => Sys2Proof.Machine.execSetfmtF h ef rf s
  | .mlease h d m => Sys2Proof.Machine.execMlease h d m s
  | .mleaseTry h d m => Sys2Proof.Machine.execMleaseTry h d m s
  | .mrel h m => Sys2Proof.Machine.execMrel h m s
  | .mzero h m => Sys2Proof.Machine.execMzero h m s
  | .mma h t m a b x => Sys2Proof.Machine.execMma h t m a b x s
  | .mmr h t a b x => Sys2Proof.Machine.execMmr h t a b x s
  | .mstS h t a off => Sys2Proof.Machine.execMstS h t a off s
  | .mstR h d t => Sys2Proof.Machine.execMstR h d t s
  | .mstL h t a off => Sys2Proof.Machine.execMstL h t a off s
  | .cbload h a => Sys2Proof.Machine.execCbload h a s
  | .mred h t a x => Sys2Proof.Machine.execMred h t a x s
  | .sbind h d a => Sys2Proof.Machine.execSbind h d a s
  | .sctlUnbind h d => Sys2Proof.Machine.execSctlUnbind h d s
  | .sctlDrain h d => Sys2Proof.Machine.execSctlDrain h d s
  | .sctlRewind h d => Sys2Proof.Machine.execSctlRewind h d s
  | .cget h d a b x => Sys2Proof.Machine.execCget h d a b x s
  | .cput h d a b x => Sys2Proof.Machine.execCput h d a b x s
  | .wopen h a n => Sys2Proof.Machine.execWopen h a n s
  | .wopenC h n => Sys2Proof.Machine.execWopenC h n s
  | .binit h a ix => Sys2Proof.Machine.execBinit h a ix s
  | .barr h d ix => Sys2Proof.Machine.execBarr h d ix s
  | .barrE h ix => Sys2Proof.Machine.execBarrE h ix s
  | .barrP h d ix => Sys2Proof.Machine.execBarrP h d ix s
  | .bwait h d a ix => Sys2Proof.Machine.execBwait h d a ix s
  | .send h d a b x => Sys2Proof.Machine.execSend h d a b x s
  | .ratom h d a cls x => Sys2Proof.Machine.execRatom h d a cls x s
  | .clmask h d a x => Sys2Proof.Machine.execClmask h d a x s
  | .lrel h n => Sys2Proof.Machine.execLrel h n s
  | .lrelR h a => Sys2Proof.Machine.execLrelR h a s
  | .rdcon h d a b => Sys2Proof.Machine.execRdcon h d a b s
  | .rdconE h d a => Sys2Proof.Machine.execRdconE h d a s
  | .timeTnow h d => Sys2Proof.Machine.execTimeTnow h d s
  | .timeTgvt h d => Sys2Proof.Machine.execTimeTgvt h d s
  | .timeTdefer h d a b => Sys2Proof.Machine.execTimeTdefer h d a b s
  | .fence h kind x => Sys2Proof.Machine.execFence h kind x s
  | .movi h d x imm => Sys2Proof.Machine.execMovi h d x imm s
  | .addi h d a x imm => Sys2Proof.Machine.execAddi h d a x imm s
  | .andi h d a x imm => Sys2Proof.Machine.execAndi h d a x imm s
  | .ori h d a x imm => Sys2Proof.Machine.execOri h d a x imm s
  | .bfx h d a x lsb wm1 => Sys2Proof.Machine.execBfx h d a x lsb wm1 s
  | .bfi h d a lsb wm1 => Sys2Proof.Machine.execBfi h d a lsb wm1 s
  | .ldL h d a sgn x imm => Sys2Proof.Machine.execLdL h d a sgn x imm s
  | .stL h d a x imm => Sys2Proof.Machine.execStL h d a x imm s
  | .mmaL h t a b x steps skip mbase => Sys2Proof.Machine.execMmaL h t a b x steps skip mbase s
  | .mmrL h t a b x steps => Sys2Proof.Machine.execMmrL h t a b x steps s
  | .sbindL h d doff start => Sys2Proof.Machine.execSbindL h d doff start s
  | .cgetL h d a b x rows gstr => Sys2Proof.Machine.execCgetL h d a b x rows gstr s
  | .cputL h d a b x rows gstr => Sys2Proof.Machine.execCputL h d a b x rows gstr s
  | .sendL h a b x name chan cls => Sys2Proof.Machine.execSendL h a b x name chan cls s
  | .ratomL h d a opc cls post => Sys2Proof.Machine.execRatomL h d a opc cls post s
  | .rdconL h d a x loff wm1 => Sys2Proof.Machine.execRdconL h d a x loff wm1 s
  | .longLatencyWriteback c t k => Sys2Proof.Machine.execLongLatencyWriteback c t k s
  | .leadFault c => Sys2Proof.Machine.execLeadFault c s
  | .bcastDelivery c => Sys2Proof.Machine.execBcastDelivery c s
  | .joinmComplete c => Sys2Proof.Machine.execJoinmComplete c s
  | .messageArrival k => Sys2Proof.Machine.execMessageArrival k s
  | .spillQueueBind c => Sys2Proof.Machine.execSpillQueueBind c s
  | .ingressToSpill c => Sys2Proof.Machine.execIngressToSpill c s
  | .latchedEventEntry c => Sys2Proof.Machine.execLatchedEventEntry c s
  | .depositComplete c t => Sys2Proof.Machine.execDepositComplete c t s
  | .routerForward k => Sys2Proof.Machine.execRouterForward k s
  | .nameTableAgeing die => Sys2Proof.Machine.execNameTableAgeing die s
  | .rotationNotice die u => Sys2Proof.Machine.execRotationNotice die u s
  | .egressInject c => Sys2Proof.Machine.execEgressInject c s
  | .acknowledgement k => Sys2Proof.Machine.execAcknowledgement k s
  | .remoteAtomicPerform k => Sys2Proof.Machine.execRemoteAtomicPerform k s
  | .atomicResponse k => Sys2Proof.Machine.execAtomicResponse k s
  | .torusExchangeArrival k => Sys2Proof.Machine.execTorusExchangeArrival k s
  | .matrixExecute c => Sys2Proof.Machine.execMatrixExecute c s
  | .leaseGrant c => Sys2Proof.Machine.execLeaseGrant c s
  | .reductionOutputDrain c => Sys2Proof.Machine.execReductionOutputDrain c s
  | .contributionArrival k => Sys2Proof.Machine.execContributionArrival k s
  | .slotTimeout c tag => Sys2Proof.Machine.execSlotTimeout c tag s
  | .creditReturn k => Sys2Proof.Machine.execCreditReturn k s
  | .resultDelivery k => Sys2Proof.Machine.execResultDelivery k s
  | .copyTransfer c e => Sys2Proof.Machine.execCopyTransfer c e s
  | .copyCompletionWrite c e => Sys2Proof.Machine.execCopyCompletionWrite c e s
  | .copyError c e => Sys2Proof.Machine.execCopyError c e s
  | .engineArrivalFire c r => Sys2Proof.Machine.execEngineArrivalFire c r s
  | .streamRefill c n => Sys2Proof.Machine.execStreamRefill c n s
  | .streamWriteOut c n => Sys2Proof.Machine.execStreamWriteOut c n s
  | .pageWalkComplete k => Sys2Proof.Machine.execPageWalkComplete k s
  | .shootdown part lo hi => Sys2Proof.Machine.execShootdown part lo hi s
  | .shootdownAcknowledge die rtu => Sys2Proof.Machine.execShootdownAcknowledge die rtu s
  | .circuitSourceRead c id => Sys2Proof.Machine.execCircuitSourceRead c id s
  | .circuitLand k => Sys2Proof.Machine.execCircuitLand k s
  | .circuitCredit k => Sys2Proof.Machine.execCircuitCredit k s
  | .blockSend part key => Sys2Proof.Machine.execBlockSend part key s
  | .lightFrameLanding c n ix good => Sys2Proof.Machine.execLightFrameLanding c n ix good s
  | .releaseReport c n => Sys2Proof.Machine.execReleaseReport c n s
  | .releaseCombine k => Sys2Proof.Machine.execReleaseCombine k s
  | .sourceCountReceipt k => Sys2Proof.Machine.execSourceCountReceipt k s
  | .ringRetune part ix => Sys2Proof.Machine.execRingRetune part ix s
  | .roundEndToken c => Sys2Proof.Machine.execRoundEndToken c s
  | .heldSwapApply c => Sys2Proof.Machine.execHeldSwapApply c s
  | .bankClear c => Sys2Proof.Machine.execBankClear c s
  | .startCommand part => Sys2Proof.Machine.execStartCommand part s
  | .completionWaveStart part => Sys2Proof.Machine.execCompletionWaveStart part s
  | .completionWaveAnswer c => Sys2Proof.Machine.execCompletionWaveAnswer c s
  | .completionWaveResult part => Sys2Proof.Machine.execCompletionWaveResult part s
  | .timedMessageBind c => Sys2Proof.Machine.execTimedMessageBind c s
  | .timedQueueEntry c => Sys2Proof.Machine.execTimedQueueEntry c s
  | .antiMessageArrival k => Sys2Proof.Machine.execAntiMessageArrival k s
  | .gvtInterval part => Sys2Proof.Machine.execGvtInterval part s
  | .gvtRequest c => Sys2Proof.Machine.execGvtRequest c s
  | .gvtStart c => Sys2Proof.Machine.execGvtStart c s
  | .gvtPassResult part => Sys2Proof.Machine.execGvtPassResult part s
  | .gvtCommit c => Sys2Proof.Machine.execGvtCommit c s
  | .causalStamp k => Sys2Proof.Machine.execCausalStamp k s
  | .causalArrival k => Sys2Proof.Machine.execCausalArrival k s
  | .causalRelease t k => Sys2Proof.Machine.execCausalRelease t k s
  | .causalApplied t k => Sys2Proof.Machine.execCausalApplied t k s
  | .causalQuery t k e => Sys2Proof.Machine.execCausalQuery t k e s
  | .causalNotice k => Sys2Proof.Machine.execCausalNotice k s
  | .holdTimeout t => Sys2Proof.Machine.execHoldTimeout t s
  | .tumblerInterval die u t0 t1 t2 t3 => Sys2Proof.Machine.execTumblerInterval die u t0 t1 t2 t3 s
  | .rotationAbandon die u => Sys2Proof.Machine.execRotationAbandon die u s
  | .rotationMoveDone die u => Sys2Proof.Machine.execRotationMoveDone die u s
  | .drowsyEntry c => Sys2Proof.Machine.execDrowsyEntry c s
  | .drowsyWake c => Sys2Proof.Machine.execDrowsyWake c s
  | .islandStateChange die east target => Sys2Proof.Machine.execIslandStateChange die east target s
  | .powerMeasure part excess => Sys2Proof.Machine.execPowerMeasure part excess s
  | .throttleStep part excess => Sys2Proof.Machine.execThrottleStep part excess s
  | .pad w0 => Sys2Proof.Machine.execPad w0 s
  | .span w0 w1 => Sys2Proof.Machine.execSpan w0 w1 s
  | .select w0 => Sys2Proof.Machine.execSelect w0 s
  | .field w0 w1 => Sys2Proof.Machine.execField w0 w1 s
  | .burst w0 ws => Sys2Proof.Machine.execBurst w0 ws s
  | .sealRec w0 => Sys2Proof.Machine.execSealRec w0 s
  | .globalKeyring w0 ws => Sys2Proof.Machine.execGlobalKeyring w0 ws s
  | .globalTree w0 ws => Sys2Proof.Machine.execGlobalTree w0 ws s
  | .globalBucket w0 ws => Sys2Proof.Machine.execGlobalBucket w0 ws s
  | .globalCircuit w0 ws => Sys2Proof.Machine.execGlobalCircuit w0 ws s
  | .globalStreamPlan w0 ws => Sys2Proof.Machine.execGlobalStreamPlan w0 ws s
  | .imageEnd w0 => Sys2Proof.Machine.execImageEnd w0 s
  | .haspAcq port => Sys2Proof.Machine.execHaspAcq port s
  | .haspRel port => Sys2Proof.Machine.execHaspRel port s
  | .haspLinkDown => Sys2Proof.Machine.execHaspLinkDown s
  | .launch port => Sys2Proof.Machine.execLaunch port s
  | .next port => Sys2Proof.Machine.execNext port s
  | .round port => Sys2Proof.Machine.execRound port s
  | .preempt port => Sys2Proof.Machine.execPreempt port s
  | .preemptDrainBound part => Sys2Proof.Machine.execPreemptDrainBound part s
  | .restore port => Sys2Proof.Machine.execRestore port s
  | .release port => Sys2Proof.Machine.execRelease port s
  | .power port => Sys2Proof.Machine.execPower port s
  | .gateway port => Sys2Proof.Machine.execGateway port s
  | .hostToken port data whole => Sys2Proof.Machine.execHostToken port data whole s
  | .bar2Write port off bytes => Sys2Proof.Machine.execBar2Write port off bytes s
  | .bar2Read port off len => Sys2Proof.Machine.execBar2Read port off len s
  | .hostRegisterWrite port off bytes => Sys2Proof.Machine.execHostRegisterWrite port off bytes s
  | .powerUp failed => Sys2Proof.Machine.execPowerUp failed s
  | .deltaRecordAppend r => Sys2Proof.Machine.execDeltaRecordAppend r s
  | .managementRead what => Sys2Proof.Machine.execManagementRead what s
  | .managementClearHasp => Sys2Proof.Machine.execManagementClearHasp s
  | .managementFirmwareUpdate v => Sys2Proof.Machine.execManagementFirmwareUpdate v s
  | .controllerWatchdog => Sys2Proof.Machine.execControllerWatchdog s
  | .dzihamRequest m req => Sys2Proof.Machine.execDzihamRequest m req s
  | .panelGatewayExchange link remote => Sys2Proof.Machine.execPanelGatewayExchange link remote s
  | .causalQueryAnswer k => Sys2Proof.Machine.execCausalQueryAnswer k s
  | .causalAcknowledgement k => Sys2Proof.Machine.execCausalAcknowledgement k s
  | .weightCacheInvalidate die lo hi => Sys2Proof.Machine.execWeightCacheInvalidate die lo hi s
  | .pageTableUpdate part off val => Sys2Proof.Machine.execPageTableUpdate part off val s

end Sys2Proof.Machine
end

