-- ==== Sys2Proof/Machine/Sources.lean ====
section
/-! DEFINITION. The registers that an instruction names, for the interlock of R62 and R65: an instruction that names a register of
the B run of an MMR still in the matrix queue, itself or by a link, waits until the run is written (R104, R203). -/

namespace Sys2Proof.Machine

/-- The registers that an instruction names as operands. -/
def regsOf (i : Instr) : List Spec :=
  match i with
  | .nop _ => []
  | .br _ _ => []
  | .call _ _ => []
  | .jmp _ a => [a]
  | .callr _ a => [a]
  | .ret _ a => [a]
  | .loop _ a _ _ => [a]
  | .stop _ => []
  | .bcast _ _ _ _ => []
  | .fetchb _ a => [a]
  | .joinm _ d a => [d, a]
  | .joinmF _ d a => [d, a]
  | .yield _ => []
  | .hret _ => []
  | .trap _ a _ => [a]
  | .brk _ a _ => [a]
  | .tctlResume _ a => [a]
  | .tctlKill _ a => [a]
  | .tctlReset _ a => [a]
  | .sysrd _ d _ => [d]
  | .syswr _ d _ => [d]
  | .fpcWrite _ d => [d]
  | .add _ d a b x => d :: srcsI a b x
  | .sub _ d a b x => d :: srcsI a b x
  | .mul _ d a b x => d :: srcsI a b x
  | .mulh _ d a b _ => [d, a, b]
  | .div _ d a b _ => [d, a, b]
  | .rem _ d a b _ => [d, a, b]
  | .and _ d a b x => d :: srcsI a b x
  | .or _ d a b x => d :: srcsI a b x
  | .xor _ d a b x => d :: srcsI a b x
  | .andn _ d a b x => d :: srcsI a b x
  | .shl _ d a b x => d :: srcsI a b x
  | .shr _ d a b x => if x = 0 ∨ x = 3 then [d, a, b] else [d, a]
  | .min _ d a b => [d, a, b]
  | .max _ d a b => [d, a, b]
  | .minu _ d a b => [d, a, b]
  | .maxu _ d a b => [d, a, b]
  | .bitc _ d a _ => [d, a]
  | .ext _ d a _ _ => [d, a]
  | .mov _ d a _ => [d, a]
  | .cmp _ _ _ a b x => srcsI a b x
  | .fcmp _ _ _ a b => [a, b]
  | .plog _ _ _ _ _ _ _ => []
  | .pset _ _ _ => []
  | .psetBit _ _ a _ => [a]
  | .psetAll _ a => [a]
  | .prd _ d => [d]
  | .ld _ d a _ _ => [d, a]
  | .lds _ d a _ _ => [d, a]
  | .st _ d a _ _ => [d, a]
  | .ldv _ d a _ => [d, a]
  | .stv _ d a _ => [d, a]
  | .ldvBc _ d a _ => [d, a]
  | .aop _ d a _ => [d, a]
  | .waita _ d a b _ => [d, a, b]
  | .vadd _ d a b _ => [d, a, b]
  | .vsub _ d a b _ => [d, a, b]
  | .vmul _ d a b _ => [d, a, b]
  | .vfma _ d a b _ => [d, a, b]
  | .vminmax _ d a b _ => [d, a, b]
  | .vun _ d a _ => [d, a]
  | .vred _ d a _ => [d, a]
  | .vcmp _ _ _ a b _ => [a, b]
  | .vsel _ d a b _ => [d, a, b]
  | .vshuf _ d a b _ => [d, a, b]
  | .vbc _ d a b x => if x = 1 then [d, a, b] else [d, a]
  | .vlog _ d a b _ => [d, a, b]
  | .vsh _ d a b _ => [d, a, b]
  | .vlane _ d a _ _ => [d, a]
  | .vscale _ d a b _ => [d, a, b]
  | .vrint _ d a _ => [d, a]
  | .cvt _ d a _ _ _ => [d, a]
  | .qblk _ d a b _ => [d, a, b]
  | .dqblk _ d a b _ => [d, a, b]
  | .vspec _ d a _ => [d, a]
  | .pfx _ _ _ _ _ => []
  | .setfmt _ _ _ _ _ => []
  | .setfmtF _ _ _ => []
  | .mlease _ d _ => [d]
  | .mleaseTry _ d _ => [d]
  | .mrel _ _ => []
  | .mzero _ _ => []
  | .mma _ _ _ a b _ => [a, b]
  | .mmr _ _ a b _ => [a, b]
  | .mstS _ _ a _ => [a]
  | .mstR _ d _ => [d]
  | .mstL _ _ a _ => [a]
  | .cbload _ a => [a]
  | .mred _ _ a _ => [a]
  | .sbind _ d a => [d, a]
  | .sctlUnbind _ d => [d]
  | .sctlDrain _ d => [d]
  | .sctlRewind _ d => [d]
  | .cget _ d a b _ => [d, a, b]
  | .cput _ d a b _ => [d, a, b]
  | .wopen _ a _ => [a]
  | .wopenC _ _ => []
  | .binit _ a _ => [a]
  | .barr _ d _ => [d]
  | .barrE _ _ => []
  | .barrP _ d _ => [d]
  | .bwait _ d a _ => [d, a]
  | .send _ d a b _ => [d, a, b]
  | .ratom _ d a _ _ => [d, a]
  | .clmask _ d a _ => [d, a]
  | .lrel _ _ => []
  | .lrelR _ a => [a]
  | .rdcon _ d a b => [d, a, b]
  | .rdconE _ d a => [d, a]
  | .timeTnow _ d => [d]
  | .timeTgvt _ d => [d]
  | .timeTdefer _ d a b => [d, a, b]
  | .fence _ _ _ => []
  | .movi _ d _ _ => [d]
  | .addi _ d a _ _ => [d, a]
  | .andi _ d a _ _ => [d, a]
  | .ori _ d a _ _ => [d, a]
  | .bfx _ d a _ _ _ => [d, a]
  | .bfi _ d a _ _ => [d, a]
  | .ldL _ d a _ _ _ => [d, a]
  | .stL _ d a _ _ => [d, a]
  | .mmaL _ _ a b _ _ _ _ => [a, b]
  | .mmrL _ _ a b _ _ => [a, b]
  | .sbindL _ d _ _ => [d]
  | .cgetL _ d a b _ _ _ => [d, a, b]
  | .cputL _ d a b _ _ _ => [d, a, b]
  | .sendL _ a b _ _ _ _ => [a, b]
  | .ratomL _ d a _ _ _ => [d, a]
  | .rdconL _ d a _ _ _ => [d, a]
  | .longLatencyWriteback _ _ _ => []
  | .leadFault _ => []
  | .bcastDelivery _ => []
  | .joinmComplete _ => []
  | .messageArrival _ => []
  | .spillQueueBind _ => []
  | .ingressToSpill _ => []
  | .latchedEventEntry _ => []
  | .depositComplete _ _ => []
  | .routerForward _ => []
  | .nameTableAgeing _ => []
  | .rotationNotice _ _ => []
  | .egressInject _ => []
  | .acknowledgement _ => []
  | .remoteAtomicPerform _ => []
  | .atomicResponse _ => []
  | .torusExchangeArrival _ => []
  | .matrixExecute _ => []
  | .leaseGrant _ => []
  | .reductionOutputDrain _ => []
  | .contributionArrival _ => []
  | .slotTimeout _ _ => []
  | .creditReturn _ => []
  | .resultDelivery _ => []
  | .copyTransfer _ _ => []
  | .copyCompletionWrite _ _ => []
  | .copyError _ _ => []
  | .engineArrivalFire _ _ => []
  | .streamRefill _ _ => []
  | .streamWriteOut _ _ => []
  | .pageWalkComplete _ => []
  | .shootdown _ _ _ => []
  | .shootdownAcknowledge _ _ => []
  | .circuitSourceRead _ _ => []
  | .circuitLand _ => []
  | .circuitCredit _ => []
  | .blockSend _ _ => []
  | .lightFrameLanding _ _ _ _ => []
  | .releaseReport _ _ => []
  | .releaseCombine _ => []
  | .sourceCountReceipt _ => []
  | .ringRetune _ _ => []
  | .roundEndToken _ => []
  | .heldSwapApply _ => []
  | .bankClear _ => []
  | .startCommand _ => []
  | .completionWaveStart _ => []
  | .completionWaveAnswer _ => []
  | .completionWaveResult _ => []
  | .timedMessageBind _ => []
  | .timedQueueEntry _ => []
  | .antiMessageArrival _ => []
  | .gvtInterval _ => []
  | .gvtRequest _ => []
  | .gvtStart _ => []
  | .gvtPassResult _ => []
  | .gvtCommit _ => []
  | .causalStamp _ => []
  | .causalArrival _ => []
  | .causalRelease _ _ => []
  | .causalApplied _ _ => []
  | .causalQuery _ _ _ => []
  | .causalNotice _ => []
  | .holdTimeout _ => []
  | .tumblerInterval _ _ _ _ _ _ => []
  | .rotationAbandon _ _ => []
  | .rotationMoveDone _ _ => []
  | .drowsyEntry _ => []
  | .drowsyWake _ => []
  | .islandStateChange _ _ _ => []
  | .powerMeasure _ _ => []
  | .throttleStep _ _ => []
  | .pad _ => []
  | .span _ _ => []
  | .select _ => []
  | .field _ _ => []
  | .burst _ _ => []
  | .sealRec _ => []
  | .globalKeyring _ _ => []
  | .globalTree _ _ => []
  | .globalBucket _ _ => []
  | .globalCircuit _ _ => []
  | .globalStreamPlan _ _ => []
  | .imageEnd _ => []
  | .haspAcq _ => []
  | .haspRel _ => []
  | .haspLinkDown => []
  | .launch _ => []
  | .next _ => []
  | .round _ => []
  | .preempt _ => []
  | .preemptDrainBound _ => []
  | .restore _ => []
  | .release _ => []
  | .power _ => []
  | .gateway _ => []
  | .hostToken _ _ _ => []
  | .bar2Write _ _ _ => []
  | .bar2Read _ _ _ => []
  | .hostRegisterWrite _ _ _ => []
  | .powerUp _ => []
  | .deltaRecordAppend _ => []
  | .managementRead _ => []
  | .managementClearHasp => []
  | .managementFirmwareUpdate _ => []
  | .controllerWatchdog => []
  | .dzihamRequest _ _ => []
  | .panelGatewayExchange _ _ => []
  | .causalQueryAnswer _ => []
  | .causalAcknowledgement _ => []
  | .weightCacheInvalidate _ _ _ => []
  | .pageTableUpdate _ _ _ => []

/-- The registers that an instruction of a thread reads or writes from those that it names, each run at its own length (R150, R191,
R198, R203, R262). -/
def Thread.runsOf (x : Thread) (i : Instr) : List (Spec × Nat) :=
  let both (m : Option MMode) (a b : Spec) : List (Spec × Nat) := match m with | some k => [(a, k.ga), (b, k.gb)] | none => []
  match i with
  | .mma _ _ _ a b m => both (matrixMode m x.afEff x.bfEff) a b
  | .mmr _ _ a b _ => both (matrixMode 0 x.afEff x.bfEff) a b
  | .mmrL _ _ a b _ _ => (a, 1) :: (both (matrixMode 0 x.afEff x.bfEff) a b).drop 1
  | .mstR _ d _ => [(d, imageBytes (x.mstFmt false) / 32)]
  | .qblk _ d a b _ => [(d, 1), (a, spanLen x.efEff), (b, 1)]
  | .dqblk _ d a b _ => [(d, spanLen x.rfEff), (a, 1), (b, 1)]
  | .send _ d a b n => [(d, 1), (a, n.toNat + 1), (b, 1)]
  | .sendL _ a b n _ _ _ => [(a, n.toNat + 1), (b, 1)]
  | i => (regsOf i).map fun a => (a, 1)
/-- An operand of a long form takes its scales from their register: it is a stream, or its descriptor has SCV = 0 (R192). -/
def Cell.scalesByReg (c : Cell) (t : TIdx) (a : Spec) : Bool := (c.bound t a).isSome || !(descOf (lane0 (c.reg t a))).scv
/-- The registers that an instruction reads or writes without naming them as operands: scale sources and sparse metadata of a matrix
instruction (R185, R188, R189), the link register, and the mask register of VCMP (assumption 107). -/
def Cell.unnamed (c : Cell) (t : TIdx) (x : Thread) (i : Instr) : List Spec :=
  let scales (sa sb : Bool) : List Spec :=
    (if sa && takesScale x.afEff then [x.saEff] else []) ++ if sb && takesScale x.bfEff then [x.sbEff] else []
  match i with
  | .mma _ _ m _ _ k => scales true true ++ if k = 1 then [0#2 ++ m] else []
  | .mmr _ _ _ _ _ => scales true true
  | .mmaL _ _ a b _ _ _ _ => scales (c.scalesByReg t a) (c.scalesByReg t b)
  | .mmrL _ _ a _ _ _ => scales (c.scalesByReg t a) true
  | .call _ _ => [0x1F]
  | .callr _ _ => [0x1F]
  | .vcmp _ _ m _ _ _ => [0#3 ++ m]
  | _ => []
/-- The register of a thread that a specifier stands for: its own, or the one that a link is mapped to (R73). -/
def Thread.standsFor (t : TIdx) (x : Thread) (a : Spec) : TIdx × Nat :=
  if 42 ≤ a.toNat ∧ a.toNat < 46 then
    let m := x.link.toNat / 2 ^ (8 * (a.toNat - 42))
    (⟨m % 8, Nat.mod_lt _ (by decide)⟩, m / 8 % 32)
  else (t, a.toNat)
/-- The B run of a queued MMR: its thread, its first register, its length. -/
def MEntry.bRun (e : MEntry) : Option (TIdx × Nat × Nat) :=
  match e.op with
  | .mmr _ _ _ _ b v _ _ _ _ => some (e.t, b.toNat, v.length)
  | _ => none
/-- An instruction of a thread reads or writes a register of such a run, its own or by a link: the run is a short-latency result in flight
(R62, R104, R203). -/
def Cell.awaitsRun (c : Cell) (t : TIdx) (x : Thread) (i : Instr) : Bool :=
  let named := (x.runsOf i).flatMap fun a => (List.range a.2).map fun k => BitVec.ofNat 6 (a.1.toNat + k)
  let regs := (named ++ c.unnamed t x i).map (Thread.standsFor t x)
  (c.mx.queue.filterMap MEntry.bRun).any fun r => regs.any fun a => a.1 == r.1 && decide (r.2.1 ≤ a.2 ∧ a.2 < r.2.1 + r.2.2)

end Sys2Proof.Machine
end

