-- ==== Sys2Proof/Machine/Schedule.lean ====
section
/-! DEFINITION. Which thread issues (R62, R63), what is fetched (R46, R71), and which event of the part comes next
(assumption 2). -/

namespace Sys2Proof.Machine

/-! ### Fetch (R46, R71) -/

/-- The code word that a thread reads at an address: of its block, or of the active bank; none beyond either. -/
def Cell.codeWord (c : Cell) (t : TIdx) (a : Nat) : Option W32 :=
  let x := c.th t
  if x.inb then
    if h : x.blkAt.toNat ≤ a ∧ a ≤ x.blkAt.toNat + x.blkLen.toNat then
      some (x.blk[a - x.blkAt.toNat]'(by have := x.blkLen.isLt; omega))
    else none
  else if a < 1024 then some (Sp.get c.plane.active.code a) else none
/-- The instruction at a thread's pc; none where R46, R50 or R71 makes the words ILLEGAL. -/
def Cell.fetch (c : Cell) (t : TIdx) : Option Instr :=
  let a := (c.th t).pc.toNat
  match c.codeWord t a with
  | none => none
  | some w0 =>
    match (if isLongWord w0 then c.codeWord t (a + 1) else some 0) with
    | none => none
    | some w1 => (decode w0 w1).toOption

/-- What a word lacks of the unit of its OP, also one that is no instruction (R62): DIV and REM the divider (R103), MMR and MMR.L the
exchange of their direction (R203), every matrix OP room in the matrix queue (R179). -/
def Cell.wordNeed (c : Cell) (w : W32) : Option Need :=
  let op := (Decode.op w).toNat
  if op = 0x14 ∨ op = 0x15 then c.dividerNeed
  else if op = 0x4C ∨ op = 0x69 then (c.torusNeed (w.extractLsb' 0 2)).or c.queueNeed
  else if (0x48 ≤ op ∧ op ≤ 0x4F) ∨ op = 0x68 then c.queueNeed
  else none
/-- What the word at a thread's pc lacks of its unit (R62). -/
def Cell.nextNeed (c : Cell) (t : TIdx) : Option Need := (c.codeWord t (c.th t).pc.toNat).bind c.wordNeed

/-! ### Issue (R62, R63) -/

/-- A deferred error of a thread is raised at its next instruction boundary, with the address of the instruction not
yet executed (R367, Table 08.2). -/
def State.raiseDeferred (s : State) (t : TIdx) (a : W64) : State :=
  s.fault t { cause := 0x0A, defer := true, fpc := (s.cell.th t).pc, faddr := a }
/-- A thread of the cell in hand as the issuing thread. -/
def State.issuing (s : State) (t : TIdx) : State :=
  { s with cell := { s.cell.modTh t (fun x => { x with st := .running, wait := .none, starve := 0, cuts := [] }) with last := t } }
/-- Late results of the issuing thread that are in, and their places: those that a register is to take. -/
def State.landable (s : State) : List (Nat × LongRes) :=
  s.me.outs.zipIdx.filterMap fun o =>
    if o.1.ready && o.1.bad.isNone && o.1.d != 0x2E && (s.cell.bound s.cell.last o.1.d).isNone then some (o.2, o.1) else none
/-- Registers that are written within the issuing thread's instruction, with what they held and the reads that still return it (R67). -/
def Thread.cutAt (x : Thread) (s : State) (stale : BitVec 4) (l : List Spec) : Thread :=
  { x with cuts := l.map (fun a => ⟨a, s.cell.reg s.cell.last a, stale⟩) ++ x.cuts }
/-- Such a result is written while the thread's next instruction reads its sources: some of the instruction's reads of that register still
return what it held (R67, which decides each read by itself). -/
def State.lands (s : State) (k : Nat) (o : LongRes) (stale : BitVec 4) : State :=
  fresh (modFocus s fun c =>
    ((c.modTh c.last fun x => { x with outs := dropAt x.outs k }).writeLate c.last o s.freeIx).modTh c.last (·.cutAt s stale [o.d]))
/-- A write within the instruction, or none (assumption 4). -/
def State.perhaps (s : State) (f : BitVec 4 → State → State) : State :=
  match choose s 17 with
  | 0 => fresh s
  | n + 1 => f (BitVec.ofNat 4 n) (fresh s)
/-- The matrix unit writes a register of the issuing thread's MST.R within its instruction, or none (R67, R198). -/
def State.unitLands (s : State) : State :=
  match s.cell.mx.queue with
  | [] => s
  | e :: _ =>
    match e.op with
    | .toRegs _ d .. =>
      if e.t == s.cell.last && e.lacks.isEmpty then s.perhaps fun st s => (s.unitDo e).modMe (·.cutAt s st (runOf d 8)) else s
    | _ => s
/-- The issuing thread's instruction finds its late results as they are, or on their way into their registers, each by itself (R67;
assumption 4). -/
def State.during (s : State) : State :=
  (s.landable.foldr (fun e s => s.perhaps fun st s => s.lands e.1 e.2 st) s).unitLands
/-- What the issuing thread does: a deferred error first; else the instruction at its pc, ILLEGAL where there is none. -/
def State.attempt (s : State) : Answer :=
  match s.me.deferred with
  | some a => .next (s.raiseDeferred s.cell.last a)
  | none =>
    match s.cell.fetch s.cell.last with
    | some i => exec i s.during
    | none => eligible (fun s => s.cell.nextNeed s.cell.last) (fun s => .next s.illegal) s
/-- What a thread would park for if it issued now (R62). -/
def State.dryNeed (s : State) (t : TIdx) : Option Need :=
  match (s.issuing t).attempt with
  | .next s' => match (s'.cell.th t).wait with | .need n => some n | _ => none
  | _ => none
/-- Running, or parked for want of something; not in the cycle after its YIELD (R58, R62, R96). -/
def Thread.wantsIssue (x : Thread) : Bool :=
  !x.yielded && (x.st == .running || (match x.wait with | .need _ => true | _ => false))
/-- Issue is stopped for a rotation or a pre-emption, outside every block (R72, R358, R372). -/
def State.issueStopped (s : State) (t : TIdx) : Bool :=
  let x := s.cell.th t
  let stop := (match part s s.cell.part.toNat with | some p => p.preempt.isSome | none => false) ||
    (match curPos s s.cell.name.toNat with | some q => (tumbler s q.die (tumOf q.row q.col)).busy | none => false)
  stop && x.outside
/-- Its next instruction names a register of the B run of an MMR that it has in the matrix queue (R62, R65). -/
def Cell.interlocked (c : Cell) (t : TIdx) : Bool :=
  match c.fetch t with | some i => c.awaitsRun t (c.th t) i | none => false
/-- The threads that want to issue, each with what it lacks (R62); a cell that has not been named never issues (R22). -/
def State.candidates (s : State) : List (TIdx × Option Need) :=
  (tids.filter fun t => s.cell.mapgen != 0 && (s.cell.th t).wantsIssue && !s.issueStopped t && !s.cell.interlocked t).map fun t =>
    (t, s.dryNeed t)
/-- The highest level among some threads. -/
def Cell.topLevel (c : Cell) (l : List TIdx) : Nat := l.foldl (fun a t => Nat.max a (c.th t).lvl.toNat) 0
/-- The largest starve count among some threads. -/
def Cell.topStarve (c : Cell) (l : List TIdx) : Nat := l.foldl (fun a t => Nat.max a (c.th t).starve) 0
/-- The order last + 1, last + 2, … modulo 8. -/
def turnOrder (last : TIdx) : List TIdx := tids.map fun i => last + 1 + i
/-- R63's choice among eligible threads. -/
def Cell.choice (c : Cell) (cands : List TIdx) : Option TIdx :=
  let old := cands.filter fun t => decide (16 ≤ (c.th t).starve)
  if old.isEmpty then (turnOrder c.last).find? fun t => cands.contains t && (c.th t).lvl.toNat == c.topLevel cands
  else tids.find? fun t => old.contains t && (c.th t).starve == c.topStarve old
/-- A cycle passes: yields end, threads that lack something are parked for it, eligible threads that do not issue starve
(R62, R63, R96). -/
def Cell.cycle (c : Cell) (cands : List (TIdx × Option Need)) : Cell :=
  { c with thr := Vector.ofFn fun t =>
      let x := { c.th t with yielded := false }
      match cands.find? (·.1 == t) with
      | some (_, some n) => { x with st := .parked, wait := .need n }
      | some (_, none) => { x with starve := x.starve + 1 }
      | none => x }
/-- A cycle in which no thread issues counts towards Drowsy while nothing else of the cell goes on (R350). -/
def State.idleCycle (s : State) : State :=
  modFocus s fun c => { c with idleCyc := if s.restful then c.idleCyc + 1 else 0 }
/-- One issue cycle of the cell in hand (R63). -/
def State.issueCycle (s : State) : Answer :=
  let cands := s.candidates
  let s' := modFocus s (·.cycle cands)
  match s.cell.choice ((cands.filter fun c => c.2.isNone).map (·.1)) with
  | some t => ((modFocus s' Cell.awake).issuing t).attempt
  | none => .next s'.idleCycle

/-! ### Time and turns (assumptions 1, 2) -/

/-- Time passes: every die's reference counter goes on (R36), and rotations under way with it (R358). -/
def State.pass (s : State) : State :=
  ({ s with tick := s.tick + 1,
            dieCycle := s.dieMap.foldl (fun m d => Sp.set m d (Sp.get m d + Config.refTicks d s.tick)) s.dieCycle } : State).turnTumblers
/-- The cell that issues next: the one in hand, or any other that the state lists. -/
def State.nextCell (s : State) : State :=
  if s.others.isEmpty then s
  else
    let l := listedCells s
    focus (fresh s) (l.getD (choose s l.length) s.cur)

/-- The events of each number below `n`. -/
def below (n : Nat) (f : Nat → List Instr) : List Instr := (List.range n).flatMap f
/-- Events of a packet in the M plane. -/
def packetEvents (k : Nat) : List Instr :=
  [.routerForward k, .messageArrival k, .acknowledgement k, .remoteAtomicPerform k, .atomicResponse k, .causalNotice k, .causalQueryAnswer k, .antiMessageArrival k]
/-- Events of a message in the S plane. -/
def treeEvents (k : Nat) : List Instr := [.contributionArrival k, .creditReturn k, .resultDelivery k, .releaseCombine k, .sourceCountReceipt k]
/-- Events of an exchange or a granule in the C plane. -/
def blockEvents (k : Nat) : List Instr := [.torusExchangeArrival k, .circuitLand k]
/-- Events at a causal unit of the packet of a number that the causal units count by: the M plane's, the C plane's, the S plane's. -/
def crossingEvents (k : Nat) : List Instr := [.causalStamp k, .causalArrival k]
/-- Credit flits that have still to bring a write of CCNT to its source (R257). -/
def State.creditEvents (s : State) (p : Nat) (q : Part) : List Instr :=
  (q.globals.circs.filter fun x => s.creditDue x.1 x.2).map fun x => .circuitCredit (p * 256 + x.1)
/-- RTUs that have still to acknowledge. -/
def Shoot.events (q : Shoot) : List Instr := q.left.map fun x => .shootdownAcknowledge (BitVec.ofNat 6 x.1) (BitVec.ofNat 4 x.2)
/-- Events of the planes. -/
def State.planeEvents (s : State) : List Instr :=
  List.flatten [below s.mnet.length packetEvents, below (s.mnet.length + s.cnet.length + s.snet.length) crossingEvents, below s.cacks.length fun k => [.causalAcknowledgement k], below s.snet.length treeEvents,
    below s.cnet.length blockEvents, below s.walks.length fun k => [.pageWalkComplete k], s.shoot.flatMap Shoot.events]
/-- Events of a cell as a whole. -/
def unitEvents (m : Name) : List Instr :=
  [.ingressToSpill m, .latchedEventEntry m, .spillQueueBind m, .bcastDelivery m, .joinmComplete m, .egressInject m, .matrixExecute m,
    .leaseGrant m, .reductionOutputDrain m, .timedMessageBind m, .timedQueueEntry m, .gvtRequest m, .gvtStart m, .gvtCommit m,
    .roundEndToken m, .heldSwapApply m, .bankClear m, .completionWaveAnswer m, .leadFault m, .drowsyEntry m, .drowsyWake m]
/-- Events of a thread. -/
def Cell.threadEvents (c : Cell) (m : Name) (t : TIdx) : List Instr :=
  .depositComplete m t :: below (Nat.max 1 (c.th t).outs.length) fun k => [.longLatencyWriteback m t k]
/-- Events of a stream engine. -/
def streamEvents (m : Name) (n : Fin 4) : List Instr := [.streamRefill m n, .streamWriteOut m n]
/-- Frames on their way to a cell. -/
def Cell.frameEvents (c : Cell) (m : Name) (x : Nat × Source) : List Instr :=
  ((x.2.air.flatMap (·.owed)).filter (·.1 == m.toNat)).flatMap fun o => (c.groupSlots x.1).map fun k => Instr.lightFrameLanding m k o.2 true
/-- Events of a cell. -/
def State.cellEvents (s : State) (n : Nat) : List Instr :=
  let c := getCell s n
  let m : Name := BitVec.ofNat 20 n
  let load : List Instr := match part s c.part.toNat with
    | some q => (q.globals.circs.map fun x => Instr.circuitSourceRead m (BitVec.ofNat 8 x.1)) ++ q.srcs.flatMap (c.frameEvents m)
    | none => []
  List.flatten [unitEvents m, tids.flatMap (c.threadEvents m), c.red.slots.map fun x => Instr.slotTimeout m (BitVec.ofNat 12 x.tag),
    below 16 fun e => [.copyTransfer m e, .copyCompletionWrite m e, .copyError m e], below 4 fun r => [.engineArrivalFire m r],
    ([0, 1, 2, 3] : List (Fin 4)).flatMap (streamEvents m), slots.map fun n => Instr.releaseReport m n, load]
/-- Events of a die's causal unit. -/
def State.unitOfDieEvents (s : State) (t : Nat) : List Instr :=
  let u := unitOf s t
  let d : BitVec 6 := BitVec.ofNat 6 t
  List.flatten [[.holdTimeout d], below u.hold.length fun k => [.causalRelease d k],
    below u.hold.length fun k => below 64 fun e => [.causalQuery d k (BitVec.ofNat 6 e)], below u.done.length fun k => [.causalApplied d k]]
/-- Events of a partition and its dies. -/
def State.partEvents (s : State) (p : Nat) (q : Part) : List Instr :=
  let i : PartIdx := BitVec.ofNat 6 p
  List.flatten [[.startCommand i, .completionWaveStart i, .completionWaveResult i, .gvtInterval i, .gvtPassResult i, .preemptDrainBound i],
    q.globals.keys.map fun e => Instr.blockSend i (BitVec.ofNat 8 e.1), below s.rings.length fun k => [.ringRetune i k], s.creditEvents p q,
    (q.logDies s).flatMap s.unitOfDieEvents]
/-- The next command of the image in hand. -/
def State.imageEvents (s : State) : List Instr :=
  match s.image with
  | none => []
  | some i =>
    match i.rest with
    | [] => [.imageEnd 0]
    | w :: r =>
      if r.length < cmdTail w then [.pad w]
      else match cmdOf w with
        | 1 => [.span w (r.headD 0)]
        | 2 => [.select w]
        | 3 => [.field w (r.headD 0)]
        | 4 => [.burst w (r.take (cmdTail w))]
        | 5 => [.sealRec w]
        | 6 => [.globalKeyring w (r.take (cmdTail w)), .globalTree w (r.take (cmdTail w)), .globalBucket w (r.take (cmdTail w)),
                .globalCircuit w (r.take (cmdTail w)), .globalStreamPlan w (r.take (cmdTail w))]
        | 15 => [.imageEnd w]
        | _ => [.pad w]
/-- Requests that wait, and rotations under way. -/
def State.controlEvents (s : State) : List Instr :=
  let waiting (q : Port) : List Instr := match (s.port q).pend with | some _ => [.preempt q, .release q] | none => []
  List.flatten [waiting .a, waiting .b,
    (s.tumblers.filter (·.2.busy)).flatMap fun e =>
      [.rotationMoveDone (BitVec.ofNat 6 (e.1 / 64)) (BitVec.ofNat 6 e.1), .rotationAbandon (BitVec.ofNat 6 (e.1 / 64)) (BitVec.ofNat 6 e.1)]]
/-- The events of the part that may come next, from the state alone: everything that goes on by itself. What comes from outside it,
or measures it, comes by the agenda (assumption 2). -/
def State.enabled (s : State) : List Instr :=
  List.flatten [s.planeEvents, (listedCells s).flatMap s.cellEvents, s.parts.flatMap fun e => s.partEvents e.1 e.2, s.imageEvents,
    s.controlEvents]
/-- One event of the part, or none. -/
def State.engineTurn (s : State) : Answer :=
  let l := s.enabled
  match l[choose s l.length]? with
  | some e => exec e (fresh s)
  | none => .next s

end Sys2Proof.Machine
end

