-- ==== Sys2Proof/Machine/Step.lean ====
section
/-! DEFINITION. One step of the panel, and placing an instruction where the next step runs it. -/

namespace Sys2Proof.Machine

/-- One step: the first event of the agenda; with none, in turn, an issue cycle of one cell (R63) and an event of the
part. Time passes with each (assumptions 1, 2). -/
def step (s : State) : Host.Outcome State Fault Refusal :=
  match s.agenda, s.turn with
  | e :: r, _ => exec e { fresh s.pass with agenda := r }
  | [], .issue => ({ s.pass with turn := .engines } : State).nextCell.issueCycle
  | [], .engines => ({ s.pass with turn := .issue } : State).engineTurn

/-- The panel with an instruction of the cell in hand in its active code bank at T0's pc, T0 running and next to issue
(assumption 3): no other cell listed, no event waiting. -/
def State.withFetchWord (s : State) (_nbits w : Nat) : State :=
  let x := s.cell.th 0
  let b := s.cell.plane.active
  let a := x.pc.toNat
  { s with
    agenda := [], turn := .issue, others := [],
    cell := { s.cell.setTh 0 { x with st := .running, wait := .none, deferred := none, inb := false, yielded := false,
                                      starve := Nat.max 16 (s.cell.topStarve tids) } with
      mapgen := if s.cell.mapgen = 0 then 1 else s.cell.mapgen,
      plane := { s.cell.plane.setActive
        { b with code := Sp.set (Sp.set b.code a (BitVec.ofNat 32 w)) (a + 1) (BitVec.ofNat 32 (w / 4294967296)) } with
          loaded := true, inRound := true } } }

end Sys2Proof.Machine
end

