-- ==== Sys2Proof/Certificates/Slice0/Obligations.lean ====
section
/-! DEFINITION. The statements about the model, for the provers. The vocabulary that they share stands first, in the namespace
Stated; each statement's docstring names the rules of spec/ that it formalises. -/

namespace Sys2Proof.Stated

open Machine

/-! ### How an instruction issues -/

/-- The issuing thread's next instruction has this header, its guard passes (R47), no prefix is pending (R51), and no late result is written
within it (R67). -/
def Passes (s : State) (h : Hdr) : Prop := s.me.guard h = true ∧ s.me.pp = false ∧ s.me.cuts = []
/-- An instruction of `len` words at the pc is followed by the word at `pc`, with these loop levels (R46, R71, R93). -/
def Follows (s : State) (len : Nat) (pc : BitVec 10) (l0 l1 : Loop) : Prop := s.me.next (s.me.pc.toNat + len - 1) = .at_ pc l0 l1
/-- A thread that goes on there; a pending prefix is consumed, and with the wait marker and a result outstanding it parks (R51, R66). -/
def goes (pc : BitVec 10) (l0 l1 : Loop) (w : Bool) (x : Thread) : Thread :=
  ({ x with pp := false, pc := pc, lp0 := l0, lp1 := l1 } : Thread).marker w
/-- What a register held before it is written; the specifier zero holds nothing. -/
def held (s : State) (d : Spec) : V256 := if d = 0x2E then 0 else s.cell.reg s.cell.last d
/-- A source register of the issuing thread, and its lane 0. -/
def reg (s : State) (a : Spec) : V256 := s.cell.reg s.cell.last a
/-- Lane 0 of a source register. -/
def lane (s : State) (a : Spec) : W64 := lane0 (reg s a)

/-- An instruction that gives one register a result in its issue cycle: its words, whether it accepts a prefix, the registers that it
reads, the one that it writes, and the result. -/
structure Form where
  h : Hdr
  len : Nat
  pfx : Bool
  srcs : List Spec
  d : Spec
  val : State → Res

/-- Its specifiers are such as it may name, none of them a bound stream register (R48, R233), it issues, and no late result is written
within it (R67). -/
def Form.Ready (f : Form) (s : State) : Prop :=
  dstOk f.d = true ∧ f.srcs.all srcOk = true ∧ s.anyBound (f.d :: f.srcs) = false ∧ s.me.guard f.h = true ∧ (f.pfx = true ∨ s.me.pp = false) ∧
    s.me.cuts = []
/-- The whole register that the result leaves. -/
def Form.result (f : Form) (s : State) : V256 := (f.val s).over (held s f.d)

/-! ### Scalar results (04_scalar_instructions) -/

/-- Layout I's second operand. -/
def opI (s : State) (b : BitVec 6) (x : BitVec 2) : W64 :=
  if x = 0 then lane s b else if x = 1 then BitVec.ofNat 64 b.toNat else BitVec.ofInt 64 b.toInt
/-- The registers that layout I reads. -/
def regsI (a b : BitVec 6) (x : BitVec 2) : List Spec := if x = 0 then [a, b] else [a]
/-- A form of layout I; X = 3 is reserved. -/
def formI (h : Hdr) (d a b : Spec) (x : BitVec 2) (f : W64 → W64 → W64) : Option Form :=
  if x = 3 then none else some ⟨h, 1, false, regsI a b x, d, fun s => .low (f (lane s a) (opI s b x))⟩
/-- A form of two registers. -/
def formR (h : Hdr) (d a b : Spec) (f : W64 → W64 → W64) : Option Form :=
  some ⟨h, 1, false, [a, b], d, fun s => .low (f (lane s a) (lane s b))⟩
/-- A form of one register and, in its second word, an immediate. -/
def formW (h : Hdr) (d a : Spec) (f : W64 → W64) : Option Form := some ⟨h, 2, false, [a], d, fun s => .low (f (lane s a))⟩
/-- The low `w` bits of a number, extended with zeros or with their sign. -/
def extend (signed : Bool) (w n : Nat) : W64 := if signed then BitVec.ofInt 64 (Int.bmod n (2 ^ w)) else BitVec.ofNat 64 (n % 2 ^ w)
/-- A 32-bit immediate, extended with zeros or with its sign. -/
def imm64 (signed : Bool) (v : W32) : W64 := if signed then BitVec.ofInt 64 v.toInt else BitVec.ofNat 64 v.toNat

/-- The scalar instructions with one integer result, each with the number that the manual gives it; none for a reserved form. -/
def scalarForm : Instr → Option Form
  | .add h d a b x => formI h d a b x fun u v => BitVec.ofInt 64 (u.toInt + v.toInt)
  | .sub h d a b x => formI h d a b x fun u v => BitVec.ofInt 64 (u.toInt - v.toInt)
  | .mul h d a b x => formI h d a b x fun u v => BitVec.ofInt 64 (u.toInt * v.toInt)
  | .and h d a b x => formI h d a b x fun u v => u &&& v
  | .or h d a b x => formI h d a b x fun u v => u ||| v
  | .xor h d a b x => formI h d a b x fun u v => u ^^^ v
  | .andn h d a b x => formI h d a b x fun u v => u &&& ~~~v
  | .shl h d a b x => formI h d a b x fun u v => BitVec.ofNat 64 (u.toNat * 2 ^ v.toNat)
  | .shr h d a b x =>
    let n (s : State) : Nat := if x = 0 ∨ x = 3 then (lane s b).toNat else b.toNat
    some ⟨h, 1, false, if x = 0 ∨ x = 3 then [a, b] else [a], d, fun s =>
      .low (if x = 0 ∨ x = 1 then BitVec.ofNat 64 ((lane s a).toNat / 2 ^ n s)
            else BitVec.ofInt 64 ((lane s a).toInt / 2 ^ min (n s) 63))⟩
  | .mulh h d a b x => formR h d a b fun u v =>
      if x = 0 then BitVec.ofInt 64 (u.toInt * v.toInt / 2 ^ 64) else BitVec.ofNat 64 (u.toNat * v.toNat / 2 ^ 64)
  | .min h d a b => formR h d a b fun u v => if u.toInt ≤ v.toInt then u else v
  | .max h d a b => formR h d a b fun u v => if u.toInt ≤ v.toInt then v else u
  | .minu h d a b => formR h d a b fun u v => if u.toNat ≤ v.toNat then u else v
  | .maxu h d a b => formR h d a b fun u v => if u.toNat ≤ v.toNat then v else u
  | .ext h d a sgn x =>
    if 1 < sgn.toNat ∨ x = 3 then none
    else some ⟨h, 1, false, [a], d, fun s => .low (extend (sgn == 1) (8 * 2 ^ x.toNat) (lane s a).toNat)⟩
  | .mov h d a x =>
    if 1 < x.toNat then none else some ⟨h, 1, false, [a], d, fun s => if x = 0 then .whole (reg s a) else .low (lane s a)⟩
  | .prd h d => some ⟨h, 1, false, [], d, fun s => .low (BitVec.ofNat 64 (2 * (s.me.p.toNat / 2) + 1))⟩
  | .movi h d x v =>
    if x = 3 then none
    else some ⟨h, 2, false, if x = 2 then [d] else [], d, fun s =>
      .low (if x = 2 then BitVec.ofNat 64 (2 ^ 32 * v.toNat + (lane s d).toNat % 2 ^ 32) else imm64 (x == 1) v)⟩
  | .addi h d a x v => if 1 < x.toNat then none else formW h d a fun u => u + imm64 (x == 0) v
  | .andi h d a x v => if 1 < x.toNat then none else formW h d a fun u => u &&& imm64 (x == 1) v
  | .ori h d a x v => if 1 < x.toNat then none else formW h d a fun u => u ||| imm64 (x == 1) v
  | .bfx h d a x lsb wm1 =>
    if 1 < x.toNat ∨ 64 < lsb.toNat + wm1.toNat + 1 then none
    else formW h d a fun u => extend (x == 1) (wm1.toNat + 1) (u.toNat / 2 ^ lsb.toNat)
  | _ => none

end Sys2Proof.Stated

open Sys2Proof Sys2Proof.Machine Sys2Proof.Stated

/-- R111 to R114, R116, R117, R123 to R125, R105: a scalar instruction whose guard passes writes its result to lane 0 of D (MOV may write
all of it), enters the last-result file with the whole register, and goes on; nothing else changes. -/
def Obligations.ScalarResults : Prop :=
  ∀ (i : Instr) (f : Form) (s : State) (pc : BitVec 10) (l0 l1 : Loop), scalarForm i = some f → f.Ready s → Follows s f.len pc l0 l1 →
    exec i s = .next (s.modMe fun x => goes pc l0 l1 f.h.w ((x.setReg f.d (f.result s)).last f.d (f.result s)))

/-! ### Results in their own right (04_scalar_instructions) -/

/-- R115, R125: BITC counts leading zeros, trailing zeros or ones, or reverses the bits; BFI puts the low bits of A into the bits
[LSB + W − 1 : LSB] of D's lane 0, whose other bits stay. -/
def Sys2Proof.Stated.BitOperations : Prop :=
  ∀ (h : Hdr) (d a : Spec) (s : State) (pc : BitVec 10) (l0 l1 : Loop), dstOk d = true → srcOk a = true → s.anyBound [d, a] = false →
    Passes s h →
    (∀ x : BitVec 2, Follows s 1 pc l0 l1 →
      ∃ v : W64, exec (.bitc h d a x) s = .next (s.modMe fun y =>
          goes pc l0 l1 h.w ((y.setReg d (setLane0 (held s d) v)).last d (setLane0 (held s d) v))) ∧
        (x = 0 → v.toNat ≤ 64 ∧ (∀ i, 64 - v.toNat ≤ i → (lane s a).getLsbD i = false) ∧
          (v.toNat < 64 → (lane s a).getLsbD (63 - v.toNat) = true)) ∧
        (x = 1 → v.toNat ≤ 64 ∧ (∀ i, i < v.toNat → (lane s a).getLsbD i = false) ∧ (v.toNat < 64 → (lane s a).getLsbD v.toNat = true)) ∧
        (x = 2 → v.toNat = ((List.range 64).filter fun i => (lane s a).getLsbD i).length) ∧
        (x = 3 → ∀ i, i < 64 → v.getLsbD i = (lane s a).getLsbD (63 - i))) ∧
    (∀ lsb wm1 : BitVec 6, Follows s 2 pc l0 l1 → lsb.toNat + wm1.toNat + 1 ≤ 64 →
      ∃ v : W64, exec (.bfi h d a lsb wm1) s = .next (s.modMe fun y =>
          goes pc l0 l1 h.w ((y.setReg d (setLane0 (held s d) v)).last d (setLane0 (held s d) v))) ∧
        ∀ i, i < 64 → v.getLsbD i =
          if lsb.toNat ≤ i ∧ i < lsb.toNat + wm1.toNat + 1 then (lane s a).getLsbD (i - lsb.toNat) else (lane s d).getLsbD i)

namespace Sys2Proof.Stated

/-- CMP's condition (Table 04.8). -/
def compares (cond : BitVec 3) (u v : W64) : Prop :=
  if cond = 0 then u = v else if cond = 1 then u ≠ v else if cond = 2 then u.toInt < v.toInt else if cond = 3 then u.toInt ≤ v.toInt
  else if cond = 4 then u.toNat < v.toNat else if cond = 5 then u.toNat ≤ v.toNat else if cond = 6 then v.toInt < u.toInt
  else v.toInt ≤ u.toInt
/-- The place of an FP32 value that is no NaN in their order; the two zeros share one. -/
def place32 (v : W32) : Int := if v.toNat < 2 ^ 31 then (v.toNat : Int) else -((v.toNat - 2 ^ 31 : Nat) : Int)
/-- FCMP's condition (Table 04.9): with a NaN only NE and UN hold. -/
def fcompares (cond : BitVec 3) (u v : W32) : Prop :=
  if 0xFF000000 < 2 * (u.toNat % 2 ^ 31) ∨ 0xFF000000 < 2 * (v.toNat % 2 ^ 31) then cond = 1 ∨ cond = 6
  else if cond = 0 then place32 u = place32 v else if cond = 1 then place32 u ≠ place32 v else if cond = 2 then place32 u < place32 v
  else if cond = 3 then place32 u ≤ place32 v else if cond = 4 then place32 v < place32 u else if cond = 5 then place32 v ≤ place32 u
  else cond = 7
/-- A predicate register as an instruction reads it: p0 is true (R47). -/
def pred (s : State) (n : BitVec 3) : Prop := n = 0 ∨ s.me.p.getLsbD n.toNat = true
/-- The instruction runs and leaves one predicate at a truth value, and every other thing as it was. -/
def SetsPred (i : Instr) (s : State) (pc : BitVec 10) (l0 l1 : Loop) (w : Bool) (n : BitVec 3) (c : Prop) : Prop :=
  ∃ p' : BitVec 8, exec i s = .next (s.modMe fun y => goes pc l0 l1 w { y with p := p' }) ∧ (p'.getLsbD n.toNat = true ↔ c) ∧
    ∀ j, j ≠ n.toNat → p'.getLsbD j = s.me.p.getLsbD j

end Sys2Proof.Stated

/-- R118, R119, R121, R122: CMP, FCMP, PLOG, PSET and PSET.BIT set one predicate to their condition; PSET.ALL sets p1 to p7 from the
low byte of A. p0 is no destination. -/
def Sys2Proof.Stated.PredicateResults : Prop :=
  ∀ (h : Hdr) (s : State) (pc : BitVec 10) (l0 l1 : Loop), Passes s h → Follows s 1 pc l0 l1 →
    (∀ (cond pd : BitVec 3) (a b : BitVec 6) (x : BitVec 2), pd ≠ 0 → x ≠ 3 → (regsI a b x).all srcOk = true →
      s.anyBound (regsI a b x) = false → SetsPred (.cmp h cond pd a b x) s pc l0 l1 h.w pd (compares cond (lane s a) (opI s b x))) ∧
    (∀ (cond pd : BitVec 3) (a b : Spec), pd ≠ 0 → srcOk a = true → srcOk b = true → s.anyBound [a, b] = false →
      SetsPred (.fcmp h cond pd a b) s pc l0 l1 h.w pd (fcompares cond ((lane s a).setWidth 32) ((lane s b).setWidth 32))) ∧
    (∀ (pd pa pb : BitVec 3) (na nb : BitVec 1) (x : BitVec 2), pd ≠ 0 →
      SetsPred (.plog h pd na pa nb pb x) s pc l0 l1 h.w pd
        (let u := (pred s pa ↔ na = 0)
         let v := (pred s pb ↔ nb = 0)
         if x = 0 then u ∧ v else if x = 1 then u ∨ v else if x = 2 then ¬(u ↔ v) else u ∧ ¬v)) ∧
    (∀ (pd : BitVec 3) (v : BitVec 1), pd ≠ 0 → SetsPred (.pset h pd v) s pc l0 l1 h.w pd (v = 1)) ∧
    (∀ (pd : BitVec 3) (a : Spec) (n : BitVec 6), pd ≠ 0 → srcOk a = true → s.anyBound [a] = false →
      SetsPred (.psetBit h pd a n) s pc l0 l1 h.w pd ((lane s a).getLsbD n.toNat = true)) ∧
    (∀ a : Spec, srcOk a = true → s.anyBound [a] = false →
      ∃ p' : BitVec 8, exec (.psetAll h a) s = .next (s.modMe fun y => goes pc l0 l1 h.w { y with p := p' }) ∧
        ∀ j, 1 ≤ j → j < 8 → p'.getLsbD j = (lane s a).getLsbD j)

/-! ### Control and threads (03_threads_and_handlers) -/

namespace Sys2Proof.Stated

/-- A thread that control takes to an address: a loop level that it leaves becomes inactive, level 1 with level 0 (R93). -/
def sent (a : BitVec 10) (w : Bool) (x : Thread) : Thread :=
  let keep0 := x.lp0.active && decide (x.lp0.start.toNat ≤ a.toNat ∧ a.toNat ≤ x.lp0.stop.toNat)
  let keep1 := x.lp1.active && decide (x.lp1.start.toNat ≤ a.toNat ∧ a.toNat ≤ x.lp1.stop.toNat) && (!x.lp0.active || keep0)
  ({ x with pp := false, pc := a, lp0 := { x.lp0 with active := keep0 }, lp1 := { x.lp1 with active := keep1 } } : Thread).marker w
/-- The thread with its return address in lane 0 of g31 (R91, R92). -/
def linked (s : State) (x : Thread) : Thread :=
  x.setReg 31 (setLane0 (s.cell.reg s.cell.last 31) (BitVec.ofNat 64 (s.me.pc.toNat + 1)))

end Sys2Proof.Stated

/-- R91, R92: BR and CALL go to the pc plus their offset, JMP, CALLR and RET to the address in A's lane 0; CALL and CALLR leave the
address of the next word in lane 0 of g31. -/
def Obligations.Branches : Prop :=
  ∀ (h : Hdr) (s : State), Passes s h → s.inBlock = false →
    (∀ (o : BitVec 18) (t : BitVec 10), (t.toNat : Int) = s.me.pc.toNat + o.toInt →
      exec (.br h o) s = .next (s.modMe (sent t h.w)) ∧
      exec (.call h o) s = .next (s.modMe fun x => sent t h.w (linked s x))) ∧
    (∀ (a : Spec) (t : BitVec 10), srcOk a = true → s.anyBound [a] = false → (lane s a).toNat = t.toNat →
      exec (.jmp h a) s = .next (s.modMe (sent t h.w)) ∧
      exec (.ret h a) s = .next (s.modMe (sent t h.w)) ∧
      exec (.callr h a) s = .next (s.modMe fun x => sent t h.w (linked s x)))

/-- R93: LOOP.OUT opens level 0 and closes level 1, LOOP.IN opens level 1, over the LEN words that follow, for the count in A; with a
count of zero the thread goes on as if it had run the body's last word: where the outer level ends there too, at its start or past it. -/
def Sys2Proof.Stated.Loops : Prop :=
  ∀ (h : Hdr) (a : Spec) (len : BitVec 6) (s : State), Passes s h → s.me.inb = false → srcOk a = true → s.anyBound [a] = false →
    len ≠ 0 → s.me.pc.toNat + len.toNat ≤ 1023 →
    (((lane s a).toNat % 2 ^ 32 ≠ 0) →
      exec (.loop h a len 0) s = .next (s.modMe fun x => goes (x.pc + 1)
        ⟨true, x.pc + 1, x.pc + BitVec.ofNat 10 len.toNat, (lane s a).setWidth 32⟩ { x.lp1 with active := false } h.w x)) ∧
    (((lane s a).toNat % 2 ^ 32 ≠ 0) → (s.me.lp0.active = true → s.me.pc.toNat + len.toNat ≤ s.me.lp0.stop.toNat) →
      exec (.loop h a len 1) s = .next (s.modMe fun x => goes (x.pc + 1) x.lp0
        ⟨true, x.pc + 1, x.pc + BitVec.ofNat 10 len.toNat, (lane s a).setWidth 32⟩ h.w x)) ∧
    (((lane s a).toNat % 2 ^ 32 = 0) → s.me.pc.toNat + len.toNat < 1023 →
      exec (.loop h a len 0) s = .next (s.modMe fun x => goes (x.pc + BitVec.ofNat 10 (len.toNat + 1)) { x.lp0 with active := false }
        { x.lp1 with active := false } h.w x)) ∧
    (((lane s a).toNat % 2 ^ 32 = 0) → (s.me.lp0.active = true → s.me.pc.toNat + len.toNat < s.me.lp0.stop.toNat) →
      s.me.pc.toNat + len.toNat < 1023 →
      exec (.loop h a len 1) s = .next (s.modMe fun x => goes (x.pc + BitVec.ofNat 10 (len.toNat + 1)) x.lp0
        { x.lp1 with active := false } h.w x)) ∧
    (((lane s a).toNat % 2 ^ 32 = 0) → s.me.lp0.active = true → s.me.pc.toNat + len.toNat = s.me.lp0.stop.toNat →
      (1 < s.me.lp0.count.toNat →
        exec (.loop h a len 1) s = .next (s.modMe fun x => goes x.lp0.start { x.lp0 with count := x.lp0.count - 1 }
          { x.lp1 with active := false } h.w x)) ∧
      (s.me.lp0.count.toNat ≤ 1 → s.me.pc.toNat + len.toNat < 1023 →
        exec (.loop h a len 1) s = .next (s.modMe fun x => goes (x.pc + BitVec.ofNat 10 (len.toNat + 1))
          { x.lp0 with active := false, count := 0 } { x.lp1 with active := false } h.w x)))

/-- R46, R71, R90, R93, R96: NOP only goes on: to the next word, or back to the start of the level that ends here, the inner one before the
outer one, while passes remain, and past the last word of its block a block ends; YIELD goes on too, and its thread sits out the next issue cycle. -/
def Sys2Proof.Stated.FallingThrough : Prop :=
  ∀ (h : Hdr) (s : State), Passes s h →
    (∀ (pc : BitVec 10) (l0 l1 : Loop), Follows s 1 pc l0 l1 →
      exec (.nop h) s = .next (s.modMe (goes pc l0 l1 h.w)) ∧
      exec (.yield h) s = .next (s.modMe fun x => goes pc l0 l1 h.w { x with yielded := true })) ∧
    (s.me.inb = false → ¬(s.me.lp0.active = true ∧ s.me.lp0.stop = s.me.pc) → ¬(s.me.lp1.active = true ∧ s.me.lp1.stop = s.me.pc) →
      s.me.pc.toNat < 1023 →
      exec (.nop h) s = .next (s.modMe fun x => goes (x.pc + 1) x.lp0 x.lp1 h.w x)) ∧
    (s.me.inb = false → s.me.lp1.active = true → s.me.lp1.stop = s.me.pc → 1 < s.me.lp1.count.toNat →
      exec (.nop h) s = .next (s.modMe fun x => goes x.lp1.start x.lp0 { x.lp1 with count := x.lp1.count - 1 } h.w x)) ∧
    (∀ l1 : Loop, s.me.inb = false →
      (¬(s.me.lp1.active = true ∧ s.me.lp1.stop = s.me.pc) → l1 = s.me.lp1) →
      (s.me.lp1.active = true → s.me.lp1.stop = s.me.pc → s.me.lp1.count.toNat ≤ 1 ∧ l1 = { s.me.lp1 with active := false, count := 0 }) →
      (¬(s.me.lp0.active = true ∧ s.me.lp0.stop = s.me.pc) → s.me.pc.toNat < 1023 →
        exec (.nop h) s = .next (s.modMe fun x => goes (x.pc + 1) x.lp0 l1 h.w x)) ∧
      (s.me.lp0.active = true → s.me.lp0.stop = s.me.pc →
        (1 < s.me.lp0.count.toNat →
          exec (.nop h) s = .next (s.modMe fun x => goes x.lp0.start { x.lp0 with count := x.lp0.count - 1 } l1 h.w x)) ∧
        (s.me.lp0.count.toNat ≤ 1 → s.me.pc.toNat < 1023 →
          exec (.nop h) s = .next (s.modMe fun x => goes (x.pc + 1) { x.lp0 with active := false, count := 0 } l1 h.w x)))) ∧
    (s.me.inb = true → s.me.pc.toNat = s.me.blkAt.toNat + s.me.blkLen.toNat → s.me.outs = [] → s.me.deferred = none →
      ∃ t, exec (.nop h) s = .next t ∧ t.me.st = .stopped ∧ t.me.inb = false ∧ t.me.g = s.me.g ∧ t.me.q = s.me.q ∧ t.me.pc = s.me.pc ∧
        (∀ i : Fin 4, t.cell.mx.owner[i] = if s.cell.mx.owner[i] = some s.cell.last then none else s.cell.mx.owner[i]) ∧
        t.cell.pad = s.cell.pad)

/-- R94, R95, R181: STOP stops its thread and HRET frees it, once no result of it is outstanding, and its leases end; with results
outstanding the thread waits for them. -/
def Sys2Proof.Stated.ThreadsEnd : Prop :=
  ∀ (h : Hdr) (s : State), Passes s h →
    (s.inHandler = false → s.me.outs = [] → s.me.deferred = none →
      ∃ t, exec (.stop h) s = .next t ∧ t.me.st = .stopped ∧ t.me.wait = .none ∧ t.me.inb = false ∧ t.me.g = s.me.g ∧ t.me.q = s.me.q ∧
        (∀ i : Fin 4, t.cell.mx.owner[i] = if s.cell.mx.owner[i] = some s.cell.last then none else s.cell.mx.owner[i]) ∧
        t.cell.pad = s.cell.pad ∧ t.cell.inbox = s.cell.inbox ∧ ∀ u : TIdx, u ≠ s.cell.last → t.cell.th u = s.cell.th u) ∧
    (s.inHandler = true → s.me.outs = [] → s.me.deferred = none →
      ∃ t, exec (.hret h) s = .next t ∧ t.me.st = .free ∧ t.me.wait = .none ∧ t.me.inh = false ∧ t.me.tmd = false ∧ t.me.g = s.me.g ∧
        (∀ i : Fin 4, t.cell.mx.owner[i] = if s.cell.mx.owner[i] = some s.cell.last then none else s.cell.mx.owner[i]) ∧
        t.cell.pad = s.cell.pad ∧ ∀ u : TIdx, u ≠ s.cell.last → t.cell.th u = s.cell.th u) ∧
    (s.me.outs ≠ [] →
      (s.inHandler = false → exec (.stop h) s = .next (s.modMe fun x =>
        { x with pp := false, st := .parked, wait := .finish .stop, wmark := false })) ∧
      (s.inHandler = true → exec (.hret h) s = .next (s.modMe fun x =>
        { x with pp := false, st := .parked, wait := .finish .hret, wmark := false })))

/-- R70, R97 to R99: BCAST parks the lead for its delivery; JOINM goes on at once when every thread of its mask is free, stopped or
faulted, with the mask of the faulted ones in D, and JOINM.F frees the stopped ones; while one is in another state the lead parks. FETCHB, the last word of a block, takes the next
block. -/
def Sys2Proof.Stated.BlockControl : Prop :=
  ∀ (h : Hdr) (s : State), Passes s h →
    (∀ (m : BitVec 7) (len : BitVec 3) (off : BitVec 8), s.cell.last = 0 → m ≠ 0 → off ≠ 0 →
      s.me.pc.toNat + off.toNat + len.toNat ≤ 1023 → (∀ u : TIdx, inMask m u = true → (s.cell.th u).st ≠ .faulted) →
      exec (.bcast h m len off) s = .next (s.modMe fun x =>
        { x with pp := false, st := .parked, wait := .bcast m (x.pc + BitVec.ofNat 10 off.toNat) len, wmark := h.w })) ∧
    (∀ (d a : Spec) (m : BitVec 7) (pc : BitVec 10) (l0 l1 : Loop), s.cell.last = 0 → dstOk d = true → srcOk a = true →
      s.anyBound [d, a] = false → (lane s a).setWidth 7 = m → Follows s 1 pc l0 l1 →
      ((∀ u : TIdx, inMask m u = true → (s.cell.th u).st = .free ∨ (s.cell.th u).st = .stopped ∨ (s.cell.th u).st = .faulted) →
        (∃ t, exec (.joinm h d a) s = .next t ∧
          t.me = goes pc l0 l1 h.w (s.me.setReg d (setLane0 (held s d) (BitVec.ofNat 64 (s.cell.faultedMask m)))) ∧
          ∀ u : TIdx, u ≠ 0 → t.cell.th u = s.cell.th u) ∧
        (∃ t, exec (.joinmF h d a) s = .next t ∧
          t.me = goes pc l0 l1 h.w (s.me.setReg d (setLane0 (held s d) (BitVec.ofNat 64 (s.cell.faultedMask m)))) ∧
          ∀ u : TIdx, u ≠ 0 → t.cell.th u =
            if inMask m u = true ∧ (s.cell.th u).st = .stopped then { s.cell.th u with st := .free } else s.cell.th u)) ∧
      ((∃ u : TIdx, inMask m u = true ∧ (s.cell.th u).st ≠ .free ∧ (s.cell.th u).st ≠ .stopped ∧ (s.cell.th u).st ≠ .faulted) →
        exec (.joinm h d a) s = .next (s.modMe fun x => { x with pp := false, st := .parked, wait := .joinm m d false, wmark := h.w }) ∧
        exec (.joinmF h d a) s = .next (s.modMe fun x => { x with pp := false, st := .parked, wait := .joinm m d true, wmark := h.w }))) ∧
    (∀ (a : Spec) (b : BitVec 10) (len : BitVec 3), s.cell.last ≠ 0 → s.me.inb = true → srcOk a = true → s.anyBound [a] = false →
      s.me.pc.toNat = s.me.blkAt.toNat + s.me.blkLen.toNat → (lane s a).setWidth 10 = b → (lane s a).extractLsb' 10 3 = len →
      b.toNat + len.toNat ≤ 1023 →
      ∃ t, exec (.fetchb h a) s = .next t ∧ t.me.blkAt = b ∧ t.me.blkLen = len ∧ t.me.pc = b ∧ t.me.inb = true ∧ t.me.g = s.me.g ∧
        (∀ i : Fin 8, i.val ≤ len.toNat → t.me.blk[i] = Sp.get s.cell.plane.active.code (b.toNat + i.val)) ∧
        ∀ u : TIdx, u ≠ s.cell.last → t.cell.th u = s.cell.th u)

namespace Sys2Proof.Stated

/-- No deposit into the thread is in progress. -/
def NoDeposit (x : Thread) : Prop := ∀ p pc prio timed len, x.wait ≠ .deposit p pc prio timed len
/-- All that a thread has outstanding is a request for leases, in the matrix queue or the lease list (R182). -/
def OnlyLeases (s : State) (u : TIdx) : Prop :=
  ∀ o ∈ (s.cell.th u).outs, ∃ i, o.kind = .matrix i ∧
    ((∃ r ∈ s.cell.mx.leaseQ, r.id = i ∧ r.t = u) ∨ ∃ e ∈ s.cell.mx.queue, e.id = i ∧ e.t = u ∧ ∃ m d, e.op = .lease m d)
/-- The thread's requests for leases are withdrawn, and no others. -/
def Withdrawn (s t : State) (u : TIdx) : Prop :=
  t.cell.mx.leaseQ = s.cell.mx.leaseQ.filter (fun r => r.t != u) ∧
  (∀ e, e ∈ t.cell.mx.queue ↔ e ∈ s.cell.mx.queue ∧ ¬(e.t = u ∧ ∃ m d, e.op = .lease m d))
/-- A write stream of the thread's has packets still to be written (R238). -/
def Undrained (s : State) (u : TIdx) : Prop :=
  ∃ n : Fin 4, s.cell.eng.strm[n].bound = true ∧ s.cell.eng.strm[n].own = u ∧ s.cell.eng.strm[n].isWrite = true ∧
    s.cell.eng.strm[n].buf ≠ [] ∧ s.cell.eng.strm[n].err = false
/-- The lead waits until the thread, which issues no more, is free; its registers stay until then. -/
def Awaited (s t : State) (h : Hdr) (u : TIdx) (clear : Bool) : Prop :=
  t.me = { s.me with pp := false, st := .parked, wait := .kill u, wmark := h.w } ∧ (t.cell.th u).st = .parked ∧
  (t.cell.th u).wait = .finish (.kill clear) ∧ (t.cell.th u).g = (s.cell.th u).g

end Sys2Proof.Stated

/-- R52, R100, R109, R182, R238, R368, R369, R371, Table 03.12: the lead resumes a faulted thread at its FPC with VALID cleared, inside its
block or its handler; with END set its block ends, where a prefix is pending with ILLEGAL at the block's last word, or, outside a block, it
raises ILLEGAL; the lead kills a thread, which becomes free with its leases ended and its lease request withdrawn, or resets one, which also
clears its registers, predicates, prefix and loops, sets its formats and its generator as at reset and ends its bindings; a thread that is
not faulted is not resumed, and one whose fault a journaled timed handler holds is left as it is by all three. While results of the thread are outstanding, or for RESET a write stream of it is not drained, the lead parks. -/
def Sys2Proof.Stated.ThreadControl : Prop :=
  ∀ (h : Hdr) (a : Spec) (s : State) (pc : BitVec 10) (l0 l1 : Loop) (u : TIdx), Passes s h → Follows s 1 pc l0 l1 → s.cell.last = 0 →
    srcOk a = true → s.anyBound [a] = false → (lane s a).toNat % 8 = u.val → u ≠ 0 →
    ((∃ r, s.cell.tim.run = some r ∧ r.t = u ∧ r.held = true) →
      ∀ i ∈ [Instr.tctlResume h a, .tctlKill h a, .tctlReset h a], exec i s = .next (s.modMe (goes pc l0 l1 h.w))) ∧
    (s.cell.heldFault u = false →
    ((s.cell.th u).st = .faulted → (s.cell.th u).fcause.getLsbD 16 = false → ((s.cell.th u).inb = true →
        (s.cell.th u).blkAt.toNat ≤ (s.cell.th u).fpc.toNat ∧ (s.cell.th u).fpc.toNat ≤ (s.cell.th u).blkAt.toNat + (s.cell.th u).blkLen.toNat) →
      exec (.tctlResume h a) s = .next ((s.modTh u fun x =>
        { x with fcause := x.fcause &&& 0xFFFF &&& ~~~0x8000, pc := x.fpc, st := .running, wait := .none }).modMe (goes pc l0 l1 h.w))) ∧
    ((s.cell.th u).st = .faulted → (s.cell.th u).fcause.getLsbD 16 = true → (s.cell.th u).outs = [] → (s.cell.th u).deferred = none →
      (s.cell.th u).pp = false → s.me.wait = .none → s.cell.holdsFault u = false →
      ∃ t, exec (.tctlResume h a) s = .next t ∧ t.me.pc = pc ∧ (t.cell.th u).g = (s.cell.th u).g ∧
        ((s.cell.th u).inb = true → (t.cell.th u).st = .stopped ∧ (t.cell.th u).inb = false ∧
          (t.cell.th u).fcause = (s.cell.th u).fcause &&& ~~~0x8000) ∧
        ((s.cell.th u).inb = false → (t.cell.th u).st = .faulted ∧ (t.cell.th u).fcause = 0x8001 ∧ (t.cell.th u).fpc = 1023)) ∧
    ((s.cell.th u).st = .faulted → (s.cell.th u).fcause.getLsbD 16 = true → (s.cell.th u).outs = [] → (s.cell.th u).deferred = none →
      (s.cell.th u).pp = true → s.me.wait = .none → s.cell.holdsFault u = false → (s.cell.th u).inb = true →
      ∃ t, exec (.tctlResume h a) s = .next t ∧ t.me.pc = pc ∧ (t.cell.th u).st = .faulted ∧ (t.cell.th u).fcause = 0x8001 ∧
        (t.cell.th u).fpc = (s.cell.th u).blkAt + (s.cell.th u).blkLen.setWidth 10 ∧ (t.cell.th u).pp = true) ∧
    ((s.cell.th u).st ≠ .faulted → exec (.tctlResume h a) s = .next (s.modMe (goes pc l0 l1 h.w))) ∧
    ((s.cell.th u).st = .free → exec (.tctlKill h a) s = .next (s.modMe (goes pc l0 l1 h.w))) ∧
    (s.me.wait = .none → (s.cell.th u).st ≠ .free → NoDeposit (s.cell.th u) → OnlyLeases s u →
      ∃ t, exec (.tctlKill h a) s = .next t ∧ Withdrawn s t u ∧ (t.cell.th u).st = .free ∧ (t.cell.th u).wait = .none ∧ (t.cell.th u).inh = false ∧
        (t.cell.th u).inb = false ∧ (t.cell.th u).g = (s.cell.th u).g ∧ (t.cell.th u).fcause.getLsbD 15 = false ∧ t.me.pc = pc ∧
        ∀ i : Fin 4, t.cell.mx.owner[i] = if s.cell.mx.owner[i] = some u then none else s.cell.mx.owner[i]) ∧
    (s.me.wait = .none → NoDeposit (s.cell.th u) → OnlyLeases s u → ¬Undrained s u →
      ∃ t, exec (.tctlReset h a) s = .next t ∧ Withdrawn s t u ∧ (t.cell.th u).st = .free ∧ (t.cell.th u).g = Vector.replicate 32 0 ∧
        (t.cell.th u).q = Vector.replicate 8 0 ∧ (t.cell.th u).p = 0 ∧ (t.cell.th u).link = 0 ∧ (t.cell.th u).fmt = 0x2E00 ∧
        (t.cell.th u).rseed = Thread.seed u s.cell.name ∧ (t.cell.th u).y0 = 0 ∧ (t.cell.th u).y1 = 0 ∧ (t.cell.th u).pp = false ∧
        (t.cell.th u).pfx = 0 ∧ (t.cell.th u).lp0 = {} ∧ (t.cell.th u).lp1 = {} ∧ (t.cell.th u).mshape = 0x0BAE33 ∧
        (∀ n : Fin 4, t.cell.eng.strm[n] = if s.cell.eng.strm[n].bound = true ∧ s.cell.eng.strm[n].own = u then
          { s.cell.eng.strm[n] with bound := false, buf := [], out := none } else s.cell.eng.strm[n]) ∧ t.me.pc = pc) ∧
    (s.me.wait = .none → NoDeposit (s.cell.th u) →
      ((s.cell.th u).st ≠ .free → (∃ o ∈ (s.cell.th u).outs, ∀ i, o.kind ≠ .matrix i) →
        ∃ t, exec (.tctlKill h a) s = .next t ∧ Withdrawn s t u ∧ Awaited s t h u false) ∧
      ((∃ o ∈ (s.cell.th u).outs, ∀ i, o.kind ≠ .matrix i) ∨ Undrained s u →
        ∃ t, exec (.tctlReset h a) s = .next t ∧ Withdrawn s t u ∧ Awaited s t h u true)))

namespace Sys2Proof.Stated

/-- The issuing thread as the fault record leaves it, and FLT one higher (R367, R368): the pc stays, the registers stay. -/
def faulting (s : State) (r : FaultRec) : State :=
  { s with cell :=
    { s.cell.modTh s.cell.last (fun x =>
        { x with
          st := .faulted
          wait := .none
          wmark := false
          fcause := BitVec.ofNat 17 (r.cause.toNat + 2 ^ 8 * r.info.toNat + 2 ^ 14 * (if r.defer then 1 else 0) + 2 ^ 15 +
            2 ^ 16 * (if r.endd then 1 else 0))
          fpc := r.fpc
          faddr := r.faddr
          deferred := if r.defer then none else x.deferred }) with
      flt := satInc s.cell.flt } }
/-- Channel 62's payload (R369). -/
def faultPayload (t : TIdx) (r : FaultRec) : V256 :=
  BitVec.ofNat 256 (r.cause.toNat + 2 ^ 8 * r.info.toNat + 2 ^ 14 * (if r.defer then 1 else 0) + 2 ^ 15 * (if r.endd then 1 else 0) +
    2 ^ 16 * t.val + 2 ^ 19 * r.fpc.toNat + 2 ^ 64 * r.faddr.toNat)
/-- What taking an exception comes to, for a thread with nothing outstanding (R365 to R370): a micro-thread's is an event on channel
62, the lead's a lead fault on its way to the controller. -/
def taken (s : State) (r : FaultRec) : State :=
  if s.cell.last = 0 then modFocus (faulting s r) (·.leadFault 0 r)
  else modFocus ((faulting s r).raise 62 (faultPayload s.cell.last r)) (·.stopFault)

end Sys2Proof.Stated

/-- R365 to R371, Tables 16.1 to 16.3: TRAP takes its exception with cause 0x08, its code, the address of the next word (with END and its
own where there is none) and A's lane 0; BRK one with cause 0x09 and its own address. -/
def Sys2Proof.Stated.TrapsAreTaken : Prop :=
  ∀ (h : Hdr) (a : Spec) (code : BitVec 6) (s : State), Passes s h → srcOk a = true → s.anyBound [a] = false → s.me.outs = [] →
    s.cell.holdsFault s.cell.last = false → s.cell.bcastAwaits s.cell.last = false →
    (s.noNextWord = false → exec (.trap h a code) s = .next (taken s ⟨0x08, code, false, false, s.me.pc + 1, lane s a⟩)) ∧
    (s.noNextWord = true → exec (.trap h a code) s = .next (taken s ⟨0x08, code, false, true, s.me.pc, lane s a⟩)) ∧
    (s.debug = false ∨ s.cell.last = 0 → exec (.brk h a code) s = .next (taken s ⟨0x09, code, false, false, s.me.pc, lane s a⟩)) ∧
    (s.debug = true → exec (.brk h a code) s = .next (modFocus (faulting s ⟨0x09, code, false, false, s.me.pc, lane s a⟩)
      (·.leadFault s.cell.last ⟨0x09, code, false, false, s.me.pc, lane s a⟩)))

/-! ### The vector datapath (05_number_formats, 06_vector_datapath) -/

/-- R139, R144: an instruction's formats and rounding selector: the prefix's where it gives one, else the instruction's own selector,
else sys.FMT's. -/
def Sys2Proof.Stated.EffectiveFormats : Prop :=
  ∀ (x : Thread) (own : Option (BitVec 2)),
    (x.pp = false → x.efEff.toNat = x.fmt.toNat % 16 ∧ x.rfEff.toNat = x.fmt.toNat / 16 % 16 ∧
      (own = none → (x.rsEff own).toNat = x.fmt.toNat / 2 ^ 14) ∧ ∀ r, own = some r → x.rsEff own = r) ∧
    (x.pp = true → (x.rsEff own).toNat = x.pfx.toNat / 2 ^ 4 % 4 ∧
      (x.pfx.toNat / 2 ^ 16 ≠ 15 → x.efEff.toNat = x.pfx.toNat / 2 ^ 16) ∧
      (x.pfx.toNat / 2 ^ 16 = 15 → x.efEff.toNat = x.fmt.toNat % 16) ∧
      (x.pfx.toNat / 2 ^ 12 % 16 ≠ 15 → x.rfEff.toNat = x.pfx.toNat / 2 ^ 12 % 16) ∧
      (x.pfx.toNat / 2 ^ 12 % 16 = 15 → x.rfEff.toNat = x.fmt.toNat / 16 % 16))

/-- R141, R142, Table 05.6: a magnitude m · 2^e rounded to units of 2^g, where it is not exact already: to nearest, ties to even; toward
zero; up; down; and, by a draw r, away from zero just when the fraction of a unit exceeds r · 2^−32. -/
def Sys2Proof.Stated.RoundsByTheModes : Prop :=
  ∀ (neg : Bool) (m k : Nat) (e : Int),
    (∀ (mo : Mode) (g : Int), g ≤ e → (roundMag mo neg m e g : Int) = m * 2 ^ (e - g).toNat) ∧
    (∀ q : Nat, q = roundMag .rne neg m e (e + (k + 1)) →
      2 * m ≤ 2 * q * 2 ^ (k + 1) + 2 ^ (k + 1) ∧ 2 * q * 2 ^ (k + 1) ≤ 2 * m + 2 ^ (k + 1) ∧
      (2 * m = 2 * q * 2 ^ (k + 1) + 2 ^ (k + 1) ∨ 2 * q * 2 ^ (k + 1) = 2 * m + 2 ^ (k + 1) → q % 2 = 0)) ∧
    roundMag .rz neg m e (e + (k + 1)) = m / 2 ^ (k + 1) ∧
    roundMag .ru neg m e (e + (k + 1)) = (if neg then m / 2 ^ (k + 1) else (m + 2 ^ (k + 1) - 1) / 2 ^ (k + 1)) ∧
    roundMag .rd neg m e (e + (k + 1)) = (if neg then (m + 2 ^ (k + 1) - 1) / 2 ^ (k + 1) else m / 2 ^ (k + 1)) ∧
    ∀ r : W32, roundMag (.sr r) neg m e (e + (k + 1)) =
      m / 2 ^ (k + 1) + (if r.toNat < m % 2 ^ (k + 1) * 2 ^ 32 / 2 ^ (k + 1) then 1 else 0)

namespace Sys2Proof.Stated

/-- A vector instruction whose result is an element for each place of a register: its header, its sources, its destination, and the
element at a place, modulo the element's width. -/
structure VForm where
  h : Hdr
  srcs : List Spec
  d : Spec
  elem : Nat → Nat

/-- It issues: it takes a prefix, so one may be pending. -/
def VForm.Ready (f : VForm) (s : State) : Prop :=
  dstOk f.d = true ∧ f.srcs.all srcOk = true ∧ s.anyBound (f.d :: f.srcs) = false ∧ s.me.guard f.h = true ∧ s.me.cuts = []
/-- Element `i` of a register in the effective element format. -/
def at_ (s : State) (a : Spec) (i : Nat) : Nat := el (reg s a) (fmtBits s.ef) i
/-- The number that an integer code stands for: of UI8 unsigned, of the others in two's complement (R132). -/
def num (f : BitVec 4) (v : Nat) : Int := if f = 9 then (v : Int) else Int.bmod v (2 ^ fmtBits f)
/-- Clamped to the format's range (R132), or as it is. -/
def held_ (f : BitVec 4) (sat : Bool) (z : Int) : Int :=
  if sat then
    (if f = 9 then max 0 (min 255 z) else max (-2 ^ (fmtBits f - 1)) (min (2 ^ (fmtBits f - 1) - 1) z))
  else z
/-- A sum, difference or product of two elements: of floating ones the exact value rounded once to nearest; of integers the exact
number, wrapped or saturated (R154, R156). -/
def arithAt (f : BitVec 4) (sat : Bool) (ff : FVal → FVal → FVal) (fi : Int → Int → Int) (u v : Nat) : Nat :=
  if f.toNat < 3 then roundF f .rne (ff (valueOf f u) (valueOf f v)) else (held_ f sat (fi (num f u) (num f v)) % 2 ^ fmtBits f).toNat
/-- VADD, VSUB, VMUL: X[0] takes element 0 of B throughout, X[1] saturates; floating formats have no saturation (R155, R156). -/
def arithForm (s : State) (h : Hdr) (d a b : Spec) (x : BitVec 2) (ff : FVal → FVal → FVal) (fi : Int → Int → Int) : Option VForm :=
  if isFN s.ef = true ∧ ¬(s.ef.toNat < 3 ∧ 2 ≤ x.toNat) then
    some ⟨h, [a, b], d, fun i => arithAt s.ef (x.getLsbD 1) ff fi (at_ s a i) (at_ s b (if x.getLsbD 0 then 0 else i))⟩
  else none

/-- The vector instructions with one element for each place, each with the element that the manual gives it in the effective format;
none where the format or a field is reserved for it. -/
def vectorForm (s : State) : Instr → Option VForm
  | .vadd h d a b x => arithForm s h d a b x (fun u v => sumF [u, v]) (· + ·)
  | .vsub h d a b x => arithForm s h d a b x (fun u v => sumF [u, v.negate]) (· - ·)
  | .vmul h d a b x => arithForm s h d a b x FVal.mul (· * ·)
  | .vfma h d a b x =>
    if isF s.ef = true ∧ x ≠ 3 then
      some ⟨h, [a, b, d], d, fun i =>
        let p := FVal.mul (valueOf s.ef (at_ s a i)) (valueOf s.ef (at_ s b i))
        let c := valueOf s.ef (at_ s d i)
        roundF s.ef .rne (sumF [if x = 2 then p.negate else p, if x = 1 then c.negate else c])⟩
    else none
  | .vminmax h d a b x =>
    if isFN s.ef then
      some ⟨h, [a, b], d, fun i =>
        let u := at_ s a i
        let v := at_ s b (if x.getLsbD 1 then 0 else i)
        if isF s.ef && (nanF s.ef u || nanF s.ef v) then canonNaN s.ef
        else
          let less (m n : Nat) : Bool := if isF s.ef then decide (keyF s.ef m < keyF s.ef n) else decide (num s.ef m < num s.ef n)
          if x.getLsbD 0 then (if less u v then v else u) else (if less v u then v else u)⟩
    else none
  | .vun h d a x =>
    if isF s.ef then some ⟨h, [a], d, fun i => unEl s.ef x (at_ s a i)⟩
    else if isN s.ef = true ∧ x ≠ 3 then
      some ⟨h, [a], d, fun i =>
        let z := num s.ef (at_ s a i)
        ((if x = 0 then (z.natAbs : Int) else if x = 1 then -z else z.sign) % 2 ^ fmtBits s.ef).toNat⟩
    else none
  | .vsel h d a b x =>
    if s.ef = 15 then none
    else some ⟨h, [a, b, d], d, fun i => if (lane s d).getLsbD i then at_ s a i else at_ s b (if x = 1 then 0 else i)⟩
  | .vshuf h d a b x =>
    if s.ef = 15 ∨ fmtBits s.ef < 8 then none
    else some ⟨h, if x = 1 then [a, b, d] else [a, b], d, fun i =>
      let k := at_ s b i
      if k < count s.ef then at_ s a k else if x = 1 ∧ k < 2 * count s.ef then at_ s d (k - count s.ef) else 0⟩
  | .vbc h d a b x =>
    if s.ef = 15 ∨ (x = 0 ∧ count s.ef ≤ b.toNat) then none
    else some ⟨h, if x = 1 then [a, b] else [a], d, fun _ =>
      let k := if x = 1 then (lane s b).toNat else b.toNat
      if k < count s.ef then at_ s a k else 0⟩
  | .vsh h d a b x =>
    if isShift s.ef then
      some ⟨h, [a, b], d, fun i =>
        let w := fmtBits s.ef
        let u := at_ s a i
        let n := at_ s b i
        if x = 0 then u * 2 ^ n
        else if x = 1 then u / 2 ^ n
        else if x = 2 then (Int.bmod u (2 ^ w) / 2 ^ min n (w - 1) % 2 ^ w).toNat
        else u * 2 ^ (n % w) + u / 2 ^ (w - n % w)⟩
    else none
  | .vscale h d a b x =>
    if isF s.ef then
      some ⟨h, [a, b], d, fun i =>
        let k := max (-600) (min 600 (Int.bmod (at_ s b (if x = 1 then 0 else i)) (2 ^ fmtBits s.ef)))
        roundF s.ef .rne (match valueOf s.ef (at_ s a i) with | .fin n m e => .fin n m (e + k) | v => v)⟩
    else none
  | .vrint h d a x =>
    if isF s.ef = true ∧ x ≠ 3 then
      some ⟨h, [a], d, fun i => rintEl s.ef (if x = 0 then .rne else if x = 1 then .rz else .rd) (at_ s a i)⟩
    else none
  | _ => none

end Sys2Proof.Stated

/-- R129, R150, R153 to R161, R164 to R166, R169, R105: such an instruction leaves each element in its place of D, enters the last-result
file with it, uses up a prefix, and goes on; nothing else changes. -/
def Sys2Proof.Stated.VectorResults : Prop :=
  ∀ (i : Instr) (f : VForm) (s : State) (pc : BitVec 10) (l0 l1 : Loop), vectorForm s i = some f → f.Ready s → Follows s 1 pc l0 l1 →
    ∃ v : V256, exec i s = .next (s.modMe fun x => goes pc l0 l1 f.h.w ((x.setReg f.d v).last f.d v)) ∧
      ∀ j, j < 256 / fmtBits s.ef → el v (fmtBits s.ef) j = f.elem j % 2 ^ fmtBits s.ef

/-- R162, R163, R167, R168: VRED puts one element's reduction in element 0 and zero above it; VCMP leaves a bit for each element in
g(M)'s lane 0 and their OR in PD; VLANE moves one element to lane 0, extended, or into its place in D; VLOG works on all 256 bits. That VCMP enters the last-result file, with
g(M), is the model's reading (log entry 15). -/
def Sys2Proof.Stated.VectorReductions : Prop :=
  ∀ (h : Hdr) (d a b : Spec) (s : State) (pc : BitVec 10) (l0 l1 : Loop), s.me.guard h = true → s.me.cuts = [] → Follows s 1 pc l0 l1 →
    srcOk a = true → srcOk b = true → s.anyBound [d, a, b] = false →
    (∀ x : BitVec 2, dstOk d = true → isFN s.ef = true →
      exec (.vred h d a x) s = .next (s.modMe fun y =>
        let v : V256 := BitVec.ofNat 256 (redEls s.ef x ((List.range (256 / fmtBits s.ef)).map (at_ s a)) % 2 ^ fmtBits s.ef)
        goes pc l0 l1 h.w ((y.setReg d v).last d v))) ∧
    (∀ (pd m : BitVec 3) (x : BitVec 2), isFN s.ef = true →
      ∃ (k : W64) (p' : BitVec 8), exec (.vcmp h pd m a b x) s = .next (s.modMe fun y =>
          let v := setLane0 (reg s (0#3 ++ m)) k
          goes pc l0 l1 h.w { (y.setReg (0#3 ++ m) v).last (0#3 ++ m) v with p := p' }) ∧
        (∀ i, i < 64 → k.getLsbD i = (decide (i < 256 / fmtBits s.ef) && vcmpEl s.ef x (at_ s a i) (at_ s b i))) ∧
        (pd ≠ 0 → p'.getLsbD pd.toNat = (k != 0)) ∧ ∀ j, pd = 0 ∨ j ≠ pd.toNat → p'.getLsbD j = s.me.p.getLsbD j) ∧
    (∀ k : BitVec 6, dstOk d = true → s.ef ≠ 15 → k.toNat < 256 / fmtBits s.ef →
      exec (.vlane h d a k 0) s = .next (s.modMe fun y =>
        let v := setLane0 (held s d) (BitVec.ofNat 64 (at_ s a k.toNat))
        goes pc l0 l1 h.w ((y.setReg d v).last d v)) ∧
      exec (.vlane h d a k 1) s = .next (s.modMe fun y =>
        let v := setLane0 (held s d) (BitVec.ofInt 64 (Int.bmod (at_ s a k.toNat) (2 ^ fmtBits s.ef)))
        goes pc l0 l1 h.w ((y.setReg d v).last d v)) ∧
      ∃ v : V256, exec (.vlane h d a k 2) s = .next (s.modMe fun y => goes pc l0 l1 h.w ((y.setReg d v).last d v)) ∧
        ∀ j, j < 256 / fmtBits s.ef → el v (fmtBits s.ef) j = if j = k.toNat then at_ s a 0 else at_ s d j) ∧
    (∀ x : BitVec 2, dstOk d = true → s.me.pp = false →
      exec (.vlog h d a b x) s = .next (s.modMe fun y =>
        let v : V256 := if x = 0 then reg s a &&& reg s b else if x = 1 then reg s a ||| reg s b else if x = 2 then reg s a ^^^ reg s b
          else reg s a &&& ~~~(reg s b)
        goes pc l0 l1 h.w ((y.setReg d v).last d v)))

namespace Sys2Proof.Stated

/-- The generator after the roundings before element `k`, one draw for each stochastic one (R144). -/
def seedAt (sel : BitVec 2) (drnd : BitVec 3) (seed : W64) : Nat → W64
  | 0 => seed
  | k + 1 => (modeOf sel drnd (seedAt sel drnd seed k)).2
/-- The mode of element `k` (Table 05.6, R144). -/
def modeAt (sel : BitVec 2) (drnd : BitVec 3) (seed : W64) (k : Nat) : Mode := (modeOf sel drnd (seedAt sel drnd seed k)).1

end Sys2Proof.Stated

/-- R144, Table 05.6: the modes of a selector: nearest, toward zero, stochastic, and the plane's DRND; only a stochastic rounding steps
the generator, by its three shifts, and draws the upper half. -/
def Sys2Proof.Stated.RoundingSelectors : Prop :=
  ∀ (drnd : BitVec 3) (seed : W64),
    modeOf 0 drnd seed = (.rne, seed) ∧ modeOf 1 drnd seed = (.rz, seed) ∧
    (∃ t : W64, modeOf 2 drnd seed = (.sr (BitVec.ofNat 32 (t.toNat / 2 ^ 32)), t) ∧
      ∃ u v w : W64, u = (if seed = 0 then 1 else seed) ∧ v = u ^^^ (u <<< 13) ∧ w = v ^^^ (v >>> 7) ∧ t = w ^^^ (w <<< 17)) ∧
    modeOf 3 0 seed = (.rne, seed) ∧ modeOf 3 1 seed = (.rz, seed) ∧ modeOf 3 2 seed = (.ru, seed) ∧ modeOf 3 3 seed = (.rd, seed) ∧
    modeOf 3 4 seed = modeOf 2 4 seed

/-- R144, R161, R170: VRINT with X = 3 and CVT round each element, in order, by the effective selector, and keep the generator's new
state; a narrowing CVT fills part P of D and leaves the others. -/
def Sys2Proof.Stated.RoundedResults : Prop :=
  ∀ (h : Hdr) (d a : Spec) (s : State) (pc : BitVec 10) (l0 l1 : Loop), dstOk d = true → srcOk a = true → s.anyBound [d, a] = false →
    s.me.guard h = true → s.me.cuts = [] → Follows s 1 pc l0 l1 →
    (isF s.ef = true → ∃ v : V256, exec (.vrint h d a 3) s = .next (s.modMe fun y =>
        goes pc l0 l1 h.w ((({ y with rseed := seedAt (y.rsEff none) s.drnd y.rseed (256 / fmtBits s.ef) } : Thread).setReg d v).last d v)) ∧
      ∀ j, j < 256 / fmtBits s.ef →
        el v (fmtBits s.ef) j = rintEl s.ef (modeAt (s.me.rsEff none) s.drnd s.me.rseed j) (at_ s a j) % 2 ^ fmtBits s.ef) ∧
    (∀ (t : BitVec 4) (r x : BitVec 2), s.ef.toNat ≤ 10 → t.toNat ≤ 10 →
      fmtBits s.ef ≤ 4 * fmtBits t → fmtBits t ≤ 4 * fmtBits s.ef →
      x.toNat < max (fmtBits s.ef) (fmtBits t) / min (fmtBits s.ef) (fmtBits t) →
      ∃ (v : V256) (n : Nat), n = min (256 / fmtBits s.ef) (256 / fmtBits t) ∧
        exec (.cvt h d a t r x) s = .next (s.modMe fun y =>
          goes pc l0 l1 h.w ((({ y with rseed := seedAt (y.rsEff (some r)) s.drnd y.rseed n } : Thread).setReg d v).last d v)) ∧
        (fmtBits s.ef ≤ fmtBits t → ∀ j, j < n → el v (fmtBits t) j =
          roundAny t (modeAt (s.me.rsEff (some r)) s.drnd s.me.rseed j) (valueAny s.ef (at_ s a (x.toNat * n + j))) % 2 ^ fmtBits t) ∧
        (fmtBits t < fmtBits s.ef → (∀ j, j < n → el v (fmtBits t) (x.toNat * n + j) =
            roundAny t (modeAt (s.me.rsEff (some r)) s.drnd s.me.rseed j) (valueAny s.ef (at_ s a j)) % 2 ^ fmtBits t) ∧
          ∀ j, j < 256 / fmtBits t → ¬(x.toNat * n ≤ j ∧ j < x.toNat * n + n) → el v (fmtBits t) j = el (reg s d) (fmtBits t) j))

/-- R135, R136, R171, R172: QBLK rounds the 32 elements of a span under the scale that it computes, or that B gives, and a computed
scale goes to byte 0 or 1 of B; DQBLK unpacks block X of A under the scale byte of B into a span. -/
def Sys2Proof.Stated.BlockFormats : Prop :=
  ∀ (h : Hdr) (d a b : Spec) (s : State) (pc : BitVec 10) (l0 l1 : Loop), s.me.guard h = true → s.me.cuts = [] → Follows s 1 pc l0 l1 →
    s.anyBound [d, a, b] = false →
    (∀ (x : BitVec 2) (e : Nat) (vals : List FVal), dstOk d = true → b.toNat < 32 → d ≠ b → isF s.ef = true → s.rf = 11 ∨ s.rf = 12 →
      x.getLsbD 0 = false → a.toNat + 32 * fmtBits s.ef / 256 ≤ 32 →
      vals = ((List.range 32).map fun i =>
        valueOf s.ef (el (reg s (a + BitVec.ofNat 6 (i / (256 / fmtBits s.ef)))) (fmtBits s.ef) (i % (256 / fmtBits s.ef)))) →
      e = (if x.getLsbD 1 then (reg s b).toNat % 256 else qblkScale s.rf vals) →
      ∃ t, exec (.qblk h d a b x) s = .next t ∧
        (d ≠ 0x2E → ∀ j, j < 32 → el (t.cell.reg s.cell.last d) 8 j =
          qblkEl (blockEl s.rf) e (modeAt (s.me.rsEff none) s.drnd s.me.rseed j) (vals.getD j .nan) % 256) ∧
        el (t.cell.reg s.cell.last b) 8 0 = (if x.getLsbD 1 then el (reg s b) 8 0 else e) ∧
        (∀ j, 1 ≤ j → j < 32 → el (t.cell.reg s.cell.last b) 8 j = el (reg s b) 8 j) ∧
        t.me.rseed = seedAt (s.me.rsEff none) s.drnd s.me.rseed 32 ∧ t.me.pc = pc ∧ t.me.pp = false ∧ t.cell.pad = s.cell.pad ∧
        (∀ c : Spec, c.toNat < 40 → c ≠ d → c ≠ b → t.cell.reg s.cell.last c = reg s c) ∧
        ∀ u : TIdx, u ≠ s.cell.last → t.cell.th u = s.cell.th u) ∧
    (∀ (x : BitVec 2) (e k : Nat) (vals : List FVal), dstOk d = true → d ≠ 0x2E → b.toNat < 32 → d ≠ b → isF s.ef = true → s.rf = 13 →
      k = (if x.getLsbD 0 then 1 else 0) → a.toNat + 32 * fmtBits s.ef / 256 ≤ 32 →
      vals = ((List.range 32).map fun i =>
        valueOf s.ef (el (reg s (a + BitVec.ofNat 6 (i / (256 / fmtBits s.ef)))) (fmtBits s.ef) (i % (256 / fmtBits s.ef)))) →
      e = (if x.getLsbD 1 then (reg s b).toNat / 2 ^ (8 * k) % 256 else qblkScale 13 vals) →
      ∃ t, exec (.qblk h d a b x) s = .next t ∧
        (∀ j, j < 32 → el (t.cell.reg s.cell.last d) 4 (32 * k + j) =
          qblkEl 5 e (modeAt (s.me.rsEff none) s.drnd s.me.rseed j) (vals.getD j .nan) % 16) ∧
        (∀ j, j < 64 → j / 32 ≠ k → el (t.cell.reg s.cell.last d) 4 j = el (reg s d) 4 j) ∧
        el (t.cell.reg s.cell.last b) 8 k = (if x.getLsbD 1 then el (reg s b) 8 k else e) ∧
        (∀ j, j ≠ k → j < 32 → el (t.cell.reg s.cell.last b) 8 j = el (reg s b) 8 j) ∧
        t.me.rseed = seedAt (s.me.rsEff none) s.drnd s.me.rseed 32 ∧ t.me.pc = pc) ∧
    (∀ x : BitVec 2, srcOk a = true → srcOk b = true → 11 ≤ s.ef.toNat → s.ef ≠ 15 → isF s.rf = true →
      x.toNat < (if s.ef = 13 then 2 else if s.ef = 14 then 4 else 1) → d.toNat + 32 * fmtBits s.rf / 256 ≤ 32 →
      ∃ t, exec (.dqblk h d a b x) s = .next t ∧
        (∀ j, j < 32 → el (t.cell.reg s.cell.last (d + BitVec.ofNat 6 (j / (256 / fmtBits s.rf)))) (fmtBits s.rf) (j % (256 / fmtBits s.rf)) =
          roundF s.rf (modeAt (s.me.rsEff none) s.drnd s.me.rseed j)
            (scaled ((reg s b).toNat / 2 ^ (8 * x.toNat) % 256) ((s.cell.blockVals s.ef x.toNat (reg s a)).getD j .nan)) % 2 ^ fmtBits s.rf) ∧
        t.me.rseed = seedAt (s.me.rsEff none) s.drnd s.me.rseed 32 ∧ t.me.pc = pc ∧ t.me.pp = false ∧ t.cell.pad = s.cell.pad ∧
        ∀ c : Spec, c.toNat < d.toNat ∨ d.toNat + 32 * fmtBits s.rf / 256 ≤ c.toNat → c.toNat < 40 → t.cell.reg s.cell.last c = reg s c)

/-! ### The prefix, the format register and the system registers -/

/-- R51, R52, R176, R177: PFX fills the latch and sets PP, a second one is ILLEGAL at it; SETFMT and SETFMT.F write sys.FMT. -/
def Sys2Proof.Stated.FormatsAreSet : Prop :=
  ∀ (h : Hdr) (ef rf : BitVec 4) (sc : Spec) (rs : BitVec 2) (s : State) (pc : BitVec 10) (l0 l1 : Loop), Follows s 1 pc l0 l1 →
    s.me.guard h = true →
    (s.me.pp = false → sc.toNat < 32 ∨ sc = 0x2E →
      exec (.pfx h ef rf sc rs) s = .next (s.modMe fun x =>
        ({ x with pp := true, pc := pc, lp0 := l0, lp1 := l1, pfx := BitVec.ofNat 20 (2 ^ 16 * ef.toNat + 2 ^ 12 * rf.toNat + 2 ^ 6 * sc.toNat +
          2 ^ 4 * rs.toNat) } : Thread).marker h.w) ∧
      exec (.setfmt h sc ef rf rs) s = .next (s.modMe fun x => goes pc l0 l1 h.w { x with
        fmt := BitVec.ofNat 16 (2 ^ 14 * rs.toNat + 2 ^ 8 * sc.toNat + 2 ^ 4 * rf.toNat + ef.toNat) })) ∧
    (s.me.pp = false → exec (.setfmtF h ef rf) s = .next (s.modMe fun x => goes pc l0 l1 h.w { x with
        fmt := BitVec.ofNat 16 (x.fmt.toNat / 2 ^ 8 * 2 ^ 8 + 2 ^ 4 * rf.toNat + ef.toNat) })) ∧
    (s.me.pp = true → exec (.pfx h ef rf sc rs) s = .next s.illegal)

/-- R106 to R109, R126, R127, R368: SYSRD puts a register's value in lane 0 of D; SYSWR writes the fields that may be written, here of
the registers of a thread and of CLMASK, MLCAP and ERRS; one to a read-only register is PRIV, and one to no register ILLEGAL, guard or
no guard; a micro-thread sets the FPC of no other thread. -/
def Sys2Proof.Stated.SystemRegisters : Prop :=
  ∀ (h : Hdr) (d : Spec) (s : State) (pc : BitVec 10) (l0 l1 : Loop), Follows s 1 pc l0 l1 → s.me.pp = false → dstOk d = true →
    s.anyBound [d] = false →
    (s.me.guard h = true → s.me.cuts = [] → ∀ n : BitVec 12, sysDefined n = true →
      exec (.sysrd h d n) s = .next (s.modMe fun x => goes pc l0 l1 h.w (x.setReg d (setLane0 (held s d) (s.sysReg n))))) ∧
    (s.me.guard h = true → s.me.cuts = [] →
      exec (.syswr h d 0x004) s = .next (s.modMe fun x => goes pc l0 l1 h.w { x with fmt := (lane s d).setWidth 16 }) ∧
      exec (.syswr h d 0x006) s = .next (s.modMe fun x => goes pc l0 l1 h.w { x with link := (lane s d).setWidth 32 }) ∧
      exec (.syswr h d 0x007) s = .next (s.modMe fun x => goes pc l0 l1 h.w { x with rseed := lane s d }) ∧
      exec (.syswr h d 0x043) s = .next (s.modMe fun x => goes pc l0 l1 h.w { x with ftid := (lane s d).setWidth 3 }) ∧
      exec (.syswr h d 0x070) s = .next (s.modMe fun x => goes pc l0 l1 h.w { x with mshape := (lane s d).setWidth 21 }) ∧
      exec (.syswr h d 0x024) s = .next ((modFocus s fun c =>
        { c with msg := { c.msg with clmask := (lane s d).setWidth 16 &&& 0xFFF0 } }).modMe (goes pc l0 l1 h.w)) ∧
      exec (.syswr h d 0x071) s = .next ((modFocus s fun c =>
        { c with mx := { c.mx with mlcap := (lane s d).setWidth 24 } }).modMe (goes pc l0 l1 h.w)) ∧
      exec (.syswr h d 0x01C) s = .next ((modFocus s fun c =>
        { c with eng := { c.eng with errs := (lane s d).extractLsb' 16 16 } }).modMe (goes pc l0 l1 h.w))) ∧
    (∀ n : BitVec 12, sysWritePriv n = true → exec (.syswr h d n) s = .next (s.fault s.cell.last (faultAt 0x04 s.me.pc 0))) ∧
    (∀ n : BitVec 12, sysDefined n = false → sysWritePriv n = false → exec (.syswr h d n) s = .next s.illegal ∧
      exec (.sysrd h d n) s = .next s.illegal) ∧
    (s.me.guard h = true → s.me.cuts = [] → ∀ u : TIdx, s.me.ftid.toNat = u.val →
      (s.cell.last ≠ 0 → u ≠ s.cell.last → exec (.fpcWrite h d) s = .next (s.fault s.cell.last (faultAt 0x04 s.me.pc 0))) ∧
      (s.cell.last = 0 → u ≠ 0 → (s.cell.th u).st = .faulted → (s.cell.th u).inb = false →
        exec (.fpcWrite h d) s = .next ((s.modTh u fun x => { x with
          fpc := (lane s d).setWidth 10
          pp := false
          fcause := x.fcause &&& 0xFFFF }).modMe (goes pc l0 l1 h.w))) ∧
      (s.cell.last = 0 → u ≠ 0 → (s.cell.th u).st ≠ .faulted → exec (.fpcWrite h d) s = .next (s.modMe (goes pc l0 l1 h.w))))

/-! ### Long-latency results, loads and stores (04_scalar_instructions, 06_vector_datapath, 08_scratchpad) -/

namespace Sys2Proof.Stated

/-- A thread with one more result outstanding, of the low `n` bits of its register (R65); `bad` is the offset of a word that could not be
corrected. -/
def awaits (d : Spec) (n : Nat) (v : V256) (bad : Option W64) (x : Thread) : Thread :=
  { x with outs := x.outs ++ [{ d := d, bits := n, val := v, ready := true, kind := .local_, bad := bad }] }
/-- A thread with a 64-bit result of the cell's divider outstanding (R103). -/
def awaitsDivider (d : Spec) (v : W64) (x : Thread) : Thread :=
  { x with outs := x.outs ++ [{ d := d, bits := 64, val := ofLane0 v, ready := true, kind := .divider, bad := none }] }
/-- A thread of the cell has a result of the divider outstanding: the divider is busy (R103). -/
def DividerBusy (s : State) : Prop := ∃ u : TIdx, ∃ o ∈ (s.cell.th u).outs, o.kind = .divider
/-- DIV's quotient (R112). -/
def quot (x : BitVec 1) (u v : W64) : W64 :=
  if v = 0 then 0xFFFFFFFFFFFFFFFF
  else if x = 0 then (if u.toInt = -2 ^ 63 ∧ v.toInt = -1 then u else BitVec.ofInt 64 (u.toInt.tdiv v.toInt))
  else BitVec.ofNat 64 (u.toNat / v.toNat)
/-- REM's remainder (R112). -/
def remd (x : BitVec 1) (u v : W64) : W64 :=
  if v = 0 then u
  else if x = 0 then BitVec.ofInt 64 (u.toInt - u.toInt.tdiv v.toInt * v.toInt)
  else BitVec.ofNat 64 (u.toNat - u.toNat / v.toNat * v.toNat)

end Sys2Proof.Stated

/-- R65, R103, R112, R173, R174: DIV, REM and VSPEC go on at once; their results are outstanding, to be written to lane 0 of D, or to all of it,
later: a quotient truncated toward zero, a remainder of the dividend's sign, all ones and the dividend where the divisor is zero, and
each element's special function. While the cell's divider is busy, DIV and REM park. -/
def Sys2Proof.Stated.LateResults : Prop :=
  ∀ (h : Hdr) (d a b : Spec) (s : State) (pc : BitVec 10) (l0 l1 : Loop), Follows s 1 pc l0 l1 → dstOk d = true → srcOk a = true →
    s.me.guard h = true → s.me.cuts = [] → s.anyBound [d, a, b] = false →
    (∀ x : BitVec 1, srcOk b = true → s.me.pp = false →
      (¬DividerBusy s →
        exec (.div h d a b x) s = .next (s.modMe fun y => goes pc l0 l1 h.w (awaitsDivider d (quot x (lane s a) (lane s b)) y)) ∧
        exec (.rem h d a b x) s = .next (s.modMe fun y => goes pc l0 l1 h.w (awaitsDivider d (remd x (lane s a) (lane s b)) y))) ∧
      (DividerBusy s →
        exec (.div h d a b x) s = .next (s.modMe fun y => { y with st := .parked, wait := .need .divider }) ∧
        exec (.rem h d a b x) s = .next (s.modMe fun y => { y with st := .parked, wait := .need .divider }))) ∧
    (∀ fn : BitVec 6, fn.toNat < 8 → isF s.ef = true →
      ∃ v : V256, exec (.vspec h d a fn) s = .next (s.modMe fun y => goes pc l0 l1 h.w (awaits d 256 v none y)) ∧
        ∀ j, j < 256 / fmtBits s.ef → el v (fmtBits s.ef) j = specEl s.ef (fn.setWidth 3) (at_ s a j) % 2 ^ fmtBits s.ef)

/-- R174, R175, Table 06.5: the special functions on FP32 codes: a NaN gives the canonical one, infinities, zeros and negative values what
the table says; EXP2 is exact at integers; EXP2 and EXP are never negative, SIGM and TANH stay within 1, and TANH is odd. The other
finite results are free values of the model (log entry 5). -/
def Sys2Proof.Stated.SpecialFunctions : Prop :=
  ∀ x : Nat, x < 2 ^ 32 →
    (∀ fn : BitVec 3, nanF 0 x = true → spec32 fn x = 0x7FC00000) ∧
    [0, 1, 2, 3, 4, 5, 6, 7].map (fun fn : BitVec 3 => spec32 fn 0x7F800000) =
      [0x7F800000, 0x7F800000, 0, 0, 0x7F800000, 0x7F800000, 0x3F800000, 0x3F800000] ∧
    [0, 1, 2, 3, 4, 5, 6, 7].map (fun fn : BitVec 3 => spec32 fn 0xFF800000) =
      [0, 0x7FC00000, 0x80000000, 0x7FC00000, 0x7FC00000, 0, 0xBF800000, 0] ∧
    [0, 1, 2, 3, 4, 5, 6, 7].map (fun fn : BitVec 3 => spec32 fn 0) =
      [0x3F800000, 0xFF800000, 0x7F800000, 0x7F800000, 0, 0x3F800000, 0, 0x3F000000] ∧
    [0, 1, 2, 3, 4, 5, 6, 7].map (fun fn : BitVec 3 => spec32 fn 0x80000000) =
      [0x3F800000, 0xFF800000, 0xFF800000, 0xFF800000, 0x80000000, 0x3F800000, 0x80000000, 0x3F000000] ∧
    (2 ^ 31 < x → x < 0xFF800000 → spec32 1 x = 0x7FC00000 ∧ spec32 3 x = 0x7FC00000 ∧ spec32 4 x = 0x7FC00000) ∧
    (∀ k : Int, -149 ≤ k → k ≤ 127 → spec32 0 (roundF 0 .rne (ofInt k)) = roundF 0 .rne (.fin false 1 k)) ∧
    spec32 0 x < 2 ^ 31 ∧ spec32 5 x < 2 ^ 31 ∧
    (nanF 0 x = false → spec32 7 x ≤ 0x3F800000 ∧ spec32 6 x % 2 ^ 31 ≤ 0x3F800000) ∧
    (x ≤ 0x7F800000 → spec32 6 (x + 2 ^ 31) = spec32 6 x + 2 ^ 31)

namespace Sys2Proof.Stated

/-- A load or a store: its words, its registers, its size, what it adds to A's lane 0, and, for a load, the result: its bits and its value
from the number that the bytes hold. -/
structure Access where
  h : Hdr
  len : Nat
  d : Spec
  a : Spec
  n : Nat
  off : Int
  bits : Nat := 0
  val : Nat → Nat := id

/-- Where it goes: the sum, modulo 2^64 (R219 to R221). -/
def Access.addr (f : Access) (s : State) : W64 := BitVec.ofInt 64 ((lane s f.a).toInt + f.off)
/-- It issues: its specifiers are such as it may name, none of them a bound stream register (R48, R218), no prefix is pending. -/
def Access.Ready (f : Access) (s : State) : Prop :=
  dstOk f.d = true ∧ srcOk f.a = true ∧ s.anyBound [f.d, f.a] = false ∧ Passes s f.h
/-- `n` bytes as a number of two's complement, to 64 bits. -/
def signs (n v : Nat) : Nat := (Int.bmod v (2 ^ (8 * n)) % 2 ^ 64).toNat

/-- The loads (Tables 08.6, 08.7); none for a reserved form. -/
def loadForm : Instr → Option Access
  | .ld h d a off x => some ⟨h, 1, d, a, 2 ^ x.toNat, off.toNat * 2 ^ x.toNat, 64, id⟩
  | .lds h d a off x => if x = 3 then none else some ⟨h, 1, d, a, 2 ^ x.toNat, off.toNat * 2 ^ x.toNat, 64, signs (2 ^ x.toNat)⟩
  | .ldL h d a sgn x imm =>
    if 1 < sgn.toNat ∨ (sgn = 1 ∧ x = 3) then none
    else some ⟨h, 2, d, a, 2 ^ x.toNat, imm.toInt, 64, if sgn = 1 then signs (2 ^ x.toNat) else id⟩
  | .ldv h d a off => some ⟨h, 1, d, a, 32, off.toNat * 32, 256, id⟩
  | .ldvBc h d a off => some ⟨h, 1, d, a, 4, off.toNat * 4, 256, fun v => v * ((2 ^ 256 - 1) / (2 ^ 32 - 1))⟩
  | _ => none
/-- The stores. -/
def storeForm : Instr → Option Access
  | .st h d a off x => some { h := h, len := 1, d := d, a := a, n := 2 ^ x.toNat, off := off.toNat * 2 ^ x.toNat }
  | .stL h d a x imm => some { h := h, len := 2, d := d, a := a, n := 2 ^ x.toNat, off := imm.toInt }
  | .stv h d a off => some { h := h, len := 1, d := d, a := a, n := 32, off := off.toNat * 32 }
  | _ => none
/-- The bytes lie in scratchpad and no open watermark channel keeps them back (R213, R217). -/
def padOpen (s : State) (a n : Nat) : Prop := a + n ≤ 0x8000 ∧ a % n = 0 ∧ s.cell.unmarked a n = false
/-- The bytes lie in the system window (Table 08.3). -/
def sysOpen (a n : Nat) : Prop := 2 ^ 45 ≤ a ∧ a + n ≤ 2 ^ 45 + 0x428 ∧ a % n = 0
/-- The thread parks at the instruction until what it needs is there (R62). -/
def parked (n : Need) (s : State) : State := s.modMe fun x => { x with st := .parked, wait := .need n }

end Sys2Proof.Stated

/-- R211 to R214, R217 to R221: LD, LDS, LD.L, LDV and LDV.BC read their bytes, extend or copy them, and go on with the result
outstanding, from scratchpad or the system window; bytes above a MARK park the thread; bytes of no window raise WINDOW, others misaligned
ALIGN. A load stores nothing. -/
def Sys2Proof.Stated.Loads : Prop :=
  ∀ (i : Instr) (f : Access) (s : State) (pc : BitVec 10) (l0 l1 : Loop), loadForm i = some f → f.Ready s → Follows s f.len pc l0 l1 →
    (padOpen s (f.addr s).toNat f.n →
      exec i s = .next ((modFocus s (·.touched (f.addr s).toNat f.n)).modMe fun y => goes pc l0 l1 f.h.w
        (awaits f.d f.bits (BitVec.ofNat 256 (f.val (s.cell.bytes (f.addr s).toNat f.n)))
          (if (s.cell.badRead (f.addr s).toNat f.n).isSome then some (f.addr s) else none) y)) ∧
      ∀ b, Memory.readNat ((s.cell.touched (f.addr s).toNat f.n).pad.mem) b 1 = s.cell.bytes b 1) ∧
    (sysOpen (f.addr s).toNat f.n →
      exec i s = .next (s.modMe fun y => goes pc l0 l1 f.h.w
        (awaits f.d f.bits (BitVec.ofNat 256 (f.val (s.cell.loadBytes (f.addr s).toNat f.n))) none y))) ∧
    ((f.addr s).toNat + f.n ≤ 0x8000 → (f.addr s).toNat % f.n = 0 → s.cell.unmarked (f.addr s).toNat f.n = true →
      exec i s = .next (parked (.unmarked (f.addr s).toNat f.n) s)) ∧
    (¬(f.addr s).toNat + f.n ≤ 0x8000 → ¬(2 ^ 45 ≤ (f.addr s).toNat ∧ (f.addr s).toNat + f.n ≤ 2 ^ 45 + 0x428) →
      exec i s = .next (s.fault s.cell.last (faultAt 0x03 s.me.pc (f.addr s)))) ∧
    ((f.addr s).toNat + f.n ≤ 0x8000 ∨ (2 ^ 45 ≤ (f.addr s).toNat ∧ (f.addr s).toNat + f.n ≤ 2 ^ 45 + 0x428) →
      (f.addr s).toNat % f.n ≠ 0 → exec i s = .next (s.fault s.cell.last (faultAt 0x02 s.me.pc (f.addr s))))

/-- R209, R211, R213, R214, R217 to R221, R350: ST, ST.L and STV put the low bytes of D at their address, lowest byte first, and go on; every
other byte of scratchpad, every register and every other thread stays, and a drowsy cell wakes. Bytes above a MARK park the thread;
bytes of no window raise WINDOW, others misaligned ALIGN, and a store to the system window PRIV. -/
def Sys2Proof.Stated.Stores : Prop :=
  ∀ (i : Instr) (f : Access) (s : State) (pc : BitVec 10) (l0 l1 : Loop), storeForm i = some f → f.Ready s → Follows s f.len pc l0 l1 →
    (padOpen s (f.addr s).toNat f.n → (8 ≤ f.n ∨ s.cell.badRead (f.addr s).toNat f.n = none) → s.cell.sleepers = [] →
      Memory.wf s.cell.pad.mem = true →
      s.cell.journaled s.cell.last = false →
      ∃ p : Pad, exec i s = .next ((modFocus s fun c => { c with pad := p, drowsy := false, idleCyc := 0 }).modMe (goes pc l0 l1 f.h.w)) ∧
        (∀ k, k < f.n → Memory.readNat p.mem ((f.addr s).toNat + k) 1 = (held s f.d).toNat / 2 ^ (8 * k) % 256) ∧
        (∀ b, b < (f.addr s).toNat ∨ (f.addr s).toNat + f.n ≤ b → Memory.readNat p.mem b 1 = s.cell.bytes b 1) ∧
        p.cb = s.cell.pad.cb ∧ p.fp = s.cell.pad.fp) ∧
    (padOpen s (f.addr s).toNat f.n → f.n < 8 → s.cell.badRead (f.addr s).toNat f.n ≠ none → s.cell.journaled s.cell.last = false →
      exec i s = .next ((modFocus s (·.touched (f.addr s).toNat f.n)).modMe fun y =>
        goes pc l0 l1 f.h.w { y with deferred := y.deferred.or (some (f.addr s)) })) ∧
    ((f.addr s).toNat + f.n ≤ 0x8000 → (f.addr s).toNat % f.n = 0 → s.cell.unmarked (f.addr s).toNat f.n = true →
      exec i s = .next (parked (.unmarked (f.addr s).toNat f.n) s)) ∧
    (¬(f.addr s).toNat + f.n ≤ 0x8000 → ¬(2 ^ 45 ≤ (f.addr s).toNat ∧ (f.addr s).toNat + f.n ≤ 2 ^ 45 + 0x428) →
      exec i s = .next (s.fault s.cell.last (faultAt 0x03 s.me.pc (f.addr s)))) ∧
    ((f.addr s).toNat + f.n ≤ 0x8000 ∨ (2 ^ 45 ≤ (f.addr s).toNat ∧ (f.addr s).toNat + f.n ≤ 2 ^ 45 + 0x428) →
      (f.addr s).toNat % f.n ≠ 0 → exec i s = .next (s.fault s.cell.last (faultAt 0x02 s.me.pc (f.addr s)))) ∧
    (sysOpen (f.addr s).toNat f.n → exec i s = .next (s.fault s.cell.last (faultAt 0x04 s.me.pc (f.addr s))))

namespace Sys2Proof.Stated

/-- AOP's new word (Table 08.8); none for a CAS that fails. -/
def atomic (op : Nat) (w v c : W64) : Option W64 :=
  if op = 0 then some (BitVec.ofNat 64 (w.toNat + v.toNat)) else if op = 1 then some (w &&& v) else if op = 2 then some (w ||| v)
  else if op = 3 then some (w ^^^ v) else if op = 4 then some (if w.toInt ≤ v.toInt then w else v)
  else if op = 5 then some (if w.toInt ≤ v.toInt then v else w) else if op = 6 then some (if w.toNat ≤ v.toNat then w else v)
  else if op = 7 then some (if w.toNat ≤ v.toNat then v else w) else if op = 8 then some v
  else if w = c then some v else none
/-- WAITA's condition (Table 08.9). -/
def meets (x : BitVec 2) (w c : W64) : Prop :=
  if x = 0 then w = c else if x = 1 then w ≠ c else if x = 2 then c.toNat ≤ w.toNat
  else (w.toNat % 2 ^ 32 + 2 ^ 32 - c.toNat % 2 ^ 32) % 2 ^ 32 < 2 ^ 31
/-- The word at an offset. -/
def word64 (s : State) (a : Nat) : W64 := BitVec.ofNat 64 (s.cell.bytes a 8)

end Sys2Proof.Stated

/-- R222, R223, Tables 08.8, 08.9: AOP changes one word and goes on with the old one outstanding; WAITA goes on with the word in lane 0
of D when its condition holds, and sleeps when it does not; a store to the word that meets the condition of a sleeper sends it on. A
CAS that fails stores nothing. -/
def Obligations.AtomicsAndWaits : Prop :=
  ∀ (h : Hdr) (d a b : Spec) (s : State) (pc : BitVec 10) (l0 l1 : Loop), Follows s 1 pc l0 l1 → Passes s h → dstOk d = true →
    srcOk a = true → s.anyBound [d, a, b] = false → padOpen s (lane s a).toNat 8 → s.cell.badRead (lane s a).toNat 8 = none →
    (∀ (op : BitVec 6) (v : W64), op.toNat ≤ 9 → s.cell.sleepers = [] → Memory.wf s.cell.pad.mem = true → s.cell.journaled s.cell.last = false →
      atomic op.toNat (word64 s (lane s a).toNat) (lane0 (held s d)) (lane1 (held s d)) = some v →
      ∃ p : Pad, exec (.aop h d a op) s = .next ((modFocus s fun c => { c with pad := p, drowsy := false, idleCyc := 0 }).modMe fun y =>
          goes pc l0 l1 h.w (awaits d 64 (ofLane0 (word64 s (lane s a).toNat)) none y)) ∧
        Memory.readNat p.mem (lane s a).toNat 8 = v.toNat ∧
        ∀ k, k < (lane s a).toNat ∨ (lane s a).toNat + 8 ≤ k → Memory.readNat p.mem k 1 = s.cell.bytes k 1) ∧
    (∀ op : BitVec 6, op.toNat ≤ 9 → s.cell.journaled s.cell.last = false →
      atomic op.toNat (word64 s (lane s a).toNat) (lane0 (held s d)) (lane1 (held s d)) = none →
      exec (.aop h d a op) s = .next ((modFocus s (·.touched (lane s a).toNat 8)).modMe fun y =>
        goes pc l0 l1 h.w (awaits d 64 (ofLane0 (word64 s (lane s a).toNat)) none y))) ∧
    (∀ x : BitVec 2, srcOk b = true → s.me.tmd = false →
      (meets x (word64 s (lane s a).toNat) (lane s b) →
        exec (.waita h d a b x) s = .next ((modFocus s (·.touched (lane s a).toNat 8)).modMe fun y =>
          goes pc l0 l1 h.w (y.setReg d (setLane0 (held s d) (word64 s (lane s a).toNat))))) ∧
      (¬meets x (word64 s (lane s a).toNat) (lane s b) →
        exec (.waita h d a b x) s = .next ((modFocus s (·.touched (lane s a).toNat 8)).modMe fun y =>
          { y with pp := false, st := .sleeping, wait := .waita (lane s a).toNat (lane s b) x d, wmark := h.w }))) ∧
    (∀ (u : TIdx) (c : W64) (x : BitVec 2) (e : Spec) (k : Nat) (m0 m1 : Loop) (at_ : BitVec 10) (v : W64), u ≠ s.cell.last →
      (s.cell.th u).wait = .waita (lane s a).toNat c x e → s.cell.sleepers = [u] → Memory.wf s.cell.pad.mem = true → (s.cell.th u).outs = [] → s.cell.bound u e = none →
      (s.cell.th u).next (s.cell.th u).pc.toNat = .at_ at_ m0 m1 → s.cell.journaled s.cell.last = false →
      v = lane s d → dstOk e = true → k = (lane s a).toNat →
      ∃ t, exec (.st h d a 0 3) s = .next t ∧ t.cell.bytes k 8 = v.toNat ∧
        (meets x v c → (t.cell.th u).st = .running ∧ (t.cell.th u).wait = .none ∧ (t.cell.th u).pc = at_ ∧
          (e ≠ 0x2E → lane0 (t.cell.reg u e) = v)) ∧
        (¬meets x v c → t.cell.th u = s.cell.th u))

/-- R329 to R331, Table 14.3: a journaled handler's store to a word of a journal page first enters the word's offset, the handler's time
and the old value at the tail of the ring; with no free entry it parks. -/
def Sys2Proof.Stated.JournalEntries : Prop :=
  ∀ (h : Hdr) (d a : Spec) (s : State) (pc : BitVec 10) (l0 l1 : Loop) (k r : Nat), Follows s 1 pc l0 l1 → Passes s h → dstOk d = true →
    srcOk a = true → s.anyBound [d, a] = false → k = (lane s a).toNat → padOpen s k 8 → s.cell.sleepers = [] →
    Memory.wf s.cell.pad.mem = true →
    s.cell.journaled s.cell.last = true → s.cell.tim.jpages.getLsbD (k / 512) = true →
    r = s.cell.jBase + 16 * ((s.cell.tim.jhead + s.cell.tim.jused) % s.cell.jLen) →
    (s.cell.tim.jused < s.cell.jLen → k + 8 ≤ r ∨ r + 16 ≤ k →
      ∃ t, exec (.st h d a 0 3) s = .next t ∧ t.cell.tim.jused = s.cell.tim.jused + 1 ∧ t.cell.tim.jhead = s.cell.tim.jhead ∧
        t.cell.bytes r 8 = k + 2 ^ 16 * s.cell.runVrt.toNat ∧ t.cell.bytes (r + 8) 8 = s.cell.bytes k 8 ∧
        t.cell.bytes k 8 = (lane s d).toNat ∧ t.me = goes pc l0 l1 h.w s.me ∧
        (∀ b, (b < k ∨ k + 8 ≤ b) → (b < r ∨ r + 16 ≤ b) → t.cell.bytes b 1 = s.cell.bytes b 1)) ∧
    (s.cell.jLen ≤ s.cell.tim.jused → exec (.st h d a 0 3) s = .next (parked (.journal 1) s))

/-! ### Copies, watermarks, barriers, streams (09_streams_copies_barriers) -/

namespace Sys2Proof.Stated

/-- A copy instruction: its words, whether it puts, and, in its long form, its rows and its global stride. -/
structure Copying where
  h : Hdr
  len : Nat
  put : Bool
  long : Bool
  d : Spec
  a : Spec
  b : Spec
  x : BitVec 2
  rows : Nat
  gstr : Nat

/-- The copy instructions (Table 09.1). -/
def copyForm : Instr → Option Copying
  | .cget h d a b x => some ⟨h, 1, false, false, d, a, b, x, 1, 0⟩
  | .cput h d a b x => some ⟨h, 1, true, false, d, a, b, x, 1, 0⟩
  | .cgetL h d a b x rows gstr => some ⟨h, 2, false, true, d, a, b, x, rows.toNat + 1, gstr.toNat⟩
  | .cputL h d a b x rows gstr => some ⟨h, 2, true, true, d, a, b, x, rows.toNat + 1, gstr.toNat⟩
  | _ => none
/-- The 16 bits of a lane from bit `i`. -/
def half (v : W64) (i : Nat) : Nat := v.toNat / 2 ^ i % 2 ^ 16
/-- What the operands of a copy must be for it to issue, but for their alignment (R224, R227, R228). -/
def Copying.InWindows (f : Copying) (s : State) : Prop :=
  let g := (lane s f.a).toNat
  let loff := half (lane s f.b) 0
  let len := half (lane s f.b) 16
  let lstr := if f.long then half (lane s f.b) 32 else 0
  let woff := half (lane s f.d) 0
  f.x ≠ 3 ∧ f.d.toNat < 42 ∧ f.a.toNat < 42 ∧ f.b.toNat < 42 ∧ s.anyBound [f.d, f.a, f.b] = false ∧ s.me.tmd = false ∧
  0 < len ∧ half (lane s f.d) 16 = 0 ∧ (lane s f.b).toNat / 2 ^ (if f.long then 48 else 32) = 0 ∧
  loff + (f.rows - 1) * lstr + len ≤ 0x8000 ∧ 2 ^ 47 ≤ g ∧ g + (f.rows - 1) * (8 * f.gstr) + len ≤ 2 ^ 47 + 2 ^ 45 ∧
  (woff < 0x1000 ∨ woff = 0xFFFF)
/-- What must be a multiple of 8, in the order in which it is checked: the global address, the local offset, the length, the stride. -/
def Copying.aligned (f : Copying) (s : State) : List Nat :=
  [(lane s f.a).toNat, half (lane s f.b) 0, half (lane s f.b) 16, if f.long then half (lane s f.b) 32 else 0]
/-- It issues without a fault. -/
def Copying.Good (f : Copying) (s : State) : Prop := f.InWindows s ∧ ∀ v ∈ f.aligned s, v % 8 = 0

end Sys2Proof.Stated

/-- R224 to R228: CGET, CPUT and their long forms take the first free data entry with everything that the copy needs, and go on: each
byte of each row, and no other, with its two places, still to be moved. With no free entry the thread parks. A copy of length zero is
ILLEGAL, and a misaligned one raises ALIGN with the first misaligned value. -/
def Obligations.CopiesIssue : Prop :=
  ∀ (i : Instr) (f : Copying) (s : State) (pc : BitVec 10) (l0 l1 : Loop), copyForm i = some f → Passes s f.h → Follows s f.len pc l0 l1 →
    (∀ (n : Fin 16), f.Good s → s.cell.eng.freeEnt = some n →
      ∃ e : CopyEnt, exec i s = .next ((modFocus s (·.setEnt n (some e))).modMe (goes pc l0 l1 f.h.w)) ∧ e.t = s.cell.last ∧ e.put = f.put ∧
        e.hint = f.x ∧ e.woff.toNat = half (lane s f.d) 0 ∧ e.value.toNat = (lane s f.d).toNat / 2 ^ 32 ∧ e.err = none ∧
        (∀ p ∈ e.todo, p.buf = none ∧ ∃ r j, r < f.rows ∧ j + p.len ≤ half (lane s f.b) 16 ∧
          p.loc = half (lane s f.b) 0 + r * (if f.long then half (lane s f.b) 32 else 0) + j ∧
          p.ga = (lane s f.a).toNat + r * (8 * f.gstr) + j) ∧
        ∀ r j, r < f.rows → j < half (lane s f.b) 16 → ∃ p ∈ e.todo, ∃ k, k < p.len ∧
          p.loc + k = half (lane s f.b) 0 + r * (if f.long then half (lane s f.b) 32 else 0) + j ∧
          p.ga + k = (lane s f.a).toNat + r * (8 * f.gstr) + j) ∧
    (f.Good s → s.cell.eng.freeEnt = none → exec i s = .next (parked .copyEntry s)) ∧
    (∀ v : Nat, f.InWindows s → (f.aligned s).find? (fun v => decide (v % 8 ≠ 0)) = some v →
      exec i s = .next (s.fault s.cell.last (faultAt 0x02 s.me.pc (BitVec.ofNat 64 v)))) ∧
    (f.x ≠ 3 → f.d.toNat < 42 → f.a.toNat < 42 → f.b.toNat < 42 → s.anyBound [f.d, f.a, f.b] = false →
      (s.me.tmd = true → exec i s = .next (s.fault s.cell.last (faultAt 0x06 s.me.pc 0))) ∧
      (s.me.tmd = false → half (lane s f.b) 16 = 0 → exec i s = .next s.illegal))

/-- R216, R230 to R232, R240: WOPEN opens a channel with MARK at BASE and no byte landed, WOPEN.C closes it; BINIT sets a barrier, BARR and
BARR.P give what it holds, BARR arrives; BARR.E leaves a record of the thread's copies, or arrives where it has none and a signal entry is free; BWAIT passes a
completed generation, and else sleeps. -/
def Obligations.MarksAndBarriers : Prop :=
  ∀ (h : Hdr) (d a : Spec) (n : BitVec 3) (i : BitVec 4) (b : Barrier) (s : State) (pc : BitVec 10) (l0 l1 : Loop),
    Follows s 1 pc l0 l1 → Passes s h → s.me.tmd = false → srcOk a = true → dstOk d = true → s.anyBound [d, a] = false →
    b = s.cell.eng.bars[barIx i] →
    ((lane s a).toNat / 2 ^ 32 = 0 → half (lane s a) 0 < half (lane s a) 16 → half (lane s a) 16 ≤ 0x8000 →
      half (lane s a) 0 % 32 = 0 → half (lane s a) 16 % 32 = 0 →
      exec (.wopen h a n) s = .next ((modFocus s (·.modWm ⟨n.toNat, n.isLt⟩ fun _ =>
        { base := BitVec.ofNat 16 (half (lane s a) 0)
          end_ := BitVec.ofNat 16 (half (lane s a) 16)
          mark := BitVec.ofNat 16 (half (lane s a) 0)
          open_ := true
          done := false
          fill := [] })).modMe (goes pc l0 l1 h.w))) ∧
    exec (.wopenC h n) s = .next ((modFocus s (·.modWm ⟨n.toNat, n.isLt⟩ fun w => { w with open_ := false })).modMe (goes pc l0 l1 h.w)) ∧
    (half (lane s a) 0 ≠ 0 → half (lane s a) 16 = 0 → s.cell.barSleepers = [] →
      exec (.binit h a i) s = .next ((modFocus s (·.modBar (barIx i) fun _ =>
        ⟨BitVec.ofNat 16 (half (lane s a) 0), 0, BitVec.ofNat 32 ((lane s a).toNat / 2 ^ 32)⟩)).modMe (goes pc l0 l1 h.w))) ∧
    (b.target = 0 → exec (.barr h d i) s = .next s.illegal ∧ exec (.barrP h d i) s = .next s.illegal ∧
      exec (.barrE h i) s = .next s.illegal ∧ exec (.bwait h d a i) s = .next s.illegal) ∧
    (b.target ≠ 0 → s.cell.barSleepers = [] →
      exec (.barr h d i) s = .next ((modFocus s (·.modBar (barIx i) fun b =>
        if b.arr + 1 = b.target then { b with arr := 0, gen := b.gen + 1 } else { b with arr := b.arr + 1 })).modMe fun x =>
          goes pc l0 l1 h.w (x.setReg d (setLane0 (held s d) (BitVec.ofNat 64 b.gen.toNat))))) ∧
    (b.target ≠ 0 →
      exec (.barrP h d i) s = .next (s.modMe fun x => goes pc l0 l1 h.w (x.setReg d (setLane0 (held s d)
        (BitVec.ofNat 64 (b.arr.toNat + 2 ^ 16 * b.target.toNat + 2 ^ 32 * b.gen.toNat)))))) ∧
    (b.target ≠ 0 → s.cell.barSleepers = [] → (∀ (j : Fin 16) (e : CopyEnt), s.cell.eng.ents[j] = some e → e.t ≠ s.cell.last) →
      (∃ r : Fin 4, s.cell.eng.recs[r] = none) → s.cell.eng.sigs.length < 2 →
      exec (.barrE h i) s = .next ((modFocus s (·.modBar (barIx i) fun b =>
        if b.arr + 1 = b.target then { b with arr := 0, gen := b.gen + 1 } else { b with arr := b.arr + 1 })).modMe (goes pc l0 l1 h.w))) ∧
    (∀ r : Fin 4, b.target ≠ 0 → s.cell.eng.freeRec = some r →
      (∃ (j : Fin 16) (e : CopyEnt), s.cell.eng.ents[j] = some e ∧ e.t = s.cell.last) ∨ 2 ≤ s.cell.eng.sigs.length →
      ∃ m : BitVec 16, exec (.barrE h i) s = .next ((modFocus s (·.setRec r (some ⟨barIx i, m⟩))).modMe (goes pc l0 l1 h.w)) ∧
        ∀ j : Fin 16, m.getLsbD j.val = true ↔ ∃ e, s.cell.eng.ents[j] = some e ∧ e.t = s.cell.last) ∧
    (b.target ≠ 0 → s.cell.eng.freeRec = none → exec (.barrE h i) s = .next (parked .arrivalRecord s)) ∧
    (b.target ≠ 0 →
      let past := (b.gen.toNat + 2 ^ 32 - (lane s a).toNat % 2 ^ 32) % 2 ^ 32
      (1 ≤ past ∧ past ≤ 2 ^ 31 → exec (.bwait h d a i) s = .next (s.modMe fun x =>
        goes pc l0 l1 h.w (x.setReg d (setLane0 (held s d) (BitVec.ofNat 64 b.gen.toNat))))) ∧
      (¬(1 ≤ past ∧ past ≤ 2 ^ 31) → exec (.bwait h d a i) s = .next (s.modMe fun x =>
        { x with pp := false, st := .sleeping, wait := .bwait (barIx i) ((lane s a).setWidth 32) d, wmark := h.w })))

namespace Sys2Proof.Stated

/-- An engine as a bind leaves it: the thread's, at START, nothing fetched (R237). -/
def bindOf (t : TIdx) (desc : V256) (start : BitVec 16) : Stream :=
  let skips := desc.toNat % 16 = 4 ∨ desc.toNat % 16 = 5
  { own := t
    bound := true
    desc := desc
    start := start
    pos := BitVec.ofNat 32 start.toNat
    fetch := if skips then 0 else start.toNat
    skip := if skips then start.toNat else 0 }
/-- An engine may be bound anew, unbound or rewound: it has nothing pushed that is still to be written. A read stream may have fetched
packets (R238). -/
def settled (x : Stream) : Prop := x.isWrite = false ∨ x.buf = [] ∨ x.err = true
/-- What an engine asked of its RTU is asked no more (R236, R376). -/
def forgets (n : Fin 4) (s : State) : State := s.dropAskers (· == .stream s.cell.name n.val)

end Sys2Proof.Stated

/-- R233, R237, R238, Table 09.6: SBIND and SBIND.L read a descriptor of scratchpad and bind its engine, at START; SCTL.UNBIND, DRAIN and
REWIND act on an engine that the thread holds and whose pushed packets are written; packets that a read stream has fetched are dropped, and
what the engine has asked of its RTU is asked no more; one with packets still to be written parks the thread,
and one that the thread does not hold is ILLEGAL. -/
def Sys2Proof.Stated.StreamsAreBound : Prop :=
  ∀ (h : Hdr) (d a : Spec) (n : Fin 4) (s : State) (pc : BitVec 10) (l0 l1 : Loop), Passes s h → s.me.tmd = false → d.toNat = 36 + n.val →
    (∀ (off : BitVec 15) (start : BitVec 16), Follows s 2 pc l0 l1 → off.toNat % 32 = 0 →
      (bindOf s.cell.last (s.cell.gran off.toNat) start).descFault = none → s.cell.badRead off.toNat 32 = none →
      s.cell.eng.strm[n].bound = false ∨ (s.cell.eng.strm[n].own = s.cell.last ∧ settled s.cell.eng.strm[n]) →
      exec (.sbindL h d off start) s = .next ((forgets n (modFocus s fun c =>
        (c.touched off.toNat 32).modStrm n fun _ => bindOf s.cell.last (s.cell.gran off.toNat) start)).modMe (goes pc l0 l1 h.w))) ∧
    (Follows s 1 pc l0 l1 → srcOk a = true → s.anyBound [a] = false → (lane s a).toNat < 2 ^ 15 → (lane s a).toNat % 32 = 0 →
      (bindOf s.cell.last (s.cell.gran (lane s a).toNat) 0).descFault = none → s.cell.badRead (lane s a).toNat 32 = none →
      s.cell.eng.strm[n].bound = false ∨ (s.cell.eng.strm[n].own = s.cell.last ∧ settled s.cell.eng.strm[n]) →
      exec (.sbind h d a) s = .next ((forgets n (modFocus s fun c =>
        (c.touched (lane s a).toNat 32).modStrm n fun _ => bindOf s.cell.last (s.cell.gran (lane s a).toNat) 0)).modMe (goes pc l0 l1 h.w))) ∧
    (∀ off : BitVec 15, off.toNat % 32 = 0 → (bindOf s.cell.last (s.cell.gran off.toNat) 0).descFault = none →
      s.cell.eng.strm[n].bound = true → s.cell.eng.strm[n].own ≠ s.cell.last →
      exec (.sbindL h d off 0) s = .next (parked (.engineFree n) s)) ∧
    (Follows s 1 pc l0 l1 → s.cell.eng.strm[n].bound = true → s.cell.eng.strm[n].own = s.cell.last →
      (settled s.cell.eng.strm[n] →
        exec (.sctlUnbind h d) s =
          .next ((forgets n (modFocus s (·.modStrm n fun x => { x with bound := false, buf := [], out := none }))).modMe (goes pc l0 l1 h.w))) ∧
      (settled s.cell.eng.strm[n] → exec (.sctlDrain h d) s = .next (s.modMe (goes pc l0 l1 h.w))) ∧
      (settled s.cell.eng.strm[n] →
        exec (.sctlRewind h d) s =
          .next ((forgets n (modFocus s (·.modStrm n fun x => bindOf x.own x.desc x.start))).modMe (goes pc l0 l1 h.w))) ∧
      (s.cell.eng.strm[n].isWrite = true → s.cell.eng.strm[n].buf ≠ [] → s.cell.eng.strm[n].err = false →
        exec (.sctlUnbind h d) s = .next (parked (.drained n) s) ∧ exec (.sctlDrain h d) s = .next (parked (.drained n) s) ∧
        exec (.sctlRewind h d) s = .next (parked (.drained n) s))) ∧
    (s.cell.eng.strm[n].bound = false ∨ s.cell.eng.strm[n].own ≠ s.cell.last →
      exec (.sctlUnbind h d) s = .next s.illegal ∧ exec (.sctlDrain h d) s = .next s.illegal ∧
      exec (.sctlRewind h d) s = .next s.illegal)

/-! ### The matrix instructions as they issue (07_matrix_unit) -/

namespace Sys2Proof.Stated

/-- A thread holds every tile of a mask: they were granted to it, and no MREL of it that names them has reached the unit since (R179,
R181). -/
def holds (s : State) (m : BitVec 4) : Prop :=
  ∀ i : Fin 4, m.getLsbD i.val = true → s.cell.mx.owner[i] = some s.cell.last ∧ s.cell.mx.leaving[i] = false
/-- One tile. -/
def tile (t : BitVec 2) : Fin 4 := ⟨t.toNat, t.isLt⟩
/-- It holds one tile. -/
def holds1 (s : State) (t : BitVec 2) : Prop := s.cell.mx.owner[tile t] = some s.cell.last ∧ s.cell.mx.leaving[tile t] = false
/-- The matrix queue takes one more instruction, which counts as an outstanding result of its thread (R179). -/
def queued (op : MOp) (s : State) : State :=
  { s with
    cell := { s.cell with
      mx := { s.cell.mx with
        queue := s.cell.mx.queue ++ [{ id := s.cell.mx.nextId, t := s.cell.last, op := op }]
        nextId := s.cell.mx.nextId + 1 }
      thr := s.cell.thr.set s.cell.last.val
        { s.me with outs := s.me.outs ++ [{ d := 0x2E, bits := 0, val := 0, ready := false, kind := .matrix s.cell.mx.nextId }] }
        s.cell.last.isLt } }
/-- A matrix instruction may issue: the queue has room, and the thread runs no timed handler (R62, R179, R180). -/
def UnitFree (s : State) : Prop := s.cell.mx.queue.length < 4 ∧ s.me.tmd = false
/-- The tiles of a mask. -/
def tiles (m : BitVec 4) : Nat := ((List.range 4).filter fun i => m.getLsbD i).length
/-- No tile of the thread's is held. -/
def holdsNone (s : State) : Prop := ∀ i : Fin 4, s.cell.mx.owner[i] ≠ some s.cell.last ∨ s.cell.mx.leaving[i] = true
/-- The most tiles that MLCAP lets the thread hold (R184). -/
def cap (s : State) : Nat := min 4 (s.cell.mx.mlcap.toNat / 2 ^ (3 * s.cell.last.val) % 8)

end Sys2Proof.Stated

/-- R179 to R184, R197, R62: MLEASE queues its request and parks its thread until the grant; MLEASE.TRY takes free tiles at once and gives
its mask, or gives zero; MREL and MZERO are queued for tiles that the thread holds, which it keeps until then, and raise LEASE for others; a thread that holds a tile,
or asks for more than its cap, is ILLEGAL; a full queue parks the thread, and a timed handler raises TIMED_ILLEGAL. -/
def Obligations.Leases : Prop :=
  ∀ (h : Hdr) (d : Spec) (m : BitVec 4) (s : State) (pc : BitVec 10) (l0 l1 : Loop), Passes s h → Follows s 1 pc l0 l1 → dstOk d = true →
    s.anyBound [d] = false → m ≠ 0 →
    (UnitFree s → holdsNone s → tiles m ≤ cap s →
      exec (.mlease h d m) s = .next ((queued (.lease m d) s).modMe fun x =>
        { x with pp := false, st := .parked, wait := .lease m d, wmark := h.w }) ∧
      ((∀ i : Fin 4, m.getLsbD i.val = true → s.cell.mx.owner[i] = none) → s.cell.mx.leaseQ = [] → s.cell.mx.queue = [] →
        ∃ t, exec (.mleaseTry h d m) s = .next t ∧ t.me = goes pc l0 l1 h.w (s.me.setReg d (setLane0 (held s d) (BitVec.ofNat 64 m.toNat))) ∧
          (∀ i : Fin 4, t.cell.mx.owner[i] = if m.getLsbD i.val then some s.cell.last else s.cell.mx.owner[i]) ∧
          t.cell.mx.queue = [] ∧ t.cell.mx.tiles = s.cell.mx.tiles ∧ t.cell.pad = s.cell.pad) ∧
      ((∃ i : Fin 4, m.getLsbD i.val = true ∧ s.cell.mx.owner[i] ≠ none) →
        exec (.mleaseTry h d m) s = .next (s.modMe fun x => goes pc l0 l1 h.w (x.setReg d (setLane0 (held s d) 0))))) ∧
    (UnitFree s → ¬holdsNone s ∨ cap s < tiles m →
      exec (.mlease h d m) s = .next s.illegal ∧ exec (.mleaseTry h d m) s = .next s.illegal) ∧
    (UnitFree s → holds s m →
      exec (.mzero h m) s = .next ((queued (.zero m) s).modMe (goes pc l0 l1 h.w)) ∧
      exec (.mrel h m) s = .next ((queued (.rel m) s).modMe (goes pc l0 l1 h.w))) ∧
    (UnitFree s → ¬holds s m → exec (.mzero h m) s = .next (s.fault s.cell.last (faultAt 0x05 s.me.pc 0)) ∧
      exec (.mrel h m) s = .next (s.fault s.cell.last (faultAt 0x05 s.me.pc 0))) ∧
    (4 ≤ s.cell.mx.queue.length → exec (.mlease h d m) s = .next (parked .matrixRoom s) ∧ exec (.mzero h m) s = .next (parked .matrixRoom s)) ∧
    (s.cell.mx.queue.length < 4 → s.me.tmd = true →
      exec (.mlease h d m) s = .next (s.fault s.cell.last (faultAt 0x06 s.me.pc 0)) ∧
      exec (.mzero h m) s = .next (s.fault s.cell.last (faultAt 0x06 s.me.pc 0)))

/-- R186, R187, Table 07.5: the modes of the matrix unit: for each X and each pair of formats the depth of a step and the granules that
it takes of A and of B, and no mode for any other. -/
def Sys2Proof.Stated.MatrixModes : Prop :=
  ∀ (x : BitVec 2) (af bf : BitVec 4),
    matrixMode x af bf =
      if x = 0 ∧ af = 0 ∧ bf = 0 then some ⟨1, 1, 1⟩
      else if x = 0 ∧ ((af = 1 ∧ bf = 1) ∨ (af = 2 ∧ bf = 2)) then some ⟨2, 1, 1⟩
      else if x = 0 ∧ (((af = 3 ∨ af = 4) ∧ (bf = 3 ∨ bf = 4)) ∨ ((af = 8 ∨ af = 9) ∧ (bf = 8 ∨ bf = 9))) then some ⟨4, 1, 1⟩
      else if x = 0 ∧ ((af = 5 ∧ bf = 5) ∨ (af = 10 ∧ bf = 10)) then some ⟨8, 1, 1⟩
      else if x = 0 ∧ (af = 11 ∨ af = 12) ∧ (bf = 11 ∨ bf = 12) then some ⟨32, 8, 8⟩
      else if x = 0 ∧ af = 13 ∧ bf = 13 then some ⟨64, 8, 8⟩
      else if x = 1 ∧ (af = 3 ∨ af = 4) ∧ (bf = 3 ∨ bf = 4) then some ⟨8, 2, 1⟩
      else if x = 2 ∧ (af = 3 ∨ af = 4 ∨ af = 11 ∨ af = 12) ∧ bf = 14 then some ⟨32, 8, 2⟩
      else none

namespace Sys2Proof.Stated

/-- A run of `g` registers of one file, none a bound stream register; the specifier zero is a run of zeros (R191). -/
def run (s : State) (a : Spec) (g : Nat) : List V256 := (List.range g).map fun i => if a = 0x2E then 0 else reg s (BitVec.ofNat 6 (a.toNat + i))
/-- Such a run. -/
def IsRun (s : State) (a : Spec) (g : Nat) : Prop :=
  srcOk a = true ∧ (a = 0x2E ∨ (a.toNat + g ≤ fileEnd a ∧ ∀ i, i < g → s.cell.bound s.cell.last (BitVec.ofNat 6 (a.toNat + i)) = none)) ∧
    s.cell.bound s.cell.last a = none
/-- Such a run, or a bound stream register, which gives its packets. -/
def MayRun (s : State) (a : Spec) (g : Nat) : Prop := IsRun s a g ∨ (s.cell.bound s.cell.last a).isSome = true
/-- A register that may hold a long form's descriptor, or a stream register (R192). -/
def MayDescribe (a : Spec) : Prop := a.toNat < 40 ∨ 48 ≤ a.toNat
/-- The scale bytes of a scale specifier: a g register's, or 2^0 throughout (R185, R188). -/
def scales (s : State) (sc : Spec) : V256 := if sc.toNat < 32 then reg s sc else BitVec.ofNat 256 (0x7F * ((2 ^ 256 - 1) / 255))
/-- A long form's operand: a bound stream register's engine, else the fields of its descriptor (Table 07.6, R192). -/
def described (s : State) (a : Spec) (f : BitVec 4) : MSrc :=
  let v := (lane s a).toNat
  match s.cell.bound s.cell.last a with
  | some e => .stream e
  | none =>
    .desc (v % 2 ^ 15) (v / 2 ^ 16 % 2 ^ 15) (v / 2 ^ 32 % 2 ^ 15)
      (if v / 2 ^ 63 = 1 ∧ 11 ≤ f.toNat ∧ f ≠ 15 then some (v / 2 ^ 48 % 2 ^ 15) else none)
/-- A long form takes an operand's scales from its register: its format takes scales, and the operand is a stream or a descriptor with
SCV = 0 (R188, R192). -/
def ScaleUsed (s : State) (a : Spec) (f : BitVec 4) : Prop :=
  11 ≤ f.toNat ∧ f ≠ 15 ∧ ((s.cell.bound s.cell.last a).isSome = true ∨ (lane s a).toNat / 2 ^ 63 = 0)
/-- A scale specifier: a g register or none (R185). -/
def IsScale (sc : Spec) : Prop := sc.toNat < 32 ∨ sc = 0x2E
/-- A long form's operand without a fault: a stream register, or a descriptor with no reserved bit, aligned, its last step within
scratchpad (R192). -/
def DescOk (s : State) (a : Spec) (f : BitVec 4) (g steps : Nat) : Prop :=
  let v := (lane s a).toNat
  let base := v % 2 ^ 15
  let gstr := v / 2 ^ 16 % 2 ^ 15
  let sstr := v / 2 ^ 32 % 2 ^ 15
  let scb := v / 2 ^ 48 % 2 ^ 15
  let size := if f = 13 then 16 else 8
  (s.cell.bound s.cell.last a).isSome = true ∨
  ((a.toNat < 40 ∨ 48 ≤ a.toNat) ∧ v / 2 ^ 15 % 2 = 0 ∧ v / 2 ^ 31 % 2 = 0 ∧ v / 2 ^ 47 % 2 = 0 ∧
    base % 32 = 0 ∧ gstr % 32 = 0 ∧ sstr % 32 = 0 ∧ base + (steps - 1) * sstr + (g - 1) * gstr + 32 ≤ 0x8000 ∧
    scb % size = 0 ∧ (v / 2 ^ 63 = 1 → 11 ≤ f.toNat → f ≠ 15 → scb + (steps - 1) * size + size ≤ 0x8000))

end Sys2Proof.Stated

/-- R179, R185 to R192, R195, R196, R203: MMA, MMA.L, MMR and MMR.L read their operands as they issue and enter the queue: runs of
registers with their scales and column meta; in the long forms descriptors and steps; a bound stream register gives an MMA its packets
and a long form its engine; a tile that the thread does not hold raises LEASE. A scale specifier is checked where the step takes scales from its register. -/
def Obligations.Multiplications : Prop :=
  ∀ (h : Hdr) (t : BitVec 2) (a b : Spec) (x : BitVec 2) (k : MMode) (s : State) (pc : BitVec 10) (l0 l1 : Loop),
    s.me.guard h = true → s.me.cuts = [] → UnitFree s →
    (¬holds1 s t →
      (∀ m : BitVec 4, (x = 1 ∨ m = 0) → s.mode x = some k → MayRun s a k.ga → MayRun s b k.gb →
        exec (.mma h t m a b x) s = .next (s.fault s.cell.last (faultAt 0x05 s.me.pc 0))) ∧
      (∀ (steps : BitVec 8) (skip : BitVec 1) (mbase : BitVec 15), matrixMode x s.me.afEff s.me.bfEff = some k → MayDescribe a → MayDescribe b →
        (ScaleUsed s a s.me.afEff → IsScale s.me.saEff) → (ScaleUsed s b s.me.bfEff → IsScale s.me.sbEff) → (x = 1 ∨ (skip = 0 ∧ mbase = 0)) →
        exec (.mmaL h t a b x steps skip mbase) s = .next (s.fault s.cell.last (faultAt 0x05 s.me.pc 0))) ∧
      (s.cell.mx.torOut[tile x] = false → b.toNat + k.gb ≤ 32 →
        (s.mode 0 = some k → MayRun s a k.ga →
          exec (.mmr h t a b x) s = .next (s.fault s.cell.last (faultAt 0x05 s.me.pc 0))) ∧
        ∀ steps : BitVec 8, matrixMode 0 s.me.afEff s.me.bfEff = some k → MayDescribe a → (ScaleUsed s a s.me.afEff → IsScale s.me.saEff) →
          (11 ≤ s.me.bfEff.toNat → s.me.bfEff ≠ 15 → IsScale s.me.sbEff) →
          exec (.mmrL h t a b x steps) s = .next (s.fault s.cell.last (faultAt 0x05 s.me.pc 0)))) ∧
    (holds1 s t →
    (∀ m : BitVec 4, Follows s 1 pc l0 l1 → (x = 1 ∨ m = 0) → s.mode x = some k → IsRun s a k.ga → IsRun s b k.gb →
      exec (.mma h t m a b x) s = .next ((queued (.mma (tile t) x s.me.afEff s.me.bfEff (.regs (run s a k.ga)) (.regs (run s b k.gb))
        (scales s s.me.saEff) (scales s s.me.sbEff) s.me.spn (if x = 1 then lane s (0#2 ++ m) else 0) 1 false none) s).modMe
          (goes pc l0 l1 h.w))) ∧
    (∀ e : Fin 4, Follows s 1 pc l0 l1 → s.mode x = some k → s.cell.bound s.cell.last a = some e → IsRun s b k.gb →
      s.cell.eng.strm[e].isWrite = false → k.ga ≤ s.cell.eng.strm[e].buf.length →
      ∃ u, exec (.mma h t 0 a b x) s = .next u ∧ u.cell.eng.strm[e].buf = s.cell.eng.strm[e].buf.drop k.ga ∧
        u.cell.eng.strm[e].pos = s.cell.eng.strm[e].pos + BitVec.ofNat 32 k.ga ∧
        u.cell.mx.queue = (queued (.mma (tile t) x s.me.afEff s.me.bfEff (.regs (s.cell.eng.strm[e].buf.take k.ga)) (.regs (run s b k.gb))
          (scales s s.me.saEff) (scales s s.me.sbEff) s.me.spn (if x = 1 then lane s 0 else 0) 1 false none) s).cell.mx.queue ∧ u.cell.pad = s.cell.pad ∧ u.me.pc = pc) ∧
    (∀ (steps : BitVec 8) (skip : BitVec 1) (mbase : BitVec 15), Follows s 2 pc l0 l1 → matrixMode x s.me.afEff s.me.bfEff = some k →
      (ScaleUsed s a s.me.afEff → IsScale s.me.saEff) → (ScaleUsed s b s.me.bfEff → IsScale s.me.sbEff) →
      (if x = 1 then mbase.toNat % 8 = 0 ∧ mbase.toNat + 8 * (steps.toNat + 1) ≤ 0x8000 else skip = 0 ∧ mbase = 0) →
      DescOk s a s.me.afEff k.ga (steps.toNat + 1) → DescOk s b s.me.bfEff k.gb (steps.toNat + 1) →
      exec (.mmaL h t a b x steps skip mbase) s = .next ((queued (.mma (tile t) x s.me.afEff s.me.bfEff (described s a s.me.afEff)
        (described s b s.me.bfEff) (scales s s.me.saEff) (scales s s.me.sbEff) s.me.spn 0 (steps.toNat + 1) (skip == 1)
        (if x = 1 then some mbase.toNat else none)) s).modMe (goes pc l0 l1 h.w))) ∧
    (matrixMode 0 s.me.afEff s.me.bfEff = some k → s.cell.mx.torOut[tile x] = false → b.toNat + k.gb ≤ 32 →
      (Follows s 1 pc l0 l1 → s.mode 0 = some k → IsRun s a k.ga →
        exec (.mmr h t a b x) s = .next ((queued (.mmr (tile t) s.me.afEff s.me.bfEff (.regs (run s a k.ga)) b (run s b k.gb)
          (scales s s.me.saEff) (scales s s.me.sbEff) x 1) s).modMe (goes pc l0 l1 h.w))) ∧
      ∀ steps : BitVec 8, Follows s 2 pc l0 l1 → DescOk s a s.me.afEff k.ga (steps.toNat + 1) → (ScaleUsed s a s.me.afEff → IsScale s.me.saEff) →
        (11 ≤ s.me.bfEff.toNat → s.me.bfEff ≠ 15 → IsScale s.me.sbEff) →
        exec (.mmrL h t a b x steps) s = .next ((queued (.mmr (tile t) s.me.afEff s.me.bfEff (described s a s.me.afEff) b (run s b k.gb)
          (scales s s.me.saEff) (scales s s.me.sbEff) x (steps.toNat + 1)) s).modMe (goes pc l0 l1 h.w))))

/-- R185, R195: the effective formats and scales of a multiplication: the prefix's where one is pending and gives a format, else MSHAPE's;
B's scale is always MSHAPE's. -/
def Sys2Proof.Stated.MatrixFormats : Prop :=
  ∀ x : Thread,
    (x.pp = false → x.afEff.toNat = x.mshape.toNat % 16 ∧ x.bfEff.toNat = x.mshape.toNat / 16 % 16 ∧
      x.saEff.toNat = x.mshape.toNat / 2 ^ 8 % 64) ∧
    (x.pp = true → (x.pfx.toNat / 2 ^ 16 ≠ 15 → x.afEff.toNat = x.pfx.toNat / 2 ^ 16) ∧
      (x.pfx.toNat / 2 ^ 16 = 15 → x.afEff.toNat = x.mshape.toNat % 16) ∧
      (x.pfx.toNat / 2 ^ 12 % 16 ≠ 15 → x.bfEff.toNat = x.pfx.toNat / 2 ^ 12 % 16) ∧
      (x.pfx.toNat / 2 ^ 12 % 16 = 15 → x.bfEff.toNat = x.mshape.toNat / 16 % 16) ∧ x.saEff.toNat = x.pfx.toNat / 2 ^ 6 % 64) ∧
    x.sbEff.toNat = x.mshape.toNat / 2 ^ 14 % 64

namespace Sys2Proof.Stated

/-- F_S or F_L: a pending prefix's format at bit `i`, FP32 where there is none (R198). -/
def imageFmt (s : State) (i : Nat) : BitVec 4 :=
  if s.me.pp = true ∧ s.me.pfx.toNat / 2 ^ i % 16 ≠ 15 then BitVec.ofNat 4 (s.me.pfx.toNat / 2 ^ i) else 0
/-- FP32, BF16, FP16 or I32. -/
def ImageOk (f : BitVec 4) : Prop := f = 0 ∨ f = 1 ∨ f = 2 ∨ f = 6
/-- Bytes of a tile's image. -/
def imageSize (f : BitVec 4) : Nat := if f = 0 ∨ f = 6 then 256 else 128

end Sys2Proof.Stated

/-- R198 to R200, R304: MST.S, MST.R and MST.L move a tile's image between the tile and scratchpad or a run of registers, CBLOAD loads
codebook entries, MRED contributes a tile to a bucket: each checks its operand as it issues and enters the queue; an image whose offset, an exact sum, is no multiple of 32 raises ALIGN, and one
that does not lie in scratchpad WINDOW. The order of these checks is the model's reading (log entry 32). -/
def Obligations.TileTransfers : Prop :=
  ∀ (h : Hdr) (t : BitVec 2) (a : Spec) (s : State) (pc : BitVec 10) (l0 l1 : Loop), Follows s 1 pc l0 l1 →
    s.me.guard h = true → s.me.cuts = [] → UnitFree s → srcOk a = true → s.anyBound [a] = false →
    (∀ (off : BitVec 6) (o : Nat), o = (lane s a).toNat + 32 * off.toNat →
      (holds1 s t → ImageOk (imageFmt s 12) → o % 32 = 0 → o + imageSize (imageFmt s 12) ≤ 0x8000 →
        exec (.mstS h t a off) s = .next ((queued (.store (tile t) o (imageFmt s 12) (s.me.rsEff none)) s).modMe (goes pc l0 l1 h.w))) ∧
      (holds1 s t → ImageOk (imageFmt s 16) → o % 32 = 0 → o + imageSize (imageFmt s 16) ≤ 0x8000 →
        exec (.mstL h t a off) s = .next ((queued (.load (tile t) o (imageFmt s 16)) s).modMe (goes pc l0 l1 h.w))) ∧
      (holds1 s t → ImageOk (imageFmt s 12) → ImageOk (imageFmt s 16) → o % 32 ≠ 0 →
        exec (.mstS h t a off) s = .next (s.fault s.cell.last (faultAt 0x02 s.me.pc (BitVec.ofNat 64 o))) ∧
        exec (.mstL h t a off) s = .next (s.fault s.cell.last (faultAt 0x02 s.me.pc (BitVec.ofNat 64 o)))) ∧
      (holds1 s t → ImageOk (imageFmt s 12) → o % 32 = 0 → 0x8000 < o + imageSize (imageFmt s 12) →
        exec (.mstS h t a off) s = .next (s.fault s.cell.last (faultAt 0x03 s.me.pc (BitVec.ofNat 64 o)))) ∧
      (holds1 s t → ImageOk (imageFmt s 16) → o % 32 = 0 → 0x8000 < o + imageSize (imageFmt s 16) →
        exec (.mstL h t a off) s = .next (s.fault s.cell.last (faultAt 0x03 s.me.pc (BitVec.ofNat 64 o)))) ∧
      (¬holds1 s t → ImageOk (imageFmt s 12) → ImageOk (imageFmt s 16) →
        exec (.mstS h t a off) s = .next (s.fault s.cell.last (faultAt 0x05 s.me.pc 0)) ∧
        exec (.mstL h t a off) s = .next (s.fault s.cell.last (faultAt 0x05 s.me.pc 0)))) ∧
    (∀ d : Spec, holds1 s t → ImageOk (imageFmt s 12) → d.toNat + imageSize (imageFmt s 12) / 32 ≤ 32 →
      exec (.mstR h d t) s = .next ((queued (.toRegs (tile t) d (imageFmt s 12) (s.me.rsEff none)) s).modMe (goes pc l0 l1 h.w))) ∧
    (s.me.pp = false → ∀ off first n : Nat, off = (lane s a).toNat % 2 ^ 15 → first = (lane s a).toNat / 2 ^ 16 % 2 ^ 8 →
      n = (lane s a).toNat / 2 ^ 24 % 2 ^ 8 + 1 →
      (lane s a).toNat / 2 ^ 15 % 2 = 0 → (lane s a).toNat / 2 ^ 32 = 0 → first + n ≤ 256 → off % 4 = 0 →
      off + 4 * n + (n + 7) / 8 ≤ 0x8000 →
      exec (.cbload h a) s = .next ((queued (.cbload off first n) s).modMe (goes pc l0 l1 h.w))) ∧
    (s.me.pp = false → holds1 s t → ∀ (z : BitVec 1) (tag : Nat), s.specTag (lane s a) 8 = some tag →
      exec (.mred h t a z) s = .next ((queued (.mred (tile t) (BitVec.ofNat 12 tag) ((lane s a).getLsbD 12) (z == 1)) s).modMe
        (goes pc l0 l1 h.w))) ∧
    (s.me.pp = false → s.specTag (lane s a) 8 = none → ∀ z : BitVec 1, exec (.mred h t a z) s = .next s.illegal)

/-! ### Messages, light, reduction, ordering and virtual time (10 to 14) -/

namespace Sys2Proof.Stated

/-- A message that SEND makes of its operands: name, channel, class, reply channel, payload, and the thread's sequence number (R262). -/
def message (s : State) (name : Name) (chan : BitVec 6) (cls : BitVec 4) (v : W64) (pay : List V256) : Pkt :=
  { dest := name
    src := s.cell.name
    stid := s.cell.last
    cls := cls
    chan := chan
    rch := BitVec.ofNat 6 (v.toNat / 2 ^ 10)
    seq := s.me.sseq
    refok := s.cell.refok cls
    nolrn := s.cell.nolrn cls
    pay := pay }
/-- The cell with one more item in its egress queue, and SENT one higher (R89, R251). -/
def posted (p : Pkt) (c : Cell) : Cell :=
  { c with
    msg := { c.msg with egress := c.msg.egress ++ [.msg p] }
    inbox := { c.inbox with sent := c.inbox.sent + 1 } }
/-- The payload registers of X and A (R262). -/
def payloadOf (s : State) (a : Spec) (x : BitVec 2) : List V256 :=
  (List.range (x.toNat + 1)).map fun i => if a = 0x2E then 0 else reg s (BitVec.ofNat 6 (a.toNat + i))

end Sys2Proof.Stated

/-- R249, R251, R253, R254, R262, R263, R343: SEND and SEND.L put a message in the egress queue, count it in SENT, and take the next
sequence number; a timed one carries a time and counts for GVT; to a name outside the partition they raise an event instead; in a
timed handler one that is not timed is TIMED_ILLEGAL before anything else; a reserved spec bit is ILLEGAL, a class below 4 or a channel above 47 raises PRIV, and a full queue parks the thread. -/
def Sys2Proof.Stated.Sends : Prop :=
  ∀ (h : Hdr) (a b d : Spec) (x : BitVec 2) (i : Instr) (len : Nat) (name : Name) (chan : BitVec 6) (cls : BitVec 4) (s : State)
    (pc : BitVec 10) (l0 l1 : Loop), Passes s h → Follows s len pc l0 l1 → srcOk b = true →
    (a = 0x2E ∨ a.toNat + x.toNat < 32) →
    ((i = .send h d a b x ∧ len = 1 ∧ dstOk d = true ∧ s.anyBound [d, b] = false ∧ name = (lane s d).setWidth 20 ∧
        chan = BitVec.ofNat 6 ((lane s b).toNat / 2 ^ 4) ∧ cls = (lane s b).setWidth 4) ∨
      (i = .sendL h a b x name chan cls ∧ len = 2 ∧ s.anyBound [b] = false)) →
    ((lane s b).toNat / 2 ^ 16 % 2 = 0 → s.me.tmd = false → (lane s b).toNat / 2 ^ 17 % 2 ^ 15 = 0 → 4 ≤ cls.toNat → chan.toNat < 48 →
      s.cell.msg.egress.length < 8 →
      (partOfName s name.toNat = some s.cell.part.toNat →
        exec i s = .next ((modFocus s (posted (message s name chan cls (lane s b) (payloadOf s a x)))).modMe fun y =>
          goes pc l0 l1 h.w { y with sseq := y.sseq + 1 })) ∧
      (partOfName s name.toNat ≠ some s.cell.part.toNat → s.me.wait = .none → ∃ t, exec i s = .next t ∧ t.me.sseq = s.me.sseq + 1 ∧ t.me.pc = pc ∧
        t.cell.msg.egress = s.cell.msg.egress ∧ t.cell.inbox.sent = s.cell.inbox.sent ∧ t.cell.msg.merr = satInc s.cell.msg.merr)) ∧
    ((lane s b).toNat / 2 ^ 16 % 2 = 1 → (lane s b).toNat / 2 ^ 17 % 2 ^ 15 = 0 → 4 ≤ cls.toNat → chan.toNat < 48 →
      s.cell.msg.egress.length < 8 → s.cell.journaled s.cell.last = false → partOfName s name.toNat = some s.cell.part.toNat →
      ∃ t p, exec i s = .next t ∧ t.cell.msg.egress = s.cell.msg.egress ++ [.msg p] ∧ t.cell.inbox.sent = s.cell.inbox.sent + 1 ∧
        t.me.sseq = s.me.sseq + 1 ∧ t.me.pc = pc ∧ t.cell.pad = s.cell.pad ∧ p.dest = name ∧ p.chan = chan ∧ p.cls = cls ∧ p.tmd = true ∧
        p.seq = s.me.sseq ∧ p.pay = payloadOf s a x ∧ p.colour = s.cell.tim.col ∧
        p.vrt.toNat = min (s.cell.tim.lvt.toNat + (lane s b).toNat / 2 ^ 32) (2 ^ 48 - 2) ∧
        (if s.cell.tim.col then t.cell.tim.sc1 = s.cell.tim.sc1 + 1 ∧ t.cell.tim.sc0 = s.cell.tim.sc0
         else t.cell.tim.sc0 = s.cell.tim.sc0 + 1 ∧ t.cell.tim.sc1 = s.cell.tim.sc1)) ∧
    (s.me.tmd = true → (lane s b).toNat / 2 ^ 16 % 2 = 0 → exec i s = .next (s.fault s.cell.last (faultAt 0x06 s.me.pc 0))) ∧
    (s.me.tmd = true → (lane s b).toNat / 2 ^ 16 % 2 = 0 → dstOk d = true → s.cell.bound s.cell.last b = none →
      exec (.send h d a b x) s = .next (s.fault s.cell.last (faultAt 0x06 s.me.pc 0))) ∧
    (s.me.tmd = false → (lane s b).toNat / 2 ^ 17 % 2 ^ 15 ≠ 0 → exec i s = .next s.illegal) ∧
    (s.me.tmd = false → (lane s b).toNat / 2 ^ 17 % 2 ^ 15 = 0 → cls.toNat < 4 ∨ 48 ≤ chan.toNat →
      exec i s = .next (s.fault s.cell.last (faultAt 0x04 s.me.pc 0))) ∧
    (s.me.tmd = false → (lane s b).toNat / 2 ^ 17 % 2 ^ 15 = 0 → 4 ≤ cls.toNat → chan.toNat < 48 → 8 ≤ s.cell.msg.egress.length →
      exec i s = .next (parked .egressRoom s))

namespace Sys2Proof.Stated

/-- The size of a remote atomic (Table 10.8). -/
def atomBytes (opc : BitVec 4) : Nat := if opc.toNat ∈ [1, 2, 3, 4, 14, 15] then 4 else 8

end Sys2Proof.Stated

/-- R251, R253, R264, R265, Table 10.8: RATOM and RATOM.L put a remote atomic in the egress queue with its operands as they are, and take
the next sequence number; but for a POST a result of lanes 0 and 1 is then outstanding; bytes outside the global window raise WINDOW,
others misaligned ALIGN; CLMASK sets, clears or writes the class mask, never its four low classes, and gives the old one. -/
def Sys2Proof.Stated.RemoteAtomics : Prop :=
  ∀ (h : Hdr) (d a : Spec) (opc cls : BitVec 4) (post : Bool) (i : Instr) (len : Nat) (s : State) (pc : BitVec 10) (l0 l1 : Loop),
    Passes s h → Follows s len pc l0 l1 → d.toNat < 42 → srcOk a = true → s.anyBound [d, a] = false → s.me.tmd = false →
    ((∃ x : BitVec 2, i = .ratom h d a cls x ∧ len = 1 ∧ post = false ∧
        opc = (if x = 0 then 0 else if x = 1 then 3 else if x = 2 then 12 else 13)) ∨
      (i = .ratomL h d a opc cls (if post then 1 else 0) ∧ len = 2)) →
    (2 ^ 47 ≤ (lane s a).toNat → (lane s a).toNat + atomBytes opc ≤ 2 ^ 47 + 2 ^ 45 → (lane s a).toNat % atomBytes opc = 0 → 4 ≤ cls.toNat →
      s.cell.msg.egress.length < 8 →
      exec i s = .next ((modFocus s fun c =>
        { c with msg := { c.msg with
            egress := c.msg.egress ++ [.atom c.last s.me.sseq cls opc post (lane s a).toNat (lane s d) (lane1 (reg s d)) none] } }).modMe fun y =>
          goes pc l0 l1 h.w { y with
            sseq := y.sseq + 1
            outs := if post then y.outs
              else y.outs ++ [{ d := d, bits := 128, val := 0, ready := false, kind := .remote y.sseq }] })) ∧
    (¬(2 ^ 47 ≤ (lane s a).toNat ∧ (lane s a).toNat + atomBytes opc ≤ 2 ^ 47 + 2 ^ 45) →
      exec i s = .next (s.fault s.cell.last (faultAt 0x03 s.me.pc (lane s a)))) ∧
    (2 ^ 47 ≤ (lane s a).toNat → (lane s a).toNat + atomBytes opc ≤ 2 ^ 47 + 2 ^ 45 → (lane s a).toNat % atomBytes opc ≠ 0 →
      exec i s = .next (s.fault s.cell.last (faultAt 0x02 s.me.pc (lane s a)))) ∧
    (∀ (x : BitVec 2) (d : Spec), x ≠ 3 → dstOk d = true → s.anyBound [d] = false → Follows s 1 pc l0 l1 →
      exec (.clmask h d a x) s = .next ((modFocus s fun c =>
        { c with msg := { c.msg with clmask :=
            let m : BitVec 16 := (lane s a).setWidth 16 &&& 0xFFF0
            if x = 0 then c.msg.clmask ||| m else if x = 1 then c.msg.clmask &&& ~~~m else m } }).modMe fun y =>
          goes pc l0 l1 h.w (y.setReg d (setLane0 (held s d) (BitVec.ofNat 64 s.cell.msg.clmask.toNat)))))

/-- R273, R277: LREL and LREL.R give a held slot back: it is armed again for the next block of its place, RELS goes up, its channel is
opened afresh over the slot, and the release is latched; a slot that is not valid, not held, or not the oldest of its group is ILLEGAL,
and a timed handler raises TIMED_ILLEGAL. -/
def Sys2Proof.Stated.SlotReleases : Prop :=
  ∀ (h : Hdr) (a : Spec) (i : Instr) (n : Fin 8) (s : State) (pc : BitVec 10) (l0 l1 : Loop), Passes s h → Follows s 1 pc l0 l1 →
    ((i = .lrel h (BitVec.ofNat 3 n.val)) ∨ (i = .lrelR h a ∧ srcOk a = true ∧ s.anyBound [a] = false ∧ (lane s a).toNat % 8 = n.val)) →
    (∀ k : KeyEnt, s.me.tmd = false → s.cell.slotV n = true → s.cell.land[n].held = true →
      (∀ m : Fin 8, s.cell.slotV m = true → s.cell.slotKey m = s.cell.slotKey n → s.cell.land[m].held = true →
        s.cell.land[n].blk ≤ s.cell.land[m].blk) →
      s.keyEnt (s.cell.slotKey n) = some k →
      ∃ t, exec i s = .next t ∧ t.cell.land[n] = { s.cell.land[n] with
          held := false
          armed := true
          rels := s.cell.land[n].rels + 1
          latch := true
          blk := s.cell.land[n].blk + k.nslot
          got := []
          fails := [] } ∧
        (∀ m : Fin 8, m ≠ n → t.cell.land[m] = s.cell.land[m]) ∧
        t.cell.eng.wm[s.cell.slotWm n] = Watermark.opened (BitVec.ofNat 16 (s.cell.slotBase n)) (BitVec.ofNat 16 (s.cell.slotBase n + 32 * k.blk)) ∧
        (∀ m : Fin 8, m ≠ s.cell.slotWm n → t.cell.eng.wm[m] = s.cell.eng.wm[m]) ∧ t.me = goes pc l0 l1 h.w s.me ∧ t.cell.pad = s.cell.pad) ∧
    (s.me.tmd = false → s.cell.slotV n = false ∨ s.cell.land[n].held = false → exec i s = .next s.illegal) ∧
    (∀ m : Fin 8, s.me.tmd = false → s.cell.slotV m = true → s.cell.slotKey m = s.cell.slotKey n → s.cell.land[m].held = true →
      s.cell.land[m].blk < s.cell.land[n].blk → exec i s = .next s.illegal) ∧
    (s.me.tmd = true → exec i s = .next (s.fault s.cell.last (faultAt 0x06 s.me.pc 0)))

/-- R288, R293, R304: RDCON, RDCON.E and RDCON.L put a contribution in the cell's output buffer with the epoch of its tag, give that epoch
in lane 0 of D, and step it; an empty one holds no data; a full buffer parks the thread; a tag that the cell may not use, a reserved bit
or another width is ILLEGAL. -/
def Sys2Proof.Stated.Contributions : Prop :=
  ∀ (h : Hdr) (d a b : Spec) (s : State) (pc : BitVec 10) (l0 l1 : Loop) (tag : Nat), Passes s h → s.me.tmd = false → dstOk d = true →
    srcOk a = true → srcOk b = true → s.anyBound [d, a, b] = false →
    let put (empty : Bool) (data : List V256) : State :=
      (modFocus s fun c => { c with red := { c.red with
        buf := some { tag := tag, epoch := Sp.get c.red.epochs tag, part := { empty := empty, data := data } }
        epochs := Sp.set c.red.epochs tag (Sp.get c.red.epochs tag + 1) } }).modMe fun y =>
          goes pc l0 l1 h.w (y.setReg d (setLane0 (held s d) (BitVec.ofNat 64 (Sp.get s.cell.red.epochs tag).toNat)))
    (Follows s 1 pc l0 l1 → s.specTag (lane s a) 1 = some tag →
      (s.cell.red.buf = none →
        exec (.rdcon h d a b) s = .next (if (lane s a).getLsbD 12 then put true [] else put false [reg s b]) ∧
        exec (.rdconE h d a) s = .next (put true [])) ∧
      (s.cell.red.buf ≠ none → exec (.rdcon h d a b) s = .next (parked .outputRoom s) ∧ exec (.rdconE h d a) s = .next (parked .outputRoom s))) ∧
    (∀ (x : BitVec 2) (loff : BitVec 15) (w : BitVec 3), Follows s 2 pc l0 l1 → s.specTag (lane s a) (w.toNat + 1) = some tag → x.toNat ≤ 1 →
      loff.toNat + 32 * (w.toNat + 1) ≤ 0x8000 → loff.toNat % 32 = 0 → s.cell.unmarked loff.toNat (32 * (w.toNat + 1)) = false →
      s.cell.red.buf = none →
      (x = 1 ∨ (lane s a).getLsbD 12 = true → exec (.rdconL h d a x loff w) s = .next (put true [])) ∧
      (x = 0 → (lane s a).getLsbD 12 = false → s.cell.badRead loff.toNat (32 * (w.toNat + 1)) = none →
        ∃ p : Pad, exec (.rdconL h d a x loff w) s = .next (modFocus (put false
            ((List.range (w.toNat + 1)).map fun j => s.cell.gran (loff.toNat + 32 * j))) fun c => { c with pad := p }) ∧
          p.mem = s.cell.pad.mem)) ∧
    (s.specTag (lane s a) 1 = none → exec (.rdcon h d a b) s = .next s.illegal ∧ exec (.rdconE h d a) s = .next s.illegal)

/-- R293, R304: which reduction specs a cell may contribute to with a width: the reserved bits are zero, the tag is neither 0 nor 4095, the
cell is LOCAL in the tag's tree, and the bucket has that width. -/
def Sys2Proof.Stated.ReductionSpecs : Prop :=
  ∀ (s : State) (v : W64) (w tag : Nat), s.specTag v w = some tag ↔
    tag = v.toNat % 2 ^ 12 ∧ v.toNat / 2 ^ 13 = 0 ∧ tag ≠ 0 ∧ tag ≠ 4095 ∧
      ∃ (b : Bucket) (n : TreeNode), s.globals.bucket tag = some b ∧ b.width = w ∧ s.globals.node b.tree s.cell.name = some n ∧ n.loc = true

namespace Sys2Proof.Stated

/-- A thread has nothing outstanding that a FENCE may wait for: no copy, no atomic or message, and no answer to one, on its way, no pushed packet,
no matrix instruction (Table 13.2). -/
def NothingOut (s : State) (t : TIdx) : Prop :=
  (∀ (i : Fin 16) (e : CopyEnt), s.cell.eng.ents[i] = some e → e.t ≠ t) ∧
  (∀ (p : Pkt), .msg p ∈ s.cell.msg.egress → p.stid ≠ t) ∧
  (∀ u q c o b g v w f, EgItem.atom u q c o b g v w f ∈ s.cell.msg.egress → u ≠ t) ∧
  (∀ p ∈ s.cell.msg.busy, p.t ≠ t) ∧
  (∀ f ∈ s.flights, f.p.kind = 1 ∨ f.p.kind = 2 ∨ f.p.kind = 3 → f.p.stid ≠ t) ∧
  (∀ n : Fin 4, s.cell.eng.strm[n].own = t → s.cell.eng.strm[n].buf = []) ∧
  ∀ e ∈ s.cell.mx.queue, e.t ≠ t

end Sys2Proof.Stated

/-- R313, R314, Table 13.2: FENCE goes on once nothing that its kind and scope cover is still to be done, and parks until then: with no copy,
atomic, message, pushed packet or matrix instruction of its thread outstanding it goes on at once; FULL waits for just what ACQ and REL wait for, and the
scope of a die for no more than that of the panel; kinds above 2 and scope 3 are ILLEGAL. -/
def Obligations.Fences : Prop :=
  ∀ (h : Hdr) (kind : BitVec 6) (x : BitVec 2) (s : State) (pc : BitVec 10) (l0 l1 : Loop), Passes s h → Follows s 1 pc l0 l1 →
    (kind.toNat ≤ 2 → x ≠ 3 → s.fenceWaits s.cell.last kind x = false → exec (.fence h kind x) s = .next (s.modMe (goes pc l0 l1 h.w))) ∧
    (kind.toNat ≤ 2 → x ≠ 3 → s.fenceWaits s.cell.last kind x = true →
      exec (.fence h kind x) s = .next (parked (.fence (kind.setWidth 2) x) s)) ∧
    (2 < kind.toNat ∨ x = 3 → exec (.fence h kind x) s = .next s.illegal) ∧
    (NothingOut s s.cell.last → s.fenceWaits s.cell.last kind x = false) ∧
    (kind.toNat ≤ 2 → x ≠ 3 → NothingOut s s.cell.last → exec (.fence h kind x) s = .next (s.modMe (goes pc l0 l1 h.w))) ∧
    (∀ t : TIdx, s.fenceWaits t 2 x = (s.fenceWaits t 0 x || s.fenceWaits t 1 x)) ∧
    (∀ t : TIdx, s.fenceWaits t kind 1 = true → s.fenceWaits t kind 2 = true)

/-- R343 to R345, Table 14.3: TIME.TNOW and TIME.TGVT give LVT and GVT in lane 0 of D; TIME.TDEFER sends its message at once from an
unjournaled handler, enters a pair in the journal from a journaled one, and is ILLEGAL in any other thread. -/
def Obligations.TimeInstructions : Prop :=
  ∀ (h : Hdr) (d a b : Spec) (s : State) (pc : BitVec 10) (l0 l1 : Loop), Passes s h → Follows s 1 pc l0 l1 → srcOk a = true → srcOk b = true →
    s.anyBound [d, a, b] = false →
    (dstOk d = true →
      exec (.timeTnow h d) s = .next (s.modMe fun y => goes pc l0 l1 h.w (y.setReg d (setLane0 (held s d) (BitVec.ofNat 64 s.cell.tim.lvt.toNat)))) ∧
      exec (.timeTgvt h d) s = .next (s.modMe fun y => goes pc l0 l1 h.w (y.setReg d (setLane0 (held s d) (BitVec.ofNat 64 s.cell.tim.gvt.toNat))))) ∧
    (dstOk d = true → s.cell.timedThread s.cell.last = false → exec (.timeTdefer h d a b) s = .next s.illegal) ∧
    (dstOk d = true → s.cell.timedThread s.cell.last = true → (lane s b).toNat / 2 ^ 16 = 0 → 4 ≤ (lane s b).toNat % 16 →
      (lane s b).toNat / 2 ^ 4 % 64 < 48 →
      (s.cell.journaled s.cell.last = false → s.cell.msg.egress.length < 8 →
        partOfName s ((lane s d).toNat % 2 ^ 20) = some s.cell.part.toNat →
        exec (.timeTdefer h d a b) s = .next ((modFocus s (posted (message s ((lane s d).setWidth 20) (BitVec.ofNat 6 ((lane s b).toNat / 2 ^ 4))
          ((lane s b).setWidth 4) (lane s b) [BitVec.ofNat 256 (lane s a).toNat]))).modMe fun y =>
            goes pc l0 l1 h.w { y with sseq := y.sseq + 1 })) ∧
      (s.cell.journaled s.cell.last = true → s.cell.tim.jused + 2 ≤ s.cell.jLen → s.cell.sleepers = [] → Memory.wf s.cell.pad.mem = true →
        ∃ t, exec (.timeTdefer h d a b) s = .next t ∧ t.cell.tim.jused = s.cell.tim.jused + 2 ∧ t.me.sseq = s.me.sseq + 1 ∧
          t.cell.msg.egress = s.cell.msg.egress ∧
          t.cell.bytes (s.cell.jAt (s.cell.tim.jhead + s.cell.tim.jused)) 8 = 3 + 2 ^ 16 * s.cell.runVrt.toNat ∧
          t.cell.bytes (s.cell.jAt (s.cell.tim.jhead + s.cell.tim.jused) + 8) 8 = (lane s a).toNat ∧
          t.cell.bytes (s.cell.jAt (s.cell.tim.jhead + s.cell.tim.jused + 1)) 8 = 4 + 2 ^ 16 * s.cell.runVrt.toNat ∧
          t.cell.bytes (s.cell.jAt (s.cell.tim.jhead + s.cell.tim.jused + 1) + 8) 8 = (lane s d).toNat % 2 ^ 20 +
            2 ^ 20 * ((lane s b).toNat / 2 ^ 4 % 64) + 2 ^ 26 * ((lane s b).toNat / 2 ^ 10 % 64) + 2 ^ 32 * ((lane s b).toNat % 16) +
            2 ^ 36 * s.cell.last.val + 2 ^ 39 * s.me.sseq.toNat) ∧
      (s.cell.journaled s.cell.last = true → s.cell.jLen < s.cell.tim.jused + 2 →
        exec (.timeTdefer h d a b) s = .next (parked (.journal 2) s)))

/-! ### Events of a cell -/

/-- R70, R97, R99: with every target free or stopped, and no rotation that holds its tumbler, the delivery starts each target at the block's first word with the block's words and
LPRIO, its registers as they were, and T0 goes on; a join whose threads are all free, stopped or faulted writes the mask of the faulted
ones to D, frees the stopped ones with FREE, and T0 goes on. -/
def Sys2Proof.Stated.BlocksAndJoins : Prop :=
  ∀ (c : Name) (s : State) (pc : BitVec 10) (l0 l1 : Loop), s.cur = c.toNat → s.heldAt c.toNat = false →
    (s.cell.th 0).next ((s.cell.th 0).pc.toNat) = .at_ pc l0 l1 →
    (∀ (m : BitVec 7) (b : BitVec 10) (len : BitVec 3), (s.cell.th 0).wait = .bcast m b len →
      (∀ u : TIdx, inMask m u = true → (s.cell.th u).st = .free ∨ (s.cell.th u).st = .stopped) →
      ∃ t, exec (.bcastDelivery c) s = .next t ∧
        t.cell.th 0 = ({ s.cell.th 0 with pc := pc, lp0 := l0, lp1 := l1 } : Thread).marker (s.cell.th 0).wmark ∧
        ∀ u : TIdx, u ≠ 0 →
          (inMask m u = false → t.cell.th u = s.cell.th u) ∧
          (inMask m u = true →
            (t.cell.th u).st = .running ∧ (t.cell.th u).wait = .none ∧ (t.cell.th u).pc = b ∧ (t.cell.th u).inb = true ∧
            (t.cell.th u).blkAt = b ∧ (t.cell.th u).blkLen = len ∧ (t.cell.th u).lvl = s.cell.plane.active.lprio ∧
            (∀ i : Fin 8, i.val ≤ len.toNat → (t.cell.th u).blk[i] = Sp.get s.cell.plane.active.code (b.toNat + i.val)) ∧
            (t.cell.th u).g = (s.cell.th u).g ∧ (t.cell.th u).q = (s.cell.th u).q ∧ (t.cell.th u).p = (s.cell.th u).p)) ∧
    (∀ (m : BitVec 7) (d : Spec) (free : Bool), (s.cell.th 0).wait = .joinm m d free → s.cell.bound 0 d = none →
      (∀ u : TIdx, inMask m u = true → (s.cell.th u).st = .free ∨ (s.cell.th u).st = .stopped ∨ (s.cell.th u).st = .faulted) →
      ∃ t, exec (.joinmComplete c) s = .next t ∧
        t.cell.th 0 = (({ (s.cell.th 0).setReg d (setLane0 (if d = 0x2E then 0 else s.cell.reg 0 d)
            (BitVec.ofNat 64 (s.cell.faultedMask m))) with pc := pc, lp0 := l0, lp1 := l1 } : Thread).marker (s.cell.th 0).wmark) ∧
        ∀ u : TIdx, u ≠ 0 → t.cell.th u =
          if free = true ∧ inMask m u = true ∧ (s.cell.th u).st = .stopped then { s.cell.th u with st := .free } else s.cell.th u)

/-- R65, R66, R68, Table 08.2: a long-latency result that is in is written over the low bits of its register, or of what that held before
a short-latency write met it (the model's choice, assumption 4), whatever the thread goes on to do; a thread parked on the wait marker goes on with its last one; a load that met an uncorrectable word writes nothing and leaves its
address to raise at the next boundary. -/
def Sys2Proof.Stated.LongResultsAreWritten : Prop :=
  ∀ (c : Name) (u : TIdx) (k : Nat) (s : State) (o : LongRes), s.cur = c.toNat → (s.cell.th u).outs[k]? = some o → o.ready = true →
    (s.cell.th 0).wait = .none →
    (o.bad = none → s.cell.bound u o.d = none → (s.cell.th u).wait = .none →
      exec (.longLatencyWriteback c u k) s = .next (fresh (s.modTh u fun x =>
        ({ x with outs := dropAt x.outs k } : Thread).putReg o.d
          (insBits (o.base.getD (if o.d = 0x2E then 0 else s.cell.reg u o.d)) 0 o.bits o.val.toNat)))) ∧
    (o.bad = none → s.cell.bound u o.d = none → (s.cell.th u).wait = .marker → (s.cell.th u).outs.length = 1 → u ≠ 0 →
      ∃ t, exec (.longLatencyWriteback c u k) s = .next t ∧ (t.cell.th u).st = .running ∧ (t.cell.th u).wait = .none ∧
        (t.cell.th u).outs = [] ∧ (t.cell.th u).pc = (s.cell.th u).pc) ∧
    (∀ a, o.bad = some a → (s.cell.th u).wait = .none →
      exec (.longLatencyWriteback c u k) s = .next (s.modTh u fun x =>
        { x with outs := dropAt x.outs k, deferred := x.deferred.or (some a) }))

/-- R67: as a thread issues, a late result that is in stays out, or is written to its register within the instruction, each by itself: then
each read that the instruction makes of that register gives the whole value before it or the whole value after it, whichever the model's free
choice says (log entry 4); SUB of a register from itself, so read twice, gives the difference of what its two reads gave. With nothing in, a
read gives what the register holds. -/
def Sys2Proof.Stated.ReadsMeetLateResults : Prop :=
  (∀ s : State, (∀ o ∈ s.me.outs, o.ready = false) → (∀ e ∈ s.cell.mx.queue.head?, e.t ≠ s.cell.last) → s.during = s) ∧
  (∀ (s : State) (o : LongRes), s.me.outs = [o] → o.ready = true → o.bad = none → o.d.toNat < 42 → s.cell.bound s.cell.last o.d = none →
    (∀ e ∈ s.cell.mx.queue.head?, e.t ≠ s.cell.last) →
    s.during = match choose s 17 with
      | 0 => fresh s
      | n + 1 => fresh (fresh (s.modMe fun x =>
        { ({ x with outs := [] } : Thread).putReg o.d (insBits (o.base.getD (reg s o.d)) 0 o.bits o.val.toNat) with
          cuts := ⟨o.d, reg s o.d, BitVec.ofNat 4 n⟩ :: x.cuts }))) ∧
  (∀ (s : State) (a : Spec) (l : List Spec), s.cell.bound s.cell.last a = none →
    (s.me.cuts = [] → s.src a = reg s a ∧ s.srcAfter l a = reg s a) ∧
    ∀ k : Cut, s.me.cuts = [k] →
      s.src a = (if k.d = a ∧ k.stale.getLsbD 0 = true then k.old else reg s a) ∧
      s.srcAfter l a = (if k.d = a ∧ k.stale.getLsbD (min (l.count a) 3) = true then k.old else reg s a)) ∧
  ∀ (h : Hdr) (d a : Spec) (s : State) (pc : BitVec 10) (l0 l1 : Loop) (k : Cut) (u v w : W64), dstOk d = true → srcOk a = true →
    s.anyBound [d, a] = false → s.me.guard h = true → s.me.pp = false → Follows s 1 pc l0 l1 → s.me.cuts = [k] → k.d = a →
    u = (if k.stale.getLsbD 0 = true then lane0 k.old else lane s a) → v = (if k.stale.getLsbD 1 = true then lane0 k.old else lane s a) →
    w = BitVec.ofInt 64 (u.toInt - v.toInt) →
    exec (.sub h d a a 0) s = .next (s.modMe fun x => goes pc l0 l1 h.w ((x.setReg d (setLane0 (held s d) w)).last d (setLane0 (held s d) w)))

/-- R75 to R80, R83, R252: a message that reaches its cell, which is not about to move, with nothing waiting ahead of it, on a usable untimed
channel with a free thread of its mask, makes that thread bound, is counted and acknowledged, by the cell that started a flood if it came by
one; the oldest entry of a buffer, of the spill queue or of the
latches moves on as it can; a granule of an entry is written to the spill ring at a point of its own, and the entry binds once all are (R209,
R310); a completed deposit starts the handler with the payload in its registers. -/
def Obligations.ArrivalsBind : Prop :=
  ∀ (c : Name) (s : State), s.cur = c.toNat → s.heldAt c.toNat = false →
    (∀ (k : Nat) (f : Flight) (u : TIdx) (q : Pos), s.ready k [0, 2] = some f → curPos s c.toNat = some q → f.p.dest = c → f.p.kind = 0 → f.p.anti = false → f.p.tmd = false →
      f.p.causal = none → f.p.loc = false → f.p.chan ≠ 57 → s.cell.usable f.p.chan.toNat = true → s.cell.pausing = false →
      hTimed (s.cell.hword f.p.chan.toNat) = false → s.cell.masked f.p = false → s.cell.inbox.occ = 0 → s.cell.inbox.ibuf = [] →
      s.cell.inbox.latches = [] → s.cell.bindable f.p.chan.toNat = some u →
      exec (.messageArrival k) s = .next { modFocus s (fun c => (c.received f.p).bind u f.p) with
        mnet := dropAt s.mnet k ++ [match f.flood with
          | none => { p := s.cell.stampClass (ackOf f.p), pos := routerOf q, vc := 2 }
          | some z => { p := ackOf f.p, pos := z, vc := 2 }] }) ∧
    (∀ (a : Nat) (v : V256), s.cell.inbox.rbuf = [] → s.cell.inbox.ibuf = [] → s.cell.inbox.dep = [(a, v)] → s.cell.sleepers = [] →
      ∃ t, exec (.ingressToSpill c) s = .next t ∧ t.cell.inbox.dep = [] ∧ t.cell.inbox.occ = s.cell.inbox.occ ∧
        t.cell.pad.mem = Memory.writeNat s.cell.pad.mem a 32 v.toNat) ∧
    (∀ (p : Pkt) (r : List Pkt) (u : TIdx), s.cell.inbox.dep = [] → s.cell.inbox.rbuf = [] → s.cell.inbox.ibuf = p :: r → s.cell.disposal p = .bind u →
      exec (.ingressToSpill c) s = .next (modFocus s fun c =>
        (({ c with inbox := { c.inbox with ibuf := r } } : Cell).received p).bind u p)) ∧
    (∀ (p : Pkt) (r : List Pkt), s.cell.inbox.dep = [] → s.cell.inbox.rbuf = [] → s.cell.inbox.ibuf = p :: r → s.cell.disposal p = .spill →
      ∃ t, exec (.ingressToSpill c) s = .next t ∧ t.cell.inbox.occ = s.cell.inbox.occ + 1 ∧ t.cell.inbox.ibuf = r ∧
        t.cell.pad.mem = s.cell.pad.mem ∧ t.cell.inbox.dep = (List.range 5).map fun i =>
          (s.cell.sqAt (s.cell.inbox.head.toNat + s.cell.inbox.occ.toNat) + 32 * i, BitVec.ofNat 256 (p.entryBytes 0 / 2 ^ (256 * i)))) ∧
    (∀ (p : Pkt) (r : List Pkt), s.cell.inbox.latches = p :: r → s.cell.inbox.ibuf.length < 4 → s.cell.pausing = false →
      exec (.latchedEventEntry c) s = .next (modFocus s fun c =>
        { c with inbox := { c.inbox with latches := r, ibuf := c.inbox.ibuf ++ [p] } })) ∧
    (∀ u : TIdx, s.cell.inbox.occ ≠ 0 → s.cell.arrivalBinds = false → s.cell.depositing s.cell.sqHead = false → s.cell.masked (s.cell.entryPkt s.cell.sqHead) = false →
      s.cell.bindable (s.cell.entryPkt s.cell.sqHead).chan.toNat = some u → s.cell.badRead s.cell.sqHead 160 = none →
      ∃ t, exec (.spillQueueBind c) s = .next t ∧ (t.cell.th u).st = .bound ∧
        t.cell.inbox.occ = s.cell.inbox.occ - 1 ∧
        t.cell.inbox.head = BitVec.ofNat 8 ((s.cell.inbox.head.toNat + 1) % Nat.max 1 s.cell.sqEnt) ∧
        ∀ v : TIdx, v ≠ u → t.cell.th v = s.cell.th v) ∧
    (∀ (u : TIdx) (p : Pkt) (pc : BitVec 10) (prio : BitVec 2) (timed : Bool) (len : BitVec 2), (s.cell.th u).wait = .deposit p pc prio timed len →
      ∃ x : Thread, exec (.depositComplete c u) s = .next (s.modTh u fun _ => x) ∧ x.st = .running ∧ x.wait = .none ∧ x.pc = pc ∧
        x.lvl = prio ∧ x.tmd = timed ∧ x.inh = true ∧ x.p = 0 ∧ x.y0 = 0 ∧ x.y1 = 0 ∧ x.lp0.active = false ∧ x.lp1.active = false ∧
        x.hsrc = BitVec.ofNat 64 (p.src.toNat + 2 ^ 20 * bit p.loc) ∧ x.hvrt = BitVec.ofNat 64 p.vrt.toNat ∧
        x.hreply = BitVec.ofNat 64 p.rch.toNat ∧ x.q = (s.cell.th u).q ∧
        ∀ i : Fin 32, x.g[i] = if i.val ≤ len.toNat then (p.pay[i.val]?).getD 0 else (s.cell.th u).g[i])

/-- R72, R179, R182, R203: the matrix unit executes its oldest instruction, here a release, a clearing or a lease request; a lease is
granted when every tile is free and no older request wants one of them; an exchange enters an empty input buffer of a cell that is awake. A
tile given back is
free once no queued instruction names it (R181). -/
def Sys2Proof.Stated.MatrixUnitWorks : Prop :=
  ∀ (c : Name) (s : State), s.cur = c.toNat →
    (∀ (e : MEntry) (r : List MEntry) (m : BitVec 4), s.cell.mx.queue = e :: r → e.op = .rel m →
      (s.cell.th e.t).wait = .none → (s.cell.th 0).wait = .none →
      ∃ t, exec (.matrixExecute c) s = .next t ∧ t.cell.mx.queue = r ∧
        (∀ i : Fin 4,
          let given := s.cell.mx.leaving[i] = true ∨ m.getLsbD i.val = true ∧ s.cell.mx.owner[i] = some e.t
          let named := ∃ x ∈ r, x.op.names i = true
          (given → ¬named → t.cell.mx.owner[i] = none) ∧ (¬(given ∧ ¬named) → t.cell.mx.owner[i] = s.cell.mx.owner[i]) ∧
          (t.cell.mx.leaving[i] = true ↔ given ∧ named)) ∧
        (t.cell.th e.t).outs = (s.cell.th e.t).outs.filter (fun o => o.kind != .matrix e.id) ∧ t.cell.pad = s.cell.pad) ∧
    (∀ (e : MEntry) (r : List MEntry) (m : BitVec 4), s.cell.mx.queue = e :: r → e.op = .zero m →
      (s.cell.th e.t).wait = .none → (s.cell.th 0).wait = .none →
      ∃ t, exec (.matrixExecute c) s = .next t ∧ t.cell.mx.queue = r ∧
        ∀ i : Fin 4, t.cell.tile i = if m.getLsbD i.val then [] else s.cell.tile i) ∧
    (∀ (e : MEntry) (r : List MEntry) (m : BitVec 4) (d : Spec), s.cell.mx.queue = e :: r → e.op = .lease m d →
      exec (.matrixExecute c) s = .next (modFocus s fun c =>
        { c with mx := { ({ c.mx with queue := r } : Matrix).freeLeft with leaseQ := c.mx.leaseQ ++ [⟨e.id, e.t, m, d⟩] } })) ∧
    (∀ (r : LeaseReq) (pc : BitVec 10) (l0 l1 : Loop), s.cell.mx.leaseQ = [r] → s.cell.leaseDead = false →
      (∀ i : Fin 4, r.mask.getLsbD i.val = true → s.cell.mx.owner[i] = none) → s.cell.bound r.t r.d = none →
      (s.cell.th r.t).next (s.cell.th r.t).pc.toNat = .at_ pc l0 l1 →
      ∃ t, exec (.leaseGrant c) s = .next t ∧ t.cell.mx.leaseQ = [] ∧
        (∀ i : Fin 4, t.cell.mx.owner[i] = if r.mask.getLsbD i.val then some r.t else s.cell.mx.owner[i]) ∧
        t.cell.reg r.t r.d = (if r.d.toNat < 42 then setLane0 (s.cell.reg r.t r.d) (BitVec.ofNat 64 r.mask.toNat) else t.cell.reg r.t r.d) ∧
        (t.cell.th r.t).pc = pc) ∧
    (∀ (k : Nat) (src : Name) (dir : BitVec 2) (gs : List V256), s.cnet[k]? = some (.torus src c dir gs) →
      s.cell.mx.torIn[dir.toNat]'dir.isLt = none → s.cell.drowsy = false → s.crosses src.toNat c.toNat = true →
      ∃ t, exec (.torusExchangeArrival k) s = .next t ∧ t.cnet = dropAt s.cnet k ∧
        (getCell t c.toNat).mx.torIn[dir.toNat]'dir.isLt = some gs ∧
        (getCell t src.toNat).mx.torOut[dir.toNat]'dir.isLt = false)

namespace Sys2Proof.Stated

/-- Element `i` of `w` bits of a granule as an integer: UI8 without a sign, I8 and I4 with one (Table 05.1). -/
def integerAt (f : BitVec 4) (w : Nat) (v : V256) (i : Nat) : Int :=
  let n : Nat := v.toNat / 2 ^ (w * i) % 2 ^ w
  if f = 9 then n else Int.bmod n (2 ^ w)
/-- Row `i` of a tile: eight words, the first lowest. -/
def tileRow (c : Cell) (t : Fin 4) (i : Nat) : V256 := pack 32 ((List.range 8).map fun j => (Sp.get (c.tile t) (8 * i + j)).toNat)
/-- What an MST of 32-bit words has still to write: every row of its tile at its first step, and from then on what it keeps. -/
def tileLeft (c : Cell) (e : MEntry) (t : Fin 4) : List (Nat × V256) :=
  if e.step = 0 then (List.range 8).map fun i => (i, tileRow c t i) else e.img
/-- The queue once an MST has written row `i` of what it had left; the eighth row is its last. -/
def afterMove (c : Cell) (e : MEntry) (t : Fin 4) (i : Nat) (r : List MEntry) : List MEntry :=
  if e.step < 7 then { e with step := e.step + 1, img := (tileLeft c e t).filter (·.1 != i), popped := [] } :: r else r

end Sys2Proof.Stated

/-- R187 to R190, R194, R196, R198 to R200, R202, R203: the head of the queue first reads, granule by granule, what its step reads, each once;
then a multiply-accumulate step adds to every word of its tile, integers modulo 2^32; MMR sends its B run and, when the neighbour's exchange
is in, takes that; MST.S writes one of the granules left a step, MST.R a register, MST.L a tile; CBLOAD writes the next codebook entry and its parity
bit; MRED
makes a tile a contribution. -/
def Sys2Proof.Stated.MatrixUnitExecutes : Prop :=
  (∀ (c : Cell) (p : StepArgs) (k : MMode) (u v : V256) (i j acc : Nat), p.x = 0 → matrixMode 0 p.af p.bf = some k → i < 8 → j < 8 →
    (8 ≤ p.af.toNat ∧ p.af.toNat ≤ 10) →
    BitVec.ofNat 32 (c.stepWord p k.k [u] [v] i j acc) = BitVec.ofInt 32 (acc + ((List.range k.k).map fun x =>
      let w := if p.af = 10 then 4 else 8
      integerAt p.af w u (k.k * i + x) * integerAt p.bf w v (k.k * j + x)).sum)) ∧
  ∀ (c : Name) (s : State) (e : MEntry) (r : List MEntry), s.cur = c.toNat → s.cell.mx.queue = e :: r → (s.cell.th e.t).wait = .none →
    (s.cell.th 0).wait = .none →
    (e.lacks ≠ [] → (∀ x ∈ e.lacks, s.cell.unmarkedBut e.exempt x.1 x.2 = false ∧ s.cell.badRead (x.1 / 32 * 32) 32 = none) →
      ∃ x ∈ e.lacks, ∃ t, exec (.matrixExecute c) s = .next t ∧ t.cell.pad.mem = s.cell.pad.mem ∧ t.cell.mx.tiles = s.cell.mx.tiles ∧
        t.cell.mx.queue = { e with got := KM.put e.got (x.1 / 32 * 32) (BitVec.ofNat 256 (s.cell.bytes (x.1 / 32 * 32) 32)) } :: r) ∧
    (e.lacks = [] → ∃ t, exec (.matrixExecute c) s = .next t ∧
      (∀ ti x af bf a b sa sb n2 md n mb k, e.op = .mma ti x af bf a b sa sb n2 md n false mb → matrixMode x af bf = some k →
        (∀ q, a ≠ .stream q) → (∀ q, b ≠ .stream q) →
        t.cell.mx.queue = (if e.step + 1 < n then { e with step := e.step + 1, bix := e.bix + 1, popped := [] } :: r else r) ∧ t.cell.pad = s.cell.pad ∧
        ∀ (w : Fin 4) (i : Nat), i < 64 → Sp.get (t.cell.tile w) i =
          if w = ti then BitVec.ofNat 32 (s.cell.stepWord ⟨x, af, bf, a.scales e af sa e.step, b.scales e bf sb e.bix,
              (match mb with | some o => e.bytes (o + 8 * e.step) 8 | none => md.toNat), if n2 then 2 else 4⟩ k.k
            (a.take e 0 e.step k.ga) (b.take e 0 e.bix k.gb) (i / 8) (i % 8) (Sp.get (s.cell.tile w) i).toNat)
          else Sp.get (s.cell.tile w) i) ∧
      (∀ ti af bf a breg bval sa sb dir n k, e.op = .mmr ti af bf a breg bval sa sb dir n → matrixMode 0 af bf = some k →
        (e.sent = false → (∀ q, a ≠ .stream q) → s.cell.mx.torOut[dir.toNat]'dir.isLt = false →
          t.cell.mx.queue = { e with sent := true } :: r ∧ t.cell.mx.torOut[dir.toNat]'dir.isLt = true ∧
          t.cnet = s.cnet ++ [.torus s.cell.name (s.downstream dir) dir bval] ∧
          ∀ i, i < 64 → Sp.get (t.cell.tile ti) i = BitVec.ofNat 32 (s.cell.stepWord ⟨0, af, bf, a.scales e af sa e.step, sb, 0, 4⟩ k.k
            (a.take e 0 e.step k.ga) bval (i / 8) (i % 8) (Sp.get (s.cell.tile ti) i).toNat)) ∧
        (∀ gs, e.sent = true → s.cell.mx.torIn[dir.toNat]'dir.isLt = some gs → isG breg = true → breg.toNat + k.gb ≤ 32 →
          t.cell.mx.torIn[dir.toNat]'dir.isLt = none ∧ t.cell.mx.tiles = s.cell.mx.tiles ∧ (dir = 0 → t.cell.mx.hstep = BitVec.ofNat 8 ((s.cell.mx.hstep.toNat + 1) % s.hlen)) ∧
          (e.step + 1 < n → t.cell.mx.queue =
            { e with step := e.step + 1, sent := false, popped := [], op := .mmr ti af bf a breg ((List.range k.gb).map fun i => gs.getD i 0) sa sb dir n } :: r) ∧
          (n ≤ e.step + 1 → t.cell.mx.queue = r ∧ ∀ j : Fin 32, (t.cell.th e.t).g[j] =
            if breg.toNat ≤ j.val ∧ j.val < breg.toNat + k.gb then gs.getD (j.val - breg.toNat) 0 else (s.cell.th e.t).g[j]))) ∧
      (∀ ti o f rs, e.op = .store ti o f rs → f = 0 ∨ f = 6 → s.cell.sleepers = [] →
        (e.step ≠ 0 → e.img ≠ []) → ∃ g ∈ tileLeft s.cell e ti, t.cell.mx.queue = afterMove s.cell e ti g.1 r ∧
          t.cell.pad.mem = Memory.writeNat s.cell.pad.mem (o + 32 * g.1) 32 g.2.toNat) ∧
      (∀ ti d f rs, e.op = .toRegs ti d f rs → f = 0 ∨ f = 6 → d.toNat + 8 ≤ 32 →
        (e.step ≠ 0 → e.img ≠ [] ∧ ∀ g ∈ e.img, g.1 < 8) → ∃ g ∈ tileLeft s.cell e ti, t.cell.mx.queue = afterMove s.cell e ti g.1 r ∧
          ∀ j : Fin 32, (t.cell.th e.t).g[j] = if j.val = d.toNat + g.1 then g.2 else (s.cell.th e.t).g[j]) ∧
      (∀ ti o f, e.op = .load ti o f → o % 32 = 0 → mstOk f = true →
        t.cell.mx.queue = r ∧ ∀ (w : Fin 4) (i : Nat), i < 64 → Sp.get (t.cell.tile w) i =
          if w = ti then
            let v := e.bytes (o + fmtBits f / 8 * i) (fmtBits f / 8)
            BitVec.ofNat 32 (if f = 0 ∨ f = 6 then v else roundF 0 .rne (valueOf f v))
          else Sp.get (s.cell.tile w) i) ∧
      (∀ o first n, e.op = .cbload o first n → o % 4 = 0 → 0 < n → Sp.wf s.cell.pad.cb = true → Sp.wf s.cell.pad.fp = true →
        t.cell.mx.queue = (if e.step + 1 < n then { e with step := e.step + 1, popped := [] } :: r else r) ∧ t.cell.pad.mem = s.cell.pad.mem ∧
        ∀ k, Sp.get t.cell.pad.cb k = (if k = first + e.step then BitVec.ofNat 32 (e.bytes (o + 4 * e.step) 4) else Sp.get s.cell.pad.cb k) ∧
          Sp.get t.cell.pad.fp k = (if k = first + e.step
            then BitVec.ofNat 1 (e.bytes (o + 4 * n + e.step / 8) 1 / 2 ^ (e.step % 8)) else Sp.get s.cell.pad.fp k)) ∧
      (∀ ti tag empty z, e.op = .mred ti tag empty z → s.cell.red.buf = none →
        t.cell.mx.queue = r ∧ Sp.get t.cell.red.epochs tag.toNat = Sp.get s.cell.red.epochs tag.toNat + 1 ∧
        t.cell.red.buf = some ⟨tag.toNat, Sp.get s.cell.red.epochs tag.toNat,
          { empty := empty, data := if empty then [] else (List.range 8).map (tileRow s.cell ti) }⟩ ∧
        ∀ w : Fin 4, t.cell.tile w = if z = true ∧ w = ti then [] else s.cell.tile w))

/-- R209, R216, R225 to R232: a copy's piece is read from scratchpad; one that a CGET has read is written there, byte by byte, which may fill no channel here; one that a CPUT
has read is written to a cell of its die, or leaves for another die; a copy whose pieces are all done writes its completion word, status zero, and
frees its entry; one that failed writes its cause there and is counted; a record with no copies left arrives at its barrier. -/
def Obligations.EnginesComplete : Prop :=
  ∀ (c : Name) (s : State), s.cur = c.toNat →
    (∀ (e : Fin 16) (x : CopyEnt) (p : Piece), s.cell.eng.ents[e] = some x → x.put = true → x.err = none → x.todo = [p] → p.buf = none →
      p.out = false → s.asksOf (.copy c e.val) = [] → s.stopping = false → s.cell.unmarkedBut x.exempt p.loc p.len = false → s.cell.badRead p.loc p.len = none →
      ∃ t, exec (.copyTransfer c e.val) s = .next t ∧ t.cell.pad.mem = s.cell.pad.mem ∧
        t.cell.eng.ents[e] = some { x with todo := [{ p with buf := some (s.cell.bytes p.loc p.len) }], begun := true }) ∧
    (∀ (e : Fin 16) (x : CopyEnt) (p : Piece) (v : Nat), s.cell.eng.ents[e] = some x → x.put = false → x.err = none → x.todo = [p] →
      p.buf = some v → p.out = false → s.asksOf (.copy c e.val) = [] → s.stopping = false → s.cell.landBlocked p.loc p.len = false →
      Memory.wf s.cell.pad.mem = true → s.cell.sleepers = [] →
      (∀ k : Fin 8, (s.cell.eng.wm[k].landed p.loc p.len).done = s.cell.eng.wm[k].done) →
      ∃ t, exec (.copyTransfer c e.val) s = .next t ∧
        t.cell.eng.ents[e] = (if x.woff = 0xFFFF then none else some { x with todo := [], begun := true }) ∧
        ∀ a, Sp.get t.cell.pad.mem a = if p.loc ≤ a ∧ a < p.loc + p.len then BitVec.ofNat 8 (v / 2 ^ (8 * (a - p.loc))) else Sp.get s.cell.pad.mem a) ∧
    (∀ (e : Fin 16) (x : CopyEnt) (p : Piece) (v n o : Nat) (q : State), s.cell.eng.ents[e] = some x → x.put = true → x.err = none →
      x.todo = [p] → p.buf = some v → p.out = false → s.asksOf (.copy c e.val) = [] → s.stopping = false →
      (fresh s).translate (.copy s.cell.name e.val) (p.ga % 2 ^ 45) true = (q, .ok (.pad n (p.ga % 32 + o))) → q.windowShut n = false →
      (nameDie n = nameDie s.cell.name.toNat → n ≠ c.toNat → KM.wf s.others = true → Memory.wf (getCell s n).pad.mem = true → (getCell s n).sleepers = [] →
        (getCell s n).drowsy = false → s.crosses s.cell.name.toNat n = true → (getCell s n).partBad (o + p.ga % 32) p.len = false →
        ∃ t, exec (.copyTransfer c e.val) s = .next t ∧
          t.cell.eng.ents[e] = (if x.woff = 0xFFFF then none else some { x with todo := [], begun := true }) ∧
          ∀ a, Sp.get (getCell t n).pad.mem a = if o + p.ga % 32 ≤ a ∧ a < o + p.ga % 32 + p.len
            then BitVec.ofNat 8 (v / 2 ^ (8 * (a - (o + p.ga % 32)))) else Sp.get (getCell s n).pad.mem a) ∧
      (nameDie n ≠ nameDie s.cell.name.toNat →
        ∃ t, exec (.copyTransfer c e.val) s = .next t ∧
          t.cell.eng.ents[e] = some { x with todo := [{ p with out := true }], begun := true } ∧
          t.cnet = s.cnet ++ [.crossing { src := nameDie s.cell.name.toNat, dst := nameDie n }
            (.ask { who := .copy s.cell.name e.val, id := 0, put := true, cell := n, base := o, ps := [p] })])) ∧
    (∀ (e : Fin 16) (x : CopyEnt), s.cell.eng.ents[e] = some x → x.todo = [] → x.err = none → x.woff ≠ 0xFFFF →
      s.cell.eng.sigs.length < 2 →
      exec (.copyCompletionWrite c e.val) s = .next ((s.padStore (8 * x.woff.toNat) 8 x.value.toNat).freeEnt e)) ∧
    (∀ (e : Fin 16) (x : CopyEnt) (k : BitVec 8) (ga : W64), s.cell.eng.ents[e] = some x → x.err = some (k, ga) → x.woff ≠ 0xFFFF →
      (∀ p ∈ x.todo, p.out = false) → s.cell.eng.sigs.length < 2 →
      exec (.copyError c e.val) s = .next (((modFocus s fun c =>
        { c with eng := { c.eng with errs := satInc c.eng.errs } }).padStore (8 * x.woff.toNat) 8 (x.value.toNat + 2 ^ 32 * k.toNat)).freeEnt e)) ∧
    (∀ (r : Fin 4) (a : ARec), s.cell.eng.recs[r] = some a → a.mask = 0 → s.cell.barSleepers = [] → s.cell.eng.sigs.length < 2 →
      exec (.engineArrivalFire c r.val) s = .next (modFocus s fun c => { c with eng := { c.eng with
        recs := c.eng.recs.set r.val none r.isLt,
        bars := c.eng.bars.set a.bar.val (
          let b := c.eng.bars[a.bar]
          if b.arr + 1 = b.target then { b with arr := 0, gen := b.gen + 1 } else { b with arr := b.arr + 1 }) a.bar.isLt } }))

/-- R233, R235: a read stream's engine reads the next element of its packet from scratchpad; a write stream's writes the next element of
its oldest packet there, and a packet whose elements are all written leaves the buffer. -/
def Sys2Proof.Stated.StreamsMove : Prop :=
  ∀ (c : Name) (n : Fin 4) (s : State) (a : Nat), s.cur = c.toNat → s.cell.eng.strm[n].bound = true → s.cell.eng.strm[n].err = false →
    s.cell.eng.strm[n].fail = none → s.cell.eng.strm[n].isGlobal = false → s.cell.eng.strm[n].out = none → s.asksOf (.stream c n) = [] →
    (s.cell.eng.strm[n].kind = 0 → s.cell.eng.strm[n].exh = false → s.cell.eng.strm[n].buf.length < 4 →
      s.cell.eng.strm[n].fetch < s.cell.eng.strm[n].packets → s.cell.eng.strm[n].skip = 0 →
      s.cell.eng.strm[n].at_ (s.cell.eng.strm[n].fetch * s.cell.eng.strm[n].perPacket + s.cell.eng.strm[n].acc.length) = (a : Int) →
      s.cell.unmarked a s.cell.eng.strm[n].esize = false → s.cell.badRead a s.cell.eng.strm[n].esize = none →
      ∃ t, exec (.streamRefill c n) s = .next t ∧ t.cell.pad.mem = s.cell.pad.mem ∧
        t.cell.eng.strm[n] = s.cell.eng.strm[n].gather (s.cell.bytes a s.cell.eng.strm[n].esize)) ∧
    (∀ (v : V256) (r : List V256), s.cell.eng.strm[n].kind = 1 → s.cell.eng.strm[n].buf = v :: r →
      s.cell.eng.strm[n].at_ ((s.cell.eng.strm[n].fetch - s.cell.eng.strm[n].buf.length) * s.cell.eng.strm[n].perPacket +
        s.cell.eng.strm[n].acc.length) = (a : Int) →
      s.cell.partBad a s.cell.eng.strm[n].esize = false → (s.cell.th s.cell.eng.strm[n].own).wait = .none → s.cell.sleepers = [] →
      ∃ t, exec (.streamWriteOut c n) s = .next t ∧
        t.cell.pad.mem = Memory.writeNat s.cell.pad.mem a s.cell.eng.strm[n].esize
          (v.toNat / 2 ^ (8 * s.cell.eng.strm[n].esize * s.cell.eng.strm[n].acc.length) % 2 ^ (8 * s.cell.eng.strm[n].esize)) ∧
        t.cell.eng.strm[n] = s.cell.eng.strm[n].wrote (s.cell.eng.strm[n].fetch - s.cell.eng.strm[n].buf.length))

/-! ### Events of the network -/

/-- R25, R26, R244, R245, R260: a packet goes one hop by the port that its name's entry gives, whose age is then 0, or, where it looks up no name or finds no
entry, X first, then Y, towards its place, unless the tumbler it would enter holds it; at the router of its place it has arrived, unless
packets that its tumbler's boundary held before it are still on their way. -/
def Sys2Proof.Stated.RoutersForward : Prop :=
  ∀ (k : Nat) (f : Flight) (s : State), s.mnet[k]? = some f → f.phase = .moving → f.p.isReply = false → f.p.causal = none →
    (∀ q : Pos, f.p.nolrn = true ∨ tableHit s f.pos f.p.dest = none → physDie s (nameDie f.p.dest.toNat) = some (posOf f.pos).die → curPos s f.p.dest.toNat = some q →
      (routerOf q = f.pos → nameAt s (posOf f.pos) = some f.p.dest.toNat → s.laterIn k f = false →
        exec (.routerForward k) s = .next { s with mnet := setAt s.mnet k { f with phase := .arrived, held := false } }) ∧
      (∀ r : Nat, routerOf q ≠ f.pos →
        hopFrom f.pos (if (posOf f.pos).col < q.col then 2 else if q.col < (posOf f.pos).col then 4
          else if (posOf f.pos).row < q.row then 3 else 1) = some r → r / 16384 = f.pos / 16384 →
        (posOf f.pos).col ≠ q.col ∨ (posOf f.pos).row ≠ q.row → (f.turned = true → (posOf f.pos).col ≤ q.col) →
        s.enters f (posOf r) = false ∨ s.boundaryShut f = false →
        exec (.routerForward k) s = .next { s with
          mnet := setAt s.mnet k { f with pos := r, turned := f.turned || decide ((posOf f.pos).col = q.col), held := false } })) ∧
    (∀ (e : NameEnt) (r : Nat), f.p.nolrn = false → tableHit s f.pos f.p.dest = some e → (f.turned = true → e.port ≠ 4) →
      hopFrom f.pos e.port.toNat = some r → r / 16384 = f.pos / 16384 → s.enters f (posOf r) = false ∨ s.boundaryShut f = false →
      ∃ t, exec (.routerForward k) s = .next t ∧
        t.mnet = setAt s.mnet k { f with pos := r, turned := f.turned || e.port == 1 || e.port == 3, held := false } ∧
        ∀ x ∈ nameTable t f.pos, x.name = f.p.dest → x.age = 0)

/-- R25: ageing adds one to every valid age of a die's tables, 15 staying; a rotation notice makes the entries of the names of its tumbler
invalid. -/
def Sys2Proof.Stated.NameTablesAge : Prop :=
  (∀ (die : DieSite) (s : State), exec (.nameTableAgeing die) s = .next { s with routers := s.routers.map fun r =>
    if r.1 / 16384 = die.toNat then (r.1, r.2.map fun e => { e with age := if e.age = 15 then 15 else e.age + 1 }) else r }) ∧
  (∀ (die : DieSite) (u : TumIdx) (s : State), exec (.rotationNotice die u) s = .next { s with routers := s.routers.map fun r =>
    if r.1 / 16384 = die.toNat then
      (r.1, r.2.map fun e => if nominalIn s die.toNat u.toNat e.name.toNat then { e with age := 15 } else e) else r })

/-- R249, R251, R252: the oldest packet of a cell that is not about to move leaves the egress queue when its path is free, and its path is
busy; an acknowledgement frees
the path. -/
def Sys2Proof.Stated.PathsAreTaken : Prop :=
  ∀ (c : Name) (s : State), s.cur = c.toNat → s.heldAt c.toNat = false →
    (∀ (p : Pkt) (r : List EgItem) (q : Pos), s.cell.msg.egress = .msg p :: r → p.src = c → p.kind = 0 → curPos s c.toNat = some q →
      s.cell.msg.busy.contains ⟨p.stid, p.dest, p.cls⟩ = false → s.cell.msg.busy.length < 32 → s.windowShut p.dest.toNat = false →
      exec (.egressInject c) s = .next
        { modFocus s (fun x => { x with msg := { x.msg with egress := r, busy := x.msg.busy ++ [⟨p.stid, p.dest, p.cls⟩] } }) with
          mnet := s.mnet ++ [{ p := s.cell.stampClass p, pos := routerOf q, vc := 0 }] }) ∧
    (∀ (k : Nat) (f : Flight), s.ready k [4] = some f → f.p.dest = c →
      exec (.acknowledgement k) s = .next
        { modFocus s (fun x => { x with msg := { x.msg with
            busy := dropFirst (· == ⟨f.p.stid, f.p.src, f.p.cls⟩) x.msg.busy
            atoms := dropFirst (· == ⟨f.p.stid, f.p.src, f.p.cls⟩) x.msg.atoms } }) with
          mnet := dropAt s.mnet k })

/-- R259, R264: a remote atomic is performed on the owner's scratchpad and answered with the old value and status zero; the answer is
the result of the instruction that asked. -/
def Sys2Proof.Stated.RemoteAtomicsAnswered : Prop :=
  ∀ (c : Name) (s : State), s.cur = c.toNat →
    (∀ (k : Nat) (f : Flight) (off v : Nat) (q : Pos), s.ready k [1] = some f → f.p.dest = c → f.p.causal = none → off % 8 = 0 →
      off < 0x8000 → curPos s c.toNat = some q → f.p.pay.headD 0 = BitVec.ofNat 256 (off + 2 ^ 64 * v) → v < 2 ^ 64 →
      s.cell.unmarked off 8 = false → s.cell.badRead off 8 = none → s.cell.sleepers = [] →
      s.windowFull f.p.dest.toNat f.p.src.toNat = false →
      ∃ t, exec (.remoteAtomicPerform k) s = .next t ∧
        t.cell.pad.mem = Memory.writeNat s.cell.pad.mem off 8 ((s.cell.bytes off 8 + v) % 2 ^ 64) ∧
        t.mnet = dropAt s.mnet k ++
          [{ p := s.cell.stampClass
              { ackOf f.p with kind := 3, post := f.p.post, pay := [ofLanes (BitVec.ofNat 64 (s.cell.bytes off 8)) 0] }
             pos := routerOf q
             vc := 2 }]) ∧
    (∀ (k : Nat) (f : Flight), s.ready k [3] = some f → f.p.dest = c → f.p.causal = none → f.p.post = false →
      ∃ t, exec (.atomicResponse k) s = .next t ∧ t.mnet = dropAt s.mnet k ∧
        (t.cell.th f.p.stid).outs = (s.cell.th f.p.stid).outs.map fun o =>
          if o.kind = .remote f.p.seq then
            { o with
              ready := true
              val := ofLanes (if (lane1 (f.p.pay.headD 0)).extractLsb' 0 8 = 0 then lane0 (f.p.pay.headD 0) else 0)
                (zx64 ((lane1 (f.p.pay.headD 0)).extractLsb' 0 8)) }
          else o)

/-- R289, R291, R294, R296, R297, R316: a cell's contribution goes to its parent, as a causal packet to another die; one that arrives opens
a slot; a slot whose time has passed closes, which is counted; a credit lets the next contribution of its tag go up; a result that
reaches the root's cell, where only that receives it, is written to the bucket's granules, one at a time, and then raises channel 56. -/
def Sys2Proof.Stated.ReductionsProgress : Prop :=
  ∀ (c : Name) (s : State), s.cur = c.toNat →
    (∀ (k : Contribution) (b : Bucket) (n : TreeNode), s.cell.red.upq = [] → s.cell.red.buf = some k → s.bucketNode k.tag = some (b, n) →
      s.globals.hosts b.tree n = false → s.cell.red.upOut.contains k.tag = false → n.xp = false → s.windowShut n.pname.toNat = false →
      exec (.reductionOutputDrain c) s = .next
        { modFocus s (fun c => { c with red := { c.red with buf := none, upOut := c.red.upOut ++ [k.tag] } }) with
          snet := s.snet ++ [
            let m : SMsg := .contrib s.cell.part n.pname n.lbl k
            if nameDie s.cell.name.toNat = nameDie n.pname.toNat then m
            else .crossing { src := nameDie s.cell.name.toNat, dst := nameDie n.pname.toNat } m] }) ∧
    (∀ (k : Nat) (p : PartIdx) (lbl : Nat) (x : Contribution) (b : Bucket) (n : TreeNode), s.snet[k]? = some (.contrib p c lbl x) →
      s.sReady c = true → Machine.awaits s c.toNat = false → s.bucketNode x.tag = some (b, n) → s.cell.red.late x.tag x.epoch = false → s.cell.red.slots = [] →
      (∃ l ∈ s.globals.children b.tree n, l ≠ lbl) →
      exec (.contributionArrival k) s = .next
        { modFocus s (fun y => { y with red := { y.red with slots :=
            [⟨x.tag, x.epoch, cycleOf s s.cell.name.toNat, [(lbl, x.part)]⟩] } }) with
          snet := dropAt s.snet k }) ∧
    (∀ (tag : BitVec 12) (b : Bucket) (n : TreeNode) (x : RSlot), s.bucketNode tag.toNat = some (b, n) → s.cell.red.slots = [x] →
      x.tag = tag.toNat → s.frozen = false → b.tok ≠ 0 → 2 ^ b.tok ≤ (cycleOf s s.cell.name.toNat - x.t0).toNat →
      ∃ t, exec (.slotTimeout c tag) s = .next t ∧ t.cell.red.slots = [] ∧ t.cell.red.tout = satInc s.cell.red.tout ∧
        KM.get t.cell.red.closed x.tag = some x.epoch) ∧
    (∀ (k : Nat) (p : PartIdx) (tag : Nat), s.snet[k]? = some (.credit p c tag) → s.sReady c = true →
      exec (.creditReturn k) s = .next
        { modFocus s (fun c => { c with red := { c.red with upOut := c.red.upOut.filter (· != tag) } }) with
          snet := dropAt s.snet k }) ∧
    (∀ (k : Nat) (p : PartIdx) (x : Contribution) (b : Bucket) (n : TreeNode), s.snet[k]? = some (.result p c x) → s.sReady c = true →
      Machine.awaits s c.toNat = false → s.bucketNode x.tag = some (b, n) → n.isRoot = true → b.all = false → s.cell.latched 56 = false →
      (∀ m ∈ s.snet, m.writer ≠ some (c, x.tag)) → (∀ m ∈ s.snet.take k, m.atDie ≠ some (p, c, x.tag)) →
      exec (.resultDelivery k) s = .next { s with
        snet := dropAt s.snet k ++ [.writing p c x (if x.part.empty then [] else List.range x.part.data.length)] }) ∧
    (∀ (k : Nat) (p : PartIdx) (x : Contribution) (b : Bucket) (left : List Nat), s.snet[k]? = some (.writing p c x left) → left ≠ [] →
      s.globals.bucket x.tag = some b → ∃ i ∈ left, exec (.resultDelivery k) s = .next
        (({ s with
            snet := setAt s.snet k (.writing p c x (left.filter (· != i)))
            freeIx := s.freeIx + 1 } : State).padStore (32 * b.rbase + 32 * i) 32 ((x.part.data.getD i 0).toNat))) ∧
    (∀ (k : Nat) (p : PartIdx) (x : Contribution), s.snet[k]? = some (.writing p c x []) → s.cell.latched 56 = false →
      (∀ b n, s.bucketNode x.tag = some (b, n) → b.all = false) →
      exec (.resultDelivery k) s = .next (({ s with snet := dropAt s.snet k } : State).raise 56
        (ofLane0 (BitVec.ofNat 64 (x.tag + 2 ^ 16 * x.epoch.toNat + 2 ^ 32 * bit x.part.partial_ + 2 ^ 33 * bit x.part.nan +
          2 ^ 34 * bit x.part.empty + 2 ^ 48 * x.part.missing.toNat)))))

/-- R257, R312, R316: a circuit's engine sends the next granule of its ring once PCNT covers it and the destination's ring has room, as a causal
packet to another die, and counts it in SENT; a granule is written into its slot of the destination's ring, and at a later point counted in LCNT; a credit brings
CCNT to the source; each where the round's token has passed. -/
def Sys2Proof.Stated.CircuitsCarry : Prop :=
  ∀ (s : State),
    (∀ (c : Name) (id : BitVec 8) (k : Circuit), s.cur = c.toNat → KM.get s.globals.circs id.toNat = some k → k.sname = c →
      Machine.awaits s c.toNat = false → s.windowShut k.dname.toNat = false → s.cell.badRead (8 * k.pidx) 8 = none →
      (s.cell.circEnd id.toNat).sent < s.cell.bytes (8 * k.pidx) 8 →
      (s.cell.circEnd id.toNat).sent - (s.cell.circEnd id.toNat).credit < k.size →
      s.cell.badRead (k.sbase + 32 * ((s.cell.circEnd id.toNat).sent % k.size)) 32 = none → s.cell.sleepers = [] →
      ∃ t, exec (.circuitSourceRead c id) s = .next t ∧
        t.cnet = s.cnet ++ [
          let m : CMsg := .granule s.cell.part id.toNat (s.cell.circEnd id.toNat).sent
            (s.cell.gran (k.sbase + 32 * ((s.cell.circEnd id.toNat).sent % k.size)))
          if nameDie c.toNat = nameDie k.dname.toNat then m
          else .crossing { src := nameDie c.toNat, dst := nameDie k.dname.toNat } m] ∧
        t.cell.pad.mem = Memory.writeNat s.cell.pad.mem (8 * k.pidx + 8) 8 ((s.cell.circEnd id.toNat).sent + 1) ∧
        (t.cell.circEnd id.toNat).sent = (s.cell.circEnd id.toNat).sent + 1) ∧
    (∀ (k : Nat) (p : PartIdx) (id i : Nat) (v : V256) (q : Part) (x : Circuit), s.cnet[k]? = some (.granule p id i v) →
      part s p.toNat = some q → KM.get q.globals.circs id = some x → s.cur = x.dname.toNat → (s.cell.circEnd id).landed = i →
      s.sReady x.dname = true → Machine.awaits s x.dname.toNat = false → s.cell.sleepers = [] →
      ((s.cell.circEnd id).wrote = false → s.cell.landBlocked (x.dbase + 32 * (i % x.size)) 32 = false →
        (∀ n : Fin 8, s.cell.eng.wm[n].open_ = false) →
        ∃ t, exec (.circuitLand k) s = .next t ∧ t.cnet = setAt s.cnet k (.granule p id i v) ∧
          t.cell.pad.mem = Memory.writeNat s.cell.pad.mem (x.dbase + 32 * (i % x.size)) 32 v.toNat ∧
          (t.cell.circEnd id).landed = i ∧ (t.cell.circEnd id).wrote = true) ∧
      ((s.cell.circEnd id).wrote = true →
        ∃ t, exec (.circuitLand k) s = .next t ∧ t.cnet = dropAt s.cnet k ∧
          t.cell.pad.mem = Memory.writeNat s.cell.pad.mem (8 * x.lidx) 8 (i + 1) ∧
          (t.cell.circEnd id).landed = i + 1 ∧ (t.cell.circEnd id).wrote = false)) ∧
    (∀ (k : Nat) (q : Part) (x : Circuit), part s (k / 256) = some q → KM.get q.globals.circs (k % 256) = some x → s.cur = x.sname.toNat →
      s.crosses x.dname.toNat x.sname.toNat = true → Machine.awaits s x.dname.toNat = false → Machine.awaits s x.sname.toNat = false → (getCell s x.dname.toNat).badRead (8 * x.lidx + 8) 8 = none →
      ∃ t, exec (.circuitCredit k) s = .next t ∧
        (t.cell.circEnd (k % 256)).credit = (getCell s x.dname.toNat).bytes (8 * x.lidx + 8) 8 ∧ t.cell.pad.mem = s.cell.pad.mem)

namespace Sys2Proof.Stated

/-- K with the number of the next packet (R318). -/
def nextK (s : State) (d : Nat) : Sparse 16 := Sp.set (unitOf s d).k d (Sp.get (unitOf s d).k d + 1)
/-- The dies whose entries of K differ from the vector last sent to a die. -/
def changed (s : State) (d t : Nat) : List Nat :=
  (List.range 64).filter fun e => Sp.get (nextK s d) e != Sp.get ((KM.get (unitOf s d).lastVec t).getD []) e
/-- The CAUSAL field of the next packet from a die to another (R318, Table 13.3). -/
def stampOf (s : State) (d t : Nat) : Causal :=
  { odie := BitVec.ofNat 6 d
    oseq := Sp.get (unitOf s d).k d + 1
    prev := Sp.get (unitOf s d).lastSeq t
    deltas := if 7 < (changed s d t).length then [] else (changed s d t).map fun e => (e, Sp.get (nextK s d) e)
    fv := decide (7 < (changed s d t).length) }
/-- The KIND 5 packet that goes before it where its entries are more than seven (R318). -/
def vectorFirst (s : State) (d t pos : Nat) : List Flight :=
  if 7 < (changed s d t).length then
    [{ p := { dest := BitVec.ofNat 20 (t * 2 ^ 14), kind := 5, rset := true, pay := vecFlits (nextK s d), causal := some (stampOf s d t) }
       pos := pos
       vc := 2 }]
  else []
/-- The unit of the origin has numbered it (R318). -/
def numbered (s : State) (d t : Nat) (t' : State) : Prop :=
  (unitOf t' d).k = nextK s d ∧ Sp.get (unitOf t' d).lastSeq t = Sp.get (unitOf s d).k d + 1 ∧
  KM.get (unitOf t' d).lastVec t = some (nextK s d) ∧ (unitOf t' d).unacked = (unitOf s d).unacked ++ [(t, Sp.get (unitOf s d).k d + 1)]
/-- The later of two values (R316). -/
def later (a b : BitVec 16) : BitVec 16 := if (a - b).toNat < 2 ^ 15 then a else b
/-- What die `t` knows once it has applied packet `o` of die `d` with vector `v` (R309, R319). -/
def knows (s : State) (t d : Nat) (o : BitVec 16) (v : Sparse 16) (t' : State) : Prop :=
  ∀ e, e < 64 → Sp.get (unitOf t' t).k e =
    if e = d then later (later (Sp.get (unitOf s t).k e) (Sp.get v e)) o else later (Sp.get (unitOf s t).k e) (Sp.get v e)

/-- The RTU entry that a walk brings (R33). -/
def walked (w : Walk) (g : Bool) (e : Nat) : RtuEnt :=
  { die := w.die
    rtu := w.rtu
    page := if g then w.va / 2 ^ 16 * 2 ^ 16 else w.va / 2 ^ 12 * 2 ^ 12
    g64 := g
    ent := BitVec.ofNat 64 e }

end Sys2Proof.Stated

/-- R309, R316 to R319: at its first hinge gate a packet of any plane is numbered, with the entries of K that its destination has not been
sent, or after a KIND 5 packet with all of K where they are more than seven; at its destination die it waits in the hold memory, and leaves
once its PREV and every entry of its vector have been reached, the die's own entry apart (the model's reading, assumption 36); K takes its
vector when its cell applies it, A when the report reaches the unit, and the origin is acknowledged; queries are answered with notices, which
move A on as well, and whose OSEQ is from then on the last sent (the model's reading, assumption 113). -/
def Obligations.CausalUnitsOrder : Prop :=
  (∀ (s : State) (d t : Nat), (unitOf s d).inWindow (Sp.get (unitOf s d).k d + 1) = true →
    (∀ (k : Nat) (f : Flight), s.mnet[k]? = some f → s.atGate f = some (d, t) →
      ∃ t', exec (.causalStamp k) s = .next t' ∧
        t'.mnet = setAt s.mnet k { f with stamped := true, p := { f.p with causal := some (stampOf s d t) } } ++ vectorFirst s d t f.pos ∧
        numbered s d t t') ∧
    (∀ (i : Nat) (x : Crossing) (m : CMsg), s.cnet[i]? = some (.crossing x m) → x.causal = none → x.rel = false → x.src = d → x.dst = t →
      ∃ t', exec (.causalStamp (s.mnet.length + i)) s = .next t' ∧
        t'.cnet = setAt s.cnet i (.crossing { x with causal := some (stampOf s d t) } m) ∧
        t'.mnet = s.mnet ++ vectorFirst s d t ((physDie s d).getD 0 * 16384) ∧ numbered s d t t') ∧
    (∀ (j : Nat) (x : Crossing) (m : SMsg), s.snet[j]? = some (.crossing x m) → x.causal = none → x.rel = false → x.src = d → x.dst = t →
      m.resultKey = none ∨ (∀ y ∈ s.snet.take j, y.leaving ≠ m.resultKey) →
      ∃ t', exec (.causalStamp (s.mnet.length + s.cnet.length + j)) s = .next t' ∧
        t'.snet = setAt s.snet j (.crossing { x with causal := some (stampOf s d t) } m) ∧
        t'.mnet = s.mnet ++ vectorFirst s d t ((physDie s d).getD 0 * 16384) ∧ numbered s d t t')) ∧
  (∀ (k : Nat) (f : Flight) (s : State) (t : Nat) (c : Causal), s.mnet[k]? = some f → s.atHome f = some (t, c) → f.p.isControl = false →
    (unitOf s t).hold.length < 2048 →
    ∃ t', exec (.causalArrival k) s = .next t' ∧ t'.mnet = dropAt s.mnet k ∧ (unitOf t' t).hold = (unitOf s t).hold ++ [.m f]) ∧
  (∀ (k : Nat) (f : Flight) (s : State) (t : Nat) (c : Causal), s.mnet[k]? = some f → s.atHome f = some (t, c) → f.p.kind = 5 →
    ∃ t', exec (.causalArrival k) s = .next t' ∧ t'.mnet = dropAt s.mnet k ∧
      (unitOf t' t).vecs = (unitOf s t).vecs ++ [(c.odie.toNat, c.oseq, flitVec f.p.pay)]) ∧
  (∀ (s : State) (x : Crossing) (c : Causal), x.causal = some c → x.rel = false → (unitOf s x.dst).hold.length < 2048 →
    (∀ (i : Nat) (m : CMsg), s.cnet[i]? = some (.crossing x m) → ∃ t', exec (.causalArrival (s.mnet.length + i)) s = .next t' ∧
      t'.cnet = dropAt s.cnet i ∧ (unitOf t' x.dst).hold = (unitOf s x.dst).hold ++ [.c x m]) ∧
    (∀ (j : Nat) (m : SMsg), s.snet[j]? = some (.crossing x m) →
      ∃ t', exec (.causalArrival (s.mnet.length + s.cnet.length + j)) s = .next t' ∧
        t'.snet = dropAt s.snet j ∧ (unitOf t' x.dst).hold = (unitOf s x.dst).hold ++ [.s x m])) ∧
  (∀ (t : BitVec 6) (k : Nat) (s : State) (h : Held) (c : Causal) (v : Sparse 16), (unitOf s t.toNat).hold[k]? = some h →
    h.causal = some c → (unitOf s t.toNat).vector c = some v → c.prev = Sp.get (unitOf s t.toNat).a c.odie.toNat →
    (∀ e, e < 64 → e ≠ c.odie.toNat → e ≠ t.toNat → (Sp.get (unitOf s t.toNat).a e - Sp.get v e).toNat < 2 ^ 15) →
    ∃ t', exec (.causalRelease t k) s = .next t' ∧
      t'.mnet = s.mnet ++ (match h with | .m f => [{ f with rel := true }] | _ => []) ∧
      t'.snet = s.snet ++ (match h with | .s x m => [.crossing { x with rel := true } m] | _ => []) ∧
      t'.cnet = s.cnet ++ (match h with | .c x m => [.crossing { x with rel := true } m] | _ => []) ∧
      (unitOf t' t.toNat).hold = dropAt (unitOf s t.toNat).hold k ∧
      (unitOf t' t.toNat).released = (unitOf s t.toNat).released ++ [(c.odie.toNat, c.oseq, v)]) ∧
  (∀ (t : BitVec 6) (k : Nat) (s : State) (d : Nat) (o : BitVec 16) (v : Sparse 16), (unitOf s t.toNat).released[k]? = some (d, o, v) →
    (unitOf s t.toNat).done.contains (d, o) = true → (unitOf s t.toNat).notices = [] →
    ∃ t', exec (.causalApplied t k) s = .next t' ∧ t'.cacks = s.cacks ++ [(d, t.toNat, o)] ∧
      (unitOf t' t.toNat).a = Sp.set (unitOf s t.toNat).a d o ∧ (unitOf t' t.toNat).released = dropAt (unitOf s t.toNat).released k ∧
      (Sp.wf (unitOf s t.toNat).k = true → knows s t.toNat d o v t')) ∧
  (∀ (s : State) (t : Nat) (c : Causal) (o : BitVec 16) (v : Sparse 16), Sp.wf (unitOf s t).k = true →
    (unitOf s t).released.find? (fun x => x.1 == c.odie.toNat && x.2.1 == c.oseq) = some (c.odie.toNat, o, v) →
    (unitOf (s.reportApplied t c) t).done = (unitOf s t).done ++ [(c.odie.toNat, o)] ∧ knows s t c.odie.toNat o v (s.reportApplied t c)) ∧
  (∀ (k : Nat) (s : State) (d t : Nat) (o : BitVec 16), s.cacks[k]? = some (d, t, o) →
    ∃ t', exec (.causalAcknowledgement k) s = .next t' ∧ t'.cacks = dropAt s.cacks k ∧
      (unitOf t' d).unacked = dropFirst (· == (t, o)) (unitOf s d).unacked) ∧
  (∀ (t e : BitVec 6) (k : Nat) (s : State) (h : Held) (c : Causal) (v : Sparse 16), (unitOf s t.toNat).hold[k]? = some h →
    h.causal = some c → (unitOf s t.toNat).vector c = some v → e.toNat ≠ c.odie.toNat → e ≠ t →
    2 ^ 15 ≤ (Sp.get (unitOf s t.toNat).a e.toNat - Sp.get v e.toNat).toNat →
    ∃ (t' : State) (p : Pkt), exec (.causalQuery t k e) s = .next t' ∧ p.kind = 7 ∧ p.dest = BitVec.ofNat 20 (e.toNat * 2 ^ 14) ∧
      t'.mnet = s.mnet ++ [{ p := p, pos := (physDie s t.toNat).getD 0 * 16384, vc := 2 }] ∧ t'.causal = s.causal) ∧
  (∀ (k : Nat) (s : State) (f : Flight) (e : Nat) (c : Causal), s.mnet[k]? = some f → s.atHome f = some (e, c) → f.p.kind = 7 →
    ∃ (t' : State) (p : Pkt), exec (.causalQueryAnswer k) s = .next t' ∧ p.kind = 6 ∧ p.dest = BitVec.ofNat 20 (c.odie.toNat * 2 ^ 14) ∧
      p.causal = some
        { odie := BitVec.ofNat 6 e, oseq := Sp.get (unitOf s e).k e, prev := Sp.get (unitOf s e).lastSeq c.odie.toNat, deltas := []
          fv := false } ∧
      t'.mnet = dropAt s.mnet k ++ [{ p := p, pos := (physDie s e).getD 0 * 16384, vc := 2 }] ∧
      Sp.get (unitOf t' e).lastSeq c.odie.toNat = Sp.get (unitOf s e).k e) ∧
  (∀ (k : Nat) (s : State) (f : Flight) (t : Nat) (c : Causal), s.mnet[k]? = some f → s.atHome f = some (t, c) → f.p.kind = 6 →
    (unitOf s t).notices = [] → (Sp.get (unitOf s t).a c.odie.toNat - c.prev).toNat < 2 ^ 15 →
    2 ^ 15 ≤ (Sp.get (unitOf s t).a c.odie.toNat - c.oseq).toNat →
    ∃ t', exec (.causalNotice k) s = .next t' ∧ t'.mnet = dropAt s.mnet k ∧
      (unitOf t' t).a = Sp.set (unitOf s t).a c.odie.toNat c.oseq ∧ (unitOf t' t).notices = [])

/-- R30, R31, R33 to R35, R281 to R283: a walk that a page walker serves ends with its entry in the RTU, which translates every request that joined it, or with
the fault at every copy whose request did, and the walker takes a walk that waits; a
shootdown asks every RTU of the partition's dies, and each answer removes the entries in its range; a table update writes the entry in
every die's copy at one point, and in the tables kept with a partition that has been pre-empted (the model's choices, assumption 19); an invalidation removes the lines in its range; a module answers with its bytes. -/
def Obligations.TranslationAndStores : Prop :=
  (∀ (k : Nat) (s : State) (w : Walk) (g : Bool) (e : Nat), s.walks[k]? = some w → w.busy = true → s.missQ = [] →
    (∀ v ∈ dropAt s.walks k, v.die = w.die → v.busy = true) →
    walkEnd s w.die w.va ((partOfDie s w.die).getD 64) = .ok (g, e) → (∀ a ∈ w.who, a.wr = true → bitOf e 1 = true) →
    exec (.pageWalkComplete k) s = .next { s with
      walks := dropAt s.walks k
      rtu := installRtu s.rtu (walked w g e)
      xlated := s.xlated ++ w.who.map fun a => ⟨a.who, walked w g e⟩ }) ∧
  (∀ (k : Nat) (s : State) (w v : Walk), s.walks[k]? = some w → w.busy = true → s.missQ = [] → dropAt s.walks k = [v] →
    v.die = w.die → v.rtu < 16 → v.busy = false →
    ∃ t, exec (.pageWalkComplete k) s = .next t ∧ t.walks = [{ v with busy := true }]) ∧
  (∀ (k : Nat) (s : State) (w : Walk) (cause : BitVec 8) (c : Name) (e : Fin 16) (x : CopyEnt), s.walks[k]? = some w → w.busy = true →
    s.missQ = [] → (∀ v ∈ dropAt s.walks k, v.die = w.die → v.busy = true) →
    walkEnd s w.die w.va ((partOfDie s w.die).getD 64) = .error cause → (∃ a ∈ w.who, a.who = .copy c e.val) → s.cur = c.toNat →
    s.cell.eng.ents[e] = some x → x.err = none →
    ∃ (t : State) (ga : W64), exec (.pageWalkComplete k) s = .next t ∧ t.walks = dropAt s.walks k ∧ t.rtu = s.rtu ∧
      t.cell.eng.ents[e] = some { x with err := some (cause, ga) }) ∧
  (∀ (p : PartIdx) (lo hi : BitVec 45) (s : State) (q : Part), part s p.toNat = some q →
    exec (.shootdown p lo hi) s = .next { s with
      shoot := s.shoot ++ [{ part := p, lo := lo.toNat, hi := hi.toNat, left := (q.dies.filter fun d => (logDie s d).isSome).flatMap fun d => (List.range 16).map fun r => (d, r) }] }) ∧
  (∀ (die : DieSite) (rtu : BitVec 4) (s : State) (x : Shoot), s.shoot = [x] → x.left.contains (die.toNat, rtu.toNat) = true →
    ∃ t, exec (.shootdownAcknowledge die rtu) s = .next t ∧
      (∀ y ∈ t.shoot, (die.toNat, rtu.toNat) ∉ y.left) ∧
      ∀ e : RtuEnt, e ∈ t.rtu ↔ e ∈ s.rtu ∧ ¬((e.die, e.rtu) = (die.toNat, rtu.toNat) ∧ e.page ≤ x.hi ∧
        x.lo < e.page + (if e.g64 then 2 ^ 16 else 2 ^ 12))) ∧
  (∀ (p : PartIdx) (off : BitVec 28) (v : W64) (s : State) (q : Part), part s p.toNat = some q → off.toNat % 8 = 0 →
    ∃ t, exec (.pageTableUpdate p off v) s = .next t ∧
      ∀ d ∈ q.dies, (logDie s d).isSome → off.toNat + 8 ≤ tableUnits d * 2 ^ 22 → tableWord t d off.toNat = v.toNat) ∧
  (∀ (p : PartIdx) (off : BitVec 28) (v : W64) (s : State), part s p.toNat = none → off.toNat % 8 = 0 →
    ∃ t, exec (.pageTableUpdate p off v) s = .next t ∧
      ∀ k ∈ t.savedParts, k.num = p.toNat → off.toNat + 8 ≤ Config.tableBytes → Memory.readNat k.tabs off.toNat 8 = v.toNat) ∧
  (∀ (die : DieSite) (lo hi : BitVec 45) (s : State), ∃ t, exec (.weightCacheInvalidate die lo hi) s = .next t ∧
    ∀ x : CacheLine, x ∈ t.wcache ↔ x ∈ s.wcache ∧ ¬(x.die = die.toNat ∧ x.addr ≤ hi.toNat ∧ lo.toNat < x.addr + 256)) ∧
  (∀ (m : BitVec 4) (a : BitVec 39) (s : State), ∃ t, exec (.dzihamRequest m (.readLine a 0)) s = .next t ∧ t.store = s.store ∧
    KM.get t.dzResp m.toNat = some ⟨0, (List.range 256).map fun i =>
      Sp.get s.store (m.toNat * 2 ^ 39 + (a.toNat / 256 * 256 + i) % 2 ^ 39)⟩)

/-! ### Events of light, rounds and virtual time -/

/-- R267, R273, R274, R276, R310: a source whose rings are tuned reads its next block granule by granule, in no specified order, and with the last
one puts it on the light path behind the blocks still there, every frame to every member, while block k is below the minimum count plus NSLOT; a count, a START or a repair request that reaches it sets the minimum, starts it, or has the
frame sent again; a ring is tuned. -/
def Sys2Proof.Stated.LightSources : Prop :=
  (∀ (p : PartIdx) (key : BitVec 8) (s : State) (q : Part) (k : KeyEnt) (pl : Plan) (x : Source), part s p.toNat = some q →
    KM.get q.srcs key.toNat = some x → KM.get q.globals.keys key.toNat = some k → KM.get q.globals.plans key.toNat = some pl →
    x.started = true → x.k < pl.nblk → x.k < x.m + k.nslot → s.tuned p.toNat = true → s.sourceFree q k = true →
    ∃ (t : State) (r : Part) (y : Source), exec (.blockSend p key) s = .next t ∧ part t p.toNat = some r ∧
      KM.get r.srcs key.toNat = some y ∧
      (1 < (x.unread k.blk).length → ∃ i ∈ x.unread k.blk, ∃ v, y = { x with reads := x.reads ++ [(i, v)] }) ∧
      ((x.unread k.blk).length ≤ 1 → ∃ b : Block, y = { x with reads := [], air := x.air ++ [b], k := x.k + 1 } ∧ b.k = x.k ∧ b.lost = [] ∧
        b.owed = (k.members.flatMap fun m => (List.range ((k.blk + 7) / 8)).map fun i => (m, i)) ∧ b.data.length = k.blk ∧
        ∀ i v, x.reads.find? (·.1 == i) = some (i, some v) → i < k.blk → b.data.getD i 0 = v)) ∧
  (∀ (p : PartIdx) (key : BitVec 8) (s : State) (q : Part) (k : KeyEnt) (pl : Plan) (x : Source), part s p.toNat = some q →
    KM.get q.srcs key.toNat = some x → KM.get q.globals.keys key.toNat = some k → KM.get q.globals.plans key.toNat = some pl →
    x.m + k.nslot ≤ x.k → exec (.blockSend p key) s = .next s) ∧
  (∀ (k : Nat) (p : PartIdx) (key n : Nat) (s : State) (q : Part) (x : Source), s.relAt k = some (.srcCount p key n) →
    part s p.toNat = some q → KM.get q.srcs key = some x →
    exec (.sourceCountReceipt k) s = .next { s with
      snet := dropAt s.snet k
      parts := KM.put s.parts p.toNat { q with srcs := KM.put q.srcs key (if x.started then { x with m := n } else x) } }) ∧
  (∀ (k : Nat) (p : PartIdx) (key : Nat) (s : State) (q : Part) (x : Source), s.relAt k = some (.srcStart p key) →
    part s p.toNat = some q → KM.get q.srcs key = some x →
    exec (.sourceCountReceipt k) s = .next { s with
      snet := dropAt s.snet k
      parts := KM.put s.parts p.toNat { q with srcs := KM.put q.srcs key { x with started := true, m := 0, k := 0, reads := [] } } }) ∧
  (∀ (k : Nat) (p : PartIdx) (key : Nat) (m : Name) (g : Nat) (s : State) (q : Part) (x : Source) (b : Block),
    s.relAt k = some (.srcRepair p key m g) → part s p.toNat = some q → KM.get q.srcs key = some x → x.air = [b] →
    b.lost.contains (m.toNat, g) = true →
    exec (.sourceCountReceipt k) s = .next { s with
      snet := dropAt s.snet k
      parts := KM.put s.parts p.toNat { q with
        srcs := KM.put q.srcs key { x with
          air := [{ b with lost := dropFirst (· == (m.toNat, g)) b.lost, owed := b.owed ++ [(m.toNat, g)] }] } } }) ∧
  (∀ (p : PartIdx) (i r : Nat) (b : Bool) (s : State), s.rings[i]? = some (p.toNat, r, b) →
    exec (.ringRetune p i) s = .next { s with rings := setAt s.rings i (p.toNat, r, true) })

/-- R225, R273, R274, R276, R277, R310: a good frame that reaches its armed slot is written there granule by granule; with its last one it
is counted, and with the block's last frame the slot is held and LANDS goes up; a bad one is asked for again, up the tree; a release
takes a signal entry once its slot is no longer read, and is then reported with the group's count; a combiner at the root passes the
least of its children's counts on to the source when it changes. -/
def Sys2Proof.Stated.LandingSlots : Prop :=
  (∀ (c : Name) (n : Fin 8) (i : Nat) (s : State) (k : KeyEnt) (q : Part) (x : Source) (b : Block), s.cur = c.toNat →
    s.keyEnt (s.cell.slotKey n) = some k → part s s.cell.part.toNat = some q → KM.get q.srcs (s.cell.slotKey n) = some x →
    x.blockFor c.toNat i = some b → s.cell.slotV n = true → s.cell.land[n].armed = true → s.cell.land[n].latch = false →
    s.cell.land[n].blk = b.k → s.cell.wmLatched (s.cell.slotWm n).val = false → b.bad.contains i = false →
    ((s.cell.land[n].fails.filter (· == i)).length < 4 →
      s.cell.land[n].missing i ((b.data.drop (8 * i)).take 8).length ≠ [] →
      ∃ (t : State) (j : Nat), exec (.lightFrameLanding c n i true) s = .next t ∧
        j ∈ s.cell.land[n].missing i ((b.data.drop (8 * i)).take 8).length ∧ t.cell.land[n].blk = s.cell.land[n].blk ∧
        (s.cell.sleepers = [] → (∀ (w : Fin 8) (a : Nat), (s.cell.eng.wm[w].landed a 32).done = s.cell.eng.wm[w].done) →
          t.cell.pad.mem = Memory.writeNat s.cell.pad.mem (s.cell.slotBase n + 256 * i + 32 * j) 32
            ((b.data.drop (8 * i)).take 8 |>.getD j 0).toNat) ∧
        (1 < (s.cell.land[n].missing i ((b.data.drop (8 * i)).take 8).length).length →
          t.cell.land[n] = { s.cell.land[n] with part := (8 * i + j) :: s.cell.land[n].part }) ∧
        ((s.cell.land[n].missing i ((b.data.drop (8 * i)).take 8).length).length = 1 →
          (k.frames ≤ s.cell.land[n].got.length + 1 →
            t.cell.land[n].held = true ∧ t.cell.land[n].armed = false ∧ t.cell.land[n].lands = s.cell.land[n].lands + 1) ∧
          (s.cell.land[n].got.length + 1 < k.frames → t.cell.land[n].got = i :: s.cell.land[n].got ∧
            t.cell.land[n].held = s.cell.land[n].held ∧ t.cell.land[n].armed = true ∧ t.cell.land[n].lands = s.cell.land[n].lands))) ∧
    (∀ (node : Name) (l : Nat), (s.cell.land[n].fails.filter (· == i)).length < 3 →
      (∀ g ∈ s.cell.land[n].part, g / 8 ≠ i) → s.reportTo (s.cell.slotKey n) = some (node, l) →
      ∃ t, exec (.lightFrameLanding c n i false) s = .next t ∧ t.cell.land[n].fails = i :: s.cell.land[n].fails ∧
        t.cell.land[n].got = s.cell.land[n].got ∧ t.cell.pad = s.cell.pad ∧
        t.snet = s.snet ++ [.relRepair s.cell.part (s.cell.slotKey n) node l c i])) ∧
  (∀ (c : Name) (n : Fin 8) (s : State), s.cur = c.toNat → s.cell.land[n].latch = true → s.cell.eng.sigs.contains n = false →
    s.cell.eng.sigs.length < 2 → s.cell.wmLatched (s.cell.slotWm n).val = false → s.slotRead n = false →
    exec (.releaseReport c n) s = .next (modFocus s fun x => { x with eng := { x.eng with sigs := x.eng.sigs ++ [n] } })) ∧
  (∀ (c : Name) (n : Fin 8) (s : State) (node : Name) (l : Nat), s.cur = c.toNat → s.cell.eng.sigs.contains n = true →
    s.reportTo (s.cell.slotKey n) = some (node, l) →
    ∃ t, exec (.releaseReport c n) s = .next t ∧ t.cell.land[n].latch = false ∧ t.cell.pad = s.cell.pad ∧
      t.cell.eng.sigs = s.cell.eng.sigs.filter (· != n) ∧
      t.snet = s.snet ++ [.relCount s.cell.part (s.cell.slotKey n) node l (t.releaseCount (s.cell.slotKey n))]) ∧
  (∀ (k : Nat) (p : PartIdx) (key : Nat) (node : Name) (child n : Nat) (s : State) (q : Part) (e : KeyEnt) (nd : TreeNode) (x : Combiner),
    s.relAt k = some (.relCount p key node child n) → part s p.toNat = some q → KM.get q.globals.keys key = some e →
    q.globals.node e.tree node = some nd → nd.isRoot = true → KM.get q.combs (combKey key node) = some x →
    q.globals.children e.tree nd = [child] →
    ∃ t, exec (.releaseCombine k) s = .next t ∧
      t.snet = dropAt s.snet k ++ (if n = x.sent then [] else [.srcCount p key n])) ∧
  (∀ (k : Nat) (p : PartIdx) (key : Nat) (node m : Name) (l g : Nat) (s : State) (q : Part) (e : KeyEnt) (nd : TreeNode),
    s.relAt k = some (.relRepair p key node l m g) → part s p.toNat = some q → KM.get q.globals.keys key = some e →
    q.globals.node e.tree node = some nd → nd.isRoot = true ∨ nd.xp = false →
    exec (.releaseCombine k) s = .next { s with
      snet := dropAt s.snet k ++ [if nd.isRoot then .srcRepair p key m g else .relRepair p key nd.pname nd.lbl m g] })

/-- Table 02.2, R39, R45, R59, R102, R302, R327, R382, R408: the token passes a done cell. REPEAT adds one to ROUND and starts T0 at ENTRY; SWAP at
a cell whose idle bank is READY, of an image that has ended, exchanges the banks, sets ROUND to 0, clears every register and starts T0 at the
new ENTRY; one whose idle bank is READY of an image that has not ended holds the token; PAUSE leaves the cell outside a round; a cell without
a load is passed by, its counters of messages, its reduction state and its timed state at their values of a round start. -/
def Obligations.TokensPass : Prop :=
  ∀ (c : Name) (s : State) (p : Nat) (k : Token), s.cur = c.toNat → partOfName s c.toNat = some p → s.tokenAt p c.toNat = some k →
    (k.act = .repeat_ → s.cell.plane.loaded = true →
      ∃ t, exec (.roundEndToken c) s = .next t ∧ t.cell.plane.round = s.cell.plane.round + 1 ∧ t.cell.plane.act = s.cell.plane.act ∧
        t.cell.plane.inRound = true ∧ t.cell.plane.live = s.cell.plane.cfg ∧ (t.cell.th 0).st = .running ∧
        (t.cell.th 0).pc = t.cell.plane.active.entry ∧ (t.cell.th 0).lvl = t.cell.plane.active.lprio ∧
        (∀ u : TIdx, u ≠ 0 → (t.cell.th u).st = .free) ∧
        (∀ u : TIdx, (t.cell.th u).g = (s.cell.th u).g ∧ (t.cell.th u).q = (s.cell.th u).q ∧ (t.cell.th u).p = 0 ∧ (t.cell.th u).pp = false) ∧
        t.cell.mx.tiles = s.cell.mx.tiles ∧ (∀ i : Fin 4, t.cell.mx.owner[i] = none) ∧ t.cell.pad = s.cell.pad) ∧
    (k.act = .swap → s.cell.plane.canSwap = true →
      ∃ t, exec (.roundEndToken c) s = .next t ∧ t.cell.plane.round = 0 ∧ t.cell.plane.act = !s.cell.plane.act ∧
        t.cell.plane.idle = .empty ∧ t.cell.plane.loaded = true ∧ t.cell.plane.inRound = true ∧ t.cell.plane.kept = [] ∧
        t.cell.plane.active.code = s.cell.plane.idleBank.code ∧ (t.cell.th 0).st = .running ∧
        (t.cell.th 0).pc = s.cell.plane.idleBank.entry ∧ (t.cell.th 0).lvl = s.cell.plane.idleBank.lprio ∧
        (∀ u : TIdx, u ≠ 0 → (t.cell.th u).st = .free) ∧
        (∀ u : TIdx, (t.cell.th u).g = Vector.replicate 32 0 ∧ (t.cell.th u).q = Vector.replicate 8 0 ∧ (t.cell.th u).p = 0 ∧
          (t.cell.th u).y0 = 0 ∧ (t.cell.th u).y1 = 0 ∧ (t.cell.th u).mshape = 0x0BAE33 ∧ (t.cell.th u).link = 0 ∧ (t.cell.th u).fmt = 0x2E00 ∧ (t.cell.th u).rseed = Thread.seed u s.cell.name ∧ (t.cell.th u).fcause = 0) ∧
        (∀ i : Fin 4, t.cell.tile i = []) ∧ t.cell.mx.mlcap = 0x924924 ∧ t.cell.flt = 0 ∧ t.cell.msg.clmask = 0) ∧
    (k.act = .pause → s.cell.plane.loaded = true →
      ∃ t, exec (.roundEndToken c) s = .next t ∧ t.cell.plane.inRound = false ∧ t.cell.plane.round = s.cell.plane.round ∧
        t.cell.thr = s.cell.thr ∧ t.cell.pad = s.cell.pad) ∧
    (k.act = .swap → s.cell.plane.idle = .ready → s.cell.plane.ended = false → (part s p).isSome = true →
      ∃ (t : State) (r : Part), exec (.roundEndToken c) s = .next t ∧ t.cell = s.cell ∧ part t p = some r ∧
        r.token = some { k with left := k.left.filter (· != c.toNat), held := c.toNat :: k.held }) ∧
    (s.cell.plane.loaded = false → (k.act = .swap → s.cell.plane.idle ≠ .ready) →
      ∃ t, exec (.roundEndToken c) s = .next t ∧
        (k.act = .pause → t.cell = s.cell) ∧
        (k.act = .repeat_ → t.cell = { s.cell with
          inbox := { s.cell.inbox with sent := 0, recv := 0 }, red := { drop := s.cell.red.drop, tout := s.cell.red.tout }, tim := s.cell.tim.newRound }) ∧
        (k.act = .swap → t.cell = { s.cell with
          inbox := { s.cell.inbox with sent := 0, recv := 0 }, red := {}, tim := s.cell.tim.newRound.swapped
          msg := { s.cell.msg with circ := [] } }))

/-- R39, R382: with the last cell passed, the round end is reported on the port that launched the partition, with vector 1, and the
rounds of the load are counted, a SWAP's new load from zero; the partition is paused after PAUSE and runs on after REPEAT and SWAP. What
ROUND of the report counts is the model's reading (assumption 45). -/
def Sys2Proof.Stated.RoundEndsAreReported : Prop :=
  ∀ (c : Name) (s : State) (p : Nat) (k : Token) (q : Part), s.cur = c.toNat → partOfName s c.toNat = some p → part s p = some q →
    s.tokenAt p c.toNat = some k → (k.act = .swap → s.cell.plane.wantsSwap = true → s.cell.plane.canSwap = true) → k.left = [c.toNat] → k.held = [] → k.ends = true →
    ∃ (t : State) (r : Part), exec (.roundEndToken c) s = .next t ∧ part t p = some r ∧ r.token = none ∧
      r.paused = (k.act == .pause) ∧ r.roundNo = (if k.act = .swap then 0 else q.roundNo + 1) ∧
      (t.port q.port).report = BitVec.ofNat 256 (2 ^ 8 * (p % 64) + 2 ^ 16 * (q.roundNo + 1).toNat) ∧
      (t.port q.port).msix = (s.port q.port).msix ++ [1] ∧ (t.port q.port).code = (s.port q.port).code ∧
      (t.port q.port).done = (s.port q.port).done

/-- R38, R39, R45, R88, R89, R382: a held SWAP applies once the idle bank is READY; the bank that left the active role is cleared; the
start command sets out, and a wave, to every listed cell of the partition (a cell that is not listed holds no load: the model's form, assumption
45); a done cell adds SENT and RECV; two waves that agree, with SENT = RECV, send the token once everything in the partition has settled, and
begin anew where it has not; any other wave is remembered. What a moving cell or root would send or take is held. -/
def Sys2Proof.Stated.RoundsComplete : Prop :=
  (∀ (c : Name) (s : State) (p : Nat) (q : Part) (k : Token), s.cur = c.toNat → partOfName s c.toNat = some p → part s p = some q →
    q.token = some k → k.held.contains c.toNat = true → s.cell.plane.canSwap = true → s.still c.toNat = true →
    ∃ t, exec (.heldSwapApply c) s = .next t ∧ t.cell.plane.act = !s.cell.plane.act ∧ t.cell.plane.round = 0 ∧
      (t.cell.th 0).st = .running ∧ (t.cell.th 0).pc = s.cell.plane.idleBank.entry) ∧
  (∀ (c : Name) (s : State), s.cur = c.toNat → s.cell.plane.clearing = true →
    ∃ t, exec (.bankClear c) s = .next t ∧ t.cell.plane.idleBank = {} ∧ t.cell.plane.active = s.cell.plane.active ∧
      t.cell.plane.clearing = false ∧ t.cell.plane.idle = s.cell.plane.idle) ∧
  (∀ (p : PartIdx) (s : State) (q : Part) (a : Action), part s p.toNat = some q → q.startAct = some a → q.loaded = true →
    q.paused = true → q.token = none → q.preempt = none → s.awake p.toNat = true → partCells s p.toNat ≠ [] →
    ∃ (t : State) (r : Part), exec (.startCommand p) s = .next t ∧ part t p.toNat = some r ∧ r.startAct = none ∧
      r.token = some { act := a, left := partCells s p.toNat, held := [], ends := false }) ∧
  (∀ (p : PartIdx) (s : State) (q : Part) (n : Nat), part s p.toNat = some q → partRoot s p.toNat = some n → q.running = true →
    q.wave = none → s.doneAt n = true → s.heldAt n = false →
    exec (.completionWaveStart p) s = .next { s with
      parts := KM.put s.parts p.toNat { q with wave := some { left := partCells s p.toNat, sent := 0, recv := 0 } } }) ∧
  (∀ (c : Name) (s : State) (p : Nat) (q : Part) (w : Wave), partOfName s c.toNat = some p → part s p = some q → q.wave = some w →
    w.left.contains c.toNat = true → s.doneAt c.toNat = true → s.rootHeld p c.toNat = false →
    exec (.completionWaveAnswer c) s = .next { s with
      parts := KM.put s.parts p { q with
        wave := some
          { left := w.left.filter (· != c.toNat)
            sent := w.sent + (getCell s c.toNat).inbox.sent
            recv := w.recv + (getCell s c.toNat).inbox.recv } } }) ∧
  (∀ (p : PartIdx) (s : State) (q : Part) (w : Wave), part s p.toNat = some q → q.wave = some w → w.left = [] → q.lightQuiet = true →
    q.gvt = none → q.running = true → s.rootMoves p.toNat = false →
    (w.sent ≠ w.recv ∨ q.lastTot ≠ some (w.sent, w.recv) →
      exec (.completionWaveResult p) s = .next { s with
        parts := KM.put s.parts p.toNat { q with wave := none, lastTot := some (w.sent, w.recv) } }) ∧
    (w.sent = w.recv → q.lastTot = some (w.sent, w.recv) → s.settled p.toNat = false →
      exec (.completionWaveResult p) s = .next { s with parts := KM.put s.parts p.toNat { q with wave := none, lastTot := none } }) ∧
    (w.sent = w.recv → q.lastTot = some (w.sent, w.recv) → s.settled p.toNat = true → q.timed = false → partCells s p.toNat ≠ [] →
      ∃ (t : State) (r : Part), exec (.completionWaveResult p) s = .next t ∧ part t p.toNat = some r ∧
        r.token = some
          { act := if q.rounds ≠ 0 ∧ q.rounds.toNat ≤ q.count + 1 then .pause else q.action
            left := partCells s p.toNat
            held := []
            ends := true }) ∧
    (w.sent = w.recv → q.lastTot = some (w.sent, w.recv) → s.settled p.toNat = true → q.timed = true → q.finalDone = false →
      ∃ (t : State) (r : Part) (g : GvtRun), exec (.completionWaveResult p) s = .next t ∧ part t p.toNat = some r ∧
        r.token = q.token ∧ r.gvt = some g ∧ g.final = true ∧ g.left = partCells s p.toNat))

namespace Sys2Proof.Stated

/-- Entry `i` of the journal in use, the oldest first, is a start entry (Table 14.3). -/
def isStart (s : State) (i : Nat) : Prop := jKind (s.cell.jEntry i) = 1

end Sys2Proof.Stated

/-- R323, R326, R332, R333: the lowest unprocessed message binds, and LVT becomes its VRT; a timed message enters the queue, and one
below LVT starts a rollback to its VRT. That reads the journal and undoes its entries from the newest on, down to the oldest start above the
VRT: a write entry restores the old word, a send entry sends an anti-message, a start entry makes its message unprocessed again, a defer
entry is dropped; then LVT is the VRT of the newest start left, or GVT. An anti-message removes its unprocessed positive. A cell that is about
to move binds and takes in nothing. -/
def Sys2Proof.Stated.VirtualTime : Prop :=
  ∀ (c : Name) (s : State), s.cur = c.toNat → s.heldAt c.toNat = false →
    (∀ (e : TqEnt) (u : TIdx), s.cell.tim.run = none → s.cell.tim.rbk = none → s.cell.nextTimed = some e →
      s.cell.bindable e.p.chan.toNat = some u → s.cell.masked e.p = false → s.cell.sleepers = [] →
      (∀ i, e.slot = some i → s.cell.badRead (s.cell.tqAt i) 160 = none ∧ s.cell.depositing (s.cell.tqAt i) = false) →
      (s.cell.tim.gvt.toNat < e.p.vrt.toNat → s.cell.journalShort 1 = false) →
      ∃ t, exec (.timedMessageBind c) s = .next t ∧ (t.cell.th u).st = .bound ∧ t.cell.tim.lvt = e.p.vrt ∧
        (∃ r, t.cell.tim.run = some r ∧ r.t = u ∧ r.vrt = e.p.vrt ∧ r.unj = decide (e.p.vrt.toNat ≤ s.cell.tim.gvt.toNat) ∧ r.held = false) ∧
        t.cell.tim.jused = s.cell.tim.jused + (if e.p.vrt.toNat ≤ s.cell.tim.gvt.toNat then 0 else 1) ∧
        ∀ v : TIdx, v ≠ u → t.cell.th v = s.cell.th v) ∧
    (∀ (p : Pkt) (r : List Pkt) (slot : Option Nat), s.cell.inbox.ibuf = p :: r → s.cell.mayEnter = some (p, slot) →
      s.cell.tim.rbk = none →
      ∃ t, exec (.timedQueueEntry c) s = .next t ∧ t.cell.inbox.ibuf = r ∧ t.cell.tim.lvt = s.cell.tim.lvt ∧
        t.cell.tim.tq = s.cell.tim.tq ++ [{ p := p, done := false, slot := slot }] ∧
        (s.cell.tim.lvt.toNat ≤ p.vrt.toNat → t.cell.tim.rbk = none ∧ t.cell.tim.rolls = s.cell.tim.rolls) ∧
        (p.vrt.toNat < s.cell.tim.lvt.toNat → t.cell.tim.rbk = some { v := p.vrt } ∧ t.cell.tim.rolls = satInc s.cell.tim.rolls)) ∧
    (∀ r : Rollback, s.cell.mayEnter = none → s.cell.tim.rbk = some r → s.cell.tim.run = none → r.keep = none → r.mark = none → r.post = none →
      s.cell.tim.antiw = [] → s.cell.sleepers = [] →
      (∀ i, i < s.cell.tim.jused → s.cell.badRead (s.cell.jAt (s.cell.tim.jhead + i)) 16 = none) →
      ∃ (t : State) (n : Nat) (l : BitVec 48), exec (.timedQueueEntry c) s = .next t ∧ n ≤ s.cell.tim.jused ∧
        (∀ i, n ≤ i → i < s.cell.tim.jused → isStart s i → r.v.toNat < jVrt (s.cell.jEntry i)) ∧
        (n < s.cell.tim.jused → isStart s n) ∧
        ((∀ i, i < n → ¬isStart s i) → l = s.cell.tim.gvt) ∧
        (∀ i, i < n → isStart s i → (∀ j, i < j → j < n → ¬isStart s j) →
          jVrt (s.cell.jEntry i) ≤ r.v.toNat ∧ l = BitVec.ofNat 48 (jVrt (s.cell.jEntry i))) ∧
        (n < s.cell.tim.jused → t.cell.tim.jused = s.cell.tim.jused - 1 ∧ t.cell.tim.rbk = some { r with keep := some (n, l) }) ∧
        (n = s.cell.tim.jused → t.cell.tim.rbk = none ∧ t.cell.tim.lvt = l)) ∧
    (∀ (r : Rollback) (n : Nat) (l : BitVec 48) (e : Nat × Nat), s.cell.mayEnter = none → s.cell.tim.rbk = some r → s.cell.tim.run = none →
      r.keep = some (n, l) → s.cell.sleepers = [] → s.cell.jEntry (s.cell.tim.jused - 1) = e →
      s.cell.badRead (s.cell.jAt (s.cell.tim.jhead + (s.cell.tim.jused - 1))) 16 = none →
      (n < s.cell.tim.jused →
        ∃ t, exec (.timedQueueEntry c) s = .next t ∧ t.cell.tim.jused = s.cell.tim.jused - 1 ∧ t.cell.tim.rbk = some r ∧
          (jKind e = 0 → t.cell.pad.mem = Memory.writeNat s.cell.pad.mem (8 * (e.1 / 2 ^ 3 % 2 ^ 12)) 8 e.2) ∧
          (jKind e = 2 → dieInPart s (BitVec.ofNat 20 e.2 : Name).toNat s.cell.part.toNat = true → t.cell.pad.mem = s.cell.pad.mem ∧ t.cell.tim.antis = satInc s.cell.tim.antis ∧
            t.cell.inbox.sent = s.cell.inbox.sent + 1 ∧ ∃ p : Pkt, t.cell.msg.egress = s.cell.msg.egress ++ [.msg p] ∧ p.anti = true ∧
              p.tmd = true ∧ p.src = s.cell.name ∧ p.dest = BitVec.ofNat 20 e.2 ∧ p.seq = BitVec.ofNat 16 (e.2 / 2 ^ 20) ∧
              p.stid.val = e.2 / 2 ^ 36 % 8 ∧ p.chan = BitVec.ofNat 6 (e.2 / 2 ^ 39) ∧ p.cls = BitVec.ofNat 4 (e.2 / 2 ^ 45) ∧
              p.vrt = BitVec.ofNat 48 (e.1 / 2 ^ 16)) ∧
          (jKind e = 1 → (∀ q ∈ s.cell.tim.tq, q.slot = none) → t.cell.pad.mem = s.cell.pad.mem ∧
            t.cell.tim.tq = s.cell.tim.tq.map fun q => if q.done = true ∧ q.p.src = BitVec.ofNat 20 e.2 ∧ q.p.seq = BitVec.ofNat 16 (e.2 / 2 ^ 20) ∧
              q.p.stid.val = e.2 / 2 ^ 36 % 8 ∧ q.p.chan = BitVec.ofNat 6 (e.2 / 2 ^ 39) then { q with done := false, counted := true } else q) ∧
          (3 ≤ jKind e → t.cell.pad.mem = s.cell.pad.mem ∧ t.cell.msg = s.cell.msg ∧ t.cell.tim.tq = s.cell.tim.tq)) ∧
      (s.cell.tim.jused ≤ n → r.post = none → s.cell.tim.antiw = [] →
        ∃ t, exec (.timedQueueEntry c) s = .next t ∧ t.cell.tim.rbk = none ∧ t.cell.tim.lvt = l ∧ t.cell.tim.jused = s.cell.tim.jused ∧
          t.cell.pad = s.cell.pad)) ∧
    (∀ (k : Nat) (f : Flight) (e : TqEnt) (q : Pos), s.ready k [0] = some f → curPos s c.toNat = some q → f.p.dest = c → f.p.anti = true → f.p.causal = none →
      s.cell.tim.rbk = none → s.cell.inbox.ibuf = [] → s.cell.tim.tq = [e] → e.p.sameMsg f.p = true → e.done = false →
      ∃ t, exec (.antiMessageArrival k) s = .next t ∧ t.cell.tim.tq = [] ∧ t.cell.tim.annih = satInc s.cell.tim.annih ∧
        t.cell.tim.orph = s.cell.tim.orph ∧ t.mnet = dropAt s.mnet k ++ [match f.flood with
          | none => { p := s.cell.stampClass (ackOf f.p), pos := routerOf q, vc := 2 }
          | some z => { p := ackOf f.p, pos := z, vc := 2 }]) ∧
    (∀ (k : Nat) (f : Flight), s.ready k [0] = some f → f.p.dest = c → f.p.anti = true → f.p.causal = none →
      s.cell.tim.rbk = none → s.cell.inbox.ibuf = [] → s.cell.tim.tq = [] →
      ∃ t, exec (.antiMessageArrival k) s = .next t ∧ t.cell.tim.orph = satInc s.cell.tim.orph ∧ t.cell.tim.annih = s.cell.tim.annih)

/-- R336 to R338: a computation starts 2^GINT cycles after the last or on a cell's request; every cell contributes its least VRT and
its balance of the old colour; with messages of the old colour on their way another pass follows, else COMMIT; and COMMIT sets GVT and
GEPOCH in each cell, LVT no lower, reclaims the journal's entries of the starts below GVT and the processed messages below it, sends the
messages of the defer pairs among them, and makes a running handler at or below it unjournaled, its held fault released. -/
def Sys2Proof.Stated.GvtComputed : Prop :=
  (∀ (p : PartIdx) (s : State) (q : Part), part s p.toNat = some q → q.gvtFree = true → s.gint p.toNat ≠ 0 →
    2 ^ s.gint p.toNat ≤ (s.rootTime p.toNat - q.gvtEnd).toNat →
    ∃ (t : State) (r : Part), exec (.gvtInterval p) s = .next t ∧ part t p.toNat = some r ∧ r.gvtN = q.gvtN + 1 ∧
      r.gvt = some { n := q.gvtN + 1, left := partCells s p.toNat }) ∧
  (∀ (c : Name) (s : State) (p : Nat) (q : Part), partOfName s c.toNat = some p → part s p = some q →
    (getCell s c.toNat).wantsGvt = true → q.timed = true → s.rootHeld p c.toNat = false →
    ∃ (t : State) (r : Part), exec (.gvtRequest c) s = .next t ∧ part t p = some r ∧
      (q.gvtFree = true → r.gvt = some { n := q.gvtN + 1, left := partCells s p }) ∧
      (q.gvtFree = false → r.gvt = q.gvt ∧ r.gvtReq = true)) ∧
  (∀ (c : Name) (s : State) (p : Nat) (q : Part) (g : GvtRun), s.cur = c.toNat → partOfName s c.toNat = some p → part s p = some q →
    q.gvt = some g → g.left.contains c.toNat = true → s.rootHeld p c.toNat = false →
    ∃ (t : State) (r : Part) (h : GvtRun), exec (.gvtStart c) s = .next t ∧ part t p = some r ∧ r.gvt = some h ∧
      h.left = g.left.filter (· != c.toNat) ∧
      h.min.toNat = min g.min.toNat (min s.cell.lmin (if g.first then 2 ^ 48 - 1 else s.cell.tim.rmin.toNat)) ∧
      h.sum = g.sum + (if g.n % 2 = 0 then s.cell.tim.sc1 - s.cell.tim.rc1 else s.cell.tim.sc0 - s.cell.tim.rc0) ∧
      t.cell.tim.col = (if g.first then g.n % 2 == 1 else s.cell.tim.col)) ∧
  (∀ (p : PartIdx) (s : State) (q : Part) (g : GvtRun), part s p.toNat = some q → q.gvt = some g → g.left = [] → g.commit = none →
    s.rootMoves p.toNat = false →
    ∃ (t : State) (r : Part) (h : GvtRun), exec (.gvtPassResult p) s = .next t ∧ part t p.toNat = some r ∧ r.gvt = some h ∧
      (g.sum ≠ 0 → h.commit = none ∧ h.left = partCells s p.toNat ∧ h.first = false ∧ h.sum = 0) ∧
      (g.sum = 0 → h.commit = some (if g.final then 0xFFFFFFFFFFFF else g.min) ∧ h.todo = partCells s p.toNat)) ∧
  (∀ (c : Name) (s : State) (p : Nat) (q : Part) (g : GvtRun) (v : BitVec 48), s.cur = c.toNat → partOfName s c.toNat = some p →
    part s p = some q → q.gvt = some g → g.commit = some v → g.todo.contains c.toNat = true → s.cell.tim.rbk = none →
    s.rootHeld p c.toNat = false →
    ∃ t, exec (.gvtCommit c) s = .next t ∧ t.cell.tim.gvt = v ∧ t.cell.tim.gepoch = BitVec.ofNat 16 g.n ∧
      t.cell.tim.lvt = (if s.cell.tim.lvt.toNat < v.toNat then v else s.cell.tim.lvt) ∧
      t.cell.tim.tq = s.cell.tim.tq.filter (fun e => !(e.done && decide (e.p.vrt.toNat < v.toNat) &&
        !(match s.cell.tim.run with | some r => r.p.sameMsg e.p | none => false))) ∧
      t.cell.tim.run = s.cell.tim.run.map (fun r => if r.vrt.toNat ≤ v.toNat then { r with unj := true, held := false } else r) ∧
      ((∀ i, i < s.cell.tim.jused → s.cell.badRead (s.cell.jAt (s.cell.tim.jhead + i)) 16 = none) → s.cell.sleepers = [] →
        ∃ k, k ≤ s.cell.tim.jused ∧ (∀ i, i < k → isStart s i → jVrt (s.cell.jEntry i) < v.toNat) ∧
          (k < s.cell.tim.jused → isStart s k ∧ v.toNat ≤ jVrt (s.cell.jEntry k)) ∧
          t.cell.tim.jused = s.cell.tim.jused - k ∧ t.cell.tim.jhead = (s.cell.tim.jhead + k) % max 1 s.cell.jLen ∧
          ∀ i, i + 1 < k → jKind (s.cell.jEntry i) = 3 → jKind (s.cell.jEntry (i + 1)) = 4 →
            dieInPart s (BitVec.ofNat 20 (s.cell.jEntry (i + 1)).2 : Name).toNat s.cell.part.toNat = true →
            ∃ m : Pkt, EgItem.msg m ∈ t.cell.msg.egress ∧ m.tmd = false ∧ m.dest = BitVec.ofNat 20 (s.cell.jEntry (i + 1)).2 ∧
              m.chan = BitVec.ofNat 6 ((s.cell.jEntry (i + 1)).2 / 2 ^ 20) ∧ m.rch = BitVec.ofNat 6 ((s.cell.jEntry (i + 1)).2 / 2 ^ 26) ∧
              m.cls = BitVec.ofNat 4 ((s.cell.jEntry (i + 1)).2 / 2 ^ 32) ∧ m.stid.val = (s.cell.jEntry (i + 1)).2 / 2 ^ 36 % 8 ∧
              m.seq = BitVec.ofNat 16 ((s.cell.jEntry (i + 1)).2 / 2 ^ 39) ∧ m.pay = [ofLane0 (BitVec.ofNat 64 (s.cell.jEntry i).2)]))

/-! ### Events of power and rotation -/

/-- R346, R348, R350 to R354: a cell goes Drowsy after 64 idle cycles with nothing to do, and wakes when something waits for it; an idle island goes
to Retain, at 0.30 V, where the tolerance is at least 50 µs and below 5000 µs, and to Gated, with its cells cleared, where it is at
least 5000 µs and the cells may be lost; one that is to run again has its voltage back, and no spine that feeds it then runs above the limit of that voltage; a partition over its share is metered, then limited by half rows on at most four dies, else by masks, and relaxed, a mask by
a step. Which of the states allowed an island takes, and when, is the model's reading (assumption 57). -/
def Sys2Proof.Stated.PowerStates : Prop :=
  (∀ (c : Name) (s : State), s.cur = c.toNat → 64 ≤ s.cell.idleCyc → s.restful = true →
    exec (.drowsyEntry c) s = .next (modFocus s fun x => { x with drowsy := true })) ∧
  (∀ (c : Name) (s : State), s.cur = c.toNat → s.cell.idleCyc < 64 → exec (.drowsyEntry c) s = .next s) ∧
  (∀ (c : Name) (s : State), (getCell s c.toNat).drowsy = true → s.wakes c.toNat = true →
    ∃ t, exec (.drowsyWake c) s = .next t ∧ getCell t c.toNat = { getCell s c.toNat with drowsy := false, idleCyc := 0 }) ∧
  (∀ (d : DieSite) (e : Bool) (s : State), ((s.island d.toNat e).st = .run ∨ (s.island d.toNat e).st = .slow ∨ (s.island d.toNat e).st = .gated) →
    s.islandIdle d.toNat e = true → 50 ≤ s.tolerance d.toNat →
    s.tolerance d.toNat < 5000 →
    exec (.islandStateChange d e .retain) s = .next (s.setIsland d.toNat e { s.island d.toNat e with volt := 30, st := .retain })) ∧
  (∀ (d : DieSite) (e : Bool) (s : State), s.tolerance d.toNat < 50 →
    exec (.islandStateChange d e .retain) s = .next s ∧ exec (.islandStateChange d e .gated) s = .next s) ∧
  (∀ (d : DieSite) (e : Bool) (s : State) (q : Part), (s.island d.toNat e).st ≠ .gated → s.islandIdle d.toNat e = true →
    (partOfDie s d.toNat).bind (part s) = some q → q.strel = true → 5000 ≤ s.tolerance d.toNat →
    KM.wf s.others = true →
    ∃ t, exec (.islandStateChange d e .gated) s = .next t ∧ (t.island d.toNat e).st = .gated ∧
      ∀ n ∈ s.islandCells d.toNat e, getCell t n = freshCell s n) ∧
  (∀ (d : DieSite) (e : Bool) (s : State) (w : PowerState), (w = .run ∨ w = .slow) →
    ((s.island d.toNat e).st = .retain ∨ (s.island d.toNat e).st = .gated) → s.lowest d.toNat e = .run →
    ((s.setIsland d.toNat e { s.island d.toNat e with volt := (s.island d.toNat e).want, st := .run }).clampSpines
      d.toNat).runState d.toNat e = w →
    ∃ t, exec (.islandStateChange d e w) s = .next t ∧
      t.island d.toNat e = { s.island d.toNat e with volt := (s.island d.toNat e).want, st := w } ∧ t.cell = s.cell ∧
      t.others = s.others ∧
      (KM.wf s.spines = true → ∀ k < 8, s.feeds d.toNat k e = true →
        spineMhz t d.toNat k ≤ limitMhz (s.island d.toNat e).want.toNat)) ∧
  (∀ (p : PartIdx) (s : State) (q : Part) (b : Bool), part s p.toNat = some q →
    exec (.powerMeasure p b) s = .next { s with parts := KM.put s.parts p.toNat { q with metered := b } }) ∧
  (∀ (p : PartIdx) (s : State) (q : Part), part s p.toNat = some q →
    (q.metered = true → q.dies.length ≤ 4 →
      exec (.throttleStep p true) s = .next { s with parts := KM.put s.parts p.toNat { q with thr := .halfRow } }) ∧
    (q.metered = true → 4 < q.dies.length → KM.wf s.tumblers = true →
      ∃ (t : State) (r : Part), exec (.throttleStep p true) s = .next t ∧ part t p.toNat = some r ∧ r.thr = .mask ∧
        ∀ d ∈ q.dies, ∀ u < 64, 1 ≤ (tumbler t d u).mask ∧ (tumbler t d u).mask ≤ 32) ∧
    (q.thr = .mask → q.dies.Nodup → KM.wf s.tumblers = true →
      ∃ (t : State) (r : Part), exec (.throttleStep p false) s = .next t ∧ part t p.toNat = some r ∧
        (∀ d ∈ q.dies, ∀ u < 64, (tumbler t d u).mask = min 32 ((tumbler s d u).mask + 1)) ∧
        (r.thr = .none ↔ ∀ d ∈ q.dies, ∀ u < 64, 31 ≤ (tumbler s d u).mask)) ∧
    (q.thr = .halfRow →
      exec (.throttleStep p false) s = .next { s with parts := KM.put s.parts p.toNat { q with thr := .none } }))

/-- R357 to R362: an interval reads the four sensors, and a tumbler whose spread is over the threshold begins a rotation, or, where it
never rotates, gives up a 32nd of its duty; once its cells stand still it holds what is inbound from then on; one that overruns the bound of
step 1 or 3 is abandoned and counted in ABORT (how the bounds are counted is the model's reading, assumption 55); one that holds, with nothing
on its way, moves every tile a quarter turn, and its routers are told. -/
def Sys2Proof.Stated.TumblersRotate : Prop :=
  ∀ (d : DieSite) (u : TumIdx) (s : State),
    (∀ (t0 t1 t2 t3 : BitVec 8) (x : Tumbler), tumbler s d.toNat u.toNat = x → x.busy = false →
      (s.rotParams d.toNat).1 * 1000000 ≤ (Sp.get s.dieCycle d.toNat - x.since).toNat →
      ∃ (t : State) (y : Tumbler) (hot : Bool), exec (.tumblerInterval d u t0 t1 t2 t3) s = .next t ∧ tumbler t d.toNat u.toNat = y ∧
        y.t0 = t0 ∧ y.t1 = t1 ∧ y.t2 = t2 ∧ y.t3 = t3 ∧ y.since = Sp.get s.dieCycle d.toNat ∧ y.rot = x.rot ∧ y.rcnt = x.rcnt ∧
        hot = decide ((s.rotParams d.toNat).2 + min (min t0.toNat t1.toNat) (min t2.toNat t3.toNat) <
          max (max t0.toNat t1.toNat) (max t2.toNat t3.toNat)) ∧
        (noRot s d.toNat u.toNat = false → y.duty = 32 ∧ y.busy = (hot && s.mayRotate d.toNat u.toNat)) ∧
        (noRot s d.toNat u.toNat = true → y.busy = false ∧ (hot = true → y.duty = max 8 (x.duty - 1)))) ∧
    (∀ x : Tumbler, tumbler s d.toNat u.toNat = x → x.busy = true → x.late = true ∨ s.overdue d.toNat u.toNat = true →
      ∃ t, exec (.rotationAbandon d u) s = .next t ∧ (tumbler t d.toNat u.toNat).busy = false ∧
        (tumbler t d.toNat u.toNat).abort = satInc x.abort ∧ (tumbler t d.toNat u.toNat).rot = x.rot ∧
        (tumbler t d.toNat u.toNat).rcnt = x.rcnt) ∧
    (∀ x : Tumbler, tumbler s d.toNat u.toNat = x → x.busy = true → x.late = false → x.hold.isSome = true → s.tumSent d.toNat u.toNat = true →
      s.tumLanded d.toNat u.toNat = true →
      ∃ t, exec (.rotationMoveDone d u) s = .next t ∧ (tumbler t d.toNat u.toNat).rot = x.rot + 1 ∧
        (tumbler t d.toNat u.toNat).rcnt = x.rcnt + 1 ∧ (tumbler t d.toNat u.toNat).busy = false ∧
        t.agenda = s.agenda ++ [.rotationNotice d u]) ∧
    (∀ (x : Tumbler) (now : W64), tumbler s d.toNat u.toNat = x → Sp.get s.dieCycle d.toNat = now →
      (s.tumStill d.toNat u.toNat = true → x.hold = none →
        (tumbler (s.turnTumbler d.toNat u.toNat) d.toNat u.toNat).hold = some now ∧
        (tumbler (s.turnTumbler d.toNat u.toNat) d.toNat u.toNat).late = false) ∧
      (s.tumStill d.toNat u.toNat = false → x.hold = none →
        (tumbler (s.turnTumbler d.toNat u.toNat) d.toNat u.toNat).hold = none ∧
        (tumbler (s.turnTumbler d.toNat u.toNat) d.toNat u.toNat).late = decide (2000 < (now - x.since).toNat)) ∧
      (∀ h, x.hold = some h →
        (tumbler (s.turnTumbler d.toNat u.toNat) d.toNat u.toNat).hold = some h ∧
        (tumbler (s.turnTumbler d.toNat u.toNat) d.toNat u.toNat).late = (decide (1500 < (now - h).toNat) && !s.tumSent d.toNat u.toNat)))

/-! ### The load image -/

/-- R37, R38, R41, R45, Table 02.3: what one word of FIELD or BURST does at a cell, by bank and structure: the idle bank takes the bits
and is LOADING; the active bank takes them, but constants of a cell in a round are staged; scratchpad and configuration words take them
between rounds, and are kept for the next SWAP in a round. -/
def Sys2Proof.Stated.ImageWritesCells : Prop :=
  ∀ (c : Cell) (k : KeptWrite),
    (∀ st : Nat, (c.imageWrite 0 st k).plane.idle = .loading ∧ (c.imageWrite 0 st k).plane.active = c.plane.active ∧
      (c.imageWrite 0 st k).plane.idleBank = c.plane.idleBank.put st k) ∧
    (∀ st : Nat, st < 3 ∨ c.plane.inRound = false →
      (c.imageWrite 1 st k).plane.active = c.plane.active.put st k ∧ (c.imageWrite 1 st k).plane.idleBank = c.plane.idleBank) ∧
    (c.plane.inRound = true → KM.wf c.plane.shadow = true →
      (c.imageWrite 1 3 k).plane.active = c.plane.active ∧ (c.imageWrite 1 3 k).plane.cstage = true ∧
      Sp.get (c.imageWrite 1 3 k).plane.shadow k.off = insBits (Sp.get c.plane.shadow k.off) k.lsb k.width k.val.toNat) ∧
    (∀ st : Nat, c.plane.inRound = true → (k.pad = true ∨ cfgDefined k.off = true) →
      c.imageWrite 2 st k = { c with plane := { c.plane with kept := c.plane.kept ++ [k] } }) ∧
    (∀ st : Nat, c.plane.inRound = false → k.pad = false → cfgDefined k.off = true →
      (c.imageWrite 2 st k).pad = c.pad ∧
      (c.imageWrite 2 st k).plane.cfg = Sp.set c.plane.cfg k.off (insBits (Sp.get c.plane.cfg k.off) k.lsb k.width k.val.toNat)) ∧
    (∀ st : Nat, c.plane.inRound = false → k.pad = true → c.sleepers = [] →
      (c.imageWrite 2 st k).plane = c.plane ∧
      (c.imageWrite 2 st k).pad.mem = Memory.writeNat c.pad.mem (4 * k.off) 4
        (insBits (BitVec.ofNat 32 (c.bytes (4 * k.off) 4)) k.lsb k.width k.val.toNat).toNat) ∧
    (∀ st : Nat, k.pad = false → cfgDefined k.off = false → c.imageWrite 2 st k = c)

/-- R42, R44: a zero word is passed over; a reserved command ends the image with MALFORMED at its word; SPAN sets the span; SELECT sets
the cursor, and an offset beyond the structure ends the image with RANGE. -/
def Sys2Proof.Stated.ImageCommands : Prop :=
  ∀ (s : State) (i : Image) (r : List Image), s.images = i :: r → s.imageReady i = true →
    (i.rest.head? = some 0 → exec (.pad 0) s = .next { s with images := { i with idx := i.idx + 1 } :: r }) ∧
    (∀ w : W32, i.rest.head? = some w → 7 ≤ w.toNat / 2 ^ 28 → w.toNat / 2 ^ 28 ≤ 14 →
      ∃ t, exec (.pad w) s = .next t ∧ t.images = r ∧ (t.port i.port).code = 1 ∧ (t.port i.port).done = true ∧
        (t.port i.port).busy = false ∧ (t.port i.port).msix = (s.port i.port).msix ++ [0] ∧
        (t.port i.port).report = BitVec.ofNat 256 (1 + 2 ^ 8 * i.part.toNat + 2 ^ 16 * (s.roundOf i.part.toNat % 2 ^ 16) +
          2 ^ 32 * (i.idx % 2 ^ 32))) ∧
    (∀ (a b : Name) (w v : W32), w = BitVec.ofNat 32 (2 ^ 28 + a.toNat) → v = BitVec.ofNat 32 b.toNat → i.rest.take 2 = [w, v] →
      a.toNat ≤ b.toNat →
      exec (.span w v) s = .next { s with images := { i with first := a, last := b, idx := i.idx + 2 } :: r }) ∧
    (∀ (bank : BitVec 2) (st : BitVec 4) (off : BitVec 16) (w : W32) (n : Nat),
      w = BitVec.ofNat 32 (2 * 2 ^ 28 + 2 ^ 20 * bank.toNat + 2 ^ 16 * st.toNat + off.toNat) → i.rest.head? = some w →
      structSize bank.toNat st.toNat = some n →
      (off.toNat < n →
        exec (.select w) s = .next { s with images := { i with cursor := some (bank, st, off.toNat), idx := i.idx + 1 } :: r }) ∧
      (n ≤ off.toNat → ∃ t, exec (.select w) s = .next t ∧ t.images = r ∧ (t.port i.port).code = 2))

namespace Sys2Proof.Stated

/-- The index in the image of the first word of a write that a cell refuses: a word of its header in force with a reserved value or
field, or a configuration word in disorder (R9, R43). -/
def refusedWord (s : State) (i : Image) (bank st : Nat) (ks : List KeptWrite) (m : Nat) : Option Nat :=
  if bank = 2 ∧ st = 1 then cfgFail (getCell s m).staged (i.idx + 1) ks
  else if bank = 1 ∧ st = 1 then hdrFail (getCell s m).plane.active (i.idx + 1) ks else none
/-- A command that ends the load with MALFORMED at the word of this index, and reaches no cell (R44). -/
def EndsMalformed (s : State) (i : Image) (r : List Image) (f : Nat) (x : Instr) : Prop :=
  ∃ t, exec x s = .next t ∧ t.images = r ∧ (t.port i.port).code = 1 ∧ t.cell = s.cell ∧ t.others = s.others ∧
    (t.port i.port).report = BitVec.ofNat 256 (1 + 2 ^ 8 * i.part.toNat + 2 ^ 16 * (s.roundOf i.part.toNat % 2 ^ 16) +
      2 ^ 32 * (f % 2 ^ 32))

end Sys2Proof.Stated

/-- R9, R42, R43: with a cursor and no write held, FIELD writes WIDTH bits at LSB of the word OFF, and BURST its words from the cursor on,
at every cell of the span, and at no other; BURST moves the cursor on. A write of the header in force or of configuration words that some
cell refuses ends the load with MALFORMED at the first such word. -/
def Sys2Proof.Stated.ImageWordsReachCells : Prop :=
  ∀ (s : State) (i : Image) (r : List Image) (bank : BitVec 2) (st : BitVec 4) (at_ n : Nat), s.images = i :: r →
    s.imageReady i = true → i.cursor = some (bank, st, at_) → structSize bank.toNat st.toNat = some n →
    (s.selected i).any s.holdsWrites = false → KM.wf s.others = true → (bank = 1 → st.toNat < 3 → ∀ m ∈ s.selected i, (getCell s m).plane.inRound = false) →
    (∀ (off lsb width : Nat) (w v : W32) (k : KeptWrite), k = ⟨bank.toNat == 2 && st.toNat == 0, off, lsb, width, v⟩ → w = BitVec.ofNat 32 (3 * 2 ^ 28 + 2 ^ 21 * (width - 1) + 2 ^ 16 * lsb + off) → 1 ≤ width →
      lsb + width ≤ 32 → off < n → v.toNat < 2 ^ width → i.rest.take 2 = [w, v] →
      ((∀ m ∈ s.selected i, refusedWord s i bank.toNat st.toNat [k] m = none) →
        ∃ t, exec (.field w v) s = .next t ∧ t.images = { i with idx := i.idx + 2 } :: r ∧
          (∀ m ∈ s.selected i, getCell t m = (getCell s m).imageWrite bank.toNat st.toNat k) ∧
          ∀ m, m ∉ s.selected i → getCell t m = getCell s m) ∧
      ∀ m ∈ s.selected i, refusedWord s i bank.toNat st.toNat [k] m = some (i.idx + 1) →
        EndsMalformed s i r (i.idx + 1) (.field w v)) ∧
    (∀ (w : W32) (ws : List W32) (ks : List KeptWrite),
      ks = ((List.range ws.length).map fun j => ⟨bank.toNat == 2 && st.toNat == 0, at_ + j, 0, 32, ws.getD j 0⟩) → w = BitVec.ofNat 32 (4 * 2 ^ 28 + ws.length) → ws ≠ [] → ws.length < 2 ^ 16 → at_ + ws.length ≤ n →
      i.rest.take (1 + ws.length) = w :: ws →
      ((∀ m ∈ s.selected i, refusedWord s i bank.toNat st.toNat ks m = none) →
        ∃ t, exec (.burst w ws) s = .next t ∧
          t.images = { i with cursor := some (bank, st, at_ + ws.length), idx := i.idx + (1 + ws.length) } :: r ∧
          (∀ m ∈ s.selected i, getCell t m = ks.foldl (fun c k => c.imageWrite bank.toNat st.toNat k) (getCell s m)) ∧
          ∀ m, m ∉ s.selected i → getCell t m = getCell s m) ∧
      ∀ (m f : Nat), m ∈ s.selected i → refusedWord s i bank.toNat st.toNat ks m = some f →
        (∀ m' ∈ s.selected i, ∀ f', refusedWord s i bank.toNat st.toNat ks m' = some f' → f ≤ f') →
        EndsMalformed s i r f (.burst w ws))

/-- R38, R42, R44, R382: SEAL makes every idle bank of the span READY when each header is in order, and fails with MALFORMED, changing
no bank, when one is not; END ends a load whose checks hold with SUCCESS, its READY banks may then be swapped in, and the load of a LAUNCH is due to start; one whose
checks fail ends with RANGE, END's index in the image and the partition's rounds beside it in REPORT. That the image is then ended, and what
END leaves of the words after it, are the model's readings (log entries 46 and 86). -/
def Sys2Proof.Stated.ImageSealAndEnd : Prop :=
  ∀ (s : State) (i : Image) (r : List Image), s.images = i :: r → s.imageReady i = true →
    (i.rest.head? = some 0x50000000 → (s.selected i).any s.holdsWrites = false → KM.wf s.others = true →
      ((∀ m ∈ s.selected i, (getCell s m).plane.idle = .ready ∨ (getCell s m).plane.idleBank.sealable = true) →
        ∃ t, exec (.sealRec 0x50000000) s = .next t ∧ t.images = { i with idx := i.idx + 1 } :: r ∧
          (∀ m ∈ s.selected i, (getCell t m).plane.idle = .ready ∧ (getCell t m).plane.idleBank = (getCell s m).plane.idleBank ∧
            (getCell t m).plane.active = (getCell s m).plane.active) ∧
          ∀ m, m ∉ s.selected i → getCell t m = getCell s m) ∧
      (∀ m ∈ s.selected i, (getCell s m).plane.idle ≠ .ready → (getCell s m).plane.idleBank.sealable = false →
        ∃ t, exec (.sealRec 0x50000000) s = .next t ∧ t.images = r ∧ (t.port i.port).code = 1 ∧ t.cell = s.cell ∧ t.others = s.others)) ∧
    (∀ q : Part, i.rest.head? = some 0xF0000000 → part s i.part.toNat = some q →
      (s.endFits i.part.toNat q (q.nextGlobals.getD {}) = true →
        ∃ (t : State) (y : Part), exec (.imageEnd 0xF0000000) s = .next t ∧ t.images = r ∧ (t.port i.port).code = 0 ∧
          (t.port i.port).done = true ∧ (t.port i.port).busy = false ∧ part t i.part.toNat = some y ∧ y.loadOk = true ∧
          y.endGlobals = some (q.nextGlobals.getD {}) ∧ (i.next = false → y.loaded = true ∧ y.startAct = some .swap) ∧
          (KM.wf s.others = true → ∀ m ∈ partCells s i.part.toNat,
            (getCell t m).plane.ended = ((getCell s m).plane.idle == .ready))) ∧
      (s.endFits i.part.toNat q (q.nextGlobals.getD {}) = false →
        ∃ t, exec (.imageEnd 0xF0000000) s = .next t ∧ t.images = r ∧ (t.port i.port).code = 2 ∧
          (t.port i.port).report = BitVec.ofNat 256 (2 + 2 ^ 8 * i.part.toNat + 2 ^ 16 * (s.roundOf i.part.toNat % 2 ^ 16) +
            2 ^ 32 * (i.idx % 2 ^ 32)) ∧
          part t i.part.toNat = some q ∧ t.cell = s.cell))

/-- Tables 10.6, 11.1, 11.2, 12.1 and 12.2, R42: a GLOBAL command with one record, laid out as its table says, enters the record among
the structures of the load. -/
def Obligations.GlobalRecords : Prop :=
  ∀ (s : State) (i : Image) (r : List Image) (q : Part) (g : Globals), s.images = i :: r → s.imageReady i = true →
    part s i.part.toNat = some q → q.nextGlobals.getD {} = g →
    (∀ (key : BitVec 8) (k : KeyEnt) (w : W32) (ws : List W32), k.sidx < 64 → k.wl < 32 → 1 ≤ k.nslot → k.nslot ≤ 4 → 1 ≤ k.blk →
      k.blk ≤ 256 → 1 ≤ k.tree → k.tree < 256 → 1 ≤ k.tiles.length → k.tiles.length ≤ 16384 →
      (∀ t ∈ k.tiles, t.1 < 64 ∧ t.2.1 < 16 ∧ t.2.2.1 < 16) → ws = (k.words key.toNat).map (BitVec.ofNat 32) →
      w = BitVec.ofNat 32 (6 * 2 ^ 28 + ws.length) → ws.length < 2 ^ 16 → i.rest.take (1 + ws.length) = w :: ws →
      ∃ (t : State) (y : Part) (h : Globals), exec (.globalKeyring w ws) s = .next t ∧ part t i.part.toNat = some y ∧
        y.nextGlobals = some h ∧ h.keys = KM.put g.keys key.toNat k ∧ h.trees = g.trees ∧ h.bucks = g.bucks ∧ h.circs = g.circs ∧
        h.plans = g.plans ∧ t.images = { i with idx := i.idx + (1 + ws.length) } :: r) ∧
    (∀ (key : BitVec 8) (l : List TreeNode) (w : W32) (ws : List W32), key ≠ 0 → 1 ≤ l.length → l.length ≤ 16384 →
      (∀ n ∈ l, n.lbl < 6 ∧ n.plink < 16) → ws = (treeWords key.toNat l).map (BitVec.ofNat 32) →
      w = BitVec.ofNat 32 (6 * 2 ^ 28 + 2 ^ 16 + ws.length) → ws.length < 2 ^ 16 → i.rest.take (1 + ws.length) = w :: ws →
      ∃ (t : State) (y : Part) (h : Globals), exec (.globalTree w ws) s = .next t ∧ part t i.part.toNat = some y ∧
        y.nextGlobals = some h ∧ h.trees = KM.put g.trees key.toNat l ∧ h.keys = g.keys ∧ h.bucks = g.bucks ∧ h.circs = g.circs ∧
        h.plans = g.plans) ∧
    (∀ (tag : BitVec 12) (b : Bucket) (w : W32) (ws : List W32), tag ≠ 0 → tag ≠ 4095 → b.op ≤ 8 → 1 ≤ b.width → b.width ≤ 8 →
      (b.tok = 0 ∨ 8 ≤ b.tok ∧ b.tok < 32) → 1 ≤ b.tree → b.tree < 256 → b.rbase < 1024 →
      ws = (b.words tag.toNat).map (BitVec.ofNat 32) → w = BitVec.ofNat 32 (6 * 2 ^ 28 + 2 * 2 ^ 16 + 2) →
      i.rest.take 3 = w :: ws →
      ∃ (t : State) (y : Part) (h : Globals), exec (.globalBucket w ws) s = .next t ∧ part t i.part.toNat = some y ∧
        y.nextGlobals = some h ∧ h.bucks = KM.put g.bucks tag.toNat b ∧ h.keys = g.keys ∧ h.trees = g.trees ∧ h.circs = g.circs ∧
        h.plans = g.plans) ∧
    (∀ (id : BitVec 8) (x : Circuit) (w : W32) (ws : List W32), KM.get g.circs id.toNat = none →
      isName s x.sname.toNat = true → dieInPart s x.sname.toNat i.part.toNat = true → isName s x.dname.toNat = true →
      dieInPart s x.dname.toNat i.part.toNat = true → (g.circs.filter fun c => c.2.sname == x.sname).length < 4 →
      (g.circs.filter fun c => c.2.dname == x.dname).length < 4 → x.sbase % 32 = 0 → x.dbase % 32 = 0 → 1 ≤ x.size → x.size ≤ 256 →
      x.sbase + 32 * x.size ≤ 0x8000 → x.dbase + 32 * x.size ≤ 0x8000 → 8 * x.pidx + 16 ≤ 0x8000 → 8 * x.lidx + 16 ≤ 0x8000 →
      ws = (x.words id.toNat).map (BitVec.ofNat 32) → w = BitVec.ofNat 32 (6 * 2 ^ 28 + 3 * 2 ^ 16 + 4) → i.rest.take 5 = w :: ws →
      ∃ (t : State) (y : Part) (h : Globals), exec (.globalCircuit w ws) s = .next t ∧ part t i.part.toNat = some y ∧
        y.nextGlobals = some h ∧ h.circs = KM.put g.circs id.toNat x ∧ h.keys = g.keys ∧ h.trees = g.trees ∧ h.bucks = g.bucks ∧
        h.plans = g.plans) ∧
    (∀ (key : BitVec 8) (x : Plan) (w : W32) (ws : List W32), x.nblk < 2 ^ 32 → x.gaddr < 2 ^ 48 → x.gstr < 2 ^ 32 →
      ws = (x.words key.toNat).map (BitVec.ofNat 32) → w = BitVec.ofNat 32 (6 * 2 ^ 28 + 4 * 2 ^ 16 + 5) → i.rest.take 6 = w :: ws →
      ∃ (t : State) (y : Part) (h : Globals), exec (.globalStreamPlan w ws) s = .next t ∧ part t i.part.toNat = some y ∧
        y.nextGlobals = some h ∧ h.plans = KM.put g.plans key.toNat x ∧ h.keys = g.keys ∧ h.trees = g.trees ∧ h.bucks = g.bucks ∧
        h.circs = g.circs)

/-! ### The controller and the host -/

/-- R381, R382: GO while a request is in progress counts in HERR; an operation of none of Table 17.2's rows is MALFORMED; one that
needs the hasp, from a port without it, is NOTOWNER; a nonzero unused field is MALFORMED: in this order, and nothing else changes. That a
write to GO of fewer than its bytes acts by its bit 0 is the model's reading (log entry 66). -/
def Sys2Proof.Stated.RequestChecks : Prop :=
  ∀ (q : Port) (b : Byte) (r : List Byte) (s : State), b.getLsbD 0 = true → r.length < 8 →
    ((s.port q).busy = true →
      exec (.hostRegisterWrite q 0x108 (b :: r)) s = .next (s.modPort q fun x => { x with herr := satInc x.herr })) ∧
    ((s.port q).busy = false →
      (recOp (s.port q).launch = 0 ∨ 8 < recOp (s.port q).launch →
        exec (.hostRegisterWrite q 0x108 (b :: r)) s = .next (s.endReq q (recPart (s.port q).launch) 1)) ∧
      (recOp (s.port q).launch ∈ [1, 4, 5, 6, 7, 8] → s.hasp ≠ some q →
        exec (.hostRegisterWrite q 0x108 (b :: r)) s = .next (s.endReq q (recPart (s.port q).launch) 0x10)) ∧
      (1 ≤ recOp (s.port q).launch → recOp (s.port q).launch ≤ 8 →
        (recOp (s.port q).launch ∈ [1, 4, 5, 6, 7, 8] → s.hasp = some q) → recMalformed (s.port q).launch = true →
        exec (.hostRegisterWrite q 0x108 (b :: r)) s = .next (s.endReq q (recPart (s.port q).launch) 1)))

namespace Sys2Proof.Stated

/-- A request that GO accepts (R381): this record, of this operation, with the hasp where it needs one, every field in order. -/
def Accepts (s : State) (q : Port) (op : Nat) : Prop :=
  (s.port q).busy = false ∧ (s.port q).pend = none ∧ recOp (s.port q).launch = op ∧
    (needsHasp op = true → s.hasp = some q) ∧ recMalformed (s.port q).launch = false
/-- A request ended with this code: DONE, not BUSY, vector 0, and CODE beside PART in REPORT (R382). -/
def Ended (s t : State) (q : Port) (code : Nat) : Prop :=
  (t.port q).code = BitVec.ofNat 8 code ∧ (t.port q).done = true ∧ (t.port q).busy = false ∧
    (t.port q).msix = (s.port q).msix ++ [0] ∧ (t.port q).report.extractLsb' 0 8 = BitVec.ofNat 8 code

end Sys2Proof.Stated

/-- R382: LAUNCH of a free partition on free dies, one of them live, makes it and hands its image to the controller, and of a taken
one ends with 0x11; NEXT hands its image over, and without a load is NOLOAD; ROUND sets the action; POWER sets the tolerance and the rotation
parameters; GATEWAY sets its tags; RELEASE frees the partition. That one GATEWAY replaces the earlier one of its partition and link is the
model's reading (log entry 67). -/
def Sys2Proof.Stated.RequestsServed : Prop :=
  ∀ (q : Port) (s : State) (p : Nat), p = recPart (s.port q).launch →
    (Accepts s q 1 →
      (∀ l : List Nat, recSites (s.port q).launch = some l → part s p = none → (∀ d ∈ l, partOfDie s d = none) → s.liveOf l ≠ [] →
        ∃ (t : State) (x : Part), exec (.launch q) s = .next t ∧ part t p = some x ∧ x.port = q ∧ x.dies = s.liveOf l ∧
          x.action = actionOf (recAction (s.port q).launch) ∧ x.loaded = false ∧ x.paused = true ∧
          x.ctx = (s.port q).launch.extractLsb' 192 64 ∧ x.rounds = (s.port q).launch.extractLsb' 288 32 ∧
          x.tol = (s.port q).launch.extractLsb' 176 16 ∧ x.debug = (s.port q).launch.getLsbD 32 ∧
          t.images = s.images ++ [⟨q, BitVec.ofNat 6 p, false, s.dma (s.port q).launch, 0, 1, 0, none⟩] ∧
          (t.port q).busy = true ∧ (t.port q).msix = (s.port q).msix) ∧
      (part s p ≠ none → ∃ t, exec (.launch q) s = .next t ∧ Ended s t q 0x11 ∧ t.parts = s.parts)) ∧
    (Accepts s q 2 →
      (s.reqOn p = true → ∃ t, exec (.next q) s = .next t ∧ Ended s t q 3 ∧ t.parts = s.parts) ∧
      (s.reqOn p = false → s.noLoad p = true → ∃ t, exec (.next q) s = .next t ∧ Ended s t q 0x13 ∧ t.parts = s.parts) ∧
      (s.reqOn p = false → s.noLoad p = false →
        ∃ t, exec (.next q) s = .next t ∧ (t.port q).busy = true ∧
          t.images = s.images ++ [⟨q, BitVec.ofNat 6 p, true, s.dma (s.port q).launch, 0, 1, 0, none⟩])) ∧
    (Accepts s q 3 →
      (s.noLoad p = true → ∃ t, exec (.round q) s = .next t ∧ Ended s t q 0x13 ∧ t.parts = s.parts) ∧
      (∀ x : Part, part s p = some x → x.loaded = true →
        ∃ (t : State) (y : Part), exec (.round q) s = .next t ∧ Ended s t q 0 ∧ part t p = some y ∧
          y.action = actionOf (recAction (s.port q).launch) ∧
          (x.paused = true → x.token = none → x.startAct = none → recAction (s.port q).launch = 0 → y.startAct = some .repeat_))) ∧
    (Accepts s q 7 → ∀ x : Part, part s p = some x →
      ∃ (t : State) (y : Part), exec (.power q) s = .next t ∧ Ended s t q 0 ∧ part t p = some y ∧
        y.tol = (s.port q).launch.extractLsb' 176 16 ∧ y.rotMs = recBits (s.port q).launch 256 6 + 1 ∧
        y.rotEn = (s.port q).launch.getLsbD 267 ∧ y.dies = x.dies) ∧
    (Accepts s q 8 → ∀ x : Part, part s p = some x →
      ∃ t, exec (.gateway q) s = .next t ∧ Ended s t q 0 ∧ t.parts = s.parts ∧
        ∀ g : Gateway, g ∈ t.gateways ↔
          (g ∈ s.gateways ∧ ¬(g.part.toNat = p ∧ g.link = recBits (s.port q).launch 64 16)) ∨
          g = ⟨BitVec.ofNat 6 p, recBits (s.port q).launch 64 16,
            ([80, 96, 112].map fun b => recBits (s.port q).launch b 12).filter (· ≠ 0)⟩) ∧
    (Accepts s q 6 → KM.wf s.parts = true → ∀ x : Part, part s p = some x → s.imageOf p = false → x.preempt = none →
      s.rotatingIn x = false →
      ∃ t, exec (.release q) s = .next t ∧ Ended s t q 0 ∧ part t p = none ∧ ∀ r, r ≠ p → part t r = part s r)

/-- R370, R372, R373, R375, R382: PREEMPT of a loaded partition with a context area stops it, and its drain ends with the partition
saved and gone and with the request's SUCCESS; RESTORE of a well-formed area that this machine saved makes the partition again on its
target's dies; a lead fault is reported with 0x20 plus its cause and its cell, and takes the partition out of its round; so does a hold
memory that has been full and stuck for 2^20 cycles. A target without a live die ends RESTORE with RESTORE_MISMATCH and its cause. The
code of PREEMPT with CTX 0, and the tables that RESTORE reads its area through and takes back, are the model's readings (log entries 59, 61
and 10). -/
def Obligations.PartitionsStopAndReturn : Prop :=
  (∀ (q : Port) (s : State) (x : Part), Accepts s q 4 → part s (recPart (s.port q).launch) = some x →
    s.canPreempt (recPart (s.port q).launch) x = true →
    (x.loaded = true → x.ctx ≠ 0 →
      ∃ (t : State) (y : Part), exec (.preempt q) s = .next t ∧ part t (recPart (s.port q).launch) = some y ∧
        y = { x with preempt := some { port := some q, cause := 0, since := s.dieCycle } } ∧ (t.port q).busy = true ∧ t.cell = s.cell) ∧
    (x.loaded = true → x.ctx = 0 → ∃ t, exec (.preempt q) s = .next t ∧ Ended s t q 0x02 ∧ t.parts = s.parts) ∧
    (x.loaded = false → ∃ t, exec (.preempt q) s = .next t ∧ Ended s t q 0x13 ∧ t.parts = s.parts)) ∧
  (∀ (p : PartIdx) (s : State) (x : Part) (pr : Preempt) (q : Port), part s p.toNat = some x → x.preempt = some pr → pr.port = some q →
    s.deferredIn p.toNat = [] → s.saveReady p.toNat x = true → KM.wf s.parts = true →
    ∃ t, exec (.preemptDrainBound p) s = .next t ∧ Ended s t q 0 ∧ part t p.toNat = none ∧
      t.savedParts.length = s.savedParts.length + 1 ∧ t.saved.length = s.saved.length + (partNames s p.toNat).length) ∧
  (∀ (q : Port) (s : State) (l : List Nat) (k : SavedPart) (t u : State) (a : Area) (x : Part) (g : Globals), Accepts s q 5 →
    recSites (s.port q).launch = some l → part s (recPart (s.port q).launch) = none → (∀ d ∈ l, partOfDie s d = none) →
    s.liveOf l ≠ [] →
    s.savedParts.reverse.find? (fun k => k.num == recPart (s.port q).launch && k.ctx.toNat == recBits (s.port q).launch 192 64) = some k →
    t = (s.liveOf l).foldl (fun t d => t.setTables d k.tabs) (s.modPort q fun x => { x with busy := true }) →
    t.area ((s.liveOf l).headD 0) (recPart (s.port q).launch) (recBits (s.port q).launch 192 64) = some a → a.wellFormed = true →
    (s.liveOf l).length = a.dies.length →
    u = t.rebind (rebound t.dieMap a.dies (s.liveOf l)) → u.takesRecords (s.liveOf l) a = true →
    u.savedParts[numAt a.section_ (a.section_.length - 32) 32]? = some k →
    x = { k.part with dies := s.liveOf l, sites := l, ctx := (s.port q).launch.extractLsb' 192 64 } →
    (u.settlePart (recPart (s.port q).launch) x).replay (recPart (s.port q).launch) a.globals.length a.globals {} = some g →
    ∃ (t' : State) (y : Part), exec (.restore q) s = .next t' ∧ Ended s t' q 0 ∧ part t' (recPart (s.port q).launch) = some y ∧
      y.dies = s.liveOf l ∧ y.ctx = (s.port q).launch.extractLsb' 192 64 ∧ y.globals = g ∧ y.loaded = k.part.loaded) ∧
  (∀ (q : Port) (s : State) (l : List Nat), Accepts s q 5 → recSites (s.port q).launch = some l →
    (part s (recPart (s.port q).launch) ≠ none → ∃ t, exec (.restore q) s = .next t ∧ Ended s t q 0x11 ∧ t.parts = s.parts) ∧
    (part s (recPart (s.port q).launch) = none → (∀ d ∈ l, partOfDie s d = none) → s.liveOf l = [] →
      ∃ t, exec (.restore q) s = .next t ∧ Ended s t q 0x2E ∧ (t.port q).report.extractLsb' 104 8 = 0x0E ∧ t.parts = s.parts)) ∧
  (∀ (c : Name) (s : State) (p : Nat) (q : Part) (x : LeadFault), s.cur = c.toNat → partOfName s c.toNat = some p → part s p = some q →
    s.cell.lead = some x → q.loaded = true → q.preempt = none → q.faults = [] → s.canPreempt p q = true → q.ctx ≠ 0 →
    ∃ (t : State) (y : Part), exec (.leadFault c) s = .next t ∧ part t p = some y ∧ y.faults = [c.toNat] ∧
      y.preempt = some { port := none, cause := x.r.cause, since := s.dieCycle } ∧ t.cell = { s.cell with lead := none } ∧
      (t.port q.port).msix = (s.port q.port).msix ++ [1] ∧
      (t.port q.port).report = (x.report p (s.roundOf p) c.toNat).word256) ∧
  (∀ (c : BitVec 6) (s : State) (d p : Nat) (q : Part) (t0 : W64), physDie s c.toNat = some d → partOfDie s d = some p → part s p = some q →
    (unitOf s c.toNat).fullSince = some t0 → 2048 ≤ (unitOf s c.toNat).hold.length →
    (∀ h ∈ (unitOf s c.toNat).hold, h.causal = none ∨ ∃ k, h.causal = some k ∧ (unitOf s c.toNat).releasable c.toNat k = none) →
    2 ^ 20 ≤ (Sp.get s.dieCycle d - t0).toNat → q.loaded = true → q.faults = [] → s.canPreempt p q = true → q.ctx ≠ 0 →
    ∃ (t : State) (y : Part), exec (.holdTimeout c) s = .next t ∧ part t p = some y ∧
      y.preempt = some { port := none, cause := 0x0D, since := s.dieCycle } ∧
      (t.port q.port).report = BitVec.ofNat 256 (0x2D + 2 ^ 8 * (p % 64) + 2 ^ 16 * (s.roundOf p % 2 ^ 16) + 2 ^ 104 * 0x0D))

/-- R8, R377, Table 17.1: a write to STATUS clears DONE by its bit 8 and writes HERR, and one of HERR's bytes alone leaves DONE; one to
WINSEL sets partition and base; one to LAUNCH writes its bytes of the record and leaves the others; one to TOKEN that is no write of 32
bytes counts in HERR; one to any other offset does nothing. HASP, STATUS and WINSEL read as the state of their fields, REPORT and LAUNCH
as they stand, and every other offset as zero. That the bytes of one write reach each register that they touch is the model's reading
(log entry 66). -/
def Sys2Proof.Stated.HostRegisters : Prop :=
  ∀ (q : Port) (s : State),
    (∀ v : W64, exec (.hostRegisterWrite q 0x110 (bytesOf 8 v.toNat)) s = .next (s.modPort q fun x =>
      { x with done := x.done && !v.getLsbD 8, herr := v.extractLsb' 32 16 })) ∧
    (∀ v : BitVec 16, exec (.hostRegisterWrite q 0x114 (bytesOf 2 v.toNat)) s = .next (s.modPort q fun x => { x with herr := v })) ∧
    (∀ v : W64, exec (.hostRegisterWrite q 0x118 (bytesOf 8 v.toNat)) s = .next (s.modPort q fun x =>
      { x with winPart := v.extractLsb' 0 6, winBase := v.extractLsb' 6 9 })) ∧
    (∀ (off : Nat) (l : List Byte), l ≠ [] → off + l.length ≤ 64 →
      ∃ r : BitVec 512, exec (.hostRegisterWrite q (BitVec.ofNat 16 (0x1000 + off)) l) s =
          .next (s.modPort q fun x => { x with launch := r }) ∧
        ∀ i, i < 64 → r.extractLsb' (8 * i) 8 =
          if off ≤ i ∧ i < off + l.length then l.getD (i - off) 0 else (s.port q).launch.extractLsb' (8 * i) 8) ∧
    (∀ l : List Byte, l ≠ [] → l.length < 32 →
      exec (.hostRegisterWrite q 0x200 l) s = .next (s.modPort q fun x => { x with herr := satInc x.herr })) ∧
    (∀ (off : BitVec 16) (l : List Byte), l ≠ [] →
      (∀ i, i < l.length → ¬(0x100 ≤ off.toNat + i ∧ off.toNat + i < 0x120) ∧ ¬(0x200 ≤ off.toNat + i ∧ off.toNat + i < 0x220) ∧
        ¬(0x1000 ≤ off.toNat + i ∧ off.toNat + i < 0x1040)) →
      exec (.hostRegisterWrite q off l) s = .next s) ∧
    natOf (s.bar0Read q 0x100 8) = 4 * (match s.hasp with | none => 0 | some .a => 1 | some .b => 2) ∧
    natOf (s.bar0Read q 0x110 8) = (s.port q).code.toNat + 2 ^ 8 * bit (s.port q).done + 2 ^ 9 * bit (s.port q).busy +
      2 ^ 10 * bit s.gradeLow + 2 ^ 32 * (s.port q).herr.toNat ∧
    natOf (s.bar0Read q 0x118 8) = (s.port q).winPart.toNat + 2 ^ 6 * (s.port q).winBase.toNat ∧
    natOf (s.bar0Read q 0x400 32) = (s.port q).report.toNat ∧ natOf (s.bar0Read q 0x1000 64) = (s.port q).launch.toNat ∧
    ∀ off : Nat, ¬(0x100 ≤ off ∧ off < 0x108) → ¬(0x110 ≤ off ∧ off < 0x120) → ¬(0x400 ≤ off ∧ off < 0x420) →
      ¬(0x1000 ≤ off ∧ off < 0x1040) → s.bar0Byte q off = 0

/-- R352, R377, R379, R383: a token of 32 bytes for a cell of a partition in a round becomes a message on channel 57, numbered by the
port; any other is discarded and counted; a window byte of scratchpad that the port may write is written, one that it may read is read;
an access that faults changes nothing but HERR, and one that a target's table refuses is counted there too. When a partition takes tokens,
and what becomes of one for a partition that stops, are the model's readings (log entry 78). -/
def Sys2Proof.Stated.HostAccess : Prop :=
  ∀ (q : Port) (s : State) (y : Part), part s (s.port q).winPart.toNat = some y →
    (∀ (d : V256) (z : Pos), d.extractLsb' 20 12 = 0 → s.holds (s.port q).winPart.toNat (d.extractLsb' 0 20).toNat = true →
      y.inRound = true → curPos s (d.extractLsb' 0 20).toNat = some z →
      ∃ (t : State) (m : Pkt), exec (.hostToken q d true) s = .next t ∧ t.mnet = s.mnet ++ [{ p := m, pos := routerOf z, vc := 0 }] ∧
        m.dest = d.extractLsb' 0 20 ∧ m.chan = 57 ∧ m.cls = 1 ∧ m.kind = 0 ∧ m.src = (if q = .a then 0 else 1) ∧
        m.seq = (s.port q).tokens ∧ m.pay = [BitVec.ofNat 256 (d.toNat / 2 ^ 64)] ∧ (t.port q).tokens = (s.port q).tokens + 1 ∧
        (t.port q).herr = (s.port q).herr) ∧
    (∀ (d : V256) (whole : Bool), whole = false ∨ y.inRound = false ∨ y.preempt ≠ none ∨ d.extractLsb' 20 12 ≠ 0 ∨
        s.holds (s.port q).winPart.toNat (d.extractLsb' 0 20).toNat = false →
      exec (.hostToken q d whole) s = .next (s.modPort q fun x => { x with herr := satInc x.herr })) ∧
    (∀ (off : BitVec 36) (b : Byte) (n o : Nat),
      s.hostAt q (s.port q).winPart.toNat y (((s.port q).winBase.toNat * 2 ^ 36 + off.toNat) % 2 ^ 45) true = .at_ (.pad n o) →
      s.cur = n → s.cell.sleepers = [] →
      ∃ t, exec (.bar2Write q off [b]) s = .next t ∧ t.cell.pad.mem = Sp.set s.cell.pad.mem o b ∧
        t.cell.thr = s.cell.thr ∧ t.portA = s.portA ∧ t.portB = s.portB ∧ t.store = s.store) ∧
    (∀ (off : BitVec 36) (bs : List Byte), bs ≠ [] → off.toNat + bs.length ≤ 2 ^ 36 →
      (∃ i < bs.length, s.hostAt q (s.port q).winPart.toNat y (((s.port q).winBase.toNat * 2 ^ 36 + off.toNat + i) % 2 ^ 45) true = .refused) →
      (∀ i < bs.length, ∀ k : Nat,
        s.hostAt q (s.port q).winPart.toNat y (((s.port q).winBase.toNat * 2 ^ 36 + off.toNat + i) % 2 ^ 45) true ≠ .denied k) →
      exec (.bar2Write q off bs) s = .next (s.modPort q fun x => { x with herr := satInc x.herr })) ∧
    (∀ (off : BitVec 36) (b : Byte) (k : Nat),
      s.hostAt q (s.port q).winPart.toNat y (((s.port q).winBase.toNat * 2 ^ 36 + off.toNat) % 2 ^ 45) true = .denied k →
      exec (.bar2Write q off [b]) s = .next ({ s with refused := Sp.set s.refused k (satInc (Sp.get s.refused k)) }.modPort q fun x =>
        { x with herr := satInc x.herr })) ∧
    (∀ (off : BitVec 36) (n o : Nat),
      s.hostAt q (s.port q).winPart.toNat y (((s.port q).winBase.toNat * 2 ^ 36 + off.toNat) % 2 ^ 45) false = .at_ (.pad n o) →
      s.cur = n → s.cell.badRead o 1 = none →
      ∃ t, exec (.bar2Read q off 1) s = .next t ∧ (t.port q).reads = (s.port q).reads ++ [some [Sp.get s.cell.pad.mem o]] ∧
        t.cell.pad.mem = s.cell.pad.mem ∧ (t.port q).herr = (s.port q).herr)

/-- R17, R19, R24, R300, R378 to R380, R385 to R387: power-up appends a record for each die that its self-test condemns and that none
records, merges the records whose fields are in order, numbers the live dies in ascending order, frees the hasp and opens both ports; a record is appended with the generation in force; management reads, which the
management port's entry grants, and a firmware update do only that; the watchdog ends requests in progress with BUSY; a gateway's tag
without an equal behind the link, or an edge of either side that the other has not, is reported as RANGE; a frame that a link brings goes to its node through a gateway, and without one is
dropped and counted. What of two buckets is compared, and the generation in a condemned die's record, are the model's readings (log entries
67 and 68). -/
def Obligations.Management : Prop :=
  ∀ s : State,
    (∀ failed : List DieSite, ∃ t, exec (.powerUp failed) s = .next t ∧ t.booted = true ∧ t.hasp = none ∧ t.parts = [] ∧ t.mnet = [] ∧
      t.delta = s.delta ++ s.condemn failed ∧
      (∀ d ∈ failed, ∃ r ∈ s.factory ++ t.delta, recOk r = true ∧ recKind r = 3 ∧ recDie r = d.toNat) ∧
      t.merged = (s.factory ++ t.delta).filter recOk ∧ t.taken = t.delta.length ∧ (t.port .a).busy = false ∧ (t.port .b).busy = false ∧
      (∀ d, d ∈ t.dieMap ↔ d < 64 ∧ d ∉ t.failed) ∧ List.Pairwise (· < ·) t.dieMap ∧ (∀ d ∈ failed, d.toNat ∈ t.failed) ∧
      t.mapgen = (if (t.delta.drop s.taken).any recOk then (if s.mapgen = 0xFFFFFFFF then 1 else s.mapgen + 1) else s.mapgen) ∧
      t.firmware = s.fwNew.getD s.firmware) ∧
    (∀ r : W64, exec (.deltaRecordAppend r) s = .next { s with
      delta := s.delta ++ [s.mapgen ++ r.extractLsb' 0 32] }) ∧
    (∀ m : MgmtItem, (∃ a ∈ s.mgmtAccess, a.1 = 128) → exec (.managementRead m) s = .next { s with mgmt := s.mgmt ++ s.mgmtRead m }) ∧
    (∀ v : W32, exec (.managementFirmwareUpdate v) s = .next { s with fwNew := some v }) ∧
    (∀ i : Image, s.images = [i] → (s.port .a).pend = none → (s.port .b).pend = none → (∀ e ∈ s.parts, e.2.preempt = none) →
      ∃ t, exec .controllerWatchdog s = .next t ∧ t.images = [] ∧ Ended s t i.port 3 ∧ t.parts = s.parts ∧ t.cell = s.cell) ∧
    (∀ (link : BitVec 4) (f : LinkFrame), s.gateways = [] →
      exec (.panelGatewayExchange link ⟨[], [f]⟩) s = .next { s with
        crossing := Sp.set s.crossing (256 + link.toNat) (satInc (Sp.get s.crossing (256 + link.toNat))) }) ∧
    ∀ (link : BitVec 4) (remote : List LinkTag) (g : Gateway) (x : Part) (tag : BitVec 12) (b : Bucket), s.gateways = [g] →
      g.link = link.toNat → part s g.part.toNat = some x → g.tags = [tag.toNat] → KM.get x.globals.bucks tag.toNat = some b →
      ((∀ w ∈ remote, w.word.toNat % 2 ^ 12 = tag.toNat → ¬(w.word.toNat % 2 ^ 21 = b.match_ tag.toNat ∧
          ∀ u, u ∈ w.ups ↔ u ∈ (x.globals.ups b.tree link.toNat).map fun n => (n.pname, BitVec.ofNat 3 n.lbl))) →
        ∃ t, exec (.panelGatewayExchange link ⟨remote, []⟩) s = .next t ∧
          (t.port x.port).report = BitVec.ofNat 256 (2 + 2 ^ 8 * g.part.toNat + 2 ^ 16 * (s.roundOf g.part.toNat % 2 ^ 16)) ∧
          (t.port x.port).msix = (s.port x.port).msix ++ [1] ∧ t.parts = s.parts) ∧
      ((∃ w ∈ remote, w.word.toNat % 2 ^ 12 = tag.toNat) →
        (∀ w ∈ remote, w.word.toNat % 2 ^ 12 = tag.toNat → w.word.toNat % 2 ^ 21 = b.match_ tag.toNat ∧
          ∀ u, u ∈ w.ups ↔ u ∈ (x.globals.ups b.tree link.toNat).map fun n => (n.pname, BitVec.ofNat 3 n.lbl)) →
        exec (.panelGatewayExchange link ⟨remote, []⟩) s = .next s ∧
        ∀ (c n : Name) (lbl : BitVec 3) (k : LinkPart), (link.toNat, g.part.toNat, true) ∈ s.linkAccess →
          x.farChild link.toNat tag.toNat n lbl.toNat = true →
          exec (.panelGatewayExchange link ⟨remote, [.contrib tag c n lbl k]⟩) s =
            .next (s.sput (.contrib g.part n lbl.toNat (linkContribution tag.toNat k))))

/-! ### The whole machine -/

/-- R47 to R53, Tables 02.4 to 02.8: the words of every well-formed instruction, whatever words follow them, decode to that instruction
with every operand. -/
def Obligations.EncodingsDecode : Prop := ∀ i : Instr, WellFormed i → ∀ r : List W32, decodeWords (encode i ++ r) = .ok (i, r)

/-- R47, R50, R53: what decodes is a well-formed instruction, and its words are those that were read: no word has two meanings, and no
field is passed over. -/
def Obligations.DecodedIsWellFormed : Prop :=
  ∀ (w0 w1 : W32) (i : Instr), decode w0 w1 = .ok i → WellFormed i ∧ encode i = if isLongWord w0 then [w0, w1] else [w0]

/-- The words that the entries of TRAP, BRK, BR, BCAST, SYSWR, SYSRD, TCTL, ADD, CGET, WAITA, SBIND, SEND, RATOM, LREL, RDCON, TIME, FENCE
and BWAIT write out decode to those instructions; a word with the reserved guard, an unassigned opcode, a reserved X or a nonzero unused
field does not decode. -/
def Obligations.WordsOfTheManual : Prop :=
  let plain : Hdr := ⟨false, false, 0⟩
  [0x00B00314, 0x00C02E00, 0x001FFFEC, 0x00602C30, 0x00F2010C, 0x00E24100, 0x00D00600, 0x59014245, 0x48B00524].map (decodeTableWord 32) =
    [some (.trap plain 3 5), some (.brk plain 0x2E 0), some (.br plain (-5)), some (.bcast plain 1 3 12), some (.syswr plain 8 0x043),
      some (.sysrd plain 9 0x040), some (.tctlResume plain 6), some (.add ⟨false, true, 3⟩ 5 2 0x11 1),
      some (.trap ⟨false, true, 1⟩ 5 9)] ∧
  [0x05218415, 0x02D1C827, 0x05090200, 0x05828C38, 0x85918413, 0x05B00000, 0x05B00004, 0x05B00301, 0x05C0C210, 0x05D0C000, 0x05D10001,
      0x05D1461E, 0x05E00001, 0x05E00004, 0x05E0000A, 0x05710308].map (decodeTableWord 32) =
    [some (.cget plain 6 4 5 1), some (.waita plain 7 8 9 3), some (.sbind plain 0x24 2), some (.send plain 10 12 14 0),
      some (.ratom ⟨true, false, 0⟩ 6 4 4 3), some (.lrel plain 0), some (.lrel plain 1), some (.lrelR plain 3),
      some (.rdcon plain 3 2 4), some (.timeTnow plain 3), some (.timeTgvt plain 4), some (.timeTdefer plain 5 6 7),
      some (.fence plain 0 1), some (.fence plain 1 0), some (.fence plain 2 2), some (.bwait plain 4 3 2)] ∧
  [0x40000000, 0x02500000, 0x00000001, 0x00000004].map (decodeTableWord 32) = [none, none, none, none]

/-- R46, R62, R63, R71: in its issue turn the cell chooses a thread that wants to issue; the words at that thread's pc decode, and the step
is that instruction's meaning, with time and the other threads' counts gone on, and with the late results that are in possibly written
within it (`Stated.ReadsMeetLateResults`); where the words are none, the thread raises ILLEGAL. An
event of the agenda, or, in the other turn, one of the enabled events, is the whole step. The turns and the agenda are the model's
(log entry 2). -/
def Obligations.StepsRunDecoded : Prop :=
  ∀ s : State,
    (∀ (t : TIdx) (u v : State), s.agenda = [] → s.turn = .issue → s.others = [] → u = { s.pass with turn := .engines } →
      u.cell.choice ((u.candidates.filter fun c => c.2.isNone).map (·.1)) = some t → (s.cell.th t).deferred = none →
      v = (modFocus (modFocus u (·.cycle u.candidates)) Cell.awake).issuing t →
      v.me.st = .running ∧ v.cell.last = t ∧ v.me.pc = (s.cell.th t).pc ∧ v.me.g = (s.cell.th t).g ∧
      (∀ i : Instr, WellFormed i → (∀ k, k < (encode i).length → s.cell.codeWord t ((s.cell.th t).pc.toNat + k) = (encode i)[k]?) →
        step s = exec i v.during ∧
        ((∀ o ∈ (s.cell.th t).outs, o.ready = false) → (∀ e ∈ s.cell.mx.queue.head?, e.t ≠ t) → step s = exec i v)) ∧
      (∀ w : W32, s.cell.codeWord t (s.cell.th t).pc.toNat = some w → isLongWord w = false → (∀ i, decode w 0 ≠ .ok i) →
        step s = .next v.illegal)) ∧
    (∀ (e : Instr) (r : List Instr), s.agenda = e :: r → step s = exec e { fresh s.pass with agenda := r }) ∧
    (∀ (u : State) (e : Instr), s.agenda = [] → s.turn = .engines → u = { s.pass with turn := .issue } →
      u.enabled[choose u u.enabled.length]? = some e → step s = exec e (fresh u))

/-- R63: the choice among eligible threads: one that has starved for 16 cycles or more and longest, the lowest of several; with none, one
of the highest level, the first after the thread that issued last. -/
def Obligations.ThreadChoice : Prop :=
  ∀ (c : Cell) (l : List TIdx),
    (c.choice l = none ↔ l = []) ∧
    ∀ t : TIdx, c.choice l = some t → t ∈ l ∧
      ((∃ u ∈ l, 16 ≤ (c.th u).starve) → 16 ≤ (c.th t).starve ∧
        ∀ u ∈ l, (c.th u).starve ≤ (c.th t).starve ∧ ((c.th u).starve = (c.th t).starve → t ≤ u)) ∧
      ((∀ u ∈ l, (c.th u).starve < 16) → ∀ u ∈ l, (c.th u).lvl.toNat ≤ (c.th t).lvl.toNat ∧
        ((c.th u).lvl = (c.th t).lvl → (t.val + 15 - c.last.val) % 8 ≤ (u.val + 15 - c.last.val) % 8))

namespace Sys2Proof.Stated

/-- The prefix is accepted by the vector instructions but VLOG, and by the matrix ones with element formats (R52). -/
def takesPrefix : Instr → Bool
  | .vadd .. | .vsub .. | .vmul .. | .vfma .. | .vminmax .. | .vun .. | .vred .. | .vcmp .. | .vsel .. | .vshuf .. | .vbc .. | .vsh ..
  | .vlane .. | .vscale .. | .vrint .. | .cvt .. | .qblk .. | .dqblk .. | .vspec .. | .mma .. | .mmaL .. | .mmr .. | .mmrL .. | .mstS ..
  | .mstR .. | .mstL .. => true
  | _ => false
/-- What the word, the thread's kind and place, and its formats make ILLEGAL, whether or not the guard passes (R48, R50, R60): destinations
that are none, sources that are none, fields, formats and modes that the entry excludes, and control that the thread may not issue or that
leaves the plane. -/
def excluded (s : State) : Instr → Bool
  | .br _ o | .call _ o => s.inBlock || !decide (0 ≤ (s.me.pc.toNat : Int) + o.toInt ∧ (s.me.pc.toNat : Int) + o.toInt ≤ 1023)
  | .jmp _ a | .callr _ a | .ret _ a => s.inBlock || !srcOk a
  | .loop _ a len x => s.inBlock || !srcOk a || len == 0 || decide (1023 < s.me.pc.toNat + len.toNat) ||
      (x == 1 && s.me.lp0.active && decide (s.me.lp0.stop.toNat < s.me.pc.toNat + len.toNat))
  | .stop _ => s.inHandler
  | .hret _ => !s.inHandler
  | .bcast _ m len off => !s.isLead || m == 0 || off == 0 || decide (1023 < s.me.pc.toNat + off.toNat + len.toNat)
  | .fetchb _ a => !s.inBlock || !srcOk a || s.me.pc.toNat != s.me.blkAt.toNat + s.me.blkLen.toNat
  | .joinm _ d a | .joinmF _ d a => !s.isLead || !okSpecs [d] [a]
  | .tctlResume _ a | .tctlKill _ a | .tctlReset _ a => !s.isLead || !srcOk a
  | .trap _ a _ | .brk _ a _ | .psetAll _ a | .wopen _ a _ | .binit _ a _ | .lrelR _ a | .cbload _ a | .mred _ _ a _ => !srcOk a
  | .sysrd _ d n => !dstOk d || !sysDefined n
  | .syswr _ d n => !dstOk d || (!sysDefined n && !sysWritePriv n)
  | .fpcWrite _ d | .prd _ d | .timeTnow _ d | .timeTgvt _ d | .barr _ d _ | .barrP _ d _ => !dstOk d
  | .add _ d a b x | .sub _ d a b x | .mul _ d a b x | .and _ d a b x | .or _ d a b x | .xor _ d a b x | .andn _ d a b x | .shl _ d a b x =>
      !okSpecs [d] (regsI a b x) || x == 3
  | .shr _ d a b x => !okSpecs [d] (if x = 0 ∨ x = 3 then [a, b] else [a])
  | .mulh _ d a b _ | .div _ d a b _ | .rem _ d a b _ | .vlog _ d a b _ => !okSpecs [d] [a, b]
  | .min _ d a b | .max _ d a b | .minu _ d a b | .maxu _ d a b | .rdcon _ d a b => !okSpecs [d] [a, b]
  | .timeTdefer _ d a b => !dstOk d || !srcOk a || !srcOk b
  | .bitc _ d a _ | .bwait _ d a _ => !okSpecs [d] [a]
  | .rdconE _ d a => !okSpecs [d] [a]
  | .ext _ d a sgn x => !okSpecs [d] [a] || decide (1 < sgn.toNat) || x == 3
  | .mov _ d a x => !okSpecs [d] [a] || decide (1 < x.toNat)
  | .cmp _ _ pd a b x => !okSpecs [] (regsI a b x) || x == 3 || pd == 0
  | .fcmp _ _ pd a b => !okSpecs [] [a, b] || pd == 0
  | .plog _ pd _ _ _ _ _ => pd == 0
  | .pset _ pd _ => pd == 0
  | .psetBit _ pd a _ => pd == 0 || !srcOk a
  | .ld _ d a _ _ | .st _ d a _ _ | .stL _ d a _ _ => !okSpecs [d] [a] || s.anyBound [d, a]
  | .ldv _ d a _ | .stv _ d a _ | .ldvBc _ d a _ => !okSpecs [d] [a] || s.anyBound [d, a]
  | .lds _ d a _ x => !okSpecs [d] [a] || x == 3 || s.anyBound [d, a]
  | .ldL _ d a sgn x _ => !okSpecs [d] [a] || decide (1 < sgn.toNat) || (sgn == 1 && x == 3) || s.anyBound [d, a]
  | .aop _ d a op => !okSpecs [d] [a] || decide (9 < op.toNat) || s.anyBound [d, a]
  | .waita _ d a b _ => !okSpecs [d] [a, b] || s.anyBound [d, a]
  | .vadd _ d a b x | .vsub _ d a b x | .vmul _ d a b x => !okSpecs [d] [a, b] || !isFN s.ef || (isF s.ef && decide (2 ≤ x.toNat))
  | .vfma _ d a b x => !okSpecs [d] [a, b, d] || !isF s.ef || x == 3
  | .vminmax _ d a b _ => !okSpecs [d] [a, b] || !isFN s.ef
  | .vun _ d a x => !okSpecs [d] [a] || !isFN s.ef || (x == 3 && !isF s.ef)
  | .vred _ d a _ => !okSpecs [d] [a] || !isFN s.ef
  | .vcmp _ _ _ a b _ => !okSpecs [] [a, b] || !isFN s.ef
  | .vsel _ d a b _ => !okSpecs [d] [a, b, d] || !isW s.ef
  | .vshuf _ d a b x => !okSpecs [d] (if x = 1 then [a, b, d] else [a, b]) || !isW s.ef || decide (fmtBits s.ef < 8)
  | .vbc _ d a b x => !okSpecs [d] (if x = 1 then [a, b] else [a]) || !isW s.ef || (x == 0 && decide (count s.ef ≤ b.toNat))
  | .vsh _ d a b _ => !okSpecs [d] [a, b] || !isShift s.ef
  | .vlane _ d a k x => !okSpecs [d] (if x = 2 then [a, d] else [a]) || x == 3 || !isW s.ef || decide (count s.ef ≤ k.toNat)
  | .vscale _ d a b _ => !okSpecs [d] [a, b] || !isF s.ef
  | .vrint _ d a _ => !okSpecs [d] [a] || !isF s.ef
  | .cvt _ d a t _ x => !okSpecs [d] [a] || cvtBad s.ef t x.toNat
  | .qblk _ d a b x => !dstOk d || !isG b || !isF s.ef || !(s.rf == 13 || ((s.rf == 11 || s.rf == 12) && !x.getLsbD 0)) ||
      !spanOk a (spanLen s.ef)
  | .dqblk _ d a b x => !okSpecs [] [a, b] || !(decide (11 ≤ s.ef.toNat) && isW s.ef) || !isF s.rf || decide (blocksOf s.ef ≤ x.toNat) ||
      !spanOk d (spanLen s.rf)
  | .vspec _ d a fn => !okSpecs [d] [a] || !isF s.ef || decide (7 < fn.toNat)
  | .pfx _ _ _ sc _ | .setfmt _ sc _ _ _ => !scaleOk sc
  | .mlease _ d m | .mleaseTry _ d m => !dstOk d || m == 0
  | .mrel _ m | .mzero _ m => m == 0
  | .mma _ _ m a b x => (x != 1 && m != 0) || (match s.mode x with | none => true | some k => !s.runOk a k.ga || !s.runOk b k.gb)
  | .mmaL _ _ a b x _ skip mbase => !longOk a || !longOk b || (s.modeBy x (s.byStream a) (s.byStream b)).isNone ||
      (x != 1 && (skip != 0 || mbase != 0))
  | .mmr _ _ a b _ => (match s.mode 0 with | none => true | some k => !s.runOk a k.ga || !spanOk b k.gb)
  | .mmrL _ _ a b _ _ => (match s.modeBy 0 (s.byStream a) true with | none => true | some k => !longOk a || !spanOk b k.gb)
  | .mstS _ _ a _ => !srcOk a || !mstOk (s.me.mstFmt false)
  | .mstR _ d _ => !mstOk (s.me.mstFmt false) || !spanOk d (fmtBits (s.me.mstFmt false) / 4)
  | .mstL _ _ a _ => !srcOk a || !mstOk (s.me.mstFmt true)
  | .sbind _ d a => !isStrm d || !srcOk a
  | .sbindL _ d _ _ => !isStrm d
  | .sctlUnbind _ d | .sctlDrain _ d | .sctlRewind _ d => !isStrm d
  | .cget _ d a b x | .cput _ d a b x => x == 3 || !(decide (d.toNat < 42) && decide (a.toNat < 42) && decide (b.toNat < 42))
  | .cgetL _ d a b x _ _ | .cputL _ d a b x _ _ => x == 3 || !(decide (d.toNat < 42) && decide (a.toNat < 42) && decide (b.toNat < 42))
  | .send _ d a b x => !dstOk d || !srcOk b || !payloadOk a x
  | .sendL _ a b x _ _ _ => !srcOk b || !payloadOk a x
  | .ratom _ d a _ _ => !decide (d.toNat < 42) || !srcOk a
  | .ratomL _ d a _ _ _ => !decide (d.toNat < 42) || !srcOk a
  | .clmask _ d a x => x == 3 || !okSpecs [d] [a]
  | .fence _ kind x => decide (2 < kind.toNat) || x == 3
  | .movi _ d x _ => !dstOk d || x == 3
  | .addi _ d a x _ | .andi _ d a x _ | .ori _ d a x _ => !okSpecs [d] [a] || decide (1 < x.toNat)
  | .bfx _ d a x lsb wm1 => !okSpecs [d] [a] || decide (1 < x.toNat) || decide (64 < lsb.toNat + wm1.toNat + 1)
  | .bfi _ d a lsb wm1 => !okSpecs [d] [a] || decide (64 < lsb.toNat + wm1.toNat + 1)
  | .rdconL _ d a x _ _ => decide (1 < x.toNat) || !okSpecs [d] [a]
  | _ => false
/-- A matrix instruction is not eligible while the queue is full, or, for MMR and MMR.L, while the exchange of its direction is under way;
DIV and REM are not while the divider is at work (R62, R103, R179, R203). -/
def unitTaken (s : State) : Instr → Option Need
  | .mmr _ _ _ _ x | .mmrL _ _ _ _ x _ =>
    if s.cell.torusBusy x then some (.torus x) else if 4 ≤ s.cell.mx.queue.length then some .matrixRoom else none
  | .mlease .. | .mleaseTry .. | .mrel .. | .mzero .. | .mma .. | .mmaL .. | .mstS .. | .mstR .. | .mstL .. | .cbload .. | .mred .. =>
    if 4 ≤ s.cell.mx.queue.length then some .matrixRoom else none
  | .div .. | .rem .. => if (∃ t : TIdx, ∃ o ∈ (s.cell.th t).outs, o.kind = .divider) then some .divider else none
  | _ => none
/-- A SYSWR to a register that no software writes (R107). -/
def writesFixed : Instr → Bool
  | .syswr _ _ n => sysWritePriv n
  | _ => false

end Sys2Proof.Stated

/-- R47, R50, R51, R60, R62, R66, R103, R107: an instruction whose guard does not pass only goes on and uses up a pending prefix; but a matrix
instruction that the unit cannot take waits, and so do DIV and REM while the divider is at work; one that its word, its thread or its formats exclude, or a prefix that it does not accept, is
ILLEGAL; and a SYSWR to a register that cannot be written is PRIV. -/
def Sys2Proof.Stated.GuardsHoldBack : Prop :=
  ∀ (i : Instr) (w : W32) (ws : List W32) (s : State), WellFormed i → encode i = w :: ws → s.me.guard (Decode.hdr w) = false →
    (∀ n, unitTaken s i = some n → exec i s = .next (parked n s)) ∧
    (unitTaken s i = none →
      (excluded s i = true ∨ (s.me.pp = true ∧ takesPrefix i = false) → exec i s = .next s.illegal) ∧
      (excluded s i = false → (s.me.pp = true → takesPrefix i = true) →
        (writesFixed i = true → exec i s = .next (s.fault s.cell.last (faultAt 0x04 s.me.pc 0))) ∧
        (writesFixed i = false → exec i s = .next (s.usePfx.fall s.cell.last (encode i).length (Decode.hdr w).w))))

/-- R48, R50, R52: a scalar instruction whose destination is a k or c register or 0x2F, that reads 0x2F, or that follows a prefix, is
ILLEGAL, whether or not its guard passes. -/
def Sys2Proof.Stated.SpecifiersAreChecked : Prop :=
  ∀ (i : Instr) (f : Form) (s : State), scalarForm i = some f →
    (0x2A ≤ f.d.toNat ∧ f.d.toNat ≠ 0x2E) ∨ (∃ a ∈ f.srcs, a.toNat = 0x2F) ∨ s.me.pp = true → exec i s = .next s.illegal

/-- Table 02.5, R41, R48, R73: what each operand specifier reads, and what a write to it changes. -/
def Sys2Proof.Stated.RegistersByName : Prop :=
  ∀ (c : Cell) (t : TIdx) (v : V256) (n : Nat),
    (n < 32 → c.reg t (BitVec.ofNat 6 n) = (c.th t).g.getD n 0 ∧
      ((c.th t).setReg (BitVec.ofNat 6 n) v).g.getD n 0 = v ∧
      (∀ m, m ≠ n → ((c.th t).setReg (BitVec.ofNat 6 n) v).g.getD m 0 = (c.th t).g.getD m 0) ∧
      ((c.th t).setReg (BitVec.ofNat 6 n) v).q = (c.th t).q) ∧
    (n < 8 → c.reg t (BitVec.ofNat 6 (32 + n)) = (c.th t).q.getD n 0 ∧
      ((c.th t).setReg (BitVec.ofNat 6 (32 + n)) v).q.getD n 0 = v ∧
      (∀ m, m ≠ n → ((c.th t).setReg (BitVec.ofNat 6 (32 + n)) v).q.getD m 0 = (c.th t).q.getD m 0) ∧
      ((c.th t).setReg (BitVec.ofNat 6 (32 + n)) v).g = (c.th t).g) ∧
    c.reg t 0x28 = (c.th t).y0 ∧ c.reg t 0x29 = (c.th t).y1 ∧ c.reg t 0x2E = 0 ∧ (c.th t).setReg 0x2E v = c.th t ∧
    (∀ u : TIdx, n < 4 → (c.th t).link.toNat / 2 ^ (8 * n) % 8 = u.val →
      c.reg t (BitVec.ofNat 6 (0x2A + n)) = (c.th u).g.getD ((c.th t).link.toNat / 2 ^ (8 * n + 3) % 32) 0) ∧
    (n < 16 → ∀ j, j < 8 → el (c.reg t (BitVec.ofNat 6 (0x30 + n))) 32 j = (Sp.get c.plane.active.consts (8 * n + j)).toNat)

namespace Sys2Proof.Stated

/-- The state with the front packet of each bound read stream of the issuing thread in its stream register; an exhausted one gives zero
(R233, R235). -/
def fronts (s : State) : State :=
  s.modMe fun x => { x with q := Vector.ofFn fun n : Fin 8 =>
    if h : 4 ≤ n.val then
      if s.cell.eng.strm[n.val - 4].bound = true ∧ s.cell.eng.strm[n.val - 4].own = s.cell.last ∧ s.cell.eng.strm[n.val - 4].isWrite = false then
        s.cell.eng.strm[n.val - 4].buf.headD 0
      else x.q[n]
    else x.q[n] }
/-- Every stream register among an instruction's sources is a read stream that has a packet to give, or none to come (R233). -/
def Fed (s : State) (l : List Spec) : Prop :=
  ∀ a ∈ l, ∀ e, s.cell.bound s.cell.last a = some e → s.cell.eng.strm[e].isWrite = false ∧ s.cell.eng.strm[e].popBlocked = false

end Sys2Proof.Stated

/-- R151, R233, R235: a vector instruction that names bound streams reads the front packet of each wherever it names it and pops each once;
its whole result goes to D, or, where D names a write stream, is pushed there. MOV from a bound stream register takes its front packet, parks while there is none to come yet, and reads zero when
none is left; MOV to one appends its packet, parks while the buffer is full, the results due to it counted, and is lost past the last. That
results still due to a stream count as packets of it, and that a packet past the last is lost at once, are the model's readings (log entries
93 and 112). -/
def Sys2Proof.Stated.StreamOperands : Prop :=
  (∀ (i : Instr) (f : VForm) (s : State) (pc : BitVec 10) (l0 l1 : Loop), vectorForm (fronts s) i = some f → s.me.guard f.h = true → s.me.cuts = [] →
    Follows s 1 pc l0 l1 → dstOk f.d = true → f.srcs.all srcOk = true → Fed s f.srcs →
    (s.cell.bound s.cell.last f.d = none →
      ∃ (v : V256) (t : State), exec i s = .next t ∧ (∀ j, j < 256 / fmtBits s.ef → el v (fmtBits s.ef) j = f.elem j % 2 ^ fmtBits s.ef) ∧
        t.me = goes pc l0 l1 f.h.w ((s.me.setReg f.d v).last f.d v) ∧ t.cell.pad = s.cell.pad ∧
        ∀ e : Fin 4, t.cell.eng.strm[e] =
          if (∃ a ∈ f.srcs, s.cell.bound s.cell.last a = some e) then s.cell.eng.strm[e].pop else s.cell.eng.strm[e]) ∧
    ∀ e : Fin 4, s.cell.bound s.cell.last f.d = some e → f.d ∉ f.srcs → s.cell.eng.strm[e].isWrite = true →
      s.cell.eng.strm[e].err = false → s.cell.eng.strm[e].exh = false → s.cell.eng.strm[e].fetch < s.cell.eng.strm[e].packets →
      s.cell.eng.strm[e].buf.length + (s.me.outs.filter fun o => o.d.toNat == 36 + e.val).length < 4 →
      ∃ (v : V256) (t : State), exec i s = .next t ∧ (∀ j, j < 256 / fmtBits s.ef → el v (fmtBits s.ef) j = f.elem j % 2 ^ fmtBits s.ef) ∧
        t.me = goes pc l0 l1 f.h.w (s.me.last f.d v) ∧ t.cell.eng.strm[e].buf = s.cell.eng.strm[e].buf ++ [v] ∧
        t.cell.eng.strm[e].pos = s.cell.eng.strm[e].pos + 1 ∧ t.cell.pad = s.cell.pad) ∧
  ∀ (h : Hdr) (d a : Spec) (e : Fin 4) (s : State) (pc : BitVec 10) (l0 l1 : Loop), Passes s h → Follows s 1 pc l0 l1 →
    (∀ (v : V256) (r : List V256), s.cell.bound s.cell.last a = some e → s.cell.bound s.cell.last d = none → d.toNat < 40 →
      s.cell.eng.strm[e].isWrite = false → s.cell.eng.strm[e].buf = v :: r →
      ∃ t, exec (.mov h d a 0) s = .next t ∧ t.cell.eng.strm[e].buf = r ∧ t.cell.eng.strm[e].pos = s.cell.eng.strm[e].pos + 1 ∧
        t.cell.reg s.cell.last d = v ∧ t.me.y0 = v ∧ t.me.y1 = s.me.y0 ∧ t.me.pc = pc ∧ t.cell.pad = s.cell.pad) ∧
    (s.cell.bound s.cell.last a = some e → s.cell.bound s.cell.last d = none → dstOk d = true → s.cell.eng.strm[e].isWrite = false →
      s.cell.eng.strm[e].buf = [] → s.cell.eng.strm[e].err = false → s.cell.eng.strm[e].exh = false →
      exec (.mov h d a 0) s = .next (parked (.packets e 1) s)) ∧
    (s.cell.bound s.cell.last a = some e → s.cell.bound s.cell.last d = none → d.toNat < 40 → s.cell.eng.strm[e].isWrite = false →
      s.cell.eng.strm[e].buf = [] → s.cell.eng.strm[e].exh = true →
      ∃ t, exec (.mov h d a 0) s = .next t ∧ t.cell.reg s.cell.last d = 0 ∧ t.cell.eng.strm[e].ovr = true ∧ t.me.pc = pc) ∧
    (s.cell.bound s.cell.last d = some e → s.cell.bound s.cell.last a = none → srcOk a = true → s.cell.eng.strm[e].isWrite = true →
      s.cell.eng.strm[e].err = false → s.cell.eng.strm[e].exh = false →
      (s.cell.eng.strm[e].fetch < s.cell.eng.strm[e].packets →
        s.cell.eng.strm[e].buf.length + (s.me.outs.filter fun o => o.d.toNat == 36 + e.val).length < 4 →
        ∃ t, exec (.mov h d a 0) s = .next t ∧ t.cell.eng.strm[e].buf = s.cell.eng.strm[e].buf ++ [reg s a] ∧
          t.cell.eng.strm[e].pos = s.cell.eng.strm[e].pos + 1 ∧ t.cell.eng.strm[e].fetch = s.cell.eng.strm[e].fetch + 1 ∧
          t.me.q = s.me.q ∧ t.me.y0 = reg s a ∧ t.me.pc = pc) ∧
      (4 ≤ s.cell.eng.strm[e].buf.length + (s.me.outs.filter fun o => o.d.toNat == 36 + e.val).length →
        exec (.mov h d a 0) s = .next (parked (.room e) s)) ∧
      (s.cell.eng.strm[e].packets ≤ s.cell.eng.strm[e].fetch →
        s.cell.eng.strm[e].buf.length + (s.me.outs.filter fun o => o.d.toNat == 36 + e.val).length < 4 →
        ∃ t, exec (.mov h d a 0) s = .next t ∧ t.cell.eng.strm[e].buf = s.cell.eng.strm[e].buf ∧ t.cell.eng.strm[e].ovr = true ∧
          t.cell.eng.strm[e].pos = s.cell.eng.strm[e].pos ∧ t.me.pc = pc))

/-- R97, R365 to R370: a thread that faults with nothing outstanding takes its exception at once, its registers and its pc as they were; one
with results outstanding first waits for them; a fault of a journaled handler above GVT is held; one of a thread that T0 awaits in a BCAST
faults T0 too, with WAIT_DEADLOCK at the BCAST's address. That a held fault sets FTID to the thread's own number is the model's reading (log
entry 83). -/
def Sys2Proof.Stated.FaultsAreTaken : Prop :=
  ∀ (s : State) (r : FaultRec),
    (s.me.outs = [] → s.cell.holdsFault s.cell.last = false → s.cell.bcastAwaits s.cell.last = false → r.cause ≠ 0x07 →
      (r.cause = 0x09 → s.debug = false) → s.fault s.cell.last r = taken s r ∧ (s.fault s.cell.last r).me.g = s.me.g ∧ (s.fault s.cell.last r).me.q = s.me.q) ∧
    (s.me.outs ≠ [] → s.fault s.cell.last r = s.modMe fun x => { x with st := .parked, wait := .finish (.fault r), wmark := false }) ∧
    (s.me.outs = [] → s.cell.bcastAwaits s.cell.last = true → s.cell.holdsFault s.cell.last = false → s.cell.holdsFault 0 = false →
      s.cell.last ≠ 0 → (s.cell.th 0).outs = [] →
      ((s.fault s.cell.last r).cell.th 0).st = .faulted ∧ ((s.fault s.cell.last r).cell.th 0).fcause.toNat % 2 ^ 8 = 0x07 ∧
        ((s.fault s.cell.last r).cell.th 0).fpc = (s.cell.th 0).pc ∧ (s.fault s.cell.last r).me.st = .faulted) ∧
    (s.me.outs = [] → s.cell.holdsFault s.cell.last = true → s.cell.bcastAwaits s.cell.last = false →
      ∃ u, s.fault s.cell.last r = u ∧ u.me.st = .faulted ∧ u.me.ftid.toNat = s.cell.last.val ∧
      u.me.fcause = (faulting s r).me.fcause ∧ u.me.fpc = r.fpc ∧ u.cell.lead = s.cell.lead ∧ u.cell.inbox = s.cell.inbox ∧
      (∀ x, u.cell.tim.run = some x → x.held = true))

/-- R206, R209, R211: what a read of scratchpad leaves: words with a correctable error are counted and mended, those with another are
counted, and the last one is recorded with LV set; what a write leaves: its bytes, lowest first, and fresh check bits for each word written whole. -/
def Sys2Proof.Stated.ScratchpadChecks : Prop :=
  ∀ (p : Pad) (a n v : Nat),
    (p.touch (wordsOf a n)).mem = p.mem ∧
    (∀ w, w ∈ (p.touch (wordsOf a n)).ecc1 ↔ w ∈ p.ecc1 ∧ w ∉ wordsOf a n) ∧ (p.touch (wordsOf a n)).ecc2 = p.ecc2 ∧
    (p.touch (wordsOf a n)).corr.toNat = min (2 ^ 16 - 1) (p.corr.toNat + ((wordsOf a n).filter fun w => decide (w ∈ p.ecc1)).length) ∧
    (p.touch (wordsOf a n)).uncorr.toNat = min (2 ^ 16 - 1) (p.uncorr.toNat + ((wordsOf a n).filter fun w => decide (w ∈ p.ecc2)).length) ∧
    ((∀ w ∈ wordsOf a n, w ∉ p.ecc2) → (p.touch (wordsOf a n)).last = p.last ∧ (p.touch (wordsOf a n)).lv = p.lv) ∧
    (∀ w ∈ wordsOf a n, w ∈ p.ecc2 → (∀ u ∈ wordsOf a n, w < u → u ∉ p.ecc2) →
      (p.touch (wordsOf a n)).last = BitVec.ofNat 15 w ∧ (p.touch (wordsOf a n)).lv = true) ∧
    (∀ w, w ∈ wordsOf a n ↔ w % 8 = 0 ∧ w < a + n ∧ a < w + 8 ∧ n ≠ 0) ∧
    (Memory.wf p.mem = true →
      (∀ k, k < n → Memory.readNat (p.write a n v).mem (a + k) 1 = v / 2 ^ (8 * k) % 256) ∧
      (∀ b, b < a ∨ a + n ≤ b → Memory.readNat (p.write a n v).mem b 1 = Memory.readNat p.mem b 1)) ∧
    (∀ w, w ∈ (p.write a n v).ecc2 ↔ w ∈ p.ecc2 ∧ ¬(w ∈ wordsOf a n ∧ a ≤ w ∧ w + 8 ≤ a + n))

namespace Sys2Proof.Stated

/-- Every memory and every table of the panel is in its canonical form. -/
def Canonical (s : State) : Prop :=
  Memory.wf s.cell.pad.mem = true ∧ (∀ x ∈ s.others, Memory.wf x.2.pad.mem = true) ∧ Memory.wf s.store = true ∧
  Memory.wf s.tables = true ∧ Memory.wf s.hostMem = true ∧ (∀ c ∈ s.saved, Memory.wf c.pad.mem = true) ∧
  (∀ k ∈ s.savedParts, Memory.wf k.tabs = true) ∧ KM.wf s.others = true ∧ KM.wf s.parts = true ∧ KM.wf s.tumblers = true

end Sys2Proof.Stated

/-- R6, R209: equal memories are equal data: every step keeps scratchpads, weight stores, page tables, host memory and the tables of cells,
partitions and tumblers in their canonical form, from every state that has it. -/
def Obligations.CanonicalFormIsKept : Prop := ∀ s t : State, Canonical s → step s = .next t → Canonical t

/-- R36, R78, R139, R140, R184, R248, R327, R385: what power-up leaves: ports busy and not done, nothing booted, no die numbered, no
partition, no load, T0 stopped and the other threads free, all with the register values that the manual gives, memories with nothing listed,
in canonical form. That T0 is stopped before a first round, and that the weight store starts with zeros, are the model's choices (log entries 3 and 6). -/
def Obligations.ResetState : Prop :=
  let s := State.reset
  s.portA.busy = true ∧ s.portB.busy = true ∧ s.portA.done = false ∧ s.portB.done = false ∧ s.booted = false ∧ s.dieMap = [] ∧
  s.parts = [] ∧ s.hasp = none ∧ s.cell.plane.loaded = false ∧ s.cell.pad.mem = [] ∧ s.store = [] ∧ s.cell.mx.mlcap = 0x924924 ∧
  (s.cell.th 0).st = .stopped ∧ (∀ t : TIdx, t ≠ 0 → (s.cell.th t).st = .free) ∧
  (∀ t : TIdx, (s.cell.th t).fmt = 0x2E00 ∧ (s.cell.th t).mshape = 0x0BAE33 ∧ (s.cell.th t).pp = false ∧
    (s.cell.th t).link = 0) ∧
  Canonical s

/-- LONG_LATENCY_WRITEBACK, BCAST_DELIVERY, JOINM_COMPLETE, SPILL_QUEUE_BIND, INGRESS_TO_SPILL, LATCHED_EVENT_ENTRY, DEPOSIT_COMPLETE,
LEASE_GRANT and DROWSY_ENTRY take effect as if their cell were in hand, and the cell in hand before is in hand again after them (the model's
choice, log entry 2). -/
def Obligations.EventsFindTheirCell : Prop :=
  ∀ (c : Name) (u : TIdx) (k : Nat) (s : State) (e : Instr),
    e ∈ [Instr.longLatencyWriteback c u k, .bcastDelivery c, .joinmComplete c, .spillQueueBind c, .ingressToSpill c, .latchedEventEntry c,
      .depositComplete c u, .leaseGrant c, .drowsyEntry c] →
    ∃ t, exec e (focus s c.toNat) = .next t ∧ exec e s = .next (focus t s.cur)

/-! ### Rules stated whole -/

namespace Sys2Proof.Stated

/-- A word of layout S, I or C by its fields (Tables 02.4, 02.6). -/
def wordOf (h : Hdr) (op d a b x : Nat) : W32 :=
  BitVec.ofNat 32 (2 ^ 31 * bit h.w + 2 ^ 30 * bit h.gn + 2 ^ 27 * h.gp.toNat + 2 ^ 20 * op + 2 ^ 14 * d + 2 ^ 8 * a + 2 ^ 2 * b + x)
/-- The word is this instruction. -/
def Is (w : W32) (i : Instr) : Prop := decode w 0 = .ok i
/-- The word is no instruction: it raises ILLEGAL (R50). -/
def IsNone (w : W32) : Prop := ∀ i, decode w 0 ≠ .ok i
/-- The instruction runs, leaves `v` in lane 0 of D, and changes nothing else. -/
def Gives (i : Instr) (h : Hdr) (d : Spec) (s : State) (pc : BitVec 10) (l0 l1 : Loop) (v : W64) : Prop :=
  exec i s = .next (s.modMe fun y => goes pc l0 l1 h.w ((y.setReg d (setLane0 (held s d) v)).last d (setLane0 (held s d) v)))

end Sys2Proof.Stated

/-- R113 to R116, Table 04.7: SHR, MIN, MAX, MINU, MAXU, BITC and EXT: their words, the reserved values of their fields, and the value
that each leaves in lane 0 of D. -/
def Obligations.ScalarRulesInFull : Prop :=
  (∀ (h : Hdr) (d a b : BitVec 6) (x : BitVec 2), ¬(h.gn = true ∧ h.gp = 0) →
    Is (wordOf h 0x1B d.toNat a.toNat b.toNat x.toNat) (.shr h d a b x) ∧
    Is (wordOf h 0x1C d.toNat a.toNat b.toNat x.toNat)
      (if x = 0 then .min h d a b else if x = 1 then .max h d a b else if x = 2 then .minu h d a b else .maxu h d a b) ∧
    (b = 0 → Is (wordOf h 0x1D d.toNat a.toNat b.toNat x.toNat) (.bitc h d a x)) ∧
    (b ≠ 0 → IsNone (wordOf h 0x1D d.toNat a.toNat b.toNat x.toNat)) ∧
    (b.toNat ≤ 1 → x ≠ 3 → Is (wordOf h 0x1E d.toNat a.toNat b.toNat x.toNat) (.ext h d a b x)) ∧
    (1 < b.toNat ∨ x = 3 → IsNone (wordOf h 0x1E d.toNat a.toNat b.toNat x.toNat))) ∧
  ∀ (h : Hdr) (d a b : Spec) (x : BitVec 2) (s : State) (pc : BitVec 10) (l0 l1 : Loop), dstOk d = true → srcOk a = true →
    s.anyBound [d, a] = false → Passes s h → Follows s 1 pc l0 l1 →
    (∀ n : Nat, (x = 0 ∨ x = 3 → srcOk b = true ∧ s.anyBound [b] = false ∧ n = (lane s b).toNat) → (x = 1 ∨ x = 2 → n = b.toNat) →
      Gives (.shr h d a b x) h d s pc l0 l1
        (if x = 0 ∨ x = 1 then (if n < 64 then BitVec.ofNat 64 ((lane s a).toNat / 2 ^ n) else 0)
         else BitVec.ofInt 64 ((lane s a).toInt / 2 ^ min n 63))) ∧
    (srcOk b = true → s.anyBound [b] = false →
      Gives (.min h d a b) h d s pc l0 l1 (if (lane s a).toInt ≤ (lane s b).toInt then lane s a else lane s b) ∧
      Gives (.max h d a b) h d s pc l0 l1 (if (lane s b).toInt ≤ (lane s a).toInt then lane s a else lane s b) ∧
      Gives (.minu h d a b) h d s pc l0 l1 (if (lane s a).toNat ≤ (lane s b).toNat then lane s a else lane s b) ∧
      Gives (.maxu h d a b) h d s pc l0 l1 (if (lane s b).toNat ≤ (lane s a).toNat then lane s a else lane s b)) ∧
    (∃ v : W64, Gives (.bitc h d a 0) h d s pc l0 l1 v ∧ v.toNat ≤ 64 ∧ (∀ i, 64 - v.toNat ≤ i → (lane s a).getLsbD i = false) ∧
      (v.toNat < 64 → (lane s a).getLsbD (63 - v.toNat) = true)) ∧
    (∃ v : W64, Gives (.bitc h d a 1) h d s pc l0 l1 v ∧ v.toNat ≤ 64 ∧ (∀ i, i < v.toNat → (lane s a).getLsbD i = false) ∧
      (v.toNat < 64 → (lane s a).getLsbD v.toNat = true)) ∧
    Gives (.bitc h d a 2) h d s pc l0 l1 (BitVec.ofNat 64 ((List.range 64).filter fun i => (lane s a).getLsbD i).length) ∧
    (∃ v : W64, Gives (.bitc h d a 3) h d s pc l0 l1 v ∧ ∀ i, i < 64 → v.getLsbD (63 - i) = (lane s a).getLsbD i) ∧
    (∀ e : BitVec 6, e.toNat ≤ 1 → x ≠ 3 →
      ∃ v : W64, Gives (.ext h d a e x) h d s pc l0 l1 v ∧
        ∀ i, i < 64 → v.getLsbD i = if i < 8 * 2 ^ x.toNat then (lane s a).getLsbD i
          else e == 1 && (lane s a).getLsbD (8 * 2 ^ x.toNat - 1))

/-- R118, R119, Tables 04.8, 04.9: CMP and FCMP: their words, the reserved values of X, ILLEGAL for a destination p0 whether or not the
guard passes, and the predicate that each leaves; a NaN raises nothing. -/
def Obligations.CompareRulesInFull : Prop :=
  (∀ (h : Hdr) (cond pd : BitVec 3) (a b : BitVec 6) (x : BitVec 2), ¬(h.gn = true ∧ h.gp = 0) →
    (x ≠ 3 → Is (wordOf h 0x20 (8 * cond.toNat + pd.toNat) a.toNat b.toNat x.toNat) (.cmp h cond pd a b x)) ∧
    (x = 3 → IsNone (wordOf h 0x20 (8 * cond.toNat + pd.toNat) a.toNat b.toNat x.toNat)) ∧
    (x = 0 → Is (wordOf h 0x21 (8 * cond.toNat + pd.toNat) a.toNat b.toNat x.toNat) (.fcmp h cond pd a b)) ∧
    (x ≠ 0 → IsNone (wordOf h 0x21 (8 * cond.toNat + pd.toNat) a.toNat b.toNat x.toNat))) ∧
  (∀ (h : Hdr) (cond : BitVec 3) (a b : BitVec 6) (x : BitVec 2) (s : State), s.me.wait = .none →
    exec (.cmp h cond 0 a b x) s = .next s.illegal ∧ exec (.fcmp h cond 0 a b) s = .next s.illegal) ∧
  ∀ (h : Hdr) (cond pd : BitVec 3) (a b : BitVec 6) (x : BitVec 2) (s : State) (pc : BitVec 10) (l0 l1 : Loop), pd ≠ 0 → Passes s h →
    Follows s 1 pc l0 l1 →
    (x ≠ 3 → (regsI a b x).all srcOk = true → s.anyBound (regsI a b x) = false →
      SetsPred (.cmp h cond pd a b x) s pc l0 l1 h.w pd (compares cond (lane s a) (opI s b x))) ∧
    (srcOk a = true → srcOk b = true → s.anyBound [a, b] = false →
      SetsPred (.fcmp h cond pd a b) s pc l0 l1 h.w pd (fcompares cond ((lane s a).setWidth 32) ((lane s b).setWidth 32)))

namespace Sys2Proof.Stated

/-- The hasp is free, and of the rest only the ports' access entries are what its holder has left in them, which is a free value (R378,
R379, assumption 18). -/
def LeftHasp (s : State) (r : Answer) : Prop :=
  ∃ l, r = .next { s with hasp := none, portAccess := l, freeIx := s.freeIx + 1 }

end Sys2Proof.Stated

/-- R378: only the holder's doorbell is accepted for LAUNCH, PREEMPT, RESTORE, RELEASE, POWER and GATEWAY, any other port gets NOTOWNER
and nothing else happens; NEXT and ROUND do the same whoever holds the hasp; an ACQ takes a free hasp and leaves a held one; of two ACQs
that arrive together the port that held it last gives way, after boot port B; REL of the holder, its link staying down, and the
management port free the hasp, and change nothing else but the ports' access entries, which are then as the holder has left them, so a
request accepted before runs on. What the holder writes there is a free value (assumption 18). That two ACQs that stand next to each other on
the agenda are of one cycle, and that a write of fewer bytes than the register has acts by those it brings, are the model's readings (log
entries 48 and 66). -/
def Obligations.HaspGrantsOwnership : Prop :=
  (∀ (q : Port) (b : Byte) (r : List Byte) (s : State), b.getLsbD 0 = true → r.length < 8 → (s.port q).busy = false →
    (recOp (s.port q).launch ∈ [1, 4, 5, 6, 7, 8] → s.hasp ≠ some q →
      exec (.hostRegisterWrite q 0x108 (b :: r)) s = .next (s.endReq q (recPart (s.port q).launch) 0x10)) ∧
    (recOp (s.port q).launch ∈ [2, 3] → ∀ x : Option Port,
      ∃ t, exec (.hostRegisterWrite q 0x108 (b :: r)) s = .next t ∧
        exec (.hostRegisterWrite q 0x108 (b :: r)) { s with hasp := x } = .next { t with hasp := x })) ∧
  (∀ (q : Port) (b : Byte) (k : List Byte) (s : State), s.booted = true → b.getLsbD 0 = true → b.getLsbD 1 = false → k.length < 8 →
    (∀ r : Port, s.hasp = some r → exec (.hostRegisterWrite q 0x100 (b :: k)) s = .next s ∧ exec (.haspAcq q) s = .next s) ∧
    (s.hasp = none → s.haspLast ≠ q ∨ s.agenda = [] →
      exec (.hostRegisterWrite q 0x100 (b :: k)) s = .next { s with hasp := some q, haspLast := q } ∧
      exec (.haspAcq q) s = .next { s with hasp := some q, haspLast := q }) ∧
    (∀ (r : Port) (l : List Instr), r ≠ q → s.haspLast = q → s.hasp = none → s.agenda = .haspAcq r :: l →
      exec (.hostRegisterWrite q 0x100 (b :: k)) s = .next s ∧ exec (.haspAcq q) s = .next s)) ∧
  (∀ (q : Port) (b : Byte) (k : List Byte) (s : State), b.getLsbD 0 = false → b.getLsbD 1 = true → k.length < 8 →
    exec (.hostRegisterWrite q 0x100 (b :: k)) s = exec (.haspRel q) s) ∧
  (∀ (l : List DieSite) (s : State), ∃ t, exec (.powerUp l) s = .next t ∧ t.hasp = none ∧ t.haspLast = .b) ∧
  ∀ (q : Port) (s : State),
    (s.hasp ≠ some q → exec (.haspRel q) s = .next s) ∧
    (s.hasp = some q → LeftHasp s (exec (.haspRel q) s)) ∧
    (s.hasp = none → exec .haspLinkDown s = .next s ∧ exec .managementClearHasp s = .next s) ∧
    (s.hasp ≠ none → LeftHasp s (exec .haspLinkDown s) ∧ LeftHasp s (exec .managementClearHasp s))

namespace Sys2Proof.Stated

/-- Instructions that may store to scratchpad as they issue: by themselves, by the event that they raise, or by the exception of a
thread that they send on. -/
def mayStore : Instr → Bool
  | .barr .. => true
  | .barrE .. => true
  | .binit .. => true
  | .st .. => true
  | .stL .. => true
  | .stv .. => true
  | .aop .. => true
  | .send .. => true
  | .sendL .. => true
  | .timeTdefer .. => true
  | .rdconL .. => true
  | .tctlResume .. => true
  | _ => false
/-- Instructions that may change another thread's registers: one of these sends a sleeper on, which gets its result; TCTL.RESET clears its
thread, and a TCTL.KILL follows a deposit in progress. -/
def reachesThreads : Instr → Bool
  | .tctlKill .. => true
  | .tctlReset .. => true
  | i => mayStore i
/-- The stream register whose engine an instruction binds, unbinds or rewinds. -/
def rebinds : Instr → Option Spec
  | .sbind _ d _ => some d
  | .sbindL _ d _ _ => some d
  | .sctlUnbind _ d => some d
  | .sctlRewind _ d => some d
  | _ => none
/-- A byte that the instruction itself stores to: of its operand in scratchpad, at the address that it computes. -/
def storesTo (s : State) (i : Instr) (b : Nat) : Prop :=
  (∃ f, storeForm i = some f ∧ (BitVec.ofInt 64 ((s.src0 f.a).toInt + f.off)).toNat ≤ b ∧
    b < (BitVec.ofInt 64 ((s.src0 f.a).toInt + f.off)).toNat + f.n) ∨
  ∃ h d a op, i = .aop h d a op ∧ (s.src0 a).toNat ≤ b ∧ b < (s.src0 a).toNat + 8
/-- A byte of the journal's ring, to which a journaled store, send or defer adds (R330). -/
def inJournal (s : State) (b : Nat) : Prop := ∃ k, s.cell.jAt k ≤ b ∧ b < s.cell.jAt k + 16
/-- A byte of the spill queue, to which an event may be added that the instruction, or an exception that it brings about, raises (R79). -/
def inSpill (s : State) (b : Nat) : Prop := ∃ k, s.cell.sqAt k ≤ b ∧ b < s.cell.sqAt k + 160

end Sys2Proof.Stated

/-- The entries of the instructions (03 to 14): an instruction acts in its own cell. Everything else of the panel stays (the counter of free
values apart, log entry 2, and what an engine still asks of its RTU when its binding ends or starts again, R236), and of its cell the code planes, the name and the partition. It
leaves every byte of scratchpad but those it stores to, the journal's and the spill queue's; unless it takes an exception, one that stores
nothing leaves every byte; and one that sends no thread on and stops none leaves the registers, predicates and formats of
every other thread. -/
def Obligations.InstructionsKeepTheRest : Prop :=
  ∀ (i : Instr) (s t : State), encode i ≠ [] → s.me.st = .running → s.me.wait = .none → exec i s = .next t →
    (({ t with cell := s.cell, freeIx := s.freeIx } : State) = s ∨
      (∃ (d : Spec) (n : Fin 4), rebinds i = some d ∧ d.toNat = 36 + n.val ∧
        ({ t with cell := s.cell, freeIx := s.freeIx } : State) = s.forgetStream n) ∨
      (∃ (h : Hdr) (a : Spec) (u : TIdx), i = .tctlReset h a ∧ (s.src0 a).toNat % 8 = u.val ∧
        ({ t with cell := s.cell, freeIx := s.freeIx } : State) = s.forgetStreams u)) ∧
    t.cell.plane = s.cell.plane ∧ t.cell.name = s.cell.name ∧
    t.cell.part = s.cell.part ∧ t.cell.last = s.cell.last ∧
    (Memory.wf s.cell.pad.mem = true → ∀ b : Nat, ¬storesTo s i b → ¬inJournal s b → ¬inSpill s b →
      Memory.readNat t.cell.pad.mem b 1 = Memory.readNat s.cell.pad.mem b 1) ∧
    (mayStore i = false → t.me.st ≠ .faulted → t.cell.pad.mem = s.cell.pad.mem) ∧
    (reachesThreads i = false → ∀ u : TIdx, u ≠ s.cell.last →
      (t.cell.th u).g = (s.cell.th u).g ∧ (t.cell.th u).q = (s.cell.th u).q ∧ (t.cell.th u).p = (s.cell.th u).p ∧
      (t.cell.th u).y0 = (s.cell.th u).y0 ∧ (t.cell.th u).y1 = (s.cell.th u).y1 ∧ (t.cell.th u).fmt = (s.cell.th u).fmt ∧
      (t.cell.th u).mshape = (s.cell.th u).mshape ∧ (t.cell.th u).link = (s.cell.th u).link ∧ (t.cell.th u).rseed = (s.cell.th u).rseed)

/-! ### Statements of several parts -/

/-- BITC, BFI and the instructions that set predicates: `Stated.BitOperations`, `Stated.PredicateResults` together; each names its rules. -/
def Obligations.BitsAndPredicates : Prop := Stated.BitOperations ∧ Stated.PredicateResults

/-- LOOP opens its levels; NOP and YIELD go on, repeat a loop, or end a block: `Stated.Loops`, `Stated.FallingThrough` together; each names its
rules. -/
def Obligations.LoopsAndFallingThrough : Prop := Stated.Loops ∧ Stated.FallingThrough

/-- STOP and HRET end a thread; TCTL resumes, kills and resets one: `Stated.ThreadsEnd`, `Stated.ThreadControl` together; each names its rules. -/
def Obligations.ThreadsEndAndAreControlled : Prop := Stated.ThreadsEnd ∧ Stated.ThreadControl

/-- BCAST, JOINM and FETCHB as they issue, deliver and complete: `Stated.BlockControl`, `Stated.BlocksAndJoins` together; each names its rules. -/
def Obligations.BlocksAndJoins : Prop := Stated.BlockControl ∧ Stated.BlocksAndJoins

/-- TRAP and BRK take their exceptions; how a fault is taken, waited for or held: `Stated.TrapsAreTaken`, `Stated.FaultsAreTaken` together; each
names its rules. -/
def Obligations.ExceptionsAreTaken : Prop := Stated.TrapsAreTaken ∧ Stated.FaultsAreTaken

/-- The effective formats, the rounding modes and the generator: `Stated.EffectiveFormats`, `Stated.RoundingSelectors`,
`Stated.RoundsByTheModes` together; each names its rules. -/
def Obligations.EffectiveFormatsAndRounding : Prop := Stated.EffectiveFormats ∧ Stated.RoundingSelectors ∧ Stated.RoundsByTheModes

/-- Vector instructions leave each element, reduction, mask or lane in its place: `Stated.VectorResults`, `Stated.VectorReductions` together;
each names its rules. -/
def Obligations.VectorResults : Prop := Stated.VectorResults ∧ Stated.VectorReductions

/-- VRINT and CVT round in element order; QBLK and DQBLK handle block formats: `Stated.RoundedResults`, `Stated.BlockFormats` together; each
names its rules. -/
def Obligations.RoundedAndBlockResults : Prop := Stated.RoundedResults ∧ Stated.BlockFormats

/-- PFX and SETFMT; SYSRD and SYSWR read, write and refuse: `Stated.FormatsAreSet`, `Stated.SystemRegisters` together; each names its rules. -/
def Obligations.FormatAndSystemRegisters : Prop := Stated.FormatsAreSet ∧ Stated.SystemRegisters

/-- DIV, REM and VSPEC; the special functions on FP32 codes: `Stated.LateResults`, `Stated.SpecialFunctions` together; each names its rules. -/
def Obligations.LateResultsAndSpecialFunctions : Prop := Stated.LateResults ∧ Stated.SpecialFunctions

/-- Loads, and what reads and writes leave in scratchpad: `Stated.Loads`, `Stated.ScratchpadChecks` together; each names its rules. -/
def Obligations.LoadsAndScratchpad : Prop := Stated.Loads ∧ Stated.ScratchpadChecks

/-- Stores, and the journal of a timed handler: `Stated.Stores`, `Stated.JournalEntries` together; each names its rules. -/
def Obligations.StoresAndJournal : Prop := Stated.Stores ∧ Stated.JournalEntries

/-- Streams are bound, move their elements, and serve as operands: `Stated.StreamsAreBound`, `Stated.StreamsMove`, `Stated.StreamOperands`
together; each names its rules. -/
def Obligations.StreamRegisters : Prop := Stated.StreamsAreBound ∧ Stated.StreamsMove ∧ Stated.StreamOperands

/-- The modes of the matrix unit and the effective formats of a multiplication: `Stated.MatrixModes`, `Stated.MatrixFormats` together; each
names its rules. -/
def Obligations.MatrixModesAndFormats : Prop := Stated.MatrixModes ∧ Stated.MatrixFormats

/-- The matrix unit executes its queue, grants leases and takes exchanges: `Stated.MatrixUnitWorks`, `Stated.MatrixUnitExecutes` together; each
names its rules. -/
def Obligations.MatrixUnitWorks : Prop := Stated.MatrixUnitWorks ∧ Stated.MatrixUnitExecutes

/-- SEND puts its message in the egress queue, or is refused; the queue sends its oldest packet, and an acknowledgement frees the path:
`Stated.Sends`, `Stated.PathsAreTaken` together; each names its rules. -/
def Obligations.Sends : Prop := Stated.Sends ∧ Stated.PathsAreTaken

/-- RATOM puts its atomic in the egress queue, its owner performs and answers it; CLMASK sets the class mask: `Stated.RemoteAtomics`,
`Stated.RemoteAtomicsAnswered` together; each names its rules. -/
def Obligations.RemoteAtomics : Prop := Stated.RemoteAtomics ∧ Stated.RemoteAtomicsAnswered

/-- Which cells may contribute to a bucket, and RDCON: `Stated.ReductionSpecs`, `Stated.Contributions` together; each names its rules. -/
def Obligations.ReductionSpecsAndContributions : Prop := Stated.ReductionSpecs ∧ Stated.Contributions

/-- An outstanding result is written, and its thread sent on; a read meanwhile gives the value before or after: `Stated.LongResultsAreWritten`,
`Stated.ReadsMeetLateResults` together; each names its rules. -/
def Obligations.LongResultsAreWritten : Prop := Stated.LongResultsAreWritten ∧ Stated.ReadsMeetLateResults

/-- Routers forward packets by table or by place; their tables age and forget a tumbler that rotates: `Stated.RoutersForward`,
`Stated.NameTablesAge` together; each names its rules. -/
def Obligations.PacketsTravel : Prop := Stated.RoutersForward ∧ Stated.NameTablesAge

/-- Contributions climb their tree, results come down; circuits carry granules: `Stated.ReductionsProgress`, `Stated.CircuitsCarry` together;
each names its rules. -/
def Obligations.ReductionsAndCircuitsProgress : Prop := Stated.ReductionsProgress ∧ Stated.CircuitsCarry

/-- Sources send blocks, slots land and count them, LREL gives a slot back: `Stated.LightSources`, `Stated.LandingSlots`, `Stated.SlotReleases`
together; each names its rules. -/
def Obligations.LightLands : Prop := Stated.LightSources ∧ Stated.LandingSlots ∧ Stated.SlotReleases

/-- Rounds start, complete, end and are reported: `Stated.RoundEndsAreReported`, `Stated.RoundsComplete` together; each names its rules. -/
def Obligations.RoundsComplete : Prop := Stated.RoundEndsAreReported ∧ Stated.RoundsComplete

/-- Timed messages, rollbacks and the computation of GVT: `Stated.VirtualTime`, `Stated.GvtComputed` together; each names its rules. -/
def Obligations.VirtualTime : Prop := Stated.VirtualTime ∧ Stated.GvtComputed

/-- Power states of cells, islands and partitions; tumblers measure and rotate: `Stated.PowerStates`, `Stated.TumblersRotate` together; each
names its rules. -/
def Obligations.PowerAndRotation : Prop := Stated.PowerStates ∧ Stated.TumblersRotate

/-- FIELD and BURST write every cell of the span, by bank and structure: `Stated.ImageWritesCells`, `Stated.ImageWordsReachCells` together; each
names its rules. -/
def Obligations.ImageWordsReachCells : Prop := Stated.ImageWritesCells ∧ Stated.ImageWordsReachCells

/-- PAD, SPAN, SELECT, SEAL and END of a load image: `Stated.ImageCommands`, `Stated.ImageSealAndEnd` together; each names its rules. -/
def Obligations.ImageCommands : Prop := Stated.ImageCommands ∧ Stated.ImageSealAndEnd

/-- Requests: the checks in their order, and what each one does: `Stated.RequestChecks`, `Stated.RequestsServed` together; each names its rules. -/
def Obligations.RequestsServed : Prop := Stated.RequestChecks ∧ Stated.RequestsServed

/-- Control registers, tokens and window accesses of a host port: `Stated.HostRegisters`, `Stated.HostAccess` together; each names its rules. -/
def Obligations.HostRegistersAndAccess : Prop := Stated.HostRegisters ∧ Stated.HostAccess

/-- Guards hold an instruction back; specifiers are checked; what each one names: `Stated.GuardsHoldBack`, `Stated.SpecifiersAreChecked`,
`Stated.RegistersByName` together; each names its rules. -/
def Obligations.GuardsAndSpecifiers : Prop := Stated.GuardsHoldBack ∧ Stated.SpecifiersAreChecked ∧ Stated.RegistersByName
end

