-- ==== Sys2Proof/Laws/Decode.lean ====
section
/-! SUPPORT. The fields of an encoded word (Tables 02.4 to 02.7), and how a list of words decodes. -/

namespace Sys2Proof

open Decode Encode

/-! ### The fields of each layout -/

@[simp] theorem hdr_word0 (h : Hdr) (o : BitVec 7) (d a b : BitVec 6) (x : BitVec 2) : hdr (word0 h o d a b x) = h := by
  obtain ⟨hw, hgn, hgp⟩ := h
  simp only [hdr, word0, Hdr.mk.injEq]
  refine ⟨by simp only [BitVec.getLsbD_append]; simp, by simp only [BitVec.getLsbD_append]; simp, ?_⟩
  ext i hi
  simp only [BitVec.getElem_extractLsb', BitVec.getLsbD_append]; interval_cases i <;> simp
@[simp] theorem op_word0 (h : Hdr) (o : BitVec 7) (d a b : BitVec 6) (x : BitVec 2) : op (word0 h o d a b x) = o := by
  unfold op word0
  ext i hi
  simp only [BitVec.getElem_extractLsb', BitVec.getLsbD_append]; interval_cases i <;> simp
@[simp] theorem fieldD_word0 (h : Hdr) (o : BitVec 7) (d a b : BitVec 6) (x : BitVec 2) : fieldD (word0 h o d a b x) = d := by
  unfold fieldD word0
  ext i hi
  simp only [BitVec.getElem_extractLsb', BitVec.getLsbD_append]; interval_cases i <;> simp
@[simp] theorem fieldA_word0 (h : Hdr) (o : BitVec 7) (d a b : BitVec 6) (x : BitVec 2) : fieldA (word0 h o d a b x) = a := by
  unfold fieldA word0
  ext i hi
  simp only [BitVec.getElem_extractLsb', BitVec.getLsbD_append]; interval_cases i <;> simp
@[simp] theorem fieldB_word0 (h : Hdr) (o : BitVec 7) (d a b : BitVec 6) (x : BitVec 2) : fieldB (word0 h o d a b x) = b := by
  unfold fieldB word0
  ext i hi
  simp only [BitVec.getElem_extractLsb', BitVec.getLsbD_append]; interval_cases i <;> simp
@[simp] theorem fieldX_word0 (h : Hdr) (o : BitVec 7) (d a b : BitVec 6) (x : BitVec 2) : fieldX (word0 h o d a b x) = x := by
  unfold fieldX word0
  ext i hi
  simp only [BitVec.getElem_extractLsb', BitVec.getLsbD_append]; interval_cases i <;> simp
@[simp] theorem hdr_wordJ (h : Hdr) (o : BitVec 7) (off : BitVec 18) : hdr (wordJ h o off) = h := by
  obtain ⟨hw, hgn, hgp⟩ := h
  simp only [hdr, wordJ, Hdr.mk.injEq]
  refine ⟨by simp only [BitVec.getLsbD_append]; simp, by simp only [BitVec.getLsbD_append]; simp, ?_⟩
  ext i hi
  simp only [BitVec.getElem_extractLsb', BitVec.getLsbD_append]; interval_cases i <;> simp
@[simp] theorem op_wordJ (h : Hdr) (o : BitVec 7) (off : BitVec 18) : op (wordJ h o off) = o := by
  unfold op wordJ
  ext i hi
  simp only [BitVec.getElem_extractLsb', BitVec.getLsbD_append]; interval_cases i <;> simp
@[simp] theorem fieldX_wordJ (h : Hdr) (o : BitVec 7) (off : BitVec 18) : fieldX (wordJ h o off) = 0 := by
  unfold fieldX wordJ
  ext i hi
  simp only [BitVec.getElem_extractLsb', BitVec.getLsbD_append]; interval_cases i <;> simp
@[simp] theorem offset_wordJ (h : Hdr) (o : BitVec 7) (off : BitVec 18) :
    (fieldD (wordJ h o off) ++ fieldA (wordJ h o off) ++ fieldB (wordJ h o off) : BitVec 18) = off := by
  unfold fieldD fieldA fieldB wordJ
  ext i hi
  simp only [BitVec.getElem_append, BitVec.getElem_extractLsb', BitVec.getLsbD_append]; interval_cases i <;> simp
@[simp] theorem hdr_wordK (h : Hdr) (o : BitVec 7) (mask : BitVec 7) (len : BitVec 3) (off : BitVec 8) : hdr (wordK h o mask len off) = h := by
  obtain ⟨hw, hgn, hgp⟩ := h
  simp only [hdr, wordK, Hdr.mk.injEq]
  refine ⟨by simp only [BitVec.getLsbD_append]; simp, by simp only [BitVec.getLsbD_append]; simp, ?_⟩
  ext i hi
  simp only [BitVec.getElem_extractLsb', BitVec.getLsbD_append]; interval_cases i <;> simp
@[simp] theorem op_wordK (h : Hdr) (o : BitVec 7) (mask : BitVec 7) (len : BitVec 3) (off : BitVec 8) : op (wordK h o mask len off) = o := by
  unfold op wordK
  ext i hi
  simp only [BitVec.getElem_extractLsb', BitVec.getLsbD_append]; interval_cases i <;> simp
@[simp] theorem fieldX_wordK (h : Hdr) (o : BitVec 7) (mask : BitVec 7) (len : BitVec 3) (off : BitVec 8) : fieldX (wordK h o mask len off) = 0 := by
  unfold fieldX wordK
  ext i hi
  simp only [BitVec.getElem_extractLsb', BitVec.getLsbD_append]; interval_cases i <;> simp
@[simp] theorem mask_wordK (h : Hdr) (o : BitVec 7) (mask : BitVec 7) (len : BitVec 3) (off : BitVec 8) : (wordK h o mask len off).extractLsb' 13 7 = mask := by
  unfold wordK
  ext i hi
  simp only [BitVec.getElem_extractLsb', BitVec.getLsbD_append]; interval_cases i <;> simp
@[simp] theorem len_wordK (h : Hdr) (o : BitVec 7) (mask : BitVec 7) (len : BitVec 3) (off : BitVec 8) : (wordK h o mask len off).extractLsb' 10 3 = len := by
  unfold wordK
  ext i hi
  simp only [BitVec.getElem_extractLsb', BitVec.getLsbD_append]; interval_cases i <;> simp
@[simp] theorem off_wordK (h : Hdr) (o : BitVec 7) (mask : BitVec 7) (len : BitVec 3) (off : BitVec 8) : (wordK h o mask len off).extractLsb' 2 8 = off := by
  unfold wordK
  ext i hi
  simp only [BitVec.getElem_extractLsb', BitVec.getLsbD_append]; interval_cases i <;> simp
@[simp] theorem hdr_wordY (h : Hdr) (o : BitVec 7) (d : BitVec 6) (n : BitVec 12) : hdr (wordY h o d n) = h := by
  obtain ⟨hw, hgn, hgp⟩ := h
  simp only [hdr, wordY, Hdr.mk.injEq]
  refine ⟨by simp only [BitVec.getLsbD_append]; simp, by simp only [BitVec.getLsbD_append]; simp, ?_⟩
  ext i hi
  simp only [BitVec.getElem_extractLsb', BitVec.getLsbD_append]; interval_cases i <;> simp
@[simp] theorem op_wordY (h : Hdr) (o : BitVec 7) (d : BitVec 6) (n : BitVec 12) : op (wordY h o d n) = o := by
  unfold op wordY
  ext i hi
  simp only [BitVec.getElem_extractLsb', BitVec.getLsbD_append]; interval_cases i <;> simp
@[simp] theorem fieldX_wordY (h : Hdr) (o : BitVec 7) (d : BitVec 6) (n : BitVec 12) : fieldX (wordY h o d n) = 0 := by
  unfold fieldX wordY
  ext i hi
  simp only [BitVec.getElem_extractLsb', BitVec.getLsbD_append]; interval_cases i <;> simp
@[simp] theorem fieldD_wordY (h : Hdr) (o : BitVec 7) (d : BitVec 6) (n : BitVec 12) : fieldD (wordY h o d n) = d := by
  unfold fieldD wordY
  ext i hi
  simp only [BitVec.getElem_extractLsb', BitVec.getLsbD_append]; interval_cases i <;> simp
@[simp] theorem number_wordY (h : Hdr) (o : BitVec 7) (d : BitVec 6) (n : BitVec 12) :
    (fieldA (wordY h o d n) ++ fieldB (wordY h o d n) : BitVec 12) = n := by
  unfold fieldA fieldB wordY
  ext i hi
  simp only [BitVec.getElem_append, BitVec.getElem_extractLsb', BitVec.getLsbD_append]; interval_cases i <;> simp
@[simp] theorem hdr_wordF (h : Hdr) (fs fd : BitVec 4) (sc : BitVec 6) (rs : BitVec 2) : hdr (wordF h fs fd sc rs) = h := by
  obtain ⟨hw, hgn, hgp⟩ := h
  simp only [hdr, wordF, Hdr.mk.injEq]
  refine ⟨by simp only [BitVec.getLsbD_append]; simp, by simp only [BitVec.getLsbD_append]; simp, ?_⟩
  ext i hi
  simp only [BitVec.getElem_extractLsb', BitVec.getLsbD_append]; interval_cases i <;> simp
@[simp] theorem op_wordF (h : Hdr) (fs fd : BitVec 4) (sc : BitVec 6) (rs : BitVec 2) : op (wordF h fs fd sc rs) = 0x44#7 := by
  unfold op wordF
  ext i hi
  simp only [BitVec.getElem_extractLsb', BitVec.getLsbD_append]; interval_cases i <;> simp
@[simp] theorem fs_wordF (h : Hdr) (fs fd : BitVec 4) (sc : BitVec 6) (rs : BitVec 2) : (wordF h fs fd sc rs).extractLsb' 16 4 = fs := by
  unfold wordF
  ext i hi
  simp only [BitVec.getElem_extractLsb', BitVec.getLsbD_append]; interval_cases i <;> simp
@[simp] theorem fd_wordF (h : Hdr) (fs fd : BitVec 4) (sc : BitVec 6) (rs : BitVec 2) : (wordF h fs fd sc rs).extractLsb' 12 4 = fd := by
  unfold wordF
  ext i hi
  simp only [BitVec.getElem_extractLsb', BitVec.getLsbD_append]; interval_cases i <;> simp
@[simp] theorem sc_wordF (h : Hdr) (fs fd : BitVec 4) (sc : BitVec 6) (rs : BitVec 2) : (wordF h fs fd sc rs).extractLsb' 6 6 = sc := by
  unfold wordF
  ext i hi
  simp only [BitVec.getElem_extractLsb', BitVec.getLsbD_append]; interval_cases i <;> simp
@[simp] theorem rs_wordF (h : Hdr) (fs fd : BitVec 4) (sc : BitVec 6) (rs : BitVec 2) : (wordF h fs fd sc rs).extractLsb' 4 2 = rs := by
  unfold wordF
  ext i hi
  simp only [BitVec.getElem_extractLsb', BitVec.getLsbD_append]; interval_cases i <;> simp
@[simp] theorem low_wordF (h : Hdr) (fs fd : BitVec 4) (sc : BitVec 6) (rs : BitVec 2) : (wordF h fs fd sc rs).extractLsb' 0 4 = 0 := by
  unfold wordF
  ext i hi
  simp only [BitVec.getElem_extractLsb', BitVec.getLsbD_append]; interval_cases i <;> simp

/-! ### Fields within fields -/

@[simp] theorem part_z1_f1_at1 (v1 : BitVec 1) : ((0#1 ++ v1 : BitVec 2)).extractLsb' 1 1 = 0 := by
  ext i hi
  simp only [BitVec.getElem_extractLsb', BitVec.getLsbD_append]; interval_cases i <;> simp
@[simp] theorem part_z1_f1_at0 (v1 : BitVec 1) : ((0#1 ++ v1 : BitVec 2)).extractLsb' 0 1 = v1 := by
  ext i hi
  simp only [BitVec.getElem_extractLsb', BitVec.getLsbD_append]; interval_cases i <;> simp
@[simp] theorem part_z2_f1_f3_at4 (v1 : BitVec 1) (v2 : BitVec 3) : ((0#2 ++ v1 ++ v2 : BitVec 6)).extractLsb' 4 2 = 0 := by
  ext i hi
  simp only [BitVec.getElem_extractLsb', BitVec.getLsbD_append]; interval_cases i <;> simp
@[simp] theorem part_z2_f1_f3_at3 (v1 : BitVec 1) (v2 : BitVec 3) : ((0#2 ++ v1 ++ v2 : BitVec 6)).extractLsb' 3 1 = v1 := by
  ext i hi
  simp only [BitVec.getElem_extractLsb', BitVec.getLsbD_append]; interval_cases i <;> simp
@[simp] theorem part_z2_f1_f3_at0 (v1 : BitVec 1) (v2 : BitVec 3) : ((0#2 ++ v1 ++ v2 : BitVec 6)).extractLsb' 0 3 = v2 := by
  ext i hi
  simp only [BitVec.getElem_extractLsb', BitVec.getLsbD_append]; interval_cases i <;> simp
@[simp] theorem part_z2_f4_at4 (v1 : BitVec 4) : ((0#2 ++ v1 : BitVec 6)).extractLsb' 4 2 = 0 := by
  ext i hi
  simp only [BitVec.getElem_extractLsb', BitVec.getLsbD_append]; interval_cases i <;> simp
@[simp] theorem part_z2_f4_at0 (v1 : BitVec 4) : ((0#2 ++ v1 : BitVec 6)).extractLsb' 0 4 = v1 := by
  ext i hi
  simp only [BitVec.getElem_extractLsb', BitVec.getLsbD_append]; interval_cases i <;> simp
@[simp] theorem part_z2_f4_f6_f20_at30 (v1 : BitVec 4) (v2 : BitVec 6) (v3 : BitVec 20) : ((0#2 ++ v1 ++ v2 ++ v3 : BitVec 32)).extractLsb' 30 2 = 0 := by
  ext i hi
  simp only [BitVec.getElem_extractLsb', BitVec.getLsbD_append]; interval_cases i <;> simp
@[simp] theorem part_z2_f4_f6_f20_at26 (v1 : BitVec 4) (v2 : BitVec 6) (v3 : BitVec 20) : ((0#2 ++ v1 ++ v2 ++ v3 : BitVec 32)).extractLsb' 26 4 = v1 := by
  ext i hi
  simp only [BitVec.getElem_extractLsb', BitVec.getLsbD_append]; interval_cases i <;> simp
@[simp] theorem part_z2_f4_f6_f20_at20 (v1 : BitVec 4) (v2 : BitVec 6) (v3 : BitVec 20) : ((0#2 ++ v1 ++ v2 ++ v3 : BitVec 32)).extractLsb' 20 6 = v2 := by
  ext i hi
  simp only [BitVec.getElem_extractLsb', BitVec.getLsbD_append]; interval_cases i <;> simp
@[simp] theorem part_z2_f4_f6_f20_at0 (v1 : BitVec 4) (v2 : BitVec 6) (v3 : BitVec 20) : ((0#2 ++ v1 ++ v2 ++ v3 : BitVec 32)).extractLsb' 0 20 = v3 := by
  ext i hi
  simp only [BitVec.getElem_extractLsb', BitVec.getLsbD_append]; interval_cases i <;> simp
@[simp] theorem part_z3_f3_at3 (v1 : BitVec 3) : ((0#3 ++ v1 : BitVec 6)).extractLsb' 3 3 = 0 := by
  ext i hi
  simp only [BitVec.getElem_extractLsb', BitVec.getLsbD_append]; interval_cases i <;> simp
@[simp] theorem part_z3_f3_at0 (v1 : BitVec 3) : ((0#3 ++ v1 : BitVec 6)).extractLsb' 0 3 = v1 := by
  ext i hi
  simp only [BitVec.getElem_extractLsb', BitVec.getLsbD_append]; interval_cases i <;> simp
@[simp] theorem part_z4_f2_at2 (v1 : BitVec 2) : ((0#4 ++ v1 : BitVec 6)).extractLsb' 2 4 = 0 := by
  ext i hi
  simp only [BitVec.getElem_extractLsb', BitVec.getLsbD_append]; interval_cases i <;> simp
@[simp] theorem part_z4_f2_at0 (v1 : BitVec 2) : ((0#4 ++ v1 : BitVec 6)).extractLsb' 0 2 = v1 := by
  ext i hi
  simp only [BitVec.getElem_extractLsb', BitVec.getLsbD_append]; interval_cases i <;> simp
@[simp] theorem part_z5_f1_at1 (v1 : BitVec 1) : ((0#5 ++ v1 : BitVec 6)).extractLsb' 1 5 = 0 := by
  ext i hi
  simp only [BitVec.getElem_extractLsb', BitVec.getLsbD_append]; interval_cases i <;> simp
@[simp] theorem part_z5_f1_at0 (v1 : BitVec 1) : ((0#5 ++ v1 : BitVec 6)).extractLsb' 0 1 = v1 := by
  ext i hi
  simp only [BitVec.getElem_extractLsb', BitVec.getLsbD_append]; interval_cases i <;> simp
@[simp] theorem part_z5_f15_z3_f1_f8_at27 (v1 : BitVec 15) (v2 : BitVec 1) (v3 : BitVec 8) : ((0#5 ++ v1 ++ 0#3 ++ v2 ++ v3 : BitVec 32)).extractLsb' 27 5 = 0 := by
  ext i hi
  simp only [BitVec.getElem_extractLsb', BitVec.getLsbD_append]; interval_cases i <;> simp
@[simp] theorem part_z5_f15_z3_f1_f8_at12 (v1 : BitVec 15) (v2 : BitVec 1) (v3 : BitVec 8) : ((0#5 ++ v1 ++ 0#3 ++ v2 ++ v3 : BitVec 32)).extractLsb' 12 15 = v1 := by
  ext i hi
  simp only [BitVec.getElem_extractLsb', BitVec.getLsbD_append]; interval_cases i <;> simp
@[simp] theorem part_z5_f15_z3_f1_f8_at9 (v1 : BitVec 15) (v2 : BitVec 1) (v3 : BitVec 8) : ((0#5 ++ v1 ++ 0#3 ++ v2 ++ v3 : BitVec 32)).extractLsb' 9 3 = 0 := by
  ext i hi
  simp only [BitVec.getElem_extractLsb', BitVec.getLsbD_append]; interval_cases i <;> simp
@[simp] theorem part_z5_f15_z3_f1_f8_at8 (v1 : BitVec 15) (v2 : BitVec 1) (v3 : BitVec 8) : ((0#5 ++ v1 ++ 0#3 ++ v2 ++ v3 : BitVec 32)).extractLsb' 8 1 = v2 := by
  ext i hi
  simp only [BitVec.getElem_extractLsb', BitVec.getLsbD_append]; interval_cases i <;> simp
@[simp] theorem part_z5_f15_z3_f1_f8_at0 (v1 : BitVec 15) (v2 : BitVec 1) (v3 : BitVec 8) : ((0#5 ++ v1 ++ 0#3 ++ v2 ++ v3 : BitVec 32)).extractLsb' 0 8 = v3 := by
  ext i hi
  simp only [BitVec.getElem_extractLsb', BitVec.getLsbD_append]; interval_cases i <;> simp
@[simp] theorem part_z13_f3_z1_f15_at19 (v1 : BitVec 3) (v2 : BitVec 15) : ((0#13 ++ v1 ++ 0#1 ++ v2 : BitVec 32)).extractLsb' 19 13 = 0 := by
  ext i hi
  simp only [BitVec.getElem_extractLsb', BitVec.getLsbD_append]; interval_cases i <;> simp
@[simp] theorem part_z13_f3_z1_f15_at16 (v1 : BitVec 3) (v2 : BitVec 15) : ((0#13 ++ v1 ++ 0#1 ++ v2 : BitVec 32)).extractLsb' 16 3 = v1 := by
  ext i hi
  simp only [BitVec.getElem_extractLsb', BitVec.getLsbD_append]; interval_cases i <;> simp
@[simp] theorem part_z13_f3_z1_f15_at15 (v1 : BitVec 3) (v2 : BitVec 15) : ((0#13 ++ v1 ++ 0#1 ++ v2 : BitVec 32)).extractLsb' 15 1 = 0 := by
  ext i hi
  simp only [BitVec.getElem_extractLsb', BitVec.getLsbD_append]; interval_cases i <;> simp
@[simp] theorem part_z13_f3_z1_f15_at0 (v1 : BitVec 3) (v2 : BitVec 15) : ((0#13 ++ v1 ++ 0#1 ++ v2 : BitVec 32)).extractLsb' 0 15 = v2 := by
  ext i hi
  simp only [BitVec.getElem_extractLsb', BitVec.getLsbD_append]; interval_cases i <;> simp
@[simp] theorem part_z20_f6_f6_at12 (v1 : BitVec 6) (v2 : BitVec 6) : ((0#20 ++ v1 ++ v2 : BitVec 32)).extractLsb' 12 20 = 0 := by
  ext i hi
  simp only [BitVec.getElem_extractLsb', BitVec.getLsbD_append]; interval_cases i <;> simp
@[simp] theorem part_z20_f6_f6_at6 (v1 : BitVec 6) (v2 : BitVec 6) : ((0#20 ++ v1 ++ v2 : BitVec 32)).extractLsb' 6 6 = v1 := by
  ext i hi
  simp only [BitVec.getElem_extractLsb', BitVec.getLsbD_append]; interval_cases i <;> simp
@[simp] theorem part_z20_f6_f6_at0 (v1 : BitVec 6) (v2 : BitVec 6) : ((0#20 ++ v1 ++ v2 : BitVec 32)).extractLsb' 0 6 = v2 := by
  ext i hi
  simp only [BitVec.getElem_extractLsb', BitVec.getLsbD_append]; interval_cases i <;> simp
@[simp] theorem part_z23_f1_f4_f4_at9 (v1 : BitVec 1) (v2 : BitVec 4) (v3 : BitVec 4) : ((0#23 ++ v1 ++ v2 ++ v3 : BitVec 32)).extractLsb' 9 23 = 0 := by
  ext i hi
  simp only [BitVec.getElem_extractLsb', BitVec.getLsbD_append]; interval_cases i <;> simp
@[simp] theorem part_z23_f1_f4_f4_at8 (v1 : BitVec 1) (v2 : BitVec 4) (v3 : BitVec 4) : ((0#23 ++ v1 ++ v2 ++ v3 : BitVec 32)).extractLsb' 8 1 = v1 := by
  ext i hi
  simp only [BitVec.getElem_extractLsb', BitVec.getLsbD_append]; interval_cases i <;> simp
@[simp] theorem part_z23_f1_f4_f4_at4 (v1 : BitVec 1) (v2 : BitVec 4) (v3 : BitVec 4) : ((0#23 ++ v1 ++ v2 ++ v3 : BitVec 32)).extractLsb' 4 4 = v2 := by
  ext i hi
  simp only [BitVec.getElem_extractLsb', BitVec.getLsbD_append]; interval_cases i <;> simp
@[simp] theorem part_z23_f1_f4_f4_at0 (v1 : BitVec 1) (v2 : BitVec 4) (v3 : BitVec 4) : ((0#23 ++ v1 ++ v2 ++ v3 : BitVec 32)).extractLsb' 0 4 = v3 := by
  ext i hi
  simp only [BitVec.getElem_extractLsb', BitVec.getLsbD_append]; interval_cases i <;> simp
@[simp] theorem part_z24_f8_at8 (v1 : BitVec 8) : ((0#24 ++ v1 : BitVec 32)).extractLsb' 8 24 = 0 := by
  ext i hi
  simp only [BitVec.getElem_extractLsb', BitVec.getLsbD_append]; interval_cases i <;> simp
@[simp] theorem part_z24_f8_at0 (v1 : BitVec 8) : ((0#24 ++ v1 : BitVec 32)).extractLsb' 0 8 = v1 := by
  ext i hi
  simp only [BitVec.getElem_extractLsb', BitVec.getLsbD_append]; interval_cases i <;> simp
@[simp] theorem part_f2_z4_at4 (v1 : BitVec 2) : ((v1 ++ 0#4 : BitVec 6)).extractLsb' 4 2 = v1 := by
  ext i hi
  simp only [BitVec.getElem_extractLsb', BitVec.getLsbD_append]; interval_cases i <;> simp
@[simp] theorem part_f2_z4_at0 (v1 : BitVec 2) : ((v1 ++ 0#4 : BitVec 6)).extractLsb' 0 4 = 0 := by
  ext i hi
  simp only [BitVec.getElem_extractLsb', BitVec.getLsbD_append]; interval_cases i <;> simp
@[simp] theorem part_f2_f4_at4 (v1 : BitVec 2) (v2 : BitVec 4) : ((v1 ++ v2 : BitVec 6)).extractLsb' 4 2 = v1 := by
  ext i hi
  simp only [BitVec.getElem_extractLsb', BitVec.getLsbD_append]; interval_cases i <;> simp
@[simp] theorem part_f2_f4_at0 (v1 : BitVec 2) (v2 : BitVec 4) : ((v1 ++ v2 : BitVec 6)).extractLsb' 0 4 = v2 := by
  ext i hi
  simp only [BitVec.getElem_extractLsb', BitVec.getLsbD_append]; interval_cases i <;> simp
@[simp] theorem part_f3_f3_at3 (v1 : BitVec 3) (v2 : BitVec 3) : ((v1 ++ v2 : BitVec 6)).extractLsb' 3 3 = v1 := by
  ext i hi
  simp only [BitVec.getElem_extractLsb', BitVec.getLsbD_append]; interval_cases i <;> simp
@[simp] theorem part_f3_f3_at0 (v1 : BitVec 3) (v2 : BitVec 3) : ((v1 ++ v2 : BitVec 6)).extractLsb' 0 3 = v2 := by
  ext i hi
  simp only [BitVec.getElem_extractLsb', BitVec.getLsbD_append]; interval_cases i <;> simp
@[simp] theorem part_f4_z2_at2 (v1 : BitVec 4) : ((v1 ++ 0#2 : BitVec 6)).extractLsb' 2 4 = v1 := by
  ext i hi
  simp only [BitVec.getElem_extractLsb', BitVec.getLsbD_append]; interval_cases i <;> simp
@[simp] theorem part_f4_z2_at0 (v1 : BitVec 4) : ((v1 ++ 0#2 : BitVec 6)).extractLsb' 0 2 = 0 := by
  ext i hi
  simp only [BitVec.getElem_extractLsb', BitVec.getLsbD_append]; interval_cases i <;> simp
@[simp] theorem part_f4_f2_at2 (v1 : BitVec 4) (v2 : BitVec 2) : ((v1 ++ v2 : BitVec 6)).extractLsb' 2 4 = v1 := by
  ext i hi
  simp only [BitVec.getElem_extractLsb', BitVec.getLsbD_append]; interval_cases i <;> simp
@[simp] theorem part_f4_f2_at0 (v1 : BitVec 4) (v2 : BitVec 2) : ((v1 ++ v2 : BitVec 6)).extractLsb' 0 2 = v2 := by
  ext i hi
  simp only [BitVec.getElem_extractLsb', BitVec.getLsbD_append]; interval_cases i <;> simp
@[simp] theorem part_f16_z1_f15_at16 (v1 : BitVec 16) (v2 : BitVec 15) : ((v1 ++ 0#1 ++ v2 : BitVec 32)).extractLsb' 16 16 = v1 := by
  ext i hi
  simp only [BitVec.getElem_extractLsb', BitVec.getLsbD_append]; interval_cases i <;> simp
@[simp] theorem part_f16_z1_f15_at15 (v1 : BitVec 16) (v2 : BitVec 15) : ((v1 ++ 0#1 ++ v2 : BitVec 32)).extractLsb' 15 1 = 0 := by
  ext i hi
  simp only [BitVec.getElem_extractLsb', BitVec.getLsbD_append]; interval_cases i <;> simp
@[simp] theorem part_f16_z1_f15_at0 (v1 : BitVec 16) (v2 : BitVec 15) : ((v1 ++ 0#1 ++ v2 : BitVec 32)).extractLsb' 0 15 = v2 := by
  ext i hi
  simp only [BitVec.getElem_extractLsb', BitVec.getLsbD_append]; interval_cases i <;> simp
@[simp] theorem part_f20_f12_at12 (v1 : BitVec 20) (v2 : BitVec 12) : ((v1 ++ v2 : BitVec 32)).extractLsb' 12 20 = v1 := by
  ext i hi
  simp only [BitVec.getElem_extractLsb', BitVec.getLsbD_append]; interval_cases i <;> simp
@[simp] theorem part_f20_f12_at0 (v1 : BitVec 20) (v2 : BitVec 12) : ((v1 ++ v2 : BitVec 32)).extractLsb' 0 12 = v2 := by
  ext i hi
  simp only [BitVec.getElem_extractLsb', BitVec.getLsbD_append]; interval_cases i <;> simp

/-! ### Lists of words -/

theorem decodeWords_one {w : W32} {i : Instr} (r : List W32) (hl : isLongWord w = false) (h : ∀ v, decode w v = .ok i) :
    decodeWords ([w] ++ r) = .ok (i, r) := by
  cases r <;> simp [decodeWords, hl, h, Except.map]

theorem decodeWords_two {w v : W32} {i : Instr} (r : List W32) (hl : isLongWord w = true) (h : decode w v = .ok i) :
    decodeWords ([w, v] ++ r) = .ok (i, r) := by
  simp [decodeWords, hl, h, Except.map]

end Sys2Proof
end

