-- ==== Sys2Proof/Laws/Sparse.lean ====
section
/-! SUPPORT. Laws of sparse maps and byte memories: every operation keeps the canonical form; what a read gives after a
write. -/

namespace Sys2Proof.Machine

/-- Every key of a map is above those before it: the form that a proof by induction uses. -/
def Rising {α : Type} : KMap α → Prop
  | [] => True
  | (k, _) :: r => (∀ e ∈ r, k < e.1) ∧ Rising r

namespace KM

theorem above_iff {α : Type} {b : Nat} : ∀ {m : KMap α}, above b m = true ↔ (∀ e ∈ m, b < e.1) ∧ Rising m
  | [] => by simp [above, Rising]
  | (k, v) :: r => by
    simp only [above, Bool.and_eq_true, decide_eq_true_eq, above_iff (m := r), Rising, List.mem_cons, forall_eq_or_imp]
    exact ⟨fun h => ⟨⟨h.1, fun e he => Nat.lt_trans h.1 (h.2.1 e he)⟩, h.2⟩, fun h => ⟨h.1.1, h.2⟩⟩

theorem wf_iff {α : Type} : ∀ {m : KMap α}, wf m = true ↔ Rising m
  | [] => by simp [wf, Rising]
  | (k, v) :: r => by simp only [wf, above_iff, Rising]

theorem mem_put {α : Type} {a : Nat} {x : α} {e : Nat × α} : ∀ {m : KMap α}, e ∈ put m a x → e = (a, x) ∨ e ∈ m
  | [], h => by simp [put] at h; exact .inl h
  | (k, v) :: r, h => by
    unfold put at h
    split at h
    · exact List.mem_cons.mp h
    · split at h
      · rcases List.mem_cons.mp h with h | h
        · exact .inl h
        · exact .inr (List.mem_cons_of_mem _ h)
      · simp only [List.mem_cons] at h ⊢
        rcases h with h | h
        · exact .inr (.inl h)
        · rcases mem_put h with h | h
          · exact .inl h
          · exact .inr (.inr h)

theorem mem_del {α : Type} {a : Nat} {e : Nat × α} : ∀ {m : KMap α}, e ∈ del m a → e ∈ m
  | [], h => by simp [del] at h
  | (k, v) :: r, h => by
    unfold del at h
    split at h
    · simp [h]
    · split at h
      · exact h
      · simp only [List.mem_cons] at h ⊢
        rcases h with h | h
        · exact .inl h
        · exact .inr (mem_del h)

theorem rising_put {α : Type} {a : Nat} {x : α} : ∀ {m : KMap α}, Rising m → Rising (put m a x)
  | [], _ => by simp [put, Rising]
  | (k, v) :: r, h => by
    obtain ⟨hk, hr⟩ := h
    unfold put
    split
    · rename_i hlt
      refine ⟨fun e he => ?_, hk, hr⟩
      rcases List.mem_cons.mp he with rfl | he
      · exact hlt
      · exact Nat.lt_trans hlt (hk e he)
    · split
      · rename_i hak
        subst hak
        exact ⟨hk, hr⟩
      · refine ⟨fun e he => ?_, rising_put hr⟩
        rcases mem_put he with rfl | he
        · show k < a; omega
        · exact hk e he

theorem rising_del {α : Type} {a : Nat} : ∀ {m : KMap α}, Rising m → Rising (del m a)
  | [], _ => trivial
  | (k, v) :: r, h => by
    obtain ⟨hk, hr⟩ := h
    unfold del
    split
    · exact hr
    · split
      · exact ⟨hk, hr⟩
      · exact ⟨fun e he => hk e (mem_del he), rising_del hr⟩

/-- What a map gives at an absent key below all of its own. -/
theorem get_below {α : Type} {a : Nat} : ∀ {m : KMap α}, (∀ e ∈ m, a < e.1) → get m a = none
  | [], _ => rfl
  | (k, v) :: r, h => by
    have : a < k := h (k, v) (by simp)
    simp [get, this, Nat.ne_of_gt this]

theorem get_put_same {α : Type} {a : Nat} {x : α} : ∀ m : KMap α, get (put m a x) a = some x
  | [] => by simp [put, get]
  | (k, v) :: r => by
    unfold put
    split
    · simp [get]
    · split
      · simp [get]
      · rename_i h1 h2
        simp [get, h1, h2, get_put_same r]

theorem get_put_other {α : Type} {a b : Nat} {x : α} (hab : a ≠ b) : ∀ m : KMap α, Rising m → get (put m a x) b = get m b
  | [], _ => by
    simp only [put, get, if_neg hab]
    split <;> rfl
  | (k, v) :: r, h => by
    obtain ⟨hk, hr⟩ := h
    unfold put
    split
    · rename_i hlt
      simp only [get, if_neg hab]
      split
      · split
        · omega
        · split
          · rfl
          · rw [get_below]
            intro e he
            have := hk e he
            omega
      · rfl
    · split
      · rename_i h2
        subst h2
        simp [get, hab]
      · simp only [get]
        rw [get_put_other hab r hr]

theorem get_del_same {α : Type} {a : Nat} : ∀ m : KMap α, Rising m → get (del m a) a = none
  | [], _ => rfl
  | (k, v) :: r, h => by
    obtain ⟨hk, hr⟩ := h
    unfold del
    split
    · rename_i hak
      subst hak
      exact get_below hk
    · split
      · rename_i h1 h2
        simp [get, h1, h2]
      · rename_i h1 h2
        simp [get, h1, h2, get_del_same r hr]

theorem get_del_other {α : Type} {a b : Nat} (hab : a ≠ b) : ∀ m : KMap α, Rising m → get (del m a) b = get m b
  | [], _ => rfl
  | (k, v) :: r, h => by
    obtain ⟨hk, hr⟩ := h
    unfold del
    split
    · rename_i hak
      subst hak
      simp only [get, if_neg hab]
      split
      · rw [get_below]
        intro e he
        have := hk e he
        omega
      · rfl
    · split
      · rfl
      · simp only [get]
        rw [get_del_other hab r hr]

end KM

namespace Sp

/-- The canonical form of a map of words, for induction: keys rise, no entry is zero. -/
def Canon {w : Nat} (m : Sparse w) : Prop := Rising m ∧ ∀ e ∈ m, e.2 ≠ 0

theorem canon_nil {w : Nat} : Canon ([] : Sparse w) := ⟨trivial, by simp⟩

theorem canon_set {w : Nat} {m : Sparse w} {a : Nat} {x : BitVec w} (h : Canon m) : Canon (set m a x) := by
  unfold set
  split
  · exact ⟨KM.rising_del h.1, fun e he => h.2 e (KM.mem_del he)⟩
  · rename_i hx
    refine ⟨KM.rising_put h.1, fun e he => ?_⟩
    rcases KM.mem_put he with rfl | he
    · exact hx
    · exact h.2 e he

theorem canon_setMany {w : Nat} : ∀ {l : List (BitVec w)} {m : Sparse w}, Canon m → ∀ a, Canon (setMany m a l)
  | [], _, h, _ => h
  | _ :: _, _, h, a => canon_setMany (canon_set h) (a + 1)

theorem get_set_same {w : Nat} {m : Sparse w} {a : Nat} {x : BitVec w} (h : Canon m) : get (set m a x) a = x := by
  unfold get set
  split
  · rename_i hx
    simp [KM.get_del_same m h.1, hx]
  · simp [KM.get_put_same]

theorem get_set_other {w : Nat} {m : Sparse w} {a b : Nat} {x : BitVec w} (h : Canon m) (hab : a ≠ b) :
    get (set m a x) b = get m b := by
  unfold get set
  split
  · rw [KM.get_del_other hab m h.1]
  · rw [KM.get_put_other hab m h.1]

theorem nonzero_iff {w : Nat} : ∀ {m : Sparse w}, nonzero m = true ↔ ∀ e ∈ m, e.2 ≠ 0
  | [] => by simp [nonzero]
  | (k, v) :: r => by simp [nonzero, nonzero_iff]

theorem wf_iff {w : Nat} {m : Sparse w} : wf m = true ↔ Canon m := by
  simp [wf, Canon, KM.wf_iff, nonzero_iff]

end Sp

namespace Memory

theorem wf_iff {m : Memory} : wf m = true ↔ Sp.Canon m := Sp.wf_iff

/-- Writing bytes keeps the canonical form. -/
theorem canon_writeNat : ∀ (n : Nat) {m : Memory} {a v : Nat}, Sp.Canon m → Sp.Canon (writeNat m a n v)
  | 0, _, _, _, h => h
  | n + 1, _, _, _, h => canon_writeNat n (Sp.canon_set h)

theorem wf_writeNat {m : Memory} {a n v : Nat} (h : wf m = true) : wf (writeNat m a n v) = true :=
  wf_iff.mpr (canon_writeNat n (wf_iff.mp h))

theorem wf_write {w : Nat} {m : Memory} {a : Nat} {v : BitVec w} (h : wf m = true) : wf (write m a v) = true := wf_writeNat h

theorem wf_set {m : Memory} {a : Nat} {x : Byte} (h : wf m = true) : wf (Sp.set m a x) = true :=
  wf_iff.mpr (Sp.canon_set (wf_iff.mp h))

/-- A byte outside those written reads as before. -/
theorem get_writeNat_other : ∀ (n : Nat) {m : Memory} {a v b : Nat}, Sp.Canon m → (b < a ∨ a + n ≤ b) →
    Sp.get (writeNat m a n v) b = Sp.get m b
  | 0, _, _, _, _, _, _ => rfl
  | n + 1, m, a, v, b, h, hb => by
    rw [writeNat, get_writeNat_other n (Sp.canon_set h) (by omega), Sp.get_set_other h (by omega)]

/-- What is written is what is read (R6). -/
theorem readNat_writeNat : ∀ (n : Nat) {m : Memory} {a v : Nat}, Sp.Canon m → readNat (writeNat m a n v) a n = v % 2 ^ (8 * n)
  | 0, _, _, _, _ => by simp [readNat, Nat.mod_one]
  | n + 1, m, a, v, h => by
    rw [readNat, writeNat, readNat_writeNat n (Sp.canon_set h), get_writeNat_other n (Sp.canon_set h) (by omega),
      Sp.get_set_same h]
    rw [BitVec.toNat_ofNat, show 2 ^ (8 * (n + 1)) = 256 * 2 ^ (8 * n) by rw [Nat.mul_add, Nat.pow_add]; omega, Nat.mod_mul]

/-- Bytes that do not meet those written read as before. -/
theorem readNat_writeNat_other : ∀ (k : Nat) {m : Memory} {a n v b : Nat}, Sp.Canon m → (b + k ≤ a ∨ a + n ≤ b) →
    readNat (writeNat m a n v) b k = readNat m b k
  | 0, _, _, _, _, _, _, _ => rfl
  | k + 1, m, a, n, v, b, h, hb => by
    rw [readNat, readNat, readNat_writeNat_other k h (by omega), get_writeNat_other n h (by omega)]

/-- `n` bytes are below 2^(8 n). -/
theorem readNat_lt : ∀ (n : Nat) {m : Memory} {a : Nat}, readNat m a n < 2 ^ (8 * n)
  | 0, _, _ => by simp [readNat]
  | n + 1, m, a => by
    have h1 := (Sp.get m a).isLt
    have h2 := readNat_lt n (m := m) (a := a + 1)
    rw [readNat, show 2 ^ (8 * (n + 1)) = 256 * 2 ^ (8 * n) by rw [Nat.mul_add, Nat.pow_add]; omega]
    omega

end Memory

end Sys2Proof.Machine
end

