-- ==== Sys2Proof/Laws/State.lean ====
section
/-! SUPPORT. What each update of the state leaves as it was: one lemma per field per update, so that no proof unfolds a record
update; and reading a thread after writing one. -/

namespace Sys2Proof.Machine

@[simp] theorem modFocus_cur (s : State) (f : Cell → Cell) : (modFocus s f).cur = s.cur := rfl
@[simp] theorem modFocus_others (s : State) (f : Cell → Cell) : (modFocus s f).others = s.others := rfl
@[simp] theorem modFocus_agenda (s : State) (f : Cell → Cell) : (modFocus s f).agenda = s.agenda := rfl
@[simp] theorem modFocus_turn (s : State) (f : Cell → Cell) : (modFocus s f).turn = s.turn := rfl
@[simp] theorem modFocus_tick (s : State) (f : Cell → Cell) : (modFocus s f).tick = s.tick := rfl
@[simp] theorem modFocus_freeIx (s : State) (f : Cell → Cell) : (modFocus s f).freeIx = s.freeIx := rfl
@[simp] theorem modFocus_dieCycle (s : State) (f : Cell → Cell) : (modFocus s f).dieCycle = s.dieCycle := rfl
@[simp] theorem modFocus_booted (s : State) (f : Cell → Cell) : (modFocus s f).booted = s.booted := rfl
@[simp] theorem modFocus_factory (s : State) (f : Cell → Cell) : (modFocus s f).factory = s.factory := rfl
@[simp] theorem modFocus_delta (s : State) (f : Cell → Cell) : (modFocus s f).delta = s.delta := rfl
@[simp] theorem modFocus_taken (s : State) (f : Cell → Cell) : (modFocus s f).taken = s.taken := rfl
@[simp] theorem modFocus_mapgen (s : State) (f : Cell → Cell) : (modFocus s f).mapgen = s.mapgen := rfl
@[simp] theorem modFocus_merged (s : State) (f : Cell → Cell) : (modFocus s f).merged = s.merged := rfl
@[simp] theorem modFocus_grade (s : State) (f : Cell → Cell) : (modFocus s f).grade = s.grade := rfl
@[simp] theorem modFocus_gradeLow (s : State) (f : Cell → Cell) : (modFocus s f).gradeLow = s.gradeLow := rfl
@[simp] theorem modFocus_dieMap (s : State) (f : Cell → Cell) : (modFocus s f).dieMap = s.dieMap := rfl
@[simp] theorem modFocus_failed (s : State) (f : Cell → Cell) : (modFocus s f).failed = s.failed := rfl
@[simp] theorem modFocus_routers (s : State) (f : Cell → Cell) : (modFocus s f).routers = s.routers := rfl
@[simp] theorem modFocus_mnet (s : State) (f : Cell → Cell) : (modFocus s f).mnet = s.mnet := rfl
@[simp] theorem modFocus_undelivered (s : State) (f : Cell → Cell) : (modFocus s f).undelivered = s.undelivered := rfl
@[simp] theorem modFocus_discarded (s : State) (f : Cell → Cell) : (modFocus s f).discarded = s.discarded := rfl
@[simp] theorem modFocus_snet (s : State) (f : Cell → Cell) : (modFocus s f).snet = s.snet := rfl
@[simp] theorem modFocus_linkOut (s : State) (f : Cell → Cell) : (modFocus s f).linkOut = s.linkOut := rfl
@[simp] theorem modFocus_cnet (s : State) (f : Cell → Cell) : (modFocus s f).cnet = s.cnet := rfl
@[simp] theorem modFocus_causal (s : State) (f : Cell → Cell) : (modFocus s f).causal = s.causal := rfl
@[simp] theorem modFocus_cacks (s : State) (f : Cell → Cell) : (modFocus s f).cacks = s.cacks := rfl
@[simp] theorem modFocus_rtu (s : State) (f : Cell → Cell) : (modFocus s f).rtu = s.rtu := rfl
@[simp] theorem modFocus_walks (s : State) (f : Cell → Cell) : (modFocus s f).walks = s.walks := rfl
@[simp] theorem modFocus_missQ (s : State) (f : Cell → Cell) : (modFocus s f).missQ = s.missQ := rfl
@[simp] theorem modFocus_walkTurn (s : State) (f : Cell → Cell) : (modFocus s f).walkTurn = s.walkTurn := rfl
@[simp] theorem modFocus_xlated (s : State) (f : Cell → Cell) : (modFocus s f).xlated = s.xlated := rfl
@[simp] theorem modFocus_shoot (s : State) (f : Cell → Cell) : (modFocus s f).shoot = s.shoot := rfl
@[simp] theorem modFocus_tables (s : State) (f : Cell → Cell) : (modFocus s f).tables = s.tables := rfl
@[simp] theorem modFocus_store (s : State) (f : Cell → Cell) : (modFocus s f).store = s.store := rfl
@[simp] theorem modFocus_wcache (s : State) (f : Cell → Cell) : (modFocus s f).wcache = s.wcache := rfl
@[simp] theorem modFocus_parity (s : State) (f : Cell → Cell) : (modFocus s f).parity = s.parity := rfl
@[simp] theorem modFocus_refused (s : State) (f : Cell → Cell) : (modFocus s f).refused = s.refused := rfl
@[simp] theorem modFocus_dzResp (s : State) (f : Cell → Cell) : (modFocus s f).dzResp = s.dzResp := rfl
@[simp] theorem modFocus_dzBad (s : State) (f : Cell → Cell) : (modFocus s f).dzBad = s.dzBad := rfl
@[simp] theorem modFocus_parts (s : State) (f : Cell → Cell) : (modFocus s f).parts = s.parts := rfl
@[simp] theorem modFocus_rings (s : State) (f : Cell → Cell) : (modFocus s f).rings = s.rings := rfl
@[simp] theorem modFocus_tumblers (s : State) (f : Cell → Cell) : (modFocus s f).tumblers = s.tumblers := rfl
@[simp] theorem modFocus_islands (s : State) (f : Cell → Cell) : (modFocus s f).islands = s.islands := rfl
@[simp] theorem modFocus_spines (s : State) (f : Cell → Cell) : (modFocus s f).spines = s.spines := rfl
@[simp] theorem modFocus_portA (s : State) (f : Cell → Cell) : (modFocus s f).portA = s.portA := rfl
@[simp] theorem modFocus_portB (s : State) (f : Cell → Cell) : (modFocus s f).portB = s.portB := rfl
@[simp] theorem modFocus_hasp (s : State) (f : Cell → Cell) : (modFocus s f).hasp = s.hasp := rfl
@[simp] theorem modFocus_haspLast (s : State) (f : Cell → Cell) : (modFocus s f).haspLast = s.haspLast := rfl
@[simp] theorem modFocus_images (s : State) (f : Cell → Cell) : (modFocus s f).images = s.images := rfl
@[simp] theorem modFocus_hostMem (s : State) (f : Cell → Cell) : (modFocus s f).hostMem = s.hostMem := rfl
@[simp] theorem modFocus_access (s : State) (f : Cell → Cell) : (modFocus s f).access = s.access := rfl
@[simp] theorem modFocus_portAccess (s : State) (f : Cell → Cell) : (modFocus s f).portAccess = s.portAccess := rfl
@[simp] theorem modFocus_linkAccess (s : State) (f : Cell → Cell) : (modFocus s f).linkAccess = s.linkAccess := rfl
@[simp] theorem modFocus_mgmtAccess (s : State) (f : Cell → Cell) : (modFocus s f).mgmtAccess = s.mgmtAccess := rfl
@[simp] theorem modFocus_gateways (s : State) (f : Cell → Cell) : (modFocus s f).gateways = s.gateways := rfl
@[simp] theorem modFocus_crossing (s : State) (f : Cell → Cell) : (modFocus s f).crossing = s.crossing := rfl
@[simp] theorem modFocus_firmware (s : State) (f : Cell → Cell) : (modFocus s f).firmware = s.firmware := rfl
@[simp] theorem modFocus_fwNew (s : State) (f : Cell → Cell) : (modFocus s f).fwNew = s.fwNew := rfl
@[simp] theorem modFocus_saved (s : State) (f : Cell → Cell) : (modFocus s f).saved = s.saved := rfl
@[simp] theorem modFocus_savedParts (s : State) (f : Cell → Cell) : (modFocus s f).savedParts = s.savedParts := rfl
@[simp] theorem modFocus_mgmt (s : State) (f : Cell → Cell) : (modFocus s f).mgmt = s.mgmt := rfl

@[simp] theorem modFocus_cell (s : State) (f : Cell → Cell) : (modFocus s f).cell = f s.cell := rfl

@[simp] theorem modMe_cur (s : State) (f : Thread → Thread) : (s.modMe f).cur = s.cur := rfl
@[simp] theorem modMe_others (s : State) (f : Thread → Thread) : (s.modMe f).others = s.others := rfl
@[simp] theorem modMe_agenda (s : State) (f : Thread → Thread) : (s.modMe f).agenda = s.agenda := rfl
@[simp] theorem modMe_turn (s : State) (f : Thread → Thread) : (s.modMe f).turn = s.turn := rfl
@[simp] theorem modMe_tick (s : State) (f : Thread → Thread) : (s.modMe f).tick = s.tick := rfl
@[simp] theorem modMe_freeIx (s : State) (f : Thread → Thread) : (s.modMe f).freeIx = s.freeIx := rfl
@[simp] theorem modMe_dieCycle (s : State) (f : Thread → Thread) : (s.modMe f).dieCycle = s.dieCycle := rfl
@[simp] theorem modMe_booted (s : State) (f : Thread → Thread) : (s.modMe f).booted = s.booted := rfl
@[simp] theorem modMe_factory (s : State) (f : Thread → Thread) : (s.modMe f).factory = s.factory := rfl
@[simp] theorem modMe_delta (s : State) (f : Thread → Thread) : (s.modMe f).delta = s.delta := rfl
@[simp] theorem modMe_taken (s : State) (f : Thread → Thread) : (s.modMe f).taken = s.taken := rfl
@[simp] theorem modMe_mapgen (s : State) (f : Thread → Thread) : (s.modMe f).mapgen = s.mapgen := rfl
@[simp] theorem modMe_merged (s : State) (f : Thread → Thread) : (s.modMe f).merged = s.merged := rfl
@[simp] theorem modMe_grade (s : State) (f : Thread → Thread) : (s.modMe f).grade = s.grade := rfl
@[simp] theorem modMe_gradeLow (s : State) (f : Thread → Thread) : (s.modMe f).gradeLow = s.gradeLow := rfl
@[simp] theorem modMe_dieMap (s : State) (f : Thread → Thread) : (s.modMe f).dieMap = s.dieMap := rfl
@[simp] theorem modMe_failed (s : State) (f : Thread → Thread) : (s.modMe f).failed = s.failed := rfl
@[simp] theorem modMe_routers (s : State) (f : Thread → Thread) : (s.modMe f).routers = s.routers := rfl
@[simp] theorem modMe_mnet (s : State) (f : Thread → Thread) : (s.modMe f).mnet = s.mnet := rfl
@[simp] theorem modMe_undelivered (s : State) (f : Thread → Thread) : (s.modMe f).undelivered = s.undelivered := rfl
@[simp] theorem modMe_discarded (s : State) (f : Thread → Thread) : (s.modMe f).discarded = s.discarded := rfl
@[simp] theorem modMe_snet (s : State) (f : Thread → Thread) : (s.modMe f).snet = s.snet := rfl
@[simp] theorem modMe_linkOut (s : State) (f : Thread → Thread) : (s.modMe f).linkOut = s.linkOut := rfl
@[simp] theorem modMe_cnet (s : State) (f : Thread → Thread) : (s.modMe f).cnet = s.cnet := rfl
@[simp] theorem modMe_causal (s : State) (f : Thread → Thread) : (s.modMe f).causal = s.causal := rfl
@[simp] theorem modMe_cacks (s : State) (f : Thread → Thread) : (s.modMe f).cacks = s.cacks := rfl
@[simp] theorem modMe_rtu (s : State) (f : Thread → Thread) : (s.modMe f).rtu = s.rtu := rfl
@[simp] theorem modMe_walks (s : State) (f : Thread → Thread) : (s.modMe f).walks = s.walks := rfl
@[simp] theorem modMe_missQ (s : State) (f : Thread → Thread) : (s.modMe f).missQ = s.missQ := rfl
@[simp] theorem modMe_walkTurn (s : State) (f : Thread → Thread) : (s.modMe f).walkTurn = s.walkTurn := rfl
@[simp] theorem modMe_xlated (s : State) (f : Thread → Thread) : (s.modMe f).xlated = s.xlated := rfl
@[simp] theorem modMe_shoot (s : State) (f : Thread → Thread) : (s.modMe f).shoot = s.shoot := rfl
@[simp] theorem modMe_tables (s : State) (f : Thread → Thread) : (s.modMe f).tables = s.tables := rfl
@[simp] theorem modMe_store (s : State) (f : Thread → Thread) : (s.modMe f).store = s.store := rfl
@[simp] theorem modMe_wcache (s : State) (f : Thread → Thread) : (s.modMe f).wcache = s.wcache := rfl
@[simp] theorem modMe_parity (s : State) (f : Thread → Thread) : (s.modMe f).parity = s.parity := rfl
@[simp] theorem modMe_refused (s : State) (f : Thread → Thread) : (s.modMe f).refused = s.refused := rfl
@[simp] theorem modMe_dzResp (s : State) (f : Thread → Thread) : (s.modMe f).dzResp = s.dzResp := rfl
@[simp] theorem modMe_dzBad (s : State) (f : Thread → Thread) : (s.modMe f).dzBad = s.dzBad := rfl
@[simp] theorem modMe_parts (s : State) (f : Thread → Thread) : (s.modMe f).parts = s.parts := rfl
@[simp] theorem modMe_rings (s : State) (f : Thread → Thread) : (s.modMe f).rings = s.rings := rfl
@[simp] theorem modMe_tumblers (s : State) (f : Thread → Thread) : (s.modMe f).tumblers = s.tumblers := rfl
@[simp] theorem modMe_islands (s : State) (f : Thread → Thread) : (s.modMe f).islands = s.islands := rfl
@[simp] theorem modMe_spines (s : State) (f : Thread → Thread) : (s.modMe f).spines = s.spines := rfl
@[simp] theorem modMe_portA (s : State) (f : Thread → Thread) : (s.modMe f).portA = s.portA := rfl
@[simp] theorem modMe_portB (s : State) (f : Thread → Thread) : (s.modMe f).portB = s.portB := rfl
@[simp] theorem modMe_hasp (s : State) (f : Thread → Thread) : (s.modMe f).hasp = s.hasp := rfl
@[simp] theorem modMe_haspLast (s : State) (f : Thread → Thread) : (s.modMe f).haspLast = s.haspLast := rfl
@[simp] theorem modMe_images (s : State) (f : Thread → Thread) : (s.modMe f).images = s.images := rfl
@[simp] theorem modMe_hostMem (s : State) (f : Thread → Thread) : (s.modMe f).hostMem = s.hostMem := rfl
@[simp] theorem modMe_access (s : State) (f : Thread → Thread) : (s.modMe f).access = s.access := rfl
@[simp] theorem modMe_portAccess (s : State) (f : Thread → Thread) : (s.modMe f).portAccess = s.portAccess := rfl
@[simp] theorem modMe_linkAccess (s : State) (f : Thread → Thread) : (s.modMe f).linkAccess = s.linkAccess := rfl
@[simp] theorem modMe_mgmtAccess (s : State) (f : Thread → Thread) : (s.modMe f).mgmtAccess = s.mgmtAccess := rfl
@[simp] theorem modMe_gateways (s : State) (f : Thread → Thread) : (s.modMe f).gateways = s.gateways := rfl
@[simp] theorem modMe_crossing (s : State) (f : Thread → Thread) : (s.modMe f).crossing = s.crossing := rfl
@[simp] theorem modMe_firmware (s : State) (f : Thread → Thread) : (s.modMe f).firmware = s.firmware := rfl
@[simp] theorem modMe_fwNew (s : State) (f : Thread → Thread) : (s.modMe f).fwNew = s.fwNew := rfl
@[simp] theorem modMe_saved (s : State) (f : Thread → Thread) : (s.modMe f).saved = s.saved := rfl
@[simp] theorem modMe_savedParts (s : State) (f : Thread → Thread) : (s.modMe f).savedParts = s.savedParts := rfl
@[simp] theorem modMe_mgmt (s : State) (f : Thread → Thread) : (s.modMe f).mgmt = s.mgmt := rfl

@[simp] theorem modMe_cell (s : State) (f : Thread → Thread) : (s.modMe f).cell = s.cell.modTh s.cell.last f := rfl

@[simp] theorem State.modTh_cur (s : State) (t : TIdx) (f : Thread → Thread) : (s.modTh t f).cur = s.cur := rfl
@[simp] theorem State.modTh_others (s : State) (t : TIdx) (f : Thread → Thread) : (s.modTh t f).others = s.others := rfl
@[simp] theorem State.modTh_agenda (s : State) (t : TIdx) (f : Thread → Thread) : (s.modTh t f).agenda = s.agenda := rfl
@[simp] theorem State.modTh_turn (s : State) (t : TIdx) (f : Thread → Thread) : (s.modTh t f).turn = s.turn := rfl
@[simp] theorem State.modTh_tick (s : State) (t : TIdx) (f : Thread → Thread) : (s.modTh t f).tick = s.tick := rfl
@[simp] theorem State.modTh_freeIx (s : State) (t : TIdx) (f : Thread → Thread) : (s.modTh t f).freeIx = s.freeIx := rfl
@[simp] theorem State.modTh_dieCycle (s : State) (t : TIdx) (f : Thread → Thread) : (s.modTh t f).dieCycle = s.dieCycle := rfl
@[simp] theorem State.modTh_booted (s : State) (t : TIdx) (f : Thread → Thread) : (s.modTh t f).booted = s.booted := rfl
@[simp] theorem State.modTh_factory (s : State) (t : TIdx) (f : Thread → Thread) : (s.modTh t f).factory = s.factory := rfl
@[simp] theorem State.modTh_delta (s : State) (t : TIdx) (f : Thread → Thread) : (s.modTh t f).delta = s.delta := rfl
@[simp] theorem State.modTh_taken (s : State) (t : TIdx) (f : Thread → Thread) : (s.modTh t f).taken = s.taken := rfl
@[simp] theorem State.modTh_mapgen (s : State) (t : TIdx) (f : Thread → Thread) : (s.modTh t f).mapgen = s.mapgen := rfl
@[simp] theorem State.modTh_merged (s : State) (t : TIdx) (f : Thread → Thread) : (s.modTh t f).merged = s.merged := rfl
@[simp] theorem State.modTh_grade (s : State) (t : TIdx) (f : Thread → Thread) : (s.modTh t f).grade = s.grade := rfl
@[simp] theorem State.modTh_gradeLow (s : State) (t : TIdx) (f : Thread → Thread) : (s.modTh t f).gradeLow = s.gradeLow := rfl
@[simp] theorem State.modTh_dieMap (s : State) (t : TIdx) (f : Thread → Thread) : (s.modTh t f).dieMap = s.dieMap := rfl
@[simp] theorem State.modTh_failed (s : State) (t : TIdx) (f : Thread → Thread) : (s.modTh t f).failed = s.failed := rfl
@[simp] theorem State.modTh_routers (s : State) (t : TIdx) (f : Thread → Thread) : (s.modTh t f).routers = s.routers := rfl
@[simp] theorem State.modTh_mnet (s : State) (t : TIdx) (f : Thread → Thread) : (s.modTh t f).mnet = s.mnet := rfl
@[simp] theorem State.modTh_undelivered (s : State) (t : TIdx) (f : Thread → Thread) : (s.modTh t f).undelivered = s.undelivered := rfl
@[simp] theorem State.modTh_discarded (s : State) (t : TIdx) (f : Thread → Thread) : (s.modTh t f).discarded = s.discarded := rfl
@[simp] theorem State.modTh_snet (s : State) (t : TIdx) (f : Thread → Thread) : (s.modTh t f).snet = s.snet := rfl
@[simp] theorem State.modTh_linkOut (s : State) (t : TIdx) (f : Thread → Thread) : (s.modTh t f).linkOut = s.linkOut := rfl
@[simp] theorem State.modTh_cnet (s : State) (t : TIdx) (f : Thread → Thread) : (s.modTh t f).cnet = s.cnet := rfl
@[simp] theorem State.modTh_causal (s : State) (t : TIdx) (f : Thread → Thread) : (s.modTh t f).causal = s.causal := rfl
@[simp] theorem State.modTh_cacks (s : State) (t : TIdx) (f : Thread → Thread) : (s.modTh t f).cacks = s.cacks := rfl
@[simp] theorem State.modTh_rtu (s : State) (t : TIdx) (f : Thread → Thread) : (s.modTh t f).rtu = s.rtu := rfl
@[simp] theorem State.modTh_walks (s : State) (t : TIdx) (f : Thread → Thread) : (s.modTh t f).walks = s.walks := rfl
@[simp] theorem State.modTh_missQ (s : State) (t : TIdx) (f : Thread → Thread) : (s.modTh t f).missQ = s.missQ := rfl
@[simp] theorem State.modTh_walkTurn (s : State) (t : TIdx) (f : Thread → Thread) : (s.modTh t f).walkTurn = s.walkTurn := rfl
@[simp] theorem State.modTh_xlated (s : State) (t : TIdx) (f : Thread → Thread) : (s.modTh t f).xlated = s.xlated := rfl
@[simp] theorem State.modTh_shoot (s : State) (t : TIdx) (f : Thread → Thread) : (s.modTh t f).shoot = s.shoot := rfl
@[simp] theorem State.modTh_tables (s : State) (t : TIdx) (f : Thread → Thread) : (s.modTh t f).tables = s.tables := rfl
@[simp] theorem State.modTh_store (s : State) (t : TIdx) (f : Thread → Thread) : (s.modTh t f).store = s.store := rfl
@[simp] theorem State.modTh_wcache (s : State) (t : TIdx) (f : Thread → Thread) : (s.modTh t f).wcache = s.wcache := rfl
@[simp] theorem State.modTh_parity (s : State) (t : TIdx) (f : Thread → Thread) : (s.modTh t f).parity = s.parity := rfl
@[simp] theorem State.modTh_refused (s : State) (t : TIdx) (f : Thread → Thread) : (s.modTh t f).refused = s.refused := rfl
@[simp] theorem State.modTh_dzResp (s : State) (t : TIdx) (f : Thread → Thread) : (s.modTh t f).dzResp = s.dzResp := rfl
@[simp] theorem State.modTh_dzBad (s : State) (t : TIdx) (f : Thread → Thread) : (s.modTh t f).dzBad = s.dzBad := rfl
@[simp] theorem State.modTh_parts (s : State) (t : TIdx) (f : Thread → Thread) : (s.modTh t f).parts = s.parts := rfl
@[simp] theorem State.modTh_rings (s : State) (t : TIdx) (f : Thread → Thread) : (s.modTh t f).rings = s.rings := rfl
@[simp] theorem State.modTh_tumblers (s : State) (t : TIdx) (f : Thread → Thread) : (s.modTh t f).tumblers = s.tumblers := rfl
@[simp] theorem State.modTh_islands (s : State) (t : TIdx) (f : Thread → Thread) : (s.modTh t f).islands = s.islands := rfl
@[simp] theorem State.modTh_spines (s : State) (t : TIdx) (f : Thread → Thread) : (s.modTh t f).spines = s.spines := rfl
@[simp] theorem State.modTh_portA (s : State) (t : TIdx) (f : Thread → Thread) : (s.modTh t f).portA = s.portA := rfl
@[simp] theorem State.modTh_portB (s : State) (t : TIdx) (f : Thread → Thread) : (s.modTh t f).portB = s.portB := rfl
@[simp] theorem State.modTh_hasp (s : State) (t : TIdx) (f : Thread → Thread) : (s.modTh t f).hasp = s.hasp := rfl
@[simp] theorem State.modTh_haspLast (s : State) (t : TIdx) (f : Thread → Thread) : (s.modTh t f).haspLast = s.haspLast := rfl
@[simp] theorem State.modTh_images (s : State) (t : TIdx) (f : Thread → Thread) : (s.modTh t f).images = s.images := rfl
@[simp] theorem State.modTh_hostMem (s : State) (t : TIdx) (f : Thread → Thread) : (s.modTh t f).hostMem = s.hostMem := rfl
@[simp] theorem State.modTh_access (s : State) (t : TIdx) (f : Thread → Thread) : (s.modTh t f).access = s.access := rfl
@[simp] theorem State.modTh_portAccess (s : State) (t : TIdx) (f : Thread → Thread) : (s.modTh t f).portAccess = s.portAccess := rfl
@[simp] theorem State.modTh_linkAccess (s : State) (t : TIdx) (f : Thread → Thread) : (s.modTh t f).linkAccess = s.linkAccess := rfl
@[simp] theorem State.modTh_mgmtAccess (s : State) (t : TIdx) (f : Thread → Thread) : (s.modTh t f).mgmtAccess = s.mgmtAccess := rfl
@[simp] theorem State.modTh_gateways (s : State) (t : TIdx) (f : Thread → Thread) : (s.modTh t f).gateways = s.gateways := rfl
@[simp] theorem State.modTh_crossing (s : State) (t : TIdx) (f : Thread → Thread) : (s.modTh t f).crossing = s.crossing := rfl
@[simp] theorem State.modTh_firmware (s : State) (t : TIdx) (f : Thread → Thread) : (s.modTh t f).firmware = s.firmware := rfl
@[simp] theorem State.modTh_fwNew (s : State) (t : TIdx) (f : Thread → Thread) : (s.modTh t f).fwNew = s.fwNew := rfl
@[simp] theorem State.modTh_saved (s : State) (t : TIdx) (f : Thread → Thread) : (s.modTh t f).saved = s.saved := rfl
@[simp] theorem State.modTh_savedParts (s : State) (t : TIdx) (f : Thread → Thread) : (s.modTh t f).savedParts = s.savedParts := rfl
@[simp] theorem State.modTh_mgmt (s : State) (t : TIdx) (f : Thread → Thread) : (s.modTh t f).mgmt = s.mgmt := rfl

@[simp] theorem State.modTh_cell (s : State) (t : TIdx) (f : Thread → Thread) : (s.modTh t f).cell = s.cell.modTh t f := rfl

@[simp] theorem fresh_cur (s : State) : (fresh s).cur = s.cur := rfl
@[simp] theorem fresh_cell (s : State) : (fresh s).cell = s.cell := rfl
@[simp] theorem fresh_others (s : State) : (fresh s).others = s.others := rfl
@[simp] theorem fresh_agenda (s : State) : (fresh s).agenda = s.agenda := rfl
@[simp] theorem fresh_turn (s : State) : (fresh s).turn = s.turn := rfl
@[simp] theorem fresh_tick (s : State) : (fresh s).tick = s.tick := rfl
@[simp] theorem fresh_dieCycle (s : State) : (fresh s).dieCycle = s.dieCycle := rfl
@[simp] theorem fresh_booted (s : State) : (fresh s).booted = s.booted := rfl
@[simp] theorem fresh_factory (s : State) : (fresh s).factory = s.factory := rfl
@[simp] theorem fresh_delta (s : State) : (fresh s).delta = s.delta := rfl
@[simp] theorem fresh_taken (s : State) : (fresh s).taken = s.taken := rfl
@[simp] theorem fresh_mapgen (s : State) : (fresh s).mapgen = s.mapgen := rfl
@[simp] theorem fresh_merged (s : State) : (fresh s).merged = s.merged := rfl
@[simp] theorem fresh_grade (s : State) : (fresh s).grade = s.grade := rfl
@[simp] theorem fresh_gradeLow (s : State) : (fresh s).gradeLow = s.gradeLow := rfl
@[simp] theorem fresh_dieMap (s : State) : (fresh s).dieMap = s.dieMap := rfl
@[simp] theorem fresh_failed (s : State) : (fresh s).failed = s.failed := rfl
@[simp] theorem fresh_routers (s : State) : (fresh s).routers = s.routers := rfl
@[simp] theorem fresh_mnet (s : State) : (fresh s).mnet = s.mnet := rfl
@[simp] theorem fresh_undelivered (s : State) : (fresh s).undelivered = s.undelivered := rfl
@[simp] theorem fresh_discarded (s : State) : (fresh s).discarded = s.discarded := rfl
@[simp] theorem fresh_snet (s : State) : (fresh s).snet = s.snet := rfl
@[simp] theorem fresh_linkOut (s : State) : (fresh s).linkOut = s.linkOut := rfl
@[simp] theorem fresh_cnet (s : State) : (fresh s).cnet = s.cnet := rfl
@[simp] theorem fresh_causal (s : State) : (fresh s).causal = s.causal := rfl
@[simp] theorem fresh_cacks (s : State) : (fresh s).cacks = s.cacks := rfl
@[simp] theorem fresh_rtu (s : State) : (fresh s).rtu = s.rtu := rfl
@[simp] theorem fresh_walks (s : State) : (fresh s).walks = s.walks := rfl
@[simp] theorem fresh_missQ (s : State) : (fresh s).missQ = s.missQ := rfl
@[simp] theorem fresh_walkTurn (s : State) : (fresh s).walkTurn = s.walkTurn := rfl
@[simp] theorem fresh_xlated (s : State) : (fresh s).xlated = s.xlated := rfl
@[simp] theorem fresh_shoot (s : State) : (fresh s).shoot = s.shoot := rfl
@[simp] theorem fresh_tables (s : State) : (fresh s).tables = s.tables := rfl
@[simp] theorem fresh_store (s : State) : (fresh s).store = s.store := rfl
@[simp] theorem fresh_wcache (s : State) : (fresh s).wcache = s.wcache := rfl
@[simp] theorem fresh_parity (s : State) : (fresh s).parity = s.parity := rfl
@[simp] theorem fresh_refused (s : State) : (fresh s).refused = s.refused := rfl
@[simp] theorem fresh_dzResp (s : State) : (fresh s).dzResp = s.dzResp := rfl
@[simp] theorem fresh_dzBad (s : State) : (fresh s).dzBad = s.dzBad := rfl
@[simp] theorem fresh_parts (s : State) : (fresh s).parts = s.parts := rfl
@[simp] theorem fresh_rings (s : State) : (fresh s).rings = s.rings := rfl
@[simp] theorem fresh_tumblers (s : State) : (fresh s).tumblers = s.tumblers := rfl
@[simp] theorem fresh_islands (s : State) : (fresh s).islands = s.islands := rfl
@[simp] theorem fresh_spines (s : State) : (fresh s).spines = s.spines := rfl
@[simp] theorem fresh_portA (s : State) : (fresh s).portA = s.portA := rfl
@[simp] theorem fresh_portB (s : State) : (fresh s).portB = s.portB := rfl
@[simp] theorem fresh_hasp (s : State) : (fresh s).hasp = s.hasp := rfl
@[simp] theorem fresh_haspLast (s : State) : (fresh s).haspLast = s.haspLast := rfl
@[simp] theorem fresh_images (s : State) : (fresh s).images = s.images := rfl
@[simp] theorem fresh_hostMem (s : State) : (fresh s).hostMem = s.hostMem := rfl
@[simp] theorem fresh_access (s : State) : (fresh s).access = s.access := rfl
@[simp] theorem fresh_portAccess (s : State) : (fresh s).portAccess = s.portAccess := rfl
@[simp] theorem fresh_linkAccess (s : State) : (fresh s).linkAccess = s.linkAccess := rfl
@[simp] theorem fresh_mgmtAccess (s : State) : (fresh s).mgmtAccess = s.mgmtAccess := rfl
@[simp] theorem fresh_gateways (s : State) : (fresh s).gateways = s.gateways := rfl
@[simp] theorem fresh_crossing (s : State) : (fresh s).crossing = s.crossing := rfl
@[simp] theorem fresh_firmware (s : State) : (fresh s).firmware = s.firmware := rfl
@[simp] theorem fresh_fwNew (s : State) : (fresh s).fwNew = s.fwNew := rfl
@[simp] theorem fresh_saved (s : State) : (fresh s).saved = s.saved := rfl
@[simp] theorem fresh_savedParts (s : State) : (fresh s).savedParts = s.savedParts := rfl
@[simp] theorem fresh_mgmt (s : State) : (fresh s).mgmt = s.mgmt := rfl

theorem turnTumblers_only (s : State) : s.turnTumblers = { s with tumblers := s.turnTumblers.tumblers } := by
  unfold State.turnTumblers
  generalize (s.tumblers.filter fun e => e.2.busy && !e.2.late) = l
  suffices h : ∀ (l : List (Nat × Tumbler)) (r : State), 
      ∃ m, l.foldl (fun s e => s.turnTumbler (e.1 / 64) (e.1 % 64)) r = { r with tumblers := m } by
    obtain ⟨m, h⟩ := h l s
    rw [h]
  intro l
  induction l with
  | nil => exact fun r => ⟨r.tumblers, rfl⟩
  | cons e l ih =>
    intro r
    exact (ih (r.turnTumbler (e.1 / 64) (e.1 % 64))).imp fun m h => h
/-- Time passing touches the time of the panel and its dies, and the tumblers. -/
theorem pass_only (s : State) : s.pass = { s with
    tick := s.tick + 1, dieCycle := s.pass.dieCycle, tumblers := s.pass.tumblers } := by
  unfold State.pass
  rw [turnTumblers_only]
@[simp] theorem pass_tick (s : State) : s.pass.tick = s.tick + 1 := by rw [pass_only]

@[simp] theorem pass_cur (s : State) : s.pass.cur = s.cur := by rw [pass_only]
@[simp] theorem pass_cell (s : State) : s.pass.cell = s.cell := by rw [pass_only]
@[simp] theorem pass_others (s : State) : s.pass.others = s.others := by rw [pass_only]
@[simp] theorem pass_agenda (s : State) : s.pass.agenda = s.agenda := by rw [pass_only]
@[simp] theorem pass_turn (s : State) : s.pass.turn = s.turn := by rw [pass_only]
@[simp] theorem pass_freeIx (s : State) : s.pass.freeIx = s.freeIx := by rw [pass_only]
@[simp] theorem pass_booted (s : State) : s.pass.booted = s.booted := by rw [pass_only]
@[simp] theorem pass_factory (s : State) : s.pass.factory = s.factory := by rw [pass_only]
@[simp] theorem pass_delta (s : State) : s.pass.delta = s.delta := by rw [pass_only]
@[simp] theorem pass_taken (s : State) : s.pass.taken = s.taken := by rw [pass_only]
@[simp] theorem pass_mapgen (s : State) : s.pass.mapgen = s.mapgen := by rw [pass_only]
@[simp] theorem pass_merged (s : State) : s.pass.merged = s.merged := by rw [pass_only]
@[simp] theorem pass_grade (s : State) : s.pass.grade = s.grade := by rw [pass_only]
@[simp] theorem pass_gradeLow (s : State) : s.pass.gradeLow = s.gradeLow := by rw [pass_only]
@[simp] theorem pass_dieMap (s : State) : s.pass.dieMap = s.dieMap := by rw [pass_only]
@[simp] theorem pass_failed (s : State) : s.pass.failed = s.failed := by rw [pass_only]
@[simp] theorem pass_routers (s : State) : s.pass.routers = s.routers := by rw [pass_only]
@[simp] theorem pass_mnet (s : State) : s.pass.mnet = s.mnet := by rw [pass_only]
@[simp] theorem pass_undelivered (s : State) : s.pass.undelivered = s.undelivered := by rw [pass_only]
@[simp] theorem pass_discarded (s : State) : s.pass.discarded = s.discarded := by rw [pass_only]
@[simp] theorem pass_snet (s : State) : s.pass.snet = s.snet := by rw [pass_only]
@[simp] theorem pass_linkOut (s : State) : s.pass.linkOut = s.linkOut := by rw [pass_only]
@[simp] theorem pass_cnet (s : State) : s.pass.cnet = s.cnet := by rw [pass_only]
@[simp] theorem pass_causal (s : State) : s.pass.causal = s.causal := by rw [pass_only]
@[simp] theorem pass_cacks (s : State) : s.pass.cacks = s.cacks := by rw [pass_only]
@[simp] theorem pass_rtu (s : State) : s.pass.rtu = s.rtu := by rw [pass_only]
@[simp] theorem pass_walks (s : State) : s.pass.walks = s.walks := by rw [pass_only]
@[simp] theorem pass_missQ (s : State) : s.pass.missQ = s.missQ := by rw [pass_only]
@[simp] theorem pass_walkTurn (s : State) : s.pass.walkTurn = s.walkTurn := by rw [pass_only]
@[simp] theorem pass_xlated (s : State) : s.pass.xlated = s.xlated := by rw [pass_only]
@[simp] theorem pass_shoot (s : State) : s.pass.shoot = s.shoot := by rw [pass_only]
@[simp] theorem pass_tables (s : State) : s.pass.tables = s.tables := by rw [pass_only]
@[simp] theorem pass_store (s : State) : s.pass.store = s.store := by rw [pass_only]
@[simp] theorem pass_wcache (s : State) : s.pass.wcache = s.wcache := by rw [pass_only]
@[simp] theorem pass_parity (s : State) : s.pass.parity = s.parity := by rw [pass_only]
@[simp] theorem pass_refused (s : State) : s.pass.refused = s.refused := by rw [pass_only]
@[simp] theorem pass_dzResp (s : State) : s.pass.dzResp = s.dzResp := by rw [pass_only]
@[simp] theorem pass_dzBad (s : State) : s.pass.dzBad = s.dzBad := by rw [pass_only]
@[simp] theorem pass_parts (s : State) : s.pass.parts = s.parts := by rw [pass_only]
@[simp] theorem pass_rings (s : State) : s.pass.rings = s.rings := by rw [pass_only]
@[simp] theorem pass_islands (s : State) : s.pass.islands = s.islands := by rw [pass_only]
@[simp] theorem pass_spines (s : State) : s.pass.spines = s.spines := by rw [pass_only]
@[simp] theorem pass_portA (s : State) : s.pass.portA = s.portA := by rw [pass_only]
@[simp] theorem pass_portB (s : State) : s.pass.portB = s.portB := by rw [pass_only]
@[simp] theorem pass_hasp (s : State) : s.pass.hasp = s.hasp := by rw [pass_only]
@[simp] theorem pass_haspLast (s : State) : s.pass.haspLast = s.haspLast := by rw [pass_only]
@[simp] theorem pass_images (s : State) : s.pass.images = s.images := by rw [pass_only]
@[simp] theorem pass_hostMem (s : State) : s.pass.hostMem = s.hostMem := by rw [pass_only]
@[simp] theorem pass_access (s : State) : s.pass.access = s.access := by rw [pass_only]
@[simp] theorem pass_portAccess (s : State) : s.pass.portAccess = s.portAccess := by rw [pass_only]
@[simp] theorem pass_linkAccess (s : State) : s.pass.linkAccess = s.linkAccess := by rw [pass_only]
@[simp] theorem pass_mgmtAccess (s : State) : s.pass.mgmtAccess = s.mgmtAccess := by rw [pass_only]
@[simp] theorem pass_gateways (s : State) : s.pass.gateways = s.gateways := by rw [pass_only]
@[simp] theorem pass_crossing (s : State) : s.pass.crossing = s.crossing := by rw [pass_only]
@[simp] theorem pass_firmware (s : State) : s.pass.firmware = s.firmware := by rw [pass_only]
@[simp] theorem pass_fwNew (s : State) : s.pass.fwNew = s.fwNew := by rw [pass_only]
@[simp] theorem pass_saved (s : State) : s.pass.saved = s.saved := by rw [pass_only]
@[simp] theorem pass_savedParts (s : State) : s.pass.savedParts = s.savedParts := by rw [pass_only]
@[simp] theorem pass_mgmt (s : State) : s.pass.mgmt = s.mgmt := by rw [pass_only]

@[simp] theorem Cell.setTh_name (c : Cell) (t : TIdx) (x : Thread) : (c.setTh t x).name = c.name := rfl
@[simp] theorem Cell.setTh_part (c : Cell) (t : TIdx) (x : Thread) : (c.setTh t x).part = c.part := rfl
@[simp] theorem Cell.setTh_mapgen (c : Cell) (t : TIdx) (x : Thread) : (c.setTh t x).mapgen = c.mapgen := rfl
@[simp] theorem Cell.setTh_last (c : Cell) (t : TIdx) (x : Thread) : (c.setTh t x).last = c.last := rfl
@[simp] theorem Cell.setTh_plane (c : Cell) (t : TIdx) (x : Thread) : (c.setTh t x).plane = c.plane := rfl
@[simp] theorem Cell.setTh_pad (c : Cell) (t : TIdx) (x : Thread) : (c.setTh t x).pad = c.pad := rfl
@[simp] theorem Cell.setTh_inbox (c : Cell) (t : TIdx) (x : Thread) : (c.setTh t x).inbox = c.inbox := rfl
@[simp] theorem Cell.setTh_mx (c : Cell) (t : TIdx) (x : Thread) : (c.setTh t x).mx = c.mx := rfl
@[simp] theorem Cell.setTh_red (c : Cell) (t : TIdx) (x : Thread) : (c.setTh t x).red = c.red := rfl
@[simp] theorem Cell.setTh_eng (c : Cell) (t : TIdx) (x : Thread) : (c.setTh t x).eng = c.eng := rfl
@[simp] theorem Cell.setTh_msg (c : Cell) (t : TIdx) (x : Thread) : (c.setTh t x).msg = c.msg := rfl
@[simp] theorem Cell.setTh_land (c : Cell) (t : TIdx) (x : Thread) : (c.setTh t x).land = c.land := rfl
@[simp] theorem Cell.setTh_tim (c : Cell) (t : TIdx) (x : Thread) : (c.setTh t x).tim = c.tim := rfl
@[simp] theorem Cell.setTh_flt (c : Cell) (t : TIdx) (x : Thread) : (c.setTh t x).flt = c.flt := rfl
@[simp] theorem Cell.setTh_lost61 (c : Cell) (t : TIdx) (x : Thread) : (c.setTh t x).lost61 = c.lost61 := rfl
@[simp] theorem Cell.setTh_lead (c : Cell) (t : TIdx) (x : Thread) : (c.setTh t x).lead = c.lead := rfl
@[simp] theorem Cell.setTh_drowsy (c : Cell) (t : TIdx) (x : Thread) : (c.setTh t x).drowsy = c.drowsy := rfl
@[simp] theorem Cell.setTh_idleCyc (c : Cell) (t : TIdx) (x : Thread) : (c.setTh t x).idleCyc = c.idleCyc := rfl

@[simp] theorem Cell.modTh_name (c : Cell) (t : TIdx) (f : Thread → Thread) : (c.modTh t f).name = c.name := rfl
@[simp] theorem Cell.modTh_part (c : Cell) (t : TIdx) (f : Thread → Thread) : (c.modTh t f).part = c.part := rfl
@[simp] theorem Cell.modTh_mapgen (c : Cell) (t : TIdx) (f : Thread → Thread) : (c.modTh t f).mapgen = c.mapgen := rfl
@[simp] theorem Cell.modTh_last (c : Cell) (t : TIdx) (f : Thread → Thread) : (c.modTh t f).last = c.last := rfl
@[simp] theorem Cell.modTh_plane (c : Cell) (t : TIdx) (f : Thread → Thread) : (c.modTh t f).plane = c.plane := rfl
@[simp] theorem Cell.modTh_pad (c : Cell) (t : TIdx) (f : Thread → Thread) : (c.modTh t f).pad = c.pad := rfl
@[simp] theorem Cell.modTh_inbox (c : Cell) (t : TIdx) (f : Thread → Thread) : (c.modTh t f).inbox = c.inbox := rfl
@[simp] theorem Cell.modTh_mx (c : Cell) (t : TIdx) (f : Thread → Thread) : (c.modTh t f).mx = c.mx := rfl
@[simp] theorem Cell.modTh_red (c : Cell) (t : TIdx) (f : Thread → Thread) : (c.modTh t f).red = c.red := rfl
@[simp] theorem Cell.modTh_eng (c : Cell) (t : TIdx) (f : Thread → Thread) : (c.modTh t f).eng = c.eng := rfl
@[simp] theorem Cell.modTh_msg (c : Cell) (t : TIdx) (f : Thread → Thread) : (c.modTh t f).msg = c.msg := rfl
@[simp] theorem Cell.modTh_land (c : Cell) (t : TIdx) (f : Thread → Thread) : (c.modTh t f).land = c.land := rfl
@[simp] theorem Cell.modTh_tim (c : Cell) (t : TIdx) (f : Thread → Thread) : (c.modTh t f).tim = c.tim := rfl
@[simp] theorem Cell.modTh_flt (c : Cell) (t : TIdx) (f : Thread → Thread) : (c.modTh t f).flt = c.flt := rfl
@[simp] theorem Cell.modTh_lost61 (c : Cell) (t : TIdx) (f : Thread → Thread) : (c.modTh t f).lost61 = c.lost61 := rfl
@[simp] theorem Cell.modTh_lead (c : Cell) (t : TIdx) (f : Thread → Thread) : (c.modTh t f).lead = c.lead := rfl
@[simp] theorem Cell.modTh_drowsy (c : Cell) (t : TIdx) (f : Thread → Thread) : (c.modTh t f).drowsy = c.drowsy := rfl
@[simp] theorem Cell.modTh_idleCyc (c : Cell) (t : TIdx) (f : Thread → Thread) : (c.modTh t f).idleCyc = c.idleCyc := rfl

@[simp] theorem Cell.modPad_name (c : Cell) (f : Pad → Pad) : (c.modPad f).name = c.name := rfl
@[simp] theorem Cell.modPad_part (c : Cell) (f : Pad → Pad) : (c.modPad f).part = c.part := rfl
@[simp] theorem Cell.modPad_mapgen (c : Cell) (f : Pad → Pad) : (c.modPad f).mapgen = c.mapgen := rfl
@[simp] theorem Cell.modPad_last (c : Cell) (f : Pad → Pad) : (c.modPad f).last = c.last := rfl
@[simp] theorem Cell.modPad_thr (c : Cell) (f : Pad → Pad) : (c.modPad f).thr = c.thr := rfl
@[simp] theorem Cell.modPad_plane (c : Cell) (f : Pad → Pad) : (c.modPad f).plane = c.plane := rfl
@[simp] theorem Cell.modPad_inbox (c : Cell) (f : Pad → Pad) : (c.modPad f).inbox = c.inbox := rfl
@[simp] theorem Cell.modPad_mx (c : Cell) (f : Pad → Pad) : (c.modPad f).mx = c.mx := rfl
@[simp] theorem Cell.modPad_red (c : Cell) (f : Pad → Pad) : (c.modPad f).red = c.red := rfl
@[simp] theorem Cell.modPad_eng (c : Cell) (f : Pad → Pad) : (c.modPad f).eng = c.eng := rfl
@[simp] theorem Cell.modPad_msg (c : Cell) (f : Pad → Pad) : (c.modPad f).msg = c.msg := rfl
@[simp] theorem Cell.modPad_land (c : Cell) (f : Pad → Pad) : (c.modPad f).land = c.land := rfl
@[simp] theorem Cell.modPad_tim (c : Cell) (f : Pad → Pad) : (c.modPad f).tim = c.tim := rfl
@[simp] theorem Cell.modPad_flt (c : Cell) (f : Pad → Pad) : (c.modPad f).flt = c.flt := rfl
@[simp] theorem Cell.modPad_lost61 (c : Cell) (f : Pad → Pad) : (c.modPad f).lost61 = c.lost61 := rfl
@[simp] theorem Cell.modPad_lead (c : Cell) (f : Pad → Pad) : (c.modPad f).lead = c.lead := rfl
@[simp] theorem Cell.modPad_drowsy (c : Cell) (f : Pad → Pad) : (c.modPad f).drowsy = c.drowsy := rfl
@[simp] theorem Cell.modPad_idleCyc (c : Cell) (f : Pad → Pad) : (c.modPad f).idleCyc = c.idleCyc := rfl

@[simp] theorem Cell.modStrm_name (c : Cell) (e : Fin 4) (f : Stream → Stream) : (c.modStrm e f).name = c.name := rfl
@[simp] theorem Cell.modStrm_part (c : Cell) (e : Fin 4) (f : Stream → Stream) : (c.modStrm e f).part = c.part := rfl
@[simp] theorem Cell.modStrm_mapgen (c : Cell) (e : Fin 4) (f : Stream → Stream) : (c.modStrm e f).mapgen = c.mapgen := rfl
@[simp] theorem Cell.modStrm_last (c : Cell) (e : Fin 4) (f : Stream → Stream) : (c.modStrm e f).last = c.last := rfl
@[simp] theorem Cell.modStrm_thr (c : Cell) (e : Fin 4) (f : Stream → Stream) : (c.modStrm e f).thr = c.thr := rfl
@[simp] theorem Cell.modStrm_plane (c : Cell) (e : Fin 4) (f : Stream → Stream) : (c.modStrm e f).plane = c.plane := rfl
@[simp] theorem Cell.modStrm_pad (c : Cell) (e : Fin 4) (f : Stream → Stream) : (c.modStrm e f).pad = c.pad := rfl
@[simp] theorem Cell.modStrm_inbox (c : Cell) (e : Fin 4) (f : Stream → Stream) : (c.modStrm e f).inbox = c.inbox := rfl
@[simp] theorem Cell.modStrm_mx (c : Cell) (e : Fin 4) (f : Stream → Stream) : (c.modStrm e f).mx = c.mx := rfl
@[simp] theorem Cell.modStrm_red (c : Cell) (e : Fin 4) (f : Stream → Stream) : (c.modStrm e f).red = c.red := rfl
@[simp] theorem Cell.modStrm_msg (c : Cell) (e : Fin 4) (f : Stream → Stream) : (c.modStrm e f).msg = c.msg := rfl
@[simp] theorem Cell.modStrm_land (c : Cell) (e : Fin 4) (f : Stream → Stream) : (c.modStrm e f).land = c.land := rfl
@[simp] theorem Cell.modStrm_tim (c : Cell) (e : Fin 4) (f : Stream → Stream) : (c.modStrm e f).tim = c.tim := rfl
@[simp] theorem Cell.modStrm_flt (c : Cell) (e : Fin 4) (f : Stream → Stream) : (c.modStrm e f).flt = c.flt := rfl
@[simp] theorem Cell.modStrm_lost61 (c : Cell) (e : Fin 4) (f : Stream → Stream) : (c.modStrm e f).lost61 = c.lost61 := rfl
@[simp] theorem Cell.modStrm_lead (c : Cell) (e : Fin 4) (f : Stream → Stream) : (c.modStrm e f).lead = c.lead := rfl
@[simp] theorem Cell.modStrm_drowsy (c : Cell) (e : Fin 4) (f : Stream → Stream) : (c.modStrm e f).drowsy = c.drowsy := rfl
@[simp] theorem Cell.modStrm_idleCyc (c : Cell) (e : Fin 4) (f : Stream → Stream) : (c.modStrm e f).idleCyc = c.idleCyc := rfl

@[simp] theorem Cell.th_setTh_same (c : Cell) (t : TIdx) (x : Thread) : (c.setTh t x).th t = x := by
  simp [Cell.setTh, Cell.th]
theorem Cell.th_setTh_other (c : Cell) {t u : TIdx} (x : Thread) (h : t ≠ u) : (c.setTh t x).th u = c.th u := by
  have h2 : t.val ≠ u.val := fun e => h (Fin.ext e)
  simp [Cell.setTh, Cell.th, h2]
@[simp] theorem Cell.th_modTh_same (c : Cell) (t : TIdx) (f : Thread → Thread) : (c.modTh t f).th t = f (c.th t) := by
  simp [Cell.modTh]
theorem Cell.th_modTh_other (c : Cell) {t u : TIdx} (f : Thread → Thread) (h : t ≠ u) : (c.modTh t f).th u = c.th u := by
  simp [Cell.modTh, Cell.th_setTh_other _ _ h]
@[simp] theorem Cell.modTh_modTh (c : Cell) (t : TIdx) (f g : Thread → Thread) : (c.modTh t f).modTh t g = c.modTh t fun x => g (f x) := by
  simp [Cell.modTh, Cell.setTh, Cell.th]
@[simp] theorem modMe_me (s : State) (f : Thread → Thread) : (s.modMe f).me = f s.me := by
  simp [State.me]
@[simp] theorem modMe_modMe (s : State) (f g : Thread → Thread) : (s.modMe f).modMe g = s.modMe fun x => g (f x) := by
  simp [State.modMe]
@[simp] theorem modMe_modTh_last (s : State) (f g : Thread → Thread) : (s.modMe f).modTh s.cell.last g = s.modMe fun x => g (f x) := by
  simp [State.modMe, State.modTh]
theorem modMe_eq_modTh (s : State) (f : Thread → Thread) : s.modMe f = s.modTh s.cell.last f := rfl

/-! ### A thread's registers -/

@[simp] theorem Thread.putReg_st (x : Thread) (d : Spec) (v : V256) : (x.putReg d v).st = x.st := by unfold Thread.putReg; dsimp only; repeat' (first | rfl | split)
@[simp] theorem Thread.putReg_wait (x : Thread) (d : Spec) (v : V256) : (x.putReg d v).wait = x.wait := by unfold Thread.putReg; dsimp only; repeat' (first | rfl | split)
@[simp] theorem Thread.putReg_wmark (x : Thread) (d : Spec) (v : V256) : (x.putReg d v).wmark = x.wmark := by unfold Thread.putReg; dsimp only; repeat' (first | rfl | split)
@[simp] theorem Thread.putReg_p (x : Thread) (d : Spec) (v : V256) : (x.putReg d v).p = x.p := by unfold Thread.putReg; dsimp only; repeat' (first | rfl | split)
@[simp] theorem Thread.putReg_pc (x : Thread) (d : Spec) (v : V256) : (x.putReg d v).pc = x.pc := by unfold Thread.putReg; dsimp only; repeat' (first | rfl | split)
@[simp] theorem Thread.putReg_pp (x : Thread) (d : Spec) (v : V256) : (x.putReg d v).pp = x.pp := by unfold Thread.putReg; dsimp only; repeat' (first | rfl | split)
@[simp] theorem Thread.putReg_pfx (x : Thread) (d : Spec) (v : V256) : (x.putReg d v).pfx = x.pfx := by unfold Thread.putReg; dsimp only; repeat' (first | rfl | split)
@[simp] theorem Thread.putReg_lp0 (x : Thread) (d : Spec) (v : V256) : (x.putReg d v).lp0 = x.lp0 := by unfold Thread.putReg; dsimp only; repeat' (first | rfl | split)
@[simp] theorem Thread.putReg_lp1 (x : Thread) (d : Spec) (v : V256) : (x.putReg d v).lp1 = x.lp1 := by unfold Thread.putReg; dsimp only; repeat' (first | rfl | split)
@[simp] theorem Thread.putReg_blk (x : Thread) (d : Spec) (v : V256) : (x.putReg d v).blk = x.blk := by unfold Thread.putReg; dsimp only; repeat' (first | rfl | split)
@[simp] theorem Thread.putReg_blkAt (x : Thread) (d : Spec) (v : V256) : (x.putReg d v).blkAt = x.blkAt := by unfold Thread.putReg; dsimp only; repeat' (first | rfl | split)
@[simp] theorem Thread.putReg_blkLen (x : Thread) (d : Spec) (v : V256) : (x.putReg d v).blkLen = x.blkLen := by unfold Thread.putReg; dsimp only; repeat' (first | rfl | split)
@[simp] theorem Thread.putReg_inh (x : Thread) (d : Spec) (v : V256) : (x.putReg d v).inh = x.inh := by unfold Thread.putReg; dsimp only; repeat' (first | rfl | split)
@[simp] theorem Thread.putReg_inb (x : Thread) (d : Spec) (v : V256) : (x.putReg d v).inb = x.inb := by unfold Thread.putReg; dsimp only; repeat' (first | rfl | split)
@[simp] theorem Thread.putReg_tmd (x : Thread) (d : Spec) (v : V256) : (x.putReg d v).tmd = x.tmd := by unfold Thread.putReg; dsimp only; repeat' (first | rfl | split)
@[simp] theorem Thread.putReg_lvl (x : Thread) (d : Spec) (v : V256) : (x.putReg d v).lvl = x.lvl := by unfold Thread.putReg; dsimp only; repeat' (first | rfl | split)
@[simp] theorem Thread.putReg_link (x : Thread) (d : Spec) (v : V256) : (x.putReg d v).link = x.link := by unfold Thread.putReg; dsimp only; repeat' (first | rfl | split)
@[simp] theorem Thread.putReg_hsrc (x : Thread) (d : Spec) (v : V256) : (x.putReg d v).hsrc = x.hsrc := by unfold Thread.putReg; dsimp only; repeat' (first | rfl | split)
@[simp] theorem Thread.putReg_hchan (x : Thread) (d : Spec) (v : V256) : (x.putReg d v).hchan = x.hchan := by unfold Thread.putReg; dsimp only; repeat' (first | rfl | split)
@[simp] theorem Thread.putReg_hvrt (x : Thread) (d : Spec) (v : V256) : (x.putReg d v).hvrt = x.hvrt := by unfold Thread.putReg; dsimp only; repeat' (first | rfl | split)
@[simp] theorem Thread.putReg_hreply (x : Thread) (d : Spec) (v : V256) : (x.putReg d v).hreply = x.hreply := by unfold Thread.putReg; dsimp only; repeat' (first | rfl | split)
@[simp] theorem Thread.putReg_fmt (x : Thread) (d : Spec) (v : V256) : (x.putReg d v).fmt = x.fmt := by unfold Thread.putReg; dsimp only; repeat' (first | rfl | split)
@[simp] theorem Thread.putReg_rseed (x : Thread) (d : Spec) (v : V256) : (x.putReg d v).rseed = x.rseed := by unfold Thread.putReg; dsimp only; repeat' (first | rfl | split)
@[simp] theorem Thread.putReg_mshape (x : Thread) (d : Spec) (v : V256) : (x.putReg d v).mshape = x.mshape := by unfold Thread.putReg; dsimp only; repeat' (first | rfl | split)
@[simp] theorem Thread.putReg_sseq (x : Thread) (d : Spec) (v : V256) : (x.putReg d v).sseq = x.sseq := by unfold Thread.putReg; dsimp only; repeat' (first | rfl | split)
@[simp] theorem Thread.putReg_fcause (x : Thread) (d : Spec) (v : V256) : (x.putReg d v).fcause = x.fcause := by unfold Thread.putReg; dsimp only; repeat' (first | rfl | split)
@[simp] theorem Thread.putReg_fpc (x : Thread) (d : Spec) (v : V256) : (x.putReg d v).fpc = x.fpc := by unfold Thread.putReg; dsimp only; repeat' (first | rfl | split)
@[simp] theorem Thread.putReg_faddr (x : Thread) (d : Spec) (v : V256) : (x.putReg d v).faddr = x.faddr := by unfold Thread.putReg; dsimp only; repeat' (first | rfl | split)
@[simp] theorem Thread.putReg_ftid (x : Thread) (d : Spec) (v : V256) : (x.putReg d v).ftid = x.ftid := by unfold Thread.putReg; dsimp only; repeat' (first | rfl | split)
@[simp] theorem Thread.putReg_starve (x : Thread) (d : Spec) (v : V256) : (x.putReg d v).starve = x.starve := by unfold Thread.putReg; dsimp only; repeat' (first | rfl | split)
@[simp] theorem Thread.putReg_yielded (x : Thread) (d : Spec) (v : V256) : (x.putReg d v).yielded = x.yielded := by unfold Thread.putReg; dsimp only; repeat' (first | rfl | split)
@[simp] theorem Thread.putReg_cuts (x : Thread) (d : Spec) (v : V256) : (x.putReg d v).cuts = x.cuts := by unfold Thread.putReg; dsimp only; repeat' (first | rfl | split)
@[simp] theorem Thread.putReg_outs (x : Thread) (d : Spec) (v : V256) : (x.putReg d v).outs = x.outs := by unfold Thread.putReg; dsimp only; repeat' (first | rfl | split)
@[simp] theorem Thread.putReg_deferred (x : Thread) (d : Spec) (v : V256) : (x.putReg d v).deferred = x.deferred := by unfold Thread.putReg; dsimp only; repeat' (first | rfl | split)
@[simp] theorem Thread.setReg_st (x : Thread) (d : Spec) (v : V256) : (x.setReg d v).st = x.st := Thread.putReg_st x d v
@[simp] theorem Thread.setReg_wait (x : Thread) (d : Spec) (v : V256) : (x.setReg d v).wait = x.wait := Thread.putReg_wait x d v
@[simp] theorem Thread.setReg_wmark (x : Thread) (d : Spec) (v : V256) : (x.setReg d v).wmark = x.wmark := Thread.putReg_wmark x d v
@[simp] theorem Thread.setReg_p (x : Thread) (d : Spec) (v : V256) : (x.setReg d v).p = x.p := Thread.putReg_p x d v
@[simp] theorem Thread.setReg_pc (x : Thread) (d : Spec) (v : V256) : (x.setReg d v).pc = x.pc := Thread.putReg_pc x d v
@[simp] theorem Thread.setReg_pp (x : Thread) (d : Spec) (v : V256) : (x.setReg d v).pp = x.pp := Thread.putReg_pp x d v
@[simp] theorem Thread.setReg_pfx (x : Thread) (d : Spec) (v : V256) : (x.setReg d v).pfx = x.pfx := Thread.putReg_pfx x d v
@[simp] theorem Thread.setReg_lp0 (x : Thread) (d : Spec) (v : V256) : (x.setReg d v).lp0 = x.lp0 := Thread.putReg_lp0 x d v
@[simp] theorem Thread.setReg_lp1 (x : Thread) (d : Spec) (v : V256) : (x.setReg d v).lp1 = x.lp1 := Thread.putReg_lp1 x d v
@[simp] theorem Thread.setReg_blk (x : Thread) (d : Spec) (v : V256) : (x.setReg d v).blk = x.blk := Thread.putReg_blk x d v
@[simp] theorem Thread.setReg_blkAt (x : Thread) (d : Spec) (v : V256) : (x.setReg d v).blkAt = x.blkAt := Thread.putReg_blkAt x d v
@[simp] theorem Thread.setReg_blkLen (x : Thread) (d : Spec) (v : V256) : (x.setReg d v).blkLen = x.blkLen := Thread.putReg_blkLen x d v
@[simp] theorem Thread.setReg_inh (x : Thread) (d : Spec) (v : V256) : (x.setReg d v).inh = x.inh := Thread.putReg_inh x d v
@[simp] theorem Thread.setReg_inb (x : Thread) (d : Spec) (v : V256) : (x.setReg d v).inb = x.inb := Thread.putReg_inb x d v
@[simp] theorem Thread.setReg_tmd (x : Thread) (d : Spec) (v : V256) : (x.setReg d v).tmd = x.tmd := Thread.putReg_tmd x d v
@[simp] theorem Thread.setReg_lvl (x : Thread) (d : Spec) (v : V256) : (x.setReg d v).lvl = x.lvl := Thread.putReg_lvl x d v
@[simp] theorem Thread.setReg_link (x : Thread) (d : Spec) (v : V256) : (x.setReg d v).link = x.link := Thread.putReg_link x d v
@[simp] theorem Thread.setReg_hsrc (x : Thread) (d : Spec) (v : V256) : (x.setReg d v).hsrc = x.hsrc := Thread.putReg_hsrc x d v
@[simp] theorem Thread.setReg_hchan (x : Thread) (d : Spec) (v : V256) : (x.setReg d v).hchan = x.hchan := Thread.putReg_hchan x d v
@[simp] theorem Thread.setReg_hvrt (x : Thread) (d : Spec) (v : V256) : (x.setReg d v).hvrt = x.hvrt := Thread.putReg_hvrt x d v
@[simp] theorem Thread.setReg_hreply (x : Thread) (d : Spec) (v : V256) : (x.setReg d v).hreply = x.hreply := Thread.putReg_hreply x d v
@[simp] theorem Thread.setReg_fmt (x : Thread) (d : Spec) (v : V256) : (x.setReg d v).fmt = x.fmt := Thread.putReg_fmt x d v
@[simp] theorem Thread.setReg_rseed (x : Thread) (d : Spec) (v : V256) : (x.setReg d v).rseed = x.rseed := Thread.putReg_rseed x d v
@[simp] theorem Thread.setReg_mshape (x : Thread) (d : Spec) (v : V256) : (x.setReg d v).mshape = x.mshape := Thread.putReg_mshape x d v
@[simp] theorem Thread.setReg_sseq (x : Thread) (d : Spec) (v : V256) : (x.setReg d v).sseq = x.sseq := Thread.putReg_sseq x d v
@[simp] theorem Thread.setReg_fcause (x : Thread) (d : Spec) (v : V256) : (x.setReg d v).fcause = x.fcause := Thread.putReg_fcause x d v
@[simp] theorem Thread.setReg_fpc (x : Thread) (d : Spec) (v : V256) : (x.setReg d v).fpc = x.fpc := Thread.putReg_fpc x d v
@[simp] theorem Thread.setReg_faddr (x : Thread) (d : Spec) (v : V256) : (x.setReg d v).faddr = x.faddr := Thread.putReg_faddr x d v
@[simp] theorem Thread.setReg_ftid (x : Thread) (d : Spec) (v : V256) : (x.setReg d v).ftid = x.ftid := Thread.putReg_ftid x d v
@[simp] theorem Thread.setReg_starve (x : Thread) (d : Spec) (v : V256) : (x.setReg d v).starve = x.starve := Thread.putReg_starve x d v
@[simp] theorem Thread.setReg_yielded (x : Thread) (d : Spec) (v : V256) : (x.setReg d v).yielded = x.yielded := Thread.putReg_yielded x d v
@[simp] theorem Thread.setReg_cuts (x : Thread) (d : Spec) (v : V256) : (x.setReg d v).cuts = x.cuts := Thread.putReg_cuts x d v
@[simp] theorem Thread.setReg_deferred (x : Thread) (d : Spec) (v : V256) : (x.setReg d v).deferred = x.deferred := Thread.putReg_deferred x d v
@[simp] theorem Thread.setReg_outs (x : Thread) (d : Spec) (v : V256) : (x.setReg d v).outs = x.outs.map (·.keepBase d (x.ownReg d)) := rfl
@[simp] theorem Thread.setReg_g (x : Thread) (d : Spec) (v : V256) : (x.setReg d v).g = (x.putReg d v).g := rfl
@[simp] theorem Thread.setReg_q (x : Thread) (d : Spec) (v : V256) : (x.setReg d v).q = (x.putReg d v).q := rfl
@[simp] theorem Thread.setReg_y0 (x : Thread) (d : Spec) (v : V256) : (x.setReg d v).y0 = (x.putReg d v).y0 := rfl
@[simp] theorem Thread.setReg_y1 (x : Thread) (d : Spec) (v : V256) : (x.setReg d v).y1 = (x.putReg d v).y1 := rfl
@[simp] theorem Thread.setPred_st (x : Thread) (n : BitVec 3) (b : Bool) : (x.setPred n b).st = x.st := by unfold Thread.setPred; split <;> rfl
@[simp] theorem Thread.setPred_wait (x : Thread) (n : BitVec 3) (b : Bool) : (x.setPred n b).wait = x.wait := by unfold Thread.setPred; split <;> rfl
@[simp] theorem Thread.setPred_wmark (x : Thread) (n : BitVec 3) (b : Bool) : (x.setPred n b).wmark = x.wmark := by unfold Thread.setPred; split <;> rfl
@[simp] theorem Thread.setPred_g (x : Thread) (n : BitVec 3) (b : Bool) : (x.setPred n b).g = x.g := by unfold Thread.setPred; split <;> rfl
@[simp] theorem Thread.setPred_q (x : Thread) (n : BitVec 3) (b : Bool) : (x.setPred n b).q = x.q := by unfold Thread.setPred; split <;> rfl
@[simp] theorem Thread.setPred_y0 (x : Thread) (n : BitVec 3) (b : Bool) : (x.setPred n b).y0 = x.y0 := by unfold Thread.setPred; split <;> rfl
@[simp] theorem Thread.setPred_y1 (x : Thread) (n : BitVec 3) (b : Bool) : (x.setPred n b).y1 = x.y1 := by unfold Thread.setPred; split <;> rfl
@[simp] theorem Thread.setPred_pc (x : Thread) (n : BitVec 3) (b : Bool) : (x.setPred n b).pc = x.pc := by unfold Thread.setPred; split <;> rfl
@[simp] theorem Thread.setPred_pp (x : Thread) (n : BitVec 3) (b : Bool) : (x.setPred n b).pp = x.pp := by unfold Thread.setPred; split <;> rfl
@[simp] theorem Thread.setPred_pfx (x : Thread) (n : BitVec 3) (b : Bool) : (x.setPred n b).pfx = x.pfx := by unfold Thread.setPred; split <;> rfl
@[simp] theorem Thread.setPred_lp0 (x : Thread) (n : BitVec 3) (b : Bool) : (x.setPred n b).lp0 = x.lp0 := by unfold Thread.setPred; split <;> rfl
@[simp] theorem Thread.setPred_lp1 (x : Thread) (n : BitVec 3) (b : Bool) : (x.setPred n b).lp1 = x.lp1 := by unfold Thread.setPred; split <;> rfl
@[simp] theorem Thread.setPred_blk (x : Thread) (n : BitVec 3) (b : Bool) : (x.setPred n b).blk = x.blk := by unfold Thread.setPred; split <;> rfl
@[simp] theorem Thread.setPred_blkAt (x : Thread) (n : BitVec 3) (b : Bool) : (x.setPred n b).blkAt = x.blkAt := by unfold Thread.setPred; split <;> rfl
@[simp] theorem Thread.setPred_blkLen (x : Thread) (n : BitVec 3) (b : Bool) : (x.setPred n b).blkLen = x.blkLen := by unfold Thread.setPred; split <;> rfl
@[simp] theorem Thread.setPred_inh (x : Thread) (n : BitVec 3) (b : Bool) : (x.setPred n b).inh = x.inh := by unfold Thread.setPred; split <;> rfl
@[simp] theorem Thread.setPred_inb (x : Thread) (n : BitVec 3) (b : Bool) : (x.setPred n b).inb = x.inb := by unfold Thread.setPred; split <;> rfl
@[simp] theorem Thread.setPred_tmd (x : Thread) (n : BitVec 3) (b : Bool) : (x.setPred n b).tmd = x.tmd := by unfold Thread.setPred; split <;> rfl
@[simp] theorem Thread.setPred_lvl (x : Thread) (n : BitVec 3) (b : Bool) : (x.setPred n b).lvl = x.lvl := by unfold Thread.setPred; split <;> rfl
@[simp] theorem Thread.setPred_link (x : Thread) (n : BitVec 3) (b : Bool) : (x.setPred n b).link = x.link := by unfold Thread.setPred; split <;> rfl
@[simp] theorem Thread.setPred_hsrc (x : Thread) (n : BitVec 3) (b : Bool) : (x.setPred n b).hsrc = x.hsrc := by unfold Thread.setPred; split <;> rfl
@[simp] theorem Thread.setPred_hchan (x : Thread) (n : BitVec 3) (b : Bool) : (x.setPred n b).hchan = x.hchan := by unfold Thread.setPred; split <;> rfl
@[simp] theorem Thread.setPred_hvrt (x : Thread) (n : BitVec 3) (b : Bool) : (x.setPred n b).hvrt = x.hvrt := by unfold Thread.setPred; split <;> rfl
@[simp] theorem Thread.setPred_hreply (x : Thread) (n : BitVec 3) (b : Bool) : (x.setPred n b).hreply = x.hreply := by unfold Thread.setPred; split <;> rfl
@[simp] theorem Thread.setPred_fmt (x : Thread) (n : BitVec 3) (b : Bool) : (x.setPred n b).fmt = x.fmt := by unfold Thread.setPred; split <;> rfl
@[simp] theorem Thread.setPred_rseed (x : Thread) (n : BitVec 3) (b : Bool) : (x.setPred n b).rseed = x.rseed := by unfold Thread.setPred; split <;> rfl
@[simp] theorem Thread.setPred_mshape (x : Thread) (n : BitVec 3) (b : Bool) : (x.setPred n b).mshape = x.mshape := by unfold Thread.setPred; split <;> rfl
@[simp] theorem Thread.setPred_sseq (x : Thread) (n : BitVec 3) (b : Bool) : (x.setPred n b).sseq = x.sseq := by unfold Thread.setPred; split <;> rfl
@[simp] theorem Thread.setPred_fcause (x : Thread) (n : BitVec 3) (b : Bool) : (x.setPred n b).fcause = x.fcause := by unfold Thread.setPred; split <;> rfl
@[simp] theorem Thread.setPred_fpc (x : Thread) (n : BitVec 3) (b : Bool) : (x.setPred n b).fpc = x.fpc := by unfold Thread.setPred; split <;> rfl
@[simp] theorem Thread.setPred_faddr (x : Thread) (n : BitVec 3) (b : Bool) : (x.setPred n b).faddr = x.faddr := by unfold Thread.setPred; split <;> rfl
@[simp] theorem Thread.setPred_ftid (x : Thread) (n : BitVec 3) (b : Bool) : (x.setPred n b).ftid = x.ftid := by unfold Thread.setPred; split <;> rfl
@[simp] theorem Thread.setPred_starve (x : Thread) (n : BitVec 3) (b : Bool) : (x.setPred n b).starve = x.starve := by unfold Thread.setPred; split <;> rfl
@[simp] theorem Thread.setPred_yielded (x : Thread) (n : BitVec 3) (b : Bool) : (x.setPred n b).yielded = x.yielded := by unfold Thread.setPred; split <;> rfl
@[simp] theorem Thread.setPred_cuts (x : Thread) (n : BitVec 3) (b : Bool) : (x.setPred n b).cuts = x.cuts := by unfold Thread.setPred; split <;> rfl
@[simp] theorem Thread.setPred_outs (x : Thread) (n : BitVec 3) (b : Bool) : (x.setPred n b).outs = x.outs := by unfold Thread.setPred; split <;> rfl
@[simp] theorem Thread.setPred_deferred (x : Thread) (n : BitVec 3) (b : Bool) : (x.setPred n b).deferred = x.deferred := by unfold Thread.setPred; split <;> rfl
@[simp] theorem Thread.marker_g (x : Thread) (w : Bool) : (x.marker w).g = x.g := by unfold Thread.marker; split <;> rfl
@[simp] theorem Thread.marker_q (x : Thread) (w : Bool) : (x.marker w).q = x.q := by unfold Thread.marker; split <;> rfl
@[simp] theorem Thread.marker_y0 (x : Thread) (w : Bool) : (x.marker w).y0 = x.y0 := by unfold Thread.marker; split <;> rfl
@[simp] theorem Thread.marker_y1 (x : Thread) (w : Bool) : (x.marker w).y1 = x.y1 := by unfold Thread.marker; split <;> rfl
@[simp] theorem Thread.marker_p (x : Thread) (w : Bool) : (x.marker w).p = x.p := by unfold Thread.marker; split <;> rfl
@[simp] theorem Thread.marker_pc (x : Thread) (w : Bool) : (x.marker w).pc = x.pc := by unfold Thread.marker; split <;> rfl
@[simp] theorem Thread.marker_pp (x : Thread) (w : Bool) : (x.marker w).pp = x.pp := by unfold Thread.marker; split <;> rfl
@[simp] theorem Thread.marker_pfx (x : Thread) (w : Bool) : (x.marker w).pfx = x.pfx := by unfold Thread.marker; split <;> rfl
@[simp] theorem Thread.marker_lp0 (x : Thread) (w : Bool) : (x.marker w).lp0 = x.lp0 := by unfold Thread.marker; split <;> rfl
@[simp] theorem Thread.marker_lp1 (x : Thread) (w : Bool) : (x.marker w).lp1 = x.lp1 := by unfold Thread.marker; split <;> rfl
@[simp] theorem Thread.marker_blk (x : Thread) (w : Bool) : (x.marker w).blk = x.blk := by unfold Thread.marker; split <;> rfl
@[simp] theorem Thread.marker_blkAt (x : Thread) (w : Bool) : (x.marker w).blkAt = x.blkAt := by unfold Thread.marker; split <;> rfl
@[simp] theorem Thread.marker_blkLen (x : Thread) (w : Bool) : (x.marker w).blkLen = x.blkLen := by unfold Thread.marker; split <;> rfl
@[simp] theorem Thread.marker_inh (x : Thread) (w : Bool) : (x.marker w).inh = x.inh := by unfold Thread.marker; split <;> rfl
@[simp] theorem Thread.marker_inb (x : Thread) (w : Bool) : (x.marker w).inb = x.inb := by unfold Thread.marker; split <;> rfl
@[simp] theorem Thread.marker_tmd (x : Thread) (w : Bool) : (x.marker w).tmd = x.tmd := by unfold Thread.marker; split <;> rfl
@[simp] theorem Thread.marker_lvl (x : Thread) (w : Bool) : (x.marker w).lvl = x.lvl := by unfold Thread.marker; split <;> rfl
@[simp] theorem Thread.marker_link (x : Thread) (w : Bool) : (x.marker w).link = x.link := by unfold Thread.marker; split <;> rfl
@[simp] theorem Thread.marker_hsrc (x : Thread) (w : Bool) : (x.marker w).hsrc = x.hsrc := by unfold Thread.marker; split <;> rfl
@[simp] theorem Thread.marker_hchan (x : Thread) (w : Bool) : (x.marker w).hchan = x.hchan := by unfold Thread.marker; split <;> rfl
@[simp] theorem Thread.marker_hvrt (x : Thread) (w : Bool) : (x.marker w).hvrt = x.hvrt := by unfold Thread.marker; split <;> rfl
@[simp] theorem Thread.marker_hreply (x : Thread) (w : Bool) : (x.marker w).hreply = x.hreply := by unfold Thread.marker; split <;> rfl
@[simp] theorem Thread.marker_fmt (x : Thread) (w : Bool) : (x.marker w).fmt = x.fmt := by unfold Thread.marker; split <;> rfl
@[simp] theorem Thread.marker_rseed (x : Thread) (w : Bool) : (x.marker w).rseed = x.rseed := by unfold Thread.marker; split <;> rfl
@[simp] theorem Thread.marker_mshape (x : Thread) (w : Bool) : (x.marker w).mshape = x.mshape := by unfold Thread.marker; split <;> rfl
@[simp] theorem Thread.marker_sseq (x : Thread) (w : Bool) : (x.marker w).sseq = x.sseq := by unfold Thread.marker; split <;> rfl
@[simp] theorem Thread.marker_fcause (x : Thread) (w : Bool) : (x.marker w).fcause = x.fcause := by unfold Thread.marker; split <;> rfl
@[simp] theorem Thread.marker_fpc (x : Thread) (w : Bool) : (x.marker w).fpc = x.fpc := by unfold Thread.marker; split <;> rfl
@[simp] theorem Thread.marker_faddr (x : Thread) (w : Bool) : (x.marker w).faddr = x.faddr := by unfold Thread.marker; split <;> rfl
@[simp] theorem Thread.marker_ftid (x : Thread) (w : Bool) : (x.marker w).ftid = x.ftid := by unfold Thread.marker; split <;> rfl
@[simp] theorem Thread.marker_starve (x : Thread) (w : Bool) : (x.marker w).starve = x.starve := by unfold Thread.marker; split <;> rfl
@[simp] theorem Thread.marker_yielded (x : Thread) (w : Bool) : (x.marker w).yielded = x.yielded := by unfold Thread.marker; split <;> rfl
@[simp] theorem Thread.marker_cuts (x : Thread) (w : Bool) : (x.marker w).cuts = x.cuts := by unfold Thread.marker; split <;> rfl
@[simp] theorem Thread.marker_outs (x : Thread) (w : Bool) : (x.marker w).outs = x.outs := by unfold Thread.marker; split <;> rfl
@[simp] theorem Thread.marker_deferred (x : Thread) (w : Bool) : (x.marker w).deferred = x.deferred := by unfold Thread.marker; split <;> rfl
@[simp] theorem Thread.jump_st (x : Thread) (a : BitVec 10) : (x.jump a).st = x.st := rfl
@[simp] theorem Thread.jump_wait (x : Thread) (a : BitVec 10) : (x.jump a).wait = x.wait := rfl
@[simp] theorem Thread.jump_wmark (x : Thread) (a : BitVec 10) : (x.jump a).wmark = x.wmark := rfl
@[simp] theorem Thread.jump_g (x : Thread) (a : BitVec 10) : (x.jump a).g = x.g := rfl
@[simp] theorem Thread.jump_q (x : Thread) (a : BitVec 10) : (x.jump a).q = x.q := rfl
@[simp] theorem Thread.jump_y0 (x : Thread) (a : BitVec 10) : (x.jump a).y0 = x.y0 := rfl
@[simp] theorem Thread.jump_y1 (x : Thread) (a : BitVec 10) : (x.jump a).y1 = x.y1 := rfl
@[simp] theorem Thread.jump_p (x : Thread) (a : BitVec 10) : (x.jump a).p = x.p := rfl
@[simp] theorem Thread.jump_pp (x : Thread) (a : BitVec 10) : (x.jump a).pp = x.pp := rfl
@[simp] theorem Thread.jump_pfx (x : Thread) (a : BitVec 10) : (x.jump a).pfx = x.pfx := rfl
@[simp] theorem Thread.jump_blk (x : Thread) (a : BitVec 10) : (x.jump a).blk = x.blk := rfl
@[simp] theorem Thread.jump_blkAt (x : Thread) (a : BitVec 10) : (x.jump a).blkAt = x.blkAt := rfl
@[simp] theorem Thread.jump_blkLen (x : Thread) (a : BitVec 10) : (x.jump a).blkLen = x.blkLen := rfl
@[simp] theorem Thread.jump_inh (x : Thread) (a : BitVec 10) : (x.jump a).inh = x.inh := rfl
@[simp] theorem Thread.jump_inb (x : Thread) (a : BitVec 10) : (x.jump a).inb = x.inb := rfl
@[simp] theorem Thread.jump_tmd (x : Thread) (a : BitVec 10) : (x.jump a).tmd = x.tmd := rfl
@[simp] theorem Thread.jump_lvl (x : Thread) (a : BitVec 10) : (x.jump a).lvl = x.lvl := rfl
@[simp] theorem Thread.jump_link (x : Thread) (a : BitVec 10) : (x.jump a).link = x.link := rfl
@[simp] theorem Thread.jump_hsrc (x : Thread) (a : BitVec 10) : (x.jump a).hsrc = x.hsrc := rfl
@[simp] theorem Thread.jump_hchan (x : Thread) (a : BitVec 10) : (x.jump a).hchan = x.hchan := rfl
@[simp] theorem Thread.jump_hvrt (x : Thread) (a : BitVec 10) : (x.jump a).hvrt = x.hvrt := rfl
@[simp] theorem Thread.jump_hreply (x : Thread) (a : BitVec 10) : (x.jump a).hreply = x.hreply := rfl
@[simp] theorem Thread.jump_fmt (x : Thread) (a : BitVec 10) : (x.jump a).fmt = x.fmt := rfl
@[simp] theorem Thread.jump_rseed (x : Thread) (a : BitVec 10) : (x.jump a).rseed = x.rseed := rfl
@[simp] theorem Thread.jump_mshape (x : Thread) (a : BitVec 10) : (x.jump a).mshape = x.mshape := rfl
@[simp] theorem Thread.jump_sseq (x : Thread) (a : BitVec 10) : (x.jump a).sseq = x.sseq := rfl
@[simp] theorem Thread.jump_fcause (x : Thread) (a : BitVec 10) : (x.jump a).fcause = x.fcause := rfl
@[simp] theorem Thread.jump_fpc (x : Thread) (a : BitVec 10) : (x.jump a).fpc = x.fpc := rfl
@[simp] theorem Thread.jump_faddr (x : Thread) (a : BitVec 10) : (x.jump a).faddr = x.faddr := rfl
@[simp] theorem Thread.jump_ftid (x : Thread) (a : BitVec 10) : (x.jump a).ftid = x.ftid := rfl
@[simp] theorem Thread.jump_starve (x : Thread) (a : BitVec 10) : (x.jump a).starve = x.starve := rfl
@[simp] theorem Thread.jump_yielded (x : Thread) (a : BitVec 10) : (x.jump a).yielded = x.yielded := rfl
@[simp] theorem Thread.jump_cuts (x : Thread) (a : BitVec 10) : (x.jump a).cuts = x.cuts := rfl
@[simp] theorem Thread.jump_outs (x : Thread) (a : BitVec 10) : (x.jump a).outs = x.outs := rfl
@[simp] theorem Thread.jump_deferred (x : Thread) (a : BitVec 10) : (x.jump a).deferred = x.deferred := rfl
@[simp] theorem Thread.last_st (x : Thread) (d : Spec) (v : V256) : (x.last d v).st = x.st := by unfold Thread.last; split <;> rfl
@[simp] theorem Thread.last_wait (x : Thread) (d : Spec) (v : V256) : (x.last d v).wait = x.wait := by unfold Thread.last; split <;> rfl
@[simp] theorem Thread.last_wmark (x : Thread) (d : Spec) (v : V256) : (x.last d v).wmark = x.wmark := by unfold Thread.last; split <;> rfl
@[simp] theorem Thread.last_g (x : Thread) (d : Spec) (v : V256) : (x.last d v).g = x.g := by unfold Thread.last; split <;> rfl
@[simp] theorem Thread.last_q (x : Thread) (d : Spec) (v : V256) : (x.last d v).q = x.q := by unfold Thread.last; split <;> rfl
@[simp] theorem Thread.last_p (x : Thread) (d : Spec) (v : V256) : (x.last d v).p = x.p := by unfold Thread.last; split <;> rfl
@[simp] theorem Thread.last_pc (x : Thread) (d : Spec) (v : V256) : (x.last d v).pc = x.pc := by unfold Thread.last; split <;> rfl
@[simp] theorem Thread.last_pp (x : Thread) (d : Spec) (v : V256) : (x.last d v).pp = x.pp := by unfold Thread.last; split <;> rfl
@[simp] theorem Thread.last_pfx (x : Thread) (d : Spec) (v : V256) : (x.last d v).pfx = x.pfx := by unfold Thread.last; split <;> rfl
@[simp] theorem Thread.last_lp0 (x : Thread) (d : Spec) (v : V256) : (x.last d v).lp0 = x.lp0 := by unfold Thread.last; split <;> rfl
@[simp] theorem Thread.last_lp1 (x : Thread) (d : Spec) (v : V256) : (x.last d v).lp1 = x.lp1 := by unfold Thread.last; split <;> rfl
@[simp] theorem Thread.last_blk (x : Thread) (d : Spec) (v : V256) : (x.last d v).blk = x.blk := by unfold Thread.last; split <;> rfl
@[simp] theorem Thread.last_blkAt (x : Thread) (d : Spec) (v : V256) : (x.last d v).blkAt = x.blkAt := by unfold Thread.last; split <;> rfl
@[simp] theorem Thread.last_blkLen (x : Thread) (d : Spec) (v : V256) : (x.last d v).blkLen = x.blkLen := by unfold Thread.last; split <;> rfl
@[simp] theorem Thread.last_inh (x : Thread) (d : Spec) (v : V256) : (x.last d v).inh = x.inh := by unfold Thread.last; split <;> rfl
@[simp] theorem Thread.last_inb (x : Thread) (d : Spec) (v : V256) : (x.last d v).inb = x.inb := by unfold Thread.last; split <;> rfl
@[simp] theorem Thread.last_tmd (x : Thread) (d : Spec) (v : V256) : (x.last d v).tmd = x.tmd := by unfold Thread.last; split <;> rfl
@[simp] theorem Thread.last_lvl (x : Thread) (d : Spec) (v : V256) : (x.last d v).lvl = x.lvl := by unfold Thread.last; split <;> rfl
@[simp] theorem Thread.last_link (x : Thread) (d : Spec) (v : V256) : (x.last d v).link = x.link := by unfold Thread.last; split <;> rfl
@[simp] theorem Thread.last_hsrc (x : Thread) (d : Spec) (v : V256) : (x.last d v).hsrc = x.hsrc := by unfold Thread.last; split <;> rfl
@[simp] theorem Thread.last_hchan (x : Thread) (d : Spec) (v : V256) : (x.last d v).hchan = x.hchan := by unfold Thread.last; split <;> rfl
@[simp] theorem Thread.last_hvrt (x : Thread) (d : Spec) (v : V256) : (x.last d v).hvrt = x.hvrt := by unfold Thread.last; split <;> rfl
@[simp] theorem Thread.last_hreply (x : Thread) (d : Spec) (v : V256) : (x.last d v).hreply = x.hreply := by unfold Thread.last; split <;> rfl
@[simp] theorem Thread.last_fmt (x : Thread) (d : Spec) (v : V256) : (x.last d v).fmt = x.fmt := by unfold Thread.last; split <;> rfl
@[simp] theorem Thread.last_rseed (x : Thread) (d : Spec) (v : V256) : (x.last d v).rseed = x.rseed := by unfold Thread.last; split <;> rfl
@[simp] theorem Thread.last_mshape (x : Thread) (d : Spec) (v : V256) : (x.last d v).mshape = x.mshape := by unfold Thread.last; split <;> rfl
@[simp] theorem Thread.last_sseq (x : Thread) (d : Spec) (v : V256) : (x.last d v).sseq = x.sseq := by unfold Thread.last; split <;> rfl
@[simp] theorem Thread.last_fcause (x : Thread) (d : Spec) (v : V256) : (x.last d v).fcause = x.fcause := by unfold Thread.last; split <;> rfl
@[simp] theorem Thread.last_fpc (x : Thread) (d : Spec) (v : V256) : (x.last d v).fpc = x.fpc := by unfold Thread.last; split <;> rfl
@[simp] theorem Thread.last_faddr (x : Thread) (d : Spec) (v : V256) : (x.last d v).faddr = x.faddr := by unfold Thread.last; split <;> rfl
@[simp] theorem Thread.last_ftid (x : Thread) (d : Spec) (v : V256) : (x.last d v).ftid = x.ftid := by unfold Thread.last; split <;> rfl
@[simp] theorem Thread.last_starve (x : Thread) (d : Spec) (v : V256) : (x.last d v).starve = x.starve := by unfold Thread.last; split <;> rfl
@[simp] theorem Thread.last_yielded (x : Thread) (d : Spec) (v : V256) : (x.last d v).yielded = x.yielded := by unfold Thread.last; split <;> rfl
@[simp] theorem Thread.last_cuts (x : Thread) (d : Spec) (v : V256) : (x.last d v).cuts = x.cuts := by unfold Thread.last; split <;> rfl
/-- Entering a result keeps the results outstanding, but for what a register held before (R68). -/
@[simp] theorem Thread.last_outs_length (x : Thread) (d : Spec) (v : V256) : (x.last d v).outs.length = x.outs.length := by
  unfold Thread.last
  split
  · rfl
  · exact (List.length_map _).trans (List.length_map _)
@[simp] theorem Thread.last_deferred (x : Thread) (d : Spec) (v : V256) : (x.last d v).deferred = x.deferred := by unfold Thread.last; split <;> rfl

end Sys2Proof.Machine
end

