-- ==== Sys2Proof/Laws/Memory.lean ====
section
/-! SUPPORT. Every operation on a memory keeps its canonical form (R6, R209): the scratchpad's writes, a module's, the page
tables', those of a context area and of the host; and the memories of the panel after reset have it. Each operation says once what it
leaves in memory. -/

namespace Sys2Proof.Machine

/-! ### Scratchpad -/

/-- A read changes no byte. -/
@[simp] theorem Pad.touch_mem (p : Pad) (ws : List Nat) : (p.touch ws).mem = p.mem := rfl
/-- A write writes its bytes, lowest first. -/
@[simp] theorem Pad.write_mem (p : Pad) (a n v : Nat) : (p.write a n v).mem = Memory.writeNat p.mem a n v := rfl
theorem Cell.touched_mem (c : Cell) (a n : Nat) : (c.touched a n).pad.mem = c.pad.mem := rfl
/-- A register write changes no byte of scratchpad. -/
theorem Cell.write_pad (c : Cell) (t : TIdx) (d : Spec) (v : V256) : (c.write t d v).pad = c.pad := by
  unfold Cell.write
  split <;> rfl
/-- A sleeper that a write sends on changes no byte. -/
theorem Cell.wakeOne_mem (c : Cell) (a n : Nat) (t : TIdx) : (c.wakeOne a n t).pad.mem = c.pad.mem := by
  unfold Cell.wakeOne
  split
  · repeat' split
    all_goals first | rfl | (rw [Cell.modTh_pad, Cell.write_pad]; rfl)
  · rfl
/-- A write at its point writes its bytes and no other. -/
theorem Cell.store_mem (c : Cell) (a n v : Nat) : (c.store a n v).pad.mem = Memory.writeNat c.pad.mem a n v := by
  have h : ∀ (l : List TIdx) (x : Cell), (l.foldl (fun c t => c.wakeOne a n t) x).pad.mem = x.pad.mem := by
    intro l
    induction l with
    | nil => exact fun _ => rfl
    | cons t r ih => exact fun x => (ih _).trans (x.wakeOne_mem a n t)
  exact h _ _
theorem Cell.wf_store {c : Cell} {a n v : Nat} (h : Memory.wf c.pad.mem = true) : Memory.wf (c.store a n v).pad.mem = true := by
  rw [Cell.store_mem]
  exact Memory.wf_writeNat h

/-! ### Weight stores, page tables, context areas -/

/-- A fold of byte writes keeps the form. -/
theorem Memory.wf_foldl {α : Type} (f : Memory → α → Memory) (h : ∀ m x, Memory.wf m = true → Memory.wf (f m x) = true) :
    ∀ (l : List α) (m : Memory), Memory.wf m = true → Memory.wf (l.foldl f m) = true
  | [], _, hm => hm
  | x :: r, m, hm => Memory.wf_foldl f h r _ (h m x hm)
/-- A module's write (R283). -/
theorem State.wf_moduleWrite {s : State} {mod addr n v : Nat} (h : Memory.wf s.store = true) :
    Memory.wf (s.moduleWrite mod addr n v).store = true := Memory.wf_writeNat h
/-- The bytes of a context area (R373). -/
theorem State.wf_ctxPut {die p : Nat} : ∀ (l : List Byte) {s : State} {va : Nat}, Memory.wf s.store = true →
    Memory.wf (s.ctxPut die p va l).store = true
  | [], _, _, h => h
  | b :: r, s, va, h => by
    rw [State.ctxPut]
    refine State.wf_ctxPut r ?_
    split
    · exact Memory.wf_set h
    · exact h
/-- What is left of a map with rising keys has rising keys. -/
theorem Rising.filter {α : Type} {p : Nat × α → Bool} : ∀ {m : KMap α}, Rising m → Rising (m.filter p)
  | [], _ => trivial
  | (k, v) :: r, h => by
    rw [List.filter_cons]
    split
    · exact ⟨fun e he => h.1 e (List.mem_filter.mp he).1, Rising.filter h.2⟩
    · exact Rising.filter h.2
/-- What is left of a memory in its form is in its form. -/
theorem Memory.wf_filter {m : Memory} {p : Host.Cell → Bool} (h : Memory.wf m = true) : Memory.wf (m.filter p) = true := by
  rw [Memory.wf_iff] at h ⊢
  exact ⟨h.1.filter, fun e he => h.2 e (List.mem_filter.mp he).1⟩
/-- The tables that a restore puts into a die (R375). -/
theorem State.wf_setTables {s : State} {die : Nat} {tabs : Memory} (h : Memory.wf s.tables = true) :
    Memory.wf (s.setTables die tabs).tables = true :=
  Memory.wf_foldl _ (fun _ _ hm => Memory.wf_set hm) tabs _ (Memory.wf_filter h)
/-- The write of an entry in every die's tables (R35). -/
theorem wf_tableUpdate {m : Memory} {off v : Nat} (l : List Nat) (h : Memory.wf m = true) :
    Memory.wf (l.foldl (fun m d => Memory.writeNat m (d * Config.tableBytes + off) 8 v) m) = true :=
  Memory.wf_foldl _ (fun _ _ hm => Memory.wf_writeNat hm) l m h

/-! ### After reset -/

/-- Every memory of the panel after reset is in its form. -/
theorem reset_memories_wf : Memory.wf State.reset.cell.pad.mem = true ∧ Memory.wf State.reset.store = true ∧
    Memory.wf State.reset.tables = true ∧ Memory.wf State.reset.hostMem = true := by decide

end Sys2Proof.Machine
end

