-- ==== Sys2Proof/Laws/Ops.lean ====
section
/-! SUPPORT. What the shared operations of issue do, each said once: the fall-through, what follows a body, results and their
registers where no stream is bound, the taking of an exception. -/

namespace Sys2Proof.Machine

/-! ### Settling -/

theorem settle_none {s : State} {t : TIdx} (h : (s.cell.th t).wait = .none) : s.settle t = s := by
  simp [State.settle, h]
theorem settle_marker {s : State} {t : TIdx} (h : (s.cell.th t).wait = .marker) (ho : (s.cell.th t).outs.isEmpty = false) :
    s.settle t = s := by
  simp [State.settle, h, ho]
theorem marker_parks {x : Thread} {w : Bool} (h : (w && !x.outs.isEmpty) = true) :
    x.marker w = { x with st := .parked, wait := .marker, wmark := false } := by
  simp only [Thread.marker, h, if_true]
theorem marker_runs {x : Thread} {w : Bool} (h : (w && !x.outs.isEmpty) = false) :
    x.marker w = { x with st := .running, wait := .none, wmark := false } := by
  simp only [Thread.marker, h, Bool.false_eq_true, if_false]
theorem settle_marked (s : State) (t : TIdx) (f : Thread → Thread) (w : Bool) :
    (s.modTh t fun x => (f x).marker w).settle t = s.modTh t fun x => (f x).marker w := by
  cases hc : (w && !(f (s.cell.th t)).outs.isEmpty)
  · apply settle_none
    rw [State.modTh_cell, Cell.th_modTh_same, marker_runs hc]
  · have : (f (s.cell.th t)).outs.isEmpty = false := by
      rw [Bool.and_eq_true] at hc; simpa using hc.2
    apply settle_marker
    · rw [State.modTh_cell, Cell.th_modTh_same, marker_parks hc]
    · rw [State.modTh_cell, Cell.th_modTh_same, marker_parks hc]; exact this

/-! ### Falling through (R46, R66, R93) -/

theorem modTh_congr {s : State} {t : TIdx} {f g : Thread → Thread} (h : f (s.cell.th t) = g (s.cell.th t)) :
    s.modTh t f = s.modTh t g := by
  simp [State.modTh, Cell.modTh, h]
theorem fall_at {s : State} {t : TIdx} {len : Nat} {w : Bool} {pc : BitVec 10} {l0 l1 : Loop}
    (h : (s.cell.th t).next ((s.cell.th t).pc.toNat + len - 1) = .at_ pc l0 l1) :
    s.fall t len w = s.modTh t fun x => ({ x with pc := pc, lp0 := l0, lp1 := l1 } : Thread).marker w := by
  unfold State.fall
  rw [modTh_congr (g := fun x => ({ x with pc := pc, lp0 := l0, lp1 := l1 } : Thread).marker w)]
  · exact settle_marked s t (fun x => { x with pc := pc, lp0 := l0, lp1 := l1 }) w
  · simp [Thread.fall, h]

/-- A body that is done: the prefix is consumed, and the thread goes on. -/
theorem after_done {s s' : State} {h : Hdr} {len : Nat} {pc : BitVec 10} {l0 l1 : Loop} (ht : s'.cell.last = s.cell.last)
    (hn : s'.me.next (s'.me.pc.toNat + len - 1) = .at_ pc l0 l1) :
    s.after h len (.done s') = s'.modMe fun x => ({ x with pp := false, pc := pc, lp0 := l0, lp1 := l1 } : Thread).marker h.w := by
  have e : s'.usePfx.cell.th s.cell.last = { s'.me with pp := false } := by
    rw [← ht]; simp [State.usePfx, State.me]
  have : (s'.usePfx.cell.th s.cell.last).next ((s'.usePfx.cell.th s.cell.last).pc.toNat + len - 1) = .at_ pc l0 l1 := by
    rw [e]; exact hn
  simp only [State.after, fall_at this]
  rw [← ht]
  simp [State.usePfx, State.modMe, State.modTh]
/-- A body that transfers control. -/
theorem after_goto (s s' : State) (h : Hdr) (len : Nat) (pc : BitVec 10) :
    s.after h len (.goto pc s') = s'.modMe fun x => (({ x with pp := false } : Thread).jump pc).marker h.w := by
  simp [State.after, State.usePfx, State.modMe]
/-- An instruction whose guard passes. -/
theorem issue_passes {h : Hdr} {len : Nat} {pfx : Bool} {ill : State → Bool} {body : State → Ctl} {s : State}
    (hi : ill s = false) (hp : pfx = true ∨ s.me.pp = false) (hg : s.me.guard h = true) :
    issue h len pfx ill body s = .next (s.after h len (body s)) := by
  have : (s.me.pp && !pfx) = false := by rcases hp with rfl | hp <;> simp_all
  simp [issue, runInstr, hi, this, hg]
/-- One whose guard does not pass has no effect but to consume the prefix (R47, R51). -/
theorem issue_fails {h : Hdr} {len : Nat} {pfx : Bool} {ill : State → Bool} {body : State → Ctl} {s : State}
    (hi : ill s = false) (hp : pfx = true ∨ s.me.pp = false) (hg : s.me.guard h = false) :
    issue h len pfx ill body s = .next (s.usePfx.fall s.cell.last len h.w) := by
  have : (s.me.pp && !pfx) = false := by rcases hp with rfl | hp <;> simp_all
  simp [issue, runInstr, hi, this, hg]
/-- One that is ILLEGAL, whether or not its guard passes (R50, R52). -/
theorem issue_illegal {h : Hdr} {len : Nat} {pfx : Bool} {ill : State → Bool} {body : State → Ctl} {s : State}
    (hi : ill s = true ∨ (s.me.pp = true ∧ pfx = false)) :
    issue h len pfx ill body s = .next s.illegal := by
  have : (ill s || (s.me.pp && !pfx)) = true := by rcases hi with hi | ⟨hi, hj⟩ <;> simp_all
  simp [issue, runInstr, this]

/-! ### Operands where no stream is bound (R48, R105) -/

theorem anyBound_false {s : State} {l : List Spec} (h : s.anyBound l = false) {a : Spec} (ha : a ∈ l) :
    s.cell.bound s.cell.last a = none := by
  simp only [State.anyBound, List.any_eq_false] at h
  simpa using h a ha
theorem boundOf_nil {s : State} {l : List Spec} (h : s.anyBound l = false) : s.cell.boundOf s.cell.last l = [] := by
  have : l.filterMap (s.cell.bound s.cell.last) = [] := by
    rw [List.filterMap_eq_nil_iff]
    exact fun a ha => anyBound_false h ha
  simp [Cell.boundOf, this]
theorem anyBound_append (s : State) (l m : List Spec) : s.anyBound (l ++ m) = (s.anyBound l || s.anyBound m) := by
  simp [State.anyBound]
theorem streamNeed_none {s : State} {l m : List Spec} (hl : s.anyBound l = false) (hm : s.anyBound m = false) :
    s.streamNeed l m = none := by
  simp [State.streamNeed, boundOf_nil hl, boundOf_nil hm]
theorem popAll_same {s : State} {l : List Spec} (h : s.anyBound l = false) : s.popAll l = s := by
  simp [State.popAll, boundOf_nil h]
/-- Where no late result is written within the instruction, each of its reads of a register gives what it holds (R67). -/
theorem src_reg {s : State} {a : Spec} (h : s.cell.bound s.cell.last a = none) (hc : s.me.cuts = []) :
    s.src a = s.cell.reg s.cell.last a := by
  simp [State.src, h, hc, asOf]
theorem srcAfter_reg {s : State} {l : List Spec} {a : Spec} (h : s.cell.bound s.cell.last a = none) (hc : s.me.cuts = []) :
    s.srcAfter l a = s.cell.reg s.cell.last a := by
  simp [State.srcAfter, h, hc, asOf]
theorem anyBound_nil (s : State) : s.anyBound [] = false := rfl

/-- What a destination held: nothing for the specifier zero. -/
def State.held (s : State) (d : Spec) : V256 := if d = 0x2E then 0 else s.cell.reg s.cell.last d

theorem putRes_plain {s : State} {d : Spec} (r : Res) (h : s.cell.bound s.cell.last d = none) :
    s.putRes d r = s.modMe fun x => x.setReg d (r.over (s.held d)) := by
  simp [State.putRes, Cell.write, Cell.resVal, h, State.held, State.modMe]
theorem produce_plain {s : State} {d : Spec} (r : Res) (h : s.cell.bound s.cell.last d = none) :
    s.produce d r = s.modMe fun x => (x.setReg d (r.over (s.held d))).last d (r.over (s.held d)) := by
  rw [State.produce, putRes_plain r h]
  simp [Cell.resVal, h, State.held]
/-- A result producer whose operands are no bound streams. -/
theorem produces_plain {srcs : List Spec} {d : Spec} {f : State → Res} {s : State} (h : s.anyBound (d :: srcs) = false) :
    produces srcs d f s = .done (s.modMe fun x => (x.setReg d ((f s).over (s.held d))).last d ((f s).over (s.held d))) := by
  have hs : s.anyBound srcs = false := by simp [State.anyBound] at h ⊢; exact h.2
  have hd : s.anyBound [d] = false := by simp [State.anyBound] at h ⊢; exact h.1
  simp only [produces, streamNeed_none hs hd, popAll_same hs]
  rw [produce_plain _ (anyBound_false h (List.mem_cons_self ..))]
theorem putsOnly_plain {srcs : List Spec} {d : Spec} {f : State → Res} {s : State} (h : s.anyBound (d :: srcs) = false) :
    putsOnly srcs d f s = .done (s.modMe fun x => x.setReg d ((f s).over (s.held d))) := by
  have hs : s.anyBound srcs = false := by simp [State.anyBound] at h ⊢; exact h.2
  have hd : s.anyBound [d] = false := by simp [State.anyBound] at h ⊢; exact h.1
  simp only [putsOnly, streamNeed_none hs hd, popAll_same hs]
  rw [putRes_plain _ (anyBound_false h (List.mem_cons_self ..))]
theorem putsPred_plain {srcs : List Spec} {f : State → Thread → Thread} {s : State} (h : s.anyBound srcs = false) :
    putsPred srcs f s = .done (s.modMe (f s)) := by
  simp only [putsPred, streamNeed_none h (anyBound_nil s), popAll_same h]

@[simp] theorem setReg_next (x : Thread) (d : Spec) (v : V256) (n : Nat) : (x.setReg d v).next n = x.next n := by
  simp [Thread.next]
@[simp] theorem last_next (x : Thread) (d : Spec) (v : V256) (n : Nat) : (x.last d v).next n = x.next n := by
  simp [Thread.next]
@[simp] theorem setPred_next (x : Thread) (n : BitVec 3) (b : Bool) (k : Nat) : (x.setPred n b).next k = x.next k := by
  simp [Thread.next]
@[simp] theorem setPreds_next (x : Thread) (v : BitVec 8) (k : Nat) : (x.setPreds v).next k = x.next k := rfl

/-! ### Exceptions (R367–R370) -/

/-- Only a kill of another thread lets a lead go on. -/
@[simp] theorem leadOn_fault (s : State) (r : FaultRec) : s.leadOn (.fault r) = s := rfl
/-- A fault of a thread with nothing outstanding is taken at once. -/
theorem fault_now {s : State} {t : TIdx} {r : FaultRec} (h : (s.cell.th t).outs = []) :
    s.fault t r = (s.modTh t (·.finishing (.fault r))).enterFault t r := by
  simp [State.fault, State.settle, Thread.finishing, h, Cell.drainsFirst, State.finish]

end Sys2Proof.Machine
end

