-- ==== Sys2Proof/Laws/PerInstr.lean ====
section
/-! SUPPORT. Statements about every instruction, one lemma a constructor. RoundTrip: the words of a well-formed instruction decode
to it, whatever words follow. -/

namespace Sys2Proof.Laws

open Decode Encode

/-- The words of a well-formed instruction, with any words after them, decode to the instruction and those words. -/
def RoundTrip.Statement (i : Instr) : Prop := WellFormed i → ∀ r, decodeWords (encode i ++ r) = .ok (i, r)

namespace RoundTrip

set_option Elab.async false
set_option linter.unusedSimpArgs false

theorem nop h : Statement (.nop h) := by
  intro hw r
  simp only [WellFormed, wellFormed, decide_eq_true_eq] at hw
  have hg := hw
  refine decodeWords_one r (by simp [isLongWord]) (fun _ => ?_)
  simp only [decode, hdr_word0, hdr_wordJ, hdr_wordK, hdr_wordY, hdr_wordF, if_neg hg]
  simp [decControl, allowed, unusedZero]
theorem br h o : Statement (.br h o) := by
  intro hw r
  simp only [WellFormed, wellFormed, decide_eq_true_eq] at hw
  have hg := hw
  refine decodeWords_one r (by simp [isLongWord]) (fun _ => ?_)
  simp only [decode, hdr_word0, hdr_wordJ, hdr_wordK, hdr_wordY, hdr_wordF, if_neg hg]
  simp [decControl, allowed, unusedZero]
theorem call h o : Statement (.call h o) := by
  intro hw r
  simp only [WellFormed, wellFormed, decide_eq_true_eq] at hw
  have hg := hw
  refine decodeWords_one r (by simp [isLongWord]) (fun _ => ?_)
  simp only [decode, hdr_word0, hdr_wordJ, hdr_wordK, hdr_wordY, hdr_wordF, if_neg hg]
  simp [decControl, allowed, unusedZero]
theorem jmp h a : Statement (.jmp h a) := by
  intro hw r
  simp only [WellFormed, wellFormed, decide_eq_true_eq] at hw
  have hg := hw
  refine decodeWords_one r (by simp [isLongWord]) (fun _ => ?_)
  simp only [decode, hdr_word0, hdr_wordJ, hdr_wordK, hdr_wordY, hdr_wordF, if_neg hg]
  simp [decControl, allowed, unusedZero]
theorem callr h a : Statement (.callr h a) := by
  intro hw r
  simp only [WellFormed, wellFormed, decide_eq_true_eq] at hw
  have hg := hw
  refine decodeWords_one r (by simp [isLongWord]) (fun _ => ?_)
  simp only [decode, hdr_word0, hdr_wordJ, hdr_wordK, hdr_wordY, hdr_wordF, if_neg hg]
  simp [decControl, allowed, unusedZero]
theorem ret h a : Statement (.ret h a) := by
  intro hw r
  simp only [WellFormed, wellFormed, decide_eq_true_eq] at hw
  have hg := hw
  refine decodeWords_one r (by simp [isLongWord]) (fun _ => ?_)
  simp only [decode, hdr_word0, hdr_wordJ, hdr_wordK, hdr_wordY, hdr_wordF, if_neg hg]
  simp [decControl, allowed, unusedZero]
theorem loop h a len x : Statement (.loop h a len x) := by
  intro hw r
  simp only [WellFormed, wellFormed, decide_eq_true_eq] at hw
  have hg := hw
  refine decodeWords_one r (by simp [isLongWord]) (fun _ => ?_)
  simp only [decode, hdr_word0, hdr_wordJ, hdr_wordK, hdr_wordY, hdr_wordF, if_neg hg]
  simp [decControl, allowed, unusedZero]
theorem stop h : Statement (.stop h) := by
  intro hw r
  simp only [WellFormed, wellFormed, decide_eq_true_eq] at hw
  have hg := hw
  refine decodeWords_one r (by simp [isLongWord]) (fun _ => ?_)
  simp only [decode, hdr_word0, hdr_wordJ, hdr_wordK, hdr_wordY, hdr_wordF, if_neg hg]
  simp [decControl, allowed, unusedZero]
theorem bcast h mask len off : Statement (.bcast h mask len off) := by
  intro hw r
  simp only [WellFormed, wellFormed, decide_eq_true_eq] at hw
  have hg := hw
  refine decodeWords_one r (by simp [isLongWord]) (fun _ => ?_)
  simp only [decode, hdr_word0, hdr_wordJ, hdr_wordK, hdr_wordY, hdr_wordF, if_neg hg]
  simp [decControl, allowed, unusedZero]
theorem fetchb h a : Statement (.fetchb h a) := by
  intro hw r
  simp only [WellFormed, wellFormed, decide_eq_true_eq] at hw
  have hg := hw
  refine decodeWords_one r (by simp [isLongWord]) (fun _ => ?_)
  simp only [decode, hdr_word0, hdr_wordJ, hdr_wordK, hdr_wordY, hdr_wordF, if_neg hg]
  simp [decControl, allowed, unusedZero]
theorem joinm h d a : Statement (.joinm h d a) := by
  intro hw r
  simp only [WellFormed, wellFormed, decide_eq_true_eq] at hw
  have hg := hw
  refine decodeWords_one r (by simp [isLongWord]) (fun _ => ?_)
  simp only [decode, hdr_word0, hdr_wordJ, hdr_wordK, hdr_wordY, hdr_wordF, if_neg hg]
  simp [decControl, allowed, unusedZero]
theorem joinmF h d a : Statement (.joinmF h d a) := by
  intro hw r
  simp only [WellFormed, wellFormed, decide_eq_true_eq] at hw
  have hg := hw
  refine decodeWords_one r (by simp [isLongWord]) (fun _ => ?_)
  simp only [decode, hdr_word0, hdr_wordJ, hdr_wordK, hdr_wordY, hdr_wordF, if_neg hg]
  simp [decControl, allowed, unusedZero]
theorem yield h : Statement (.yield h) := by
  intro hw r
  simp only [WellFormed, wellFormed, decide_eq_true_eq] at hw
  have hg := hw
  refine decodeWords_one r (by simp [isLongWord]) (fun _ => ?_)
  simp only [decode, hdr_word0, hdr_wordJ, hdr_wordK, hdr_wordY, hdr_wordF, if_neg hg]
  simp [decControl, allowed, unusedZero]
theorem hret h : Statement (.hret h) := by
  intro hw r
  simp only [WellFormed, wellFormed, decide_eq_true_eq] at hw
  have hg := hw
  refine decodeWords_one r (by simp [isLongWord]) (fun _ => ?_)
  simp only [decode, hdr_word0, hdr_wordJ, hdr_wordK, hdr_wordY, hdr_wordF, if_neg hg]
  simp [decControl, allowed, unusedZero]
theorem trap h a code : Statement (.trap h a code) := by
  intro hw r
  simp only [WellFormed, wellFormed, decide_eq_true_eq] at hw
  have hg := hw
  refine decodeWords_one r (by simp [isLongWord]) (fun _ => ?_)
  simp only [decode, hdr_word0, hdr_wordJ, hdr_wordK, hdr_wordY, hdr_wordF, if_neg hg]
  simp [decControl, allowed, unusedZero]
theorem brk h a code : Statement (.brk h a code) := by
  intro hw r
  simp only [WellFormed, wellFormed, decide_eq_true_eq] at hw
  have hg := hw
  refine decodeWords_one r (by simp [isLongWord]) (fun _ => ?_)
  simp only [decode, hdr_word0, hdr_wordJ, hdr_wordK, hdr_wordY, hdr_wordF, if_neg hg]
  simp [decControl, allowed, unusedZero]
theorem tctlResume h a : Statement (.tctlResume h a) := by
  intro hw r
  simp only [WellFormed, wellFormed, decide_eq_true_eq] at hw
  have hg := hw
  refine decodeWords_one r (by simp [isLongWord]) (fun _ => ?_)
  simp only [decode, hdr_word0, hdr_wordJ, hdr_wordK, hdr_wordY, hdr_wordF, if_neg hg]
  simp [decControl, allowed, unusedZero]
theorem tctlKill h a : Statement (.tctlKill h a) := by
  intro hw r
  simp only [WellFormed, wellFormed, decide_eq_true_eq] at hw
  have hg := hw
  refine decodeWords_one r (by simp [isLongWord]) (fun _ => ?_)
  simp only [decode, hdr_word0, hdr_wordJ, hdr_wordK, hdr_wordY, hdr_wordF, if_neg hg]
  simp [decControl, allowed, unusedZero]
theorem tctlReset h a : Statement (.tctlReset h a) := by
  intro hw r
  simp only [WellFormed, wellFormed, decide_eq_true_eq] at hw
  have hg := hw
  refine decodeWords_one r (by simp [isLongWord]) (fun _ => ?_)
  simp only [decode, hdr_word0, hdr_wordJ, hdr_wordK, hdr_wordY, hdr_wordF, if_neg hg]
  simp [decControl, allowed, unusedZero]
theorem sysrd h d n : Statement (.sysrd h d n) := by
  intro hw r
  simp only [WellFormed, wellFormed, decide_eq_true_eq] at hw
  have hg := hw
  refine decodeWords_one r (by simp [isLongWord]) (fun _ => ?_)
  simp only [decode, hdr_word0, hdr_wordJ, hdr_wordK, hdr_wordY, hdr_wordF, if_neg hg]
  simp [decControl, allowed, unusedZero]
theorem syswr h d n : Statement (.syswr h d n) := by
  intro hw r
  simp only [WellFormed, wellFormed, decide_eq_true_eq] at hw
  obtain ⟨hg, hw⟩ := hw
  simp only [ne_eq, BitVec.ofNat_eq_ofNat] at hw
  refine decodeWords_one r (by simp [isLongWord]) (fun _ => ?_)
  simp only [decode, hdr_word0, hdr_wordJ, hdr_wordK, hdr_wordY, hdr_wordF, if_neg hg]
  simp [decControl, allowed, unusedZero, hw]
theorem fpcWrite h d : Statement (.fpcWrite h d) := by
  intro hw r
  simp only [WellFormed, wellFormed, decide_eq_true_eq] at hw
  have hg := hw
  refine decodeWords_one r (by simp [isLongWord]) (fun _ => ?_)
  simp only [decode, hdr_word0, hdr_wordJ, hdr_wordK, hdr_wordY, hdr_wordF, if_neg hg]
  simp [decControl, allowed, unusedZero]
theorem add h d a b x : Statement (.add h d a b x) := by
  intro hw r
  simp only [WellFormed, wellFormed, decide_eq_true_eq] at hw
  obtain ⟨hg, hw⟩ := hw
  simp only [ne_eq, BitVec.ofNat_eq_ofNat] at hw
  refine decodeWords_one r (by simp [isLongWord]) (fun _ => ?_)
  simp only [decode, hdr_word0, hdr_wordJ, hdr_wordK, hdr_wordY, hdr_wordF, if_neg hg]
  simp [decScalar, allowed, unusedZero, hw]
theorem sub h d a b x : Statement (.sub h d a b x) := by
  intro hw r
  simp only [WellFormed, wellFormed, decide_eq_true_eq] at hw
  obtain ⟨hg, hw⟩ := hw
  simp only [ne_eq, BitVec.ofNat_eq_ofNat] at hw
  refine decodeWords_one r (by simp [isLongWord]) (fun _ => ?_)
  simp only [decode, hdr_word0, hdr_wordJ, hdr_wordK, hdr_wordY, hdr_wordF, if_neg hg]
  simp [decScalar, allowed, unusedZero, hw]
theorem mul h d a b x : Statement (.mul h d a b x) := by
  intro hw r
  simp only [WellFormed, wellFormed, decide_eq_true_eq] at hw
  obtain ⟨hg, hw⟩ := hw
  simp only [ne_eq, BitVec.ofNat_eq_ofNat] at hw
  refine decodeWords_one r (by simp [isLongWord]) (fun _ => ?_)
  simp only [decode, hdr_word0, hdr_wordJ, hdr_wordK, hdr_wordY, hdr_wordF, if_neg hg]
  simp [decScalar, allowed, unusedZero, hw]
theorem mulh h d a b x : Statement (.mulh h d a b x) := by
  intro hw r
  simp only [WellFormed, wellFormed, decide_eq_true_eq] at hw
  have hg := hw
  refine decodeWords_one r (by simp [isLongWord]) (fun _ => ?_)
  simp only [decode, hdr_word0, hdr_wordJ, hdr_wordK, hdr_wordY, hdr_wordF, if_neg hg]
  simp [decScalar, allowed, unusedZero]
theorem div h d a b x : Statement (.div h d a b x) := by
  intro hw r
  simp only [WellFormed, wellFormed, decide_eq_true_eq] at hw
  have hg := hw
  refine decodeWords_one r (by simp [isLongWord]) (fun _ => ?_)
  simp only [decode, hdr_word0, hdr_wordJ, hdr_wordK, hdr_wordY, hdr_wordF, if_neg hg]
  simp [decScalar, allowed, unusedZero]
theorem rem h d a b x : Statement (.rem h d a b x) := by
  intro hw r
  simp only [WellFormed, wellFormed, decide_eq_true_eq] at hw
  have hg := hw
  refine decodeWords_one r (by simp [isLongWord]) (fun _ => ?_)
  simp only [decode, hdr_word0, hdr_wordJ, hdr_wordK, hdr_wordY, hdr_wordF, if_neg hg]
  simp [decScalar, allowed, unusedZero]
theorem and h d a b x : Statement (.and h d a b x) := by
  intro hw r
  simp only [WellFormed, wellFormed, decide_eq_true_eq] at hw
  obtain ⟨hg, hw⟩ := hw
  simp only [ne_eq, BitVec.ofNat_eq_ofNat] at hw
  refine decodeWords_one r (by simp [isLongWord]) (fun _ => ?_)
  simp only [decode, hdr_word0, hdr_wordJ, hdr_wordK, hdr_wordY, hdr_wordF, if_neg hg]
  simp [decScalar, allowed, unusedZero, hw]
theorem or h d a b x : Statement (.or h d a b x) := by
  intro hw r
  simp only [WellFormed, wellFormed, decide_eq_true_eq] at hw
  obtain ⟨hg, hw⟩ := hw
  simp only [ne_eq, BitVec.ofNat_eq_ofNat] at hw
  refine decodeWords_one r (by simp [isLongWord]) (fun _ => ?_)
  simp only [decode, hdr_word0, hdr_wordJ, hdr_wordK, hdr_wordY, hdr_wordF, if_neg hg]
  simp [decScalar, allowed, unusedZero, hw]
theorem xor h d a b x : Statement (.xor h d a b x) := by
  intro hw r
  simp only [WellFormed, wellFormed, decide_eq_true_eq] at hw
  obtain ⟨hg, hw⟩ := hw
  simp only [ne_eq, BitVec.ofNat_eq_ofNat] at hw
  refine decodeWords_one r (by simp [isLongWord]) (fun _ => ?_)
  simp only [decode, hdr_word0, hdr_wordJ, hdr_wordK, hdr_wordY, hdr_wordF, if_neg hg]
  simp [decScalar, allowed, unusedZero, hw]
theorem andn h d a b x : Statement (.andn h d a b x) := by
  intro hw r
  simp only [WellFormed, wellFormed, decide_eq_true_eq] at hw
  obtain ⟨hg, hw⟩ := hw
  simp only [ne_eq, BitVec.ofNat_eq_ofNat] at hw
  refine decodeWords_one r (by simp [isLongWord]) (fun _ => ?_)
  simp only [decode, hdr_word0, hdr_wordJ, hdr_wordK, hdr_wordY, hdr_wordF, if_neg hg]
  simp [decScalar, allowed, unusedZero, hw]
theorem shl h d a b x : Statement (.shl h d a b x) := by
  intro hw r
  simp only [WellFormed, wellFormed, decide_eq_true_eq] at hw
  obtain ⟨hg, hw⟩ := hw
  simp only [ne_eq, BitVec.ofNat_eq_ofNat] at hw
  refine decodeWords_one r (by simp [isLongWord]) (fun _ => ?_)
  simp only [decode, hdr_word0, hdr_wordJ, hdr_wordK, hdr_wordY, hdr_wordF, if_neg hg]
  simp [decScalar, allowed, unusedZero, hw]
theorem shr h d a b x : Statement (.shr h d a b x) := by
  intro hw r
  simp only [WellFormed, wellFormed, decide_eq_true_eq] at hw
  have hg := hw
  refine decodeWords_one r (by simp [isLongWord]) (fun _ => ?_)
  simp only [decode, hdr_word0, hdr_wordJ, hdr_wordK, hdr_wordY, hdr_wordF, if_neg hg]
  simp [decScalar, allowed, unusedZero]
theorem min h d a b : Statement (.min h d a b) := by
  intro hw r
  simp only [WellFormed, wellFormed, decide_eq_true_eq] at hw
  have hg := hw
  refine decodeWords_one r (by simp [isLongWord]) (fun _ => ?_)
  simp only [decode, hdr_word0, hdr_wordJ, hdr_wordK, hdr_wordY, hdr_wordF, if_neg hg]
  simp [decScalar, allowed, unusedZero]
theorem max h d a b : Statement (.max h d a b) := by
  intro hw r
  simp only [WellFormed, wellFormed, decide_eq_true_eq] at hw
  have hg := hw
  refine decodeWords_one r (by simp [isLongWord]) (fun _ => ?_)
  simp only [decode, hdr_word0, hdr_wordJ, hdr_wordK, hdr_wordY, hdr_wordF, if_neg hg]
  simp [decScalar, allowed, unusedZero]
theorem minu h d a b : Statement (.minu h d a b) := by
  intro hw r
  simp only [WellFormed, wellFormed, decide_eq_true_eq] at hw
  have hg := hw
  refine decodeWords_one r (by simp [isLongWord]) (fun _ => ?_)
  simp only [decode, hdr_word0, hdr_wordJ, hdr_wordK, hdr_wordY, hdr_wordF, if_neg hg]
  simp [decScalar, allowed, unusedZero]
theorem maxu h d a b : Statement (.maxu h d a b) := by
  intro hw r
  simp only [WellFormed, wellFormed, decide_eq_true_eq] at hw
  have hg := hw
  refine decodeWords_one r (by simp [isLongWord]) (fun _ => ?_)
  simp only [decode, hdr_word0, hdr_wordJ, hdr_wordK, hdr_wordY, hdr_wordF, if_neg hg]
  simp [decScalar, allowed, unusedZero]
theorem bitc h d a x : Statement (.bitc h d a x) := by
  intro hw r
  simp only [WellFormed, wellFormed, decide_eq_true_eq] at hw
  have hg := hw
  refine decodeWords_one r (by simp [isLongWord]) (fun _ => ?_)
  simp only [decode, hdr_word0, hdr_wordJ, hdr_wordK, hdr_wordY, hdr_wordF, if_neg hg]
  simp [decScalar, allowed, unusedZero]
theorem ext h d a sgn x : Statement (.ext h d a sgn x) := by
  intro hw r
  simp only [WellFormed, wellFormed, decide_eq_true_eq] at hw
  obtain ⟨hg, hw⟩ := hw
  simp only [ne_eq, BitVec.ofNat_eq_ofNat] at hw
  refine decodeWords_one r (by simp [isLongWord]) (fun _ => ?_)
  simp only [decode, hdr_word0, hdr_wordJ, hdr_wordK, hdr_wordY, hdr_wordF, if_neg hg]
  simp [decScalar, allowed, unusedZero, hw]
theorem mov h d a x : Statement (.mov h d a x) := by
  intro hw r
  simp only [WellFormed, wellFormed, decide_eq_true_eq] at hw
  obtain ⟨hg, hw⟩ := hw
  simp only [ne_eq, BitVec.ofNat_eq_ofNat] at hw
  refine decodeWords_one r (by simp [isLongWord]) (fun _ => ?_)
  simp only [decode, hdr_word0, hdr_wordJ, hdr_wordK, hdr_wordY, hdr_wordF, if_neg hg]
  simp [decScalar, allowed, unusedZero, hw]
theorem cmp h cond pd a b x : Statement (.cmp h cond pd a b x) := by
  intro hw r
  simp only [WellFormed, wellFormed, decide_eq_true_eq] at hw
  obtain ⟨hg, hw⟩ := hw
  simp only [ne_eq, BitVec.ofNat_eq_ofNat] at hw
  refine decodeWords_one r (by simp [isLongWord]) (fun _ => ?_)
  simp only [decode, hdr_word0, hdr_wordJ, hdr_wordK, hdr_wordY, hdr_wordF, if_neg hg]
  simp [decScalar, allowed, unusedZero, hw]
theorem fcmp h cond pd a b : Statement (.fcmp h cond pd a b) := by
  intro hw r
  simp only [WellFormed, wellFormed, decide_eq_true_eq] at hw
  have hg := hw
  refine decodeWords_one r (by simp [isLongWord]) (fun _ => ?_)
  simp only [decode, hdr_word0, hdr_wordJ, hdr_wordK, hdr_wordY, hdr_wordF, if_neg hg]
  simp [decScalar, allowed, unusedZero]
theorem plog h pd na pa nb pb x : Statement (.plog h pd na pa nb pb x) := by
  intro hw r
  simp only [WellFormed, wellFormed, decide_eq_true_eq] at hw
  have hg := hw
  refine decodeWords_one r (by simp [isLongWord]) (fun _ => ?_)
  simp only [decode, hdr_word0, hdr_wordJ, hdr_wordK, hdr_wordY, hdr_wordF, if_neg hg]
  simp [decScalar, allowed, unusedZero]
theorem pset h pd v : Statement (.pset h pd v) := by
  intro hw r
  simp only [WellFormed, wellFormed, decide_eq_true_eq] at hw
  have hg := hw
  refine decodeWords_one r (by simp [isLongWord]) (fun _ => ?_)
  simp only [decode, hdr_word0, hdr_wordJ, hdr_wordK, hdr_wordY, hdr_wordF, if_neg hg]
  simp [decScalar, allowed, unusedZero]
theorem psetBit h pd a n : Statement (.psetBit h pd a n) := by
  intro hw r
  simp only [WellFormed, wellFormed, decide_eq_true_eq] at hw
  have hg := hw
  refine decodeWords_one r (by simp [isLongWord]) (fun _ => ?_)
  simp only [decode, hdr_word0, hdr_wordJ, hdr_wordK, hdr_wordY, hdr_wordF, if_neg hg]
  simp [decScalar, allowed, unusedZero]
theorem psetAll h a : Statement (.psetAll h a) := by
  intro hw r
  simp only [WellFormed, wellFormed, decide_eq_true_eq] at hw
  have hg := hw
  refine decodeWords_one r (by simp [isLongWord]) (fun _ => ?_)
  simp only [decode, hdr_word0, hdr_wordJ, hdr_wordK, hdr_wordY, hdr_wordF, if_neg hg]
  simp [decScalar, allowed, unusedZero]
theorem prd h d : Statement (.prd h d) := by
  intro hw r
  simp only [WellFormed, wellFormed, decide_eq_true_eq] at hw
  have hg := hw
  refine decodeWords_one r (by simp [isLongWord]) (fun _ => ?_)
  simp only [decode, hdr_word0, hdr_wordJ, hdr_wordK, hdr_wordY, hdr_wordF, if_neg hg]
  simp [decScalar, allowed, unusedZero]
theorem ld h d a off x : Statement (.ld h d a off x) := by
  intro hw r
  simp only [WellFormed, wellFormed, decide_eq_true_eq] at hw
  have hg := hw
  refine decodeWords_one r (by simp [isLongWord]) (fun _ => ?_)
  simp only [decode, hdr_word0, hdr_wordJ, hdr_wordK, hdr_wordY, hdr_wordF, if_neg hg]
  simp [decMemory, allowed, unusedZero]
theorem lds h d a off x : Statement (.lds h d a off x) := by
  intro hw r
  simp only [WellFormed, wellFormed, decide_eq_true_eq] at hw
  obtain ⟨hg, hw⟩ := hw
  simp only [ne_eq, BitVec.ofNat_eq_ofNat] at hw
  refine decodeWords_one r (by simp [isLongWord]) (fun _ => ?_)
  simp only [decode, hdr_word0, hdr_wordJ, hdr_wordK, hdr_wordY, hdr_wordF, if_neg hg]
  simp [decMemory, allowed, unusedZero, hw]
theorem st h d a off x : Statement (.st h d a off x) := by
  intro hw r
  simp only [WellFormed, wellFormed, decide_eq_true_eq] at hw
  have hg := hw
  refine decodeWords_one r (by simp [isLongWord]) (fun _ => ?_)
  simp only [decode, hdr_word0, hdr_wordJ, hdr_wordK, hdr_wordY, hdr_wordF, if_neg hg]
  simp [decMemory, allowed, unusedZero]
theorem ldv h d a off : Statement (.ldv h d a off) := by
  intro hw r
  simp only [WellFormed, wellFormed, decide_eq_true_eq] at hw
  have hg := hw
  refine decodeWords_one r (by simp [isLongWord]) (fun _ => ?_)
  simp only [decode, hdr_word0, hdr_wordJ, hdr_wordK, hdr_wordY, hdr_wordF, if_neg hg]
  simp [decMemory, allowed, unusedZero]
theorem stv h d a off : Statement (.stv h d a off) := by
  intro hw r
  simp only [WellFormed, wellFormed, decide_eq_true_eq] at hw
  have hg := hw
  refine decodeWords_one r (by simp [isLongWord]) (fun _ => ?_)
  simp only [decode, hdr_word0, hdr_wordJ, hdr_wordK, hdr_wordY, hdr_wordF, if_neg hg]
  simp [decMemory, allowed, unusedZero]
theorem ldvBc h d a off : Statement (.ldvBc h d a off) := by
  intro hw r
  simp only [WellFormed, wellFormed, decide_eq_true_eq] at hw
  have hg := hw
  refine decodeWords_one r (by simp [isLongWord]) (fun _ => ?_)
  simp only [decode, hdr_word0, hdr_wordJ, hdr_wordK, hdr_wordY, hdr_wordF, if_neg hg]
  simp [decMemory, allowed, unusedZero]
theorem aop h d a op : Statement (.aop h d a op) := by
  intro hw r
  simp only [WellFormed, wellFormed, decide_eq_true_eq] at hw
  obtain ⟨hg, hw⟩ := hw
  simp only [ne_eq, BitVec.ofNat_eq_ofNat] at hw
  refine decodeWords_one r (by simp [isLongWord]) (fun _ => ?_)
  simp only [decode, hdr_word0, hdr_wordJ, hdr_wordK, hdr_wordY, hdr_wordF, if_neg hg]
  simp [decMemory, allowed, unusedZero, hw]
theorem waita h d a b x : Statement (.waita h d a b x) := by
  intro hw r
  simp only [WellFormed, wellFormed, decide_eq_true_eq] at hw
  have hg := hw
  refine decodeWords_one r (by simp [isLongWord]) (fun _ => ?_)
  simp only [decode, hdr_word0, hdr_wordJ, hdr_wordK, hdr_wordY, hdr_wordF, if_neg hg]
  simp [decMemory, allowed, unusedZero]
theorem vadd h d a b x : Statement (.vadd h d a b x) := by
  intro hw r
  simp only [WellFormed, wellFormed, decide_eq_true_eq] at hw
  have hg := hw
  refine decodeWords_one r (by simp [isLongWord]) (fun _ => ?_)
  simp only [decode, hdr_word0, hdr_wordJ, hdr_wordK, hdr_wordY, hdr_wordF, if_neg hg]
  simp [decVector, allowed, unusedZero]
theorem vsub h d a b x : Statement (.vsub h d a b x) := by
  intro hw r
  simp only [WellFormed, wellFormed, decide_eq_true_eq] at hw
  have hg := hw
  refine decodeWords_one r (by simp [isLongWord]) (fun _ => ?_)
  simp only [decode, hdr_word0, hdr_wordJ, hdr_wordK, hdr_wordY, hdr_wordF, if_neg hg]
  simp [decVector, allowed, unusedZero]
theorem vmul h d a b x : Statement (.vmul h d a b x) := by
  intro hw r
  simp only [WellFormed, wellFormed, decide_eq_true_eq] at hw
  have hg := hw
  refine decodeWords_one r (by simp [isLongWord]) (fun _ => ?_)
  simp only [decode, hdr_word0, hdr_wordJ, hdr_wordK, hdr_wordY, hdr_wordF, if_neg hg]
  simp [decVector, allowed, unusedZero]
theorem vfma h d a b x : Statement (.vfma h d a b x) := by
  intro hw r
  simp only [WellFormed, wellFormed, decide_eq_true_eq] at hw
  obtain ⟨hg, hw⟩ := hw
  simp only [ne_eq, BitVec.ofNat_eq_ofNat] at hw
  refine decodeWords_one r (by simp [isLongWord]) (fun _ => ?_)
  simp only [decode, hdr_word0, hdr_wordJ, hdr_wordK, hdr_wordY, hdr_wordF, if_neg hg]
  simp [decVector, allowed, unusedZero, hw]
theorem vminmax h d a b x : Statement (.vminmax h d a b x) := by
  intro hw r
  simp only [WellFormed, wellFormed, decide_eq_true_eq] at hw
  have hg := hw
  refine decodeWords_one r (by simp [isLongWord]) (fun _ => ?_)
  simp only [decode, hdr_word0, hdr_wordJ, hdr_wordK, hdr_wordY, hdr_wordF, if_neg hg]
  simp [decVector, allowed, unusedZero]
theorem vun h d a x : Statement (.vun h d a x) := by
  intro hw r
  simp only [WellFormed, wellFormed, decide_eq_true_eq] at hw
  have hg := hw
  refine decodeWords_one r (by simp [isLongWord]) (fun _ => ?_)
  simp only [decode, hdr_word0, hdr_wordJ, hdr_wordK, hdr_wordY, hdr_wordF, if_neg hg]
  simp [decVector, allowed, unusedZero]
theorem vred h d a x : Statement (.vred h d a x) := by
  intro hw r
  simp only [WellFormed, wellFormed, decide_eq_true_eq] at hw
  have hg := hw
  refine decodeWords_one r (by simp [isLongWord]) (fun _ => ?_)
  simp only [decode, hdr_word0, hdr_wordJ, hdr_wordK, hdr_wordY, hdr_wordF, if_neg hg]
  simp [decVector, allowed, unusedZero]
theorem vcmp h pd m a b x : Statement (.vcmp h pd m a b x) := by
  intro hw r
  simp only [WellFormed, wellFormed, decide_eq_true_eq] at hw
  have hg := hw
  refine decodeWords_one r (by simp [isLongWord]) (fun _ => ?_)
  simp only [decode, hdr_word0, hdr_wordJ, hdr_wordK, hdr_wordY, hdr_wordF, if_neg hg]
  simp [decVector, allowed, unusedZero]
theorem vsel h d a b x : Statement (.vsel h d a b x) := by
  intro hw r
  simp only [WellFormed, wellFormed, decide_eq_true_eq] at hw
  have hg := hw
  refine decodeWords_one r (by simp [isLongWord]) (fun _ => ?_)
  simp only [decode, hdr_word0, hdr_wordJ, hdr_wordK, hdr_wordY, hdr_wordF, if_neg hg]
  simp [decVector, allowed, unusedZero]
theorem vshuf h d a b x : Statement (.vshuf h d a b x) := by
  intro hw r
  simp only [WellFormed, wellFormed, decide_eq_true_eq] at hw
  have hg := hw
  refine decodeWords_one r (by simp [isLongWord]) (fun _ => ?_)
  simp only [decode, hdr_word0, hdr_wordJ, hdr_wordK, hdr_wordY, hdr_wordF, if_neg hg]
  simp [decVector, allowed, unusedZero]
theorem vbc h d a b x : Statement (.vbc h d a b x) := by
  intro hw r
  simp only [WellFormed, wellFormed, decide_eq_true_eq] at hw
  have hg := hw
  refine decodeWords_one r (by simp [isLongWord]) (fun _ => ?_)
  simp only [decode, hdr_word0, hdr_wordJ, hdr_wordK, hdr_wordY, hdr_wordF, if_neg hg]
  simp [decVector, allowed, unusedZero]
theorem vlog h d a b x : Statement (.vlog h d a b x) := by
  intro hw r
  simp only [WellFormed, wellFormed, decide_eq_true_eq] at hw
  have hg := hw
  refine decodeWords_one r (by simp [isLongWord]) (fun _ => ?_)
  simp only [decode, hdr_word0, hdr_wordJ, hdr_wordK, hdr_wordY, hdr_wordF, if_neg hg]
  simp [decVector, allowed, unusedZero]
theorem vsh h d a b x : Statement (.vsh h d a b x) := by
  intro hw r
  simp only [WellFormed, wellFormed, decide_eq_true_eq] at hw
  have hg := hw
  refine decodeWords_one r (by simp [isLongWord]) (fun _ => ?_)
  simp only [decode, hdr_word0, hdr_wordJ, hdr_wordK, hdr_wordY, hdr_wordF, if_neg hg]
  simp [decVector, allowed, unusedZero]
theorem vlane h d a k x : Statement (.vlane h d a k x) := by
  intro hw r
  simp only [WellFormed, wellFormed, decide_eq_true_eq] at hw
  obtain ⟨hg, hw⟩ := hw
  simp only [ne_eq, BitVec.ofNat_eq_ofNat] at hw
  refine decodeWords_one r (by simp [isLongWord]) (fun _ => ?_)
  simp only [decode, hdr_word0, hdr_wordJ, hdr_wordK, hdr_wordY, hdr_wordF, if_neg hg]
  simp [decVector, allowed, unusedZero, hw]
theorem vscale h d a b x : Statement (.vscale h d a b x) := by
  intro hw r
  simp only [WellFormed, wellFormed, decide_eq_true_eq] at hw
  have hg := hw
  refine decodeWords_one r (by simp [isLongWord]) (fun _ => ?_)
  simp only [decode, hdr_word0, hdr_wordJ, hdr_wordK, hdr_wordY, hdr_wordF, if_neg hg]
  simp [decVector, allowed, unusedZero]
theorem vrint h d a x : Statement (.vrint h d a x) := by
  intro hw r
  simp only [WellFormed, wellFormed, decide_eq_true_eq] at hw
  have hg := hw
  refine decodeWords_one r (by simp [isLongWord]) (fun _ => ?_)
  simp only [decode, hdr_word0, hdr_wordJ, hdr_wordK, hdr_wordY, hdr_wordF, if_neg hg]
  simp [decVector, allowed, unusedZero]
theorem cvt h d a t r x : Statement (.cvt h d a t r x) := by
  intro hw r
  simp only [WellFormed, wellFormed, decide_eq_true_eq] at hw
  have hg := hw
  refine decodeWords_one r (by simp [isLongWord]) (fun _ => ?_)
  simp only [decode, hdr_word0, hdr_wordJ, hdr_wordK, hdr_wordY, hdr_wordF, if_neg hg]
  simp [decVector, allowed, unusedZero]
theorem qblk h d a b x : Statement (.qblk h d a b x) := by
  intro hw r
  simp only [WellFormed, wellFormed, decide_eq_true_eq] at hw
  have hg := hw
  refine decodeWords_one r (by simp [isLongWord]) (fun _ => ?_)
  simp only [decode, hdr_word0, hdr_wordJ, hdr_wordK, hdr_wordY, hdr_wordF, if_neg hg]
  simp [decVector, allowed, unusedZero]
theorem dqblk h d a b x : Statement (.dqblk h d a b x) := by
  intro hw r
  simp only [WellFormed, wellFormed, decide_eq_true_eq] at hw
  have hg := hw
  refine decodeWords_one r (by simp [isLongWord]) (fun _ => ?_)
  simp only [decode, hdr_word0, hdr_wordJ, hdr_wordK, hdr_wordY, hdr_wordF, if_neg hg]
  simp [decVector, allowed, unusedZero]
theorem vspec h d a fn : Statement (.vspec h d a fn) := by
  intro hw r
  simp only [WellFormed, wellFormed, decide_eq_true_eq] at hw
  obtain ⟨hg, hw⟩ := hw
  simp only [ne_eq, BitVec.ofNat_eq_ofNat] at hw
  refine decodeWords_one r (by simp [isLongWord]) (fun _ => ?_)
  simp only [decode, hdr_word0, hdr_wordJ, hdr_wordK, hdr_wordY, hdr_wordF, if_neg hg]
  simp [decVector, allowed, unusedZero, hw]
theorem pfx h fs fd sc rs : Statement (.pfx h fs fd sc rs) := by
  intro hw r
  simp only [WellFormed, wellFormed, decide_eq_true_eq] at hw
  have hg := hw
  refine decodeWords_one r (by simp [isLongWord]) (fun _ => ?_)
  simp only [decode, hdr_word0, hdr_wordJ, hdr_wordK, hdr_wordY, hdr_wordF, if_neg hg]
  simp [decVector, allowed, unusedZero]
theorem setfmt h sc ef rf rs : Statement (.setfmt h sc ef rf rs) := by
  intro hw r
  simp only [WellFormed, wellFormed, decide_eq_true_eq] at hw
  have hg := hw
  refine decodeWords_one r (by simp [isLongWord]) (fun _ => ?_)
  simp only [decode, hdr_word0, hdr_wordJ, hdr_wordK, hdr_wordY, hdr_wordF, if_neg hg]
  simp [decVector, allowed, unusedZero]
theorem setfmtF h ef rf : Statement (.setfmtF h ef rf) := by
  intro hw r
  simp only [WellFormed, wellFormed, decide_eq_true_eq] at hw
  have hg := hw
  refine decodeWords_one r (by simp [isLongWord]) (fun _ => ?_)
  simp only [decode, hdr_word0, hdr_wordJ, hdr_wordK, hdr_wordY, hdr_wordF, if_neg hg]
  simp [decVector, allowed, unusedZero]
theorem mlease h d m : Statement (.mlease h d m) := by
  intro hw r
  simp only [WellFormed, wellFormed, decide_eq_true_eq] at hw
  have hg := hw
  refine decodeWords_one r (by simp [isLongWord]) (fun _ => ?_)
  simp only [decode, hdr_word0, hdr_wordJ, hdr_wordK, hdr_wordY, hdr_wordF, if_neg hg]
  simp [decMatrix, allowed, unusedZero]
theorem mleaseTry h d m : Statement (.mleaseTry h d m) := by
  intro hw r
  simp only [WellFormed, wellFormed, decide_eq_true_eq] at hw
  have hg := hw
  refine decodeWords_one r (by simp [isLongWord]) (fun _ => ?_)
  simp only [decode, hdr_word0, hdr_wordJ, hdr_wordK, hdr_wordY, hdr_wordF, if_neg hg]
  simp [decMatrix, allowed, unusedZero]
theorem mrel h m : Statement (.mrel h m) := by
  intro hw r
  simp only [WellFormed, wellFormed, decide_eq_true_eq] at hw
  have hg := hw
  refine decodeWords_one r (by simp [isLongWord]) (fun _ => ?_)
  simp only [decode, hdr_word0, hdr_wordJ, hdr_wordK, hdr_wordY, hdr_wordF, if_neg hg]
  simp [decMatrix, allowed, unusedZero]
theorem mzero h m : Statement (.mzero h m) := by
  intro hw r
  simp only [WellFormed, wellFormed, decide_eq_true_eq] at hw
  have hg := hw
  refine decodeWords_one r (by simp [isLongWord]) (fun _ => ?_)
  simp only [decode, hdr_word0, hdr_wordJ, hdr_wordK, hdr_wordY, hdr_wordF, if_neg hg]
  simp [decMatrix, allowed, unusedZero]
theorem mma h t m a b x : Statement (.mma h t m a b x) := by
  intro hw r
  simp only [WellFormed, wellFormed, decide_eq_true_eq] at hw
  obtain ⟨hg, hw⟩ := hw
  simp only [ne_eq, BitVec.ofNat_eq_ofNat] at hw
  refine decodeWords_one r (by simp [isLongWord]) (fun _ => ?_)
  simp only [decode, hdr_word0, hdr_wordJ, hdr_wordK, hdr_wordY, hdr_wordF, if_neg hg]
  simp [decMatrix, allowed, unusedZero, hw]
theorem mmr h t a b x : Statement (.mmr h t a b x) := by
  intro hw r
  simp only [WellFormed, wellFormed, decide_eq_true_eq] at hw
  have hg := hw
  refine decodeWords_one r (by simp [isLongWord]) (fun _ => ?_)
  simp only [decode, hdr_word0, hdr_wordJ, hdr_wordK, hdr_wordY, hdr_wordF, if_neg hg]
  simp [decMatrix, allowed, unusedZero]
theorem mstS h t a off : Statement (.mstS h t a off) := by
  intro hw r
  simp only [WellFormed, wellFormed, decide_eq_true_eq] at hw
  have hg := hw
  refine decodeWords_one r (by simp [isLongWord]) (fun _ => ?_)
  simp only [decode, hdr_word0, hdr_wordJ, hdr_wordK, hdr_wordY, hdr_wordF, if_neg hg]
  simp [decMatrix, allowed, unusedZero]
theorem mstR h d t : Statement (.mstR h d t) := by
  intro hw r
  simp only [WellFormed, wellFormed, decide_eq_true_eq] at hw
  have hg := hw
  refine decodeWords_one r (by simp [isLongWord]) (fun _ => ?_)
  simp only [decode, hdr_word0, hdr_wordJ, hdr_wordK, hdr_wordY, hdr_wordF, if_neg hg]
  simp [decMatrix, allowed, unusedZero]
theorem mstL h t a off : Statement (.mstL h t a off) := by
  intro hw r
  simp only [WellFormed, wellFormed, decide_eq_true_eq] at hw
  have hg := hw
  refine decodeWords_one r (by simp [isLongWord]) (fun _ => ?_)
  simp only [decode, hdr_word0, hdr_wordJ, hdr_wordK, hdr_wordY, hdr_wordF, if_neg hg]
  simp [decMatrix, allowed, unusedZero]
theorem cbload h a : Statement (.cbload h a) := by
  intro hw r
  simp only [WellFormed, wellFormed, decide_eq_true_eq] at hw
  have hg := hw
  refine decodeWords_one r (by simp [isLongWord]) (fun _ => ?_)
  simp only [decode, hdr_word0, hdr_wordJ, hdr_wordK, hdr_wordY, hdr_wordF, if_neg hg]
  simp [decMatrix, allowed, unusedZero]
theorem mred h t a x : Statement (.mred h t a x) := by
  intro hw r
  simp only [WellFormed, wellFormed, decide_eq_true_eq] at hw
  have hg := hw
  refine decodeWords_one r (by simp [isLongWord]) (fun _ => ?_)
  simp only [decode, hdr_word0, hdr_wordJ, hdr_wordK, hdr_wordY, hdr_wordF, if_neg hg]
  simp [decMatrix, allowed, unusedZero]
theorem sbind h d a : Statement (.sbind h d a) := by
  intro hw r
  simp only [WellFormed, wellFormed, decide_eq_true_eq] at hw
  have hg := hw
  refine decodeWords_one r (by simp [isLongWord]) (fun _ => ?_)
  simp only [decode, hdr_word0, hdr_wordJ, hdr_wordK, hdr_wordY, hdr_wordF, if_neg hg]
  simp [decEngine, allowed, unusedZero]
theorem sctlUnbind h d : Statement (.sctlUnbind h d) := by
  intro hw r
  simp only [WellFormed, wellFormed, decide_eq_true_eq] at hw
  have hg := hw
  refine decodeWords_one r (by simp [isLongWord]) (fun _ => ?_)
  simp only [decode, hdr_word0, hdr_wordJ, hdr_wordK, hdr_wordY, hdr_wordF, if_neg hg]
  simp [decEngine, allowed, unusedZero]
theorem sctlDrain h d : Statement (.sctlDrain h d) := by
  intro hw r
  simp only [WellFormed, wellFormed, decide_eq_true_eq] at hw
  have hg := hw
  refine decodeWords_one r (by simp [isLongWord]) (fun _ => ?_)
  simp only [decode, hdr_word0, hdr_wordJ, hdr_wordK, hdr_wordY, hdr_wordF, if_neg hg]
  simp [decEngine, allowed, unusedZero]
theorem sctlRewind h d : Statement (.sctlRewind h d) := by
  intro hw r
  simp only [WellFormed, wellFormed, decide_eq_true_eq] at hw
  have hg := hw
  refine decodeWords_one r (by simp [isLongWord]) (fun _ => ?_)
  simp only [decode, hdr_word0, hdr_wordJ, hdr_wordK, hdr_wordY, hdr_wordF, if_neg hg]
  simp [decEngine, allowed, unusedZero]
theorem cget h d a b x : Statement (.cget h d a b x) := by
  intro hw r
  simp only [WellFormed, wellFormed, decide_eq_true_eq] at hw
  obtain ⟨hg, hw⟩ := hw
  simp only [ne_eq, BitVec.ofNat_eq_ofNat] at hw
  refine decodeWords_one r (by simp [isLongWord]) (fun _ => ?_)
  simp only [decode, hdr_word0, hdr_wordJ, hdr_wordK, hdr_wordY, hdr_wordF, if_neg hg]
  simp [decEngine, allowed, unusedZero, hw]
theorem cput h d a b x : Statement (.cput h d a b x) := by
  intro hw r
  simp only [WellFormed, wellFormed, decide_eq_true_eq] at hw
  obtain ⟨hg, hw⟩ := hw
  simp only [ne_eq, BitVec.ofNat_eq_ofNat] at hw
  refine decodeWords_one r (by simp [isLongWord]) (fun _ => ?_)
  simp only [decode, hdr_word0, hdr_wordJ, hdr_wordK, hdr_wordY, hdr_wordF, if_neg hg]
  simp [decEngine, allowed, unusedZero, hw]
theorem wopen h a n : Statement (.wopen h a n) := by
  intro hw r
  simp only [WellFormed, wellFormed, decide_eq_true_eq] at hw
  have hg := hw
  refine decodeWords_one r (by simp [isLongWord]) (fun _ => ?_)
  simp only [decode, hdr_word0, hdr_wordJ, hdr_wordK, hdr_wordY, hdr_wordF, if_neg hg]
  simp [decEngine, allowed, unusedZero]
theorem wopenC h n : Statement (.wopenC h n) := by
  intro hw r
  simp only [WellFormed, wellFormed, decide_eq_true_eq] at hw
  have hg := hw
  refine decodeWords_one r (by simp [isLongWord]) (fun _ => ?_)
  simp only [decode, hdr_word0, hdr_wordJ, hdr_wordK, hdr_wordY, hdr_wordF, if_neg hg]
  simp [decEngine, allowed, unusedZero]
theorem binit h a i : Statement (.binit h a i) := by
  intro hw r
  simp only [WellFormed, wellFormed, decide_eq_true_eq] at hw
  have hg := hw
  refine decodeWords_one r (by simp [isLongWord]) (fun _ => ?_)
  simp only [decode, hdr_word0, hdr_wordJ, hdr_wordK, hdr_wordY, hdr_wordF, if_neg hg]
  simp [decEngine, allowed, unusedZero]
theorem barr h d i : Statement (.barr h d i) := by
  intro hw r
  simp only [WellFormed, wellFormed, decide_eq_true_eq] at hw
  have hg := hw
  refine decodeWords_one r (by simp [isLongWord]) (fun _ => ?_)
  simp only [decode, hdr_word0, hdr_wordJ, hdr_wordK, hdr_wordY, hdr_wordF, if_neg hg]
  simp [decEngine, allowed, unusedZero]
theorem barrE h i : Statement (.barrE h i) := by
  intro hw r
  simp only [WellFormed, wellFormed, decide_eq_true_eq] at hw
  have hg := hw
  refine decodeWords_one r (by simp [isLongWord]) (fun _ => ?_)
  simp only [decode, hdr_word0, hdr_wordJ, hdr_wordK, hdr_wordY, hdr_wordF, if_neg hg]
  simp [decEngine, allowed, unusedZero]
theorem barrP h d i : Statement (.barrP h d i) := by
  intro hw r
  simp only [WellFormed, wellFormed, decide_eq_true_eq] at hw
  have hg := hw
  refine decodeWords_one r (by simp [isLongWord]) (fun _ => ?_)
  simp only [decode, hdr_word0, hdr_wordJ, hdr_wordK, hdr_wordY, hdr_wordF, if_neg hg]
  simp [decEngine, allowed, unusedZero]
theorem bwait h d a i : Statement (.bwait h d a i) := by
  intro hw r
  simp only [WellFormed, wellFormed, decide_eq_true_eq] at hw
  have hg := hw
  refine decodeWords_one r (by simp [isLongWord]) (fun _ => ?_)
  simp only [decode, hdr_word0, hdr_wordJ, hdr_wordK, hdr_wordY, hdr_wordF, if_neg hg]
  simp [decEngine, allowed, unusedZero]
theorem send h d a b x : Statement (.send h d a b x) := by
  intro hw r
  simp only [WellFormed, wellFormed, decide_eq_true_eq] at hw
  have hg := hw
  refine decodeWords_one r (by simp [isLongWord]) (fun _ => ?_)
  simp only [decode, hdr_word0, hdr_wordJ, hdr_wordK, hdr_wordY, hdr_wordF, if_neg hg]
  simp [decEngine, allowed, unusedZero]
theorem ratom h d a cls x : Statement (.ratom h d a cls x) := by
  intro hw r
  simp only [WellFormed, wellFormed, decide_eq_true_eq] at hw
  have hg := hw
  refine decodeWords_one r (by simp [isLongWord]) (fun _ => ?_)
  simp only [decode, hdr_word0, hdr_wordJ, hdr_wordK, hdr_wordY, hdr_wordF, if_neg hg]
  simp [decEngine, allowed, unusedZero]
theorem clmask h d a x : Statement (.clmask h d a x) := by
  intro hw r
  simp only [WellFormed, wellFormed, decide_eq_true_eq] at hw
  obtain ⟨hg, hw⟩ := hw
  simp only [ne_eq, BitVec.ofNat_eq_ofNat] at hw
  refine decodeWords_one r (by simp [isLongWord]) (fun _ => ?_)
  simp only [decode, hdr_word0, hdr_wordJ, hdr_wordK, hdr_wordY, hdr_wordF, if_neg hg]
  simp [decEngine, allowed, unusedZero, hw]
theorem lrel h n : Statement (.lrel h n) := by
  intro hw r
  simp only [WellFormed, wellFormed, decide_eq_true_eq] at hw
  have hg := hw
  refine decodeWords_one r (by simp [isLongWord]) (fun _ => ?_)
  simp only [decode, hdr_word0, hdr_wordJ, hdr_wordK, hdr_wordY, hdr_wordF, if_neg hg]
  simp [decEngine, allowed, unusedZero]
theorem lrelR h a : Statement (.lrelR h a) := by
  intro hw r
  simp only [WellFormed, wellFormed, decide_eq_true_eq] at hw
  have hg := hw
  refine decodeWords_one r (by simp [isLongWord]) (fun _ => ?_)
  simp only [decode, hdr_word0, hdr_wordJ, hdr_wordK, hdr_wordY, hdr_wordF, if_neg hg]
  simp [decEngine, allowed, unusedZero]
theorem rdcon h d a b : Statement (.rdcon h d a b) := by
  intro hw r
  simp only [WellFormed, wellFormed, decide_eq_true_eq] at hw
  have hg := hw
  refine decodeWords_one r (by simp [isLongWord]) (fun _ => ?_)
  simp only [decode, hdr_word0, hdr_wordJ, hdr_wordK, hdr_wordY, hdr_wordF, if_neg hg]
  simp [decEngine, allowed, unusedZero]
theorem rdconE h d a : Statement (.rdconE h d a) := by
  intro hw r
  simp only [WellFormed, wellFormed, decide_eq_true_eq] at hw
  have hg := hw
  refine decodeWords_one r (by simp [isLongWord]) (fun _ => ?_)
  simp only [decode, hdr_word0, hdr_wordJ, hdr_wordK, hdr_wordY, hdr_wordF, if_neg hg]
  simp [decEngine, allowed, unusedZero]
theorem timeTnow h d : Statement (.timeTnow h d) := by
  intro hw r
  simp only [WellFormed, wellFormed, decide_eq_true_eq] at hw
  have hg := hw
  refine decodeWords_one r (by simp [isLongWord]) (fun _ => ?_)
  simp only [decode, hdr_word0, hdr_wordJ, hdr_wordK, hdr_wordY, hdr_wordF, if_neg hg]
  simp [decEngine, allowed, unusedZero]
theorem timeTgvt h d : Statement (.timeTgvt h d) := by
  intro hw r
  simp only [WellFormed, wellFormed, decide_eq_true_eq] at hw
  have hg := hw
  refine decodeWords_one r (by simp [isLongWord]) (fun _ => ?_)
  simp only [decode, hdr_word0, hdr_wordJ, hdr_wordK, hdr_wordY, hdr_wordF, if_neg hg]
  simp [decEngine, allowed, unusedZero]
theorem timeTdefer h d a b : Statement (.timeTdefer h d a b) := by
  intro hw r
  simp only [WellFormed, wellFormed, decide_eq_true_eq] at hw
  have hg := hw
  refine decodeWords_one r (by simp [isLongWord]) (fun _ => ?_)
  simp only [decode, hdr_word0, hdr_wordJ, hdr_wordK, hdr_wordY, hdr_wordF, if_neg hg]
  simp [decEngine, allowed, unusedZero]
theorem fence h kind x : Statement (.fence h kind x) := by
  intro hw r
  simp only [WellFormed, wellFormed, decide_eq_true_eq] at hw
  obtain ⟨hg, hw⟩ := hw
  simp only [ne_eq, BitVec.ofNat_eq_ofNat] at hw
  refine decodeWords_one r (by simp [isLongWord]) (fun _ => ?_)
  simp only [decode, hdr_word0, hdr_wordJ, hdr_wordK, hdr_wordY, hdr_wordF, if_neg hg]
  simp [decEngine, allowed, unusedZero, hw]
theorem movi h d x imm : Statement (.movi h d x imm) := by
  intro hw r
  simp only [WellFormed, wellFormed, decide_eq_true_eq] at hw
  obtain ⟨hg, hw⟩ := hw
  simp only [ne_eq, BitVec.ofNat_eq_ofNat] at hw
  refine decodeWords_two r (by simp [isLongWord]) ?_
  simp only [decode, hdr_word0, hdr_wordJ, hdr_wordK, hdr_wordY, hdr_wordF, if_neg hg]
  simp [decLong, allowed, unusedZero, hw]
theorem addi h d a x imm : Statement (.addi h d a x imm) := by
  intro hw r
  simp only [WellFormed, wellFormed, decide_eq_true_eq] at hw
  obtain ⟨hg, hw⟩ := hw
  simp only [ne_eq, BitVec.ofNat_eq_ofNat] at hw
  refine decodeWords_two r (by simp [isLongWord]) ?_
  simp only [decode, hdr_word0, hdr_wordJ, hdr_wordK, hdr_wordY, hdr_wordF, if_neg hg]
  simp [decLong, allowed, unusedZero, hw]
theorem andi h d a x imm : Statement (.andi h d a x imm) := by
  intro hw r
  simp only [WellFormed, wellFormed, decide_eq_true_eq] at hw
  obtain ⟨hg, hw⟩ := hw
  simp only [ne_eq, BitVec.ofNat_eq_ofNat] at hw
  refine decodeWords_two r (by simp [isLongWord]) ?_
  simp only [decode, hdr_word0, hdr_wordJ, hdr_wordK, hdr_wordY, hdr_wordF, if_neg hg]
  simp [decLong, allowed, unusedZero, hw]
theorem ori h d a x imm : Statement (.ori h d a x imm) := by
  intro hw r
  simp only [WellFormed, wellFormed, decide_eq_true_eq] at hw
  obtain ⟨hg, hw⟩ := hw
  simp only [ne_eq, BitVec.ofNat_eq_ofNat] at hw
  refine decodeWords_two r (by simp [isLongWord]) ?_
  simp only [decode, hdr_word0, hdr_wordJ, hdr_wordK, hdr_wordY, hdr_wordF, if_neg hg]
  simp [decLong, allowed, unusedZero, hw]
theorem bfx h d a x lsb wm1 : Statement (.bfx h d a x lsb wm1) := by
  intro hw r
  simp only [WellFormed, wellFormed, decide_eq_true_eq] at hw
  obtain ⟨hg, hw⟩ := hw
  simp only [ne_eq, BitVec.ofNat_eq_ofNat] at hw
  refine decodeWords_two r (by simp [isLongWord]) ?_
  simp only [decode, hdr_word0, hdr_wordJ, hdr_wordK, hdr_wordY, hdr_wordF, if_neg hg]
  simp [decLong, allowed, unusedZero, hw]
theorem bfi h d a lsb wm1 : Statement (.bfi h d a lsb wm1) := by
  intro hw r
  simp only [WellFormed, wellFormed, decide_eq_true_eq] at hw
  have hg := hw
  refine decodeWords_two r (by simp [isLongWord]) ?_
  simp only [decode, hdr_word0, hdr_wordJ, hdr_wordK, hdr_wordY, hdr_wordF, if_neg hg]
  simp [decLong, allowed, unusedZero]
theorem ldL h d a sgn x imm : Statement (.ldL h d a sgn x imm) := by
  intro hw r
  simp only [WellFormed, wellFormed, decide_eq_true_eq] at hw
  obtain ⟨hg, hw⟩ := hw
  simp only [ne_eq, BitVec.ofNat_eq_ofNat] at hw
  refine decodeWords_two r (by simp [isLongWord]) ?_
  simp only [decode, hdr_word0, hdr_wordJ, hdr_wordK, hdr_wordY, hdr_wordF, if_neg hg]
  simp [decLong, allowed, unusedZero, hw]
theorem stL h d a x imm : Statement (.stL h d a x imm) := by
  intro hw r
  simp only [WellFormed, wellFormed, decide_eq_true_eq] at hw
  have hg := hw
  refine decodeWords_two r (by simp [isLongWord]) ?_
  simp only [decode, hdr_word0, hdr_wordJ, hdr_wordK, hdr_wordY, hdr_wordF, if_neg hg]
  simp [decLong, allowed, unusedZero]
theorem mmaL h t a b x steps skip mbase : Statement (.mmaL h t a b x steps skip mbase) := by
  intro hw r
  simp only [WellFormed, wellFormed, decide_eq_true_eq] at hw
  obtain ⟨hg, hw⟩ := hw
  simp only [ne_eq, BitVec.ofNat_eq_ofNat] at hw
  refine decodeWords_two r (by simp [isLongWord]) ?_
  simp only [decode, hdr_word0, hdr_wordJ, hdr_wordK, hdr_wordY, hdr_wordF, if_neg hg]
  simp [decLong, allowed, unusedZero, hw]
theorem mmrL h t a b x steps : Statement (.mmrL h t a b x steps) := by
  intro hw r
  simp only [WellFormed, wellFormed, decide_eq_true_eq] at hw
  have hg := hw
  refine decodeWords_two r (by simp [isLongWord]) ?_
  simp only [decode, hdr_word0, hdr_wordJ, hdr_wordK, hdr_wordY, hdr_wordF, if_neg hg]
  simp [decLong, allowed, unusedZero]
theorem sbindL h d doff start : Statement (.sbindL h d doff start) := by
  intro hw r
  simp only [WellFormed, wellFormed, decide_eq_true_eq] at hw
  have hg := hw
  refine decodeWords_two r (by simp [isLongWord]) ?_
  simp only [decode, hdr_word0, hdr_wordJ, hdr_wordK, hdr_wordY, hdr_wordF, if_neg hg]
  simp [decLong, allowed, unusedZero]
theorem cgetL h d a b x rows gstr : Statement (.cgetL h d a b x rows gstr) := by
  intro hw r
  simp only [WellFormed, wellFormed, decide_eq_true_eq] at hw
  obtain ⟨hg, hw⟩ := hw
  simp only [ne_eq, BitVec.ofNat_eq_ofNat] at hw
  refine decodeWords_two r (by simp [isLongWord]) ?_
  simp only [decode, hdr_word0, hdr_wordJ, hdr_wordK, hdr_wordY, hdr_wordF, if_neg hg]
  simp [decLong, allowed, unusedZero, hw]
theorem cputL h d a b x rows gstr : Statement (.cputL h d a b x rows gstr) := by
  intro hw r
  simp only [WellFormed, wellFormed, decide_eq_true_eq] at hw
  obtain ⟨hg, hw⟩ := hw
  simp only [ne_eq, BitVec.ofNat_eq_ofNat] at hw
  refine decodeWords_two r (by simp [isLongWord]) ?_
  simp only [decode, hdr_word0, hdr_wordJ, hdr_wordK, hdr_wordY, hdr_wordF, if_neg hg]
  simp [decLong, allowed, unusedZero, hw]
theorem sendL h a b x name chan cls : Statement (.sendL h a b x name chan cls) := by
  intro hw r
  simp only [WellFormed, wellFormed, decide_eq_true_eq] at hw
  have hg := hw
  refine decodeWords_two r (by simp [isLongWord]) ?_
  simp only [decode, hdr_word0, hdr_wordJ, hdr_wordK, hdr_wordY, hdr_wordF, if_neg hg]
  simp [decLong, allowed, unusedZero]
theorem ratomL h d a opc cls post : Statement (.ratomL h d a opc cls post) := by
  intro hw r
  simp only [WellFormed, wellFormed, decide_eq_true_eq] at hw
  have hg := hw
  refine decodeWords_two r (by simp [isLongWord]) ?_
  simp only [decode, hdr_word0, hdr_wordJ, hdr_wordK, hdr_wordY, hdr_wordF, if_neg hg]
  simp [decLong, allowed, unusedZero]
theorem rdconL h d a x loff wm1 : Statement (.rdconL h d a x loff wm1) := by
  intro hw r
  simp only [WellFormed, wellFormed, decide_eq_true_eq] at hw
  obtain ⟨hg, hw⟩ := hw
  simp only [ne_eq, BitVec.ofNat_eq_ofNat] at hw
  refine decodeWords_two r (by simp [isLongWord]) ?_
  simp only [decode, hdr_word0, hdr_wordJ, hdr_wordK, hdr_wordY, hdr_wordF, if_neg hg]
  simp [decLong, allowed, unusedZero, hw]
theorem longLatencyWriteback c t k : Statement (.longLatencyWriteback c t k) := fun h => absurd h (by simp [WellFormed, wellFormed])
theorem leadFault c : Statement (.leadFault c) := fun h => absurd h (by simp [WellFormed, wellFormed])
theorem bcastDelivery c : Statement (.bcastDelivery c) := fun h => absurd h (by simp [WellFormed, wellFormed])
theorem joinmComplete c : Statement (.joinmComplete c) := fun h => absurd h (by simp [WellFormed, wellFormed])
theorem messageArrival k : Statement (.messageArrival k) := fun h => absurd h (by simp [WellFormed, wellFormed])
theorem spillQueueBind c : Statement (.spillQueueBind c) := fun h => absurd h (by simp [WellFormed, wellFormed])
theorem ingressToSpill c : Statement (.ingressToSpill c) := fun h => absurd h (by simp [WellFormed, wellFormed])
theorem latchedEventEntry c : Statement (.latchedEventEntry c) := fun h => absurd h (by simp [WellFormed, wellFormed])
theorem depositComplete c t : Statement (.depositComplete c t) := fun h => absurd h (by simp [WellFormed, wellFormed])
theorem routerForward k : Statement (.routerForward k) := fun h => absurd h (by simp [WellFormed, wellFormed])
theorem nameTableAgeing die : Statement (.nameTableAgeing die) := fun h => absurd h (by simp [WellFormed, wellFormed])
theorem rotationNotice die u : Statement (.rotationNotice die u) := fun h => absurd h (by simp [WellFormed, wellFormed])
theorem egressInject c : Statement (.egressInject c) := fun h => absurd h (by simp [WellFormed, wellFormed])
theorem acknowledgement k : Statement (.acknowledgement k) := fun h => absurd h (by simp [WellFormed, wellFormed])
theorem remoteAtomicPerform k : Statement (.remoteAtomicPerform k) := fun h => absurd h (by simp [WellFormed, wellFormed])
theorem atomicResponse k : Statement (.atomicResponse k) := fun h => absurd h (by simp [WellFormed, wellFormed])
theorem torusExchangeArrival k : Statement (.torusExchangeArrival k) := fun h => absurd h (by simp [WellFormed, wellFormed])
theorem matrixExecute c : Statement (.matrixExecute c) := fun h => absurd h (by simp [WellFormed, wellFormed])
theorem leaseGrant c : Statement (.leaseGrant c) := fun h => absurd h (by simp [WellFormed, wellFormed])
theorem reductionOutputDrain c : Statement (.reductionOutputDrain c) := fun h => absurd h (by simp [WellFormed, wellFormed])
theorem contributionArrival k : Statement (.contributionArrival k) := fun h => absurd h (by simp [WellFormed, wellFormed])
theorem slotTimeout c tag : Statement (.slotTimeout c tag) := fun h => absurd h (by simp [WellFormed, wellFormed])
theorem creditReturn k : Statement (.creditReturn k) := fun h => absurd h (by simp [WellFormed, wellFormed])
theorem resultDelivery k : Statement (.resultDelivery k) := fun h => absurd h (by simp [WellFormed, wellFormed])
theorem copyTransfer c e : Statement (.copyTransfer c e) := fun h => absurd h (by simp [WellFormed, wellFormed])
theorem copyCompletionWrite c e : Statement (.copyCompletionWrite c e) := fun h => absurd h (by simp [WellFormed, wellFormed])
theorem copyError c e : Statement (.copyError c e) := fun h => absurd h (by simp [WellFormed, wellFormed])
theorem engineArrivalFire c r : Statement (.engineArrivalFire c r) := fun h => absurd h (by simp [WellFormed, wellFormed])
theorem streamRefill c n : Statement (.streamRefill c n) := fun h => absurd h (by simp [WellFormed, wellFormed])
theorem streamWriteOut c n : Statement (.streamWriteOut c n) := fun h => absurd h (by simp [WellFormed, wellFormed])
theorem pageWalkComplete k : Statement (.pageWalkComplete k) := fun h => absurd h (by simp [WellFormed, wellFormed])
theorem shootdown part lo hi : Statement (.shootdown part lo hi) := fun h => absurd h (by simp [WellFormed, wellFormed])
theorem shootdownAcknowledge die rtu : Statement (.shootdownAcknowledge die rtu) := fun h => absurd h (by simp [WellFormed, wellFormed])
theorem circuitSourceRead c id : Statement (.circuitSourceRead c id) := fun h => absurd h (by simp [WellFormed, wellFormed])
theorem circuitLand k : Statement (.circuitLand k) := fun h => absurd h (by simp [WellFormed, wellFormed])
theorem circuitCredit k : Statement (.circuitCredit k) := fun h => absurd h (by simp [WellFormed, wellFormed])
theorem blockSend part key : Statement (.blockSend part key) := fun h => absurd h (by simp [WellFormed, wellFormed])
theorem lightFrameLanding c n i good : Statement (.lightFrameLanding c n i good) := fun h => absurd h (by simp [WellFormed, wellFormed])
theorem releaseReport c n : Statement (.releaseReport c n) := fun h => absurd h (by simp [WellFormed, wellFormed])
theorem releaseCombine k : Statement (.releaseCombine k) := fun h => absurd h (by simp [WellFormed, wellFormed])
theorem sourceCountReceipt k : Statement (.sourceCountReceipt k) := fun h => absurd h (by simp [WellFormed, wellFormed])
theorem ringRetune part i : Statement (.ringRetune part i) := fun h => absurd h (by simp [WellFormed, wellFormed])
theorem roundEndToken c : Statement (.roundEndToken c) := fun h => absurd h (by simp [WellFormed, wellFormed])
theorem heldSwapApply c : Statement (.heldSwapApply c) := fun h => absurd h (by simp [WellFormed, wellFormed])
theorem bankClear c : Statement (.bankClear c) := fun h => absurd h (by simp [WellFormed, wellFormed])
theorem startCommand part : Statement (.startCommand part) := fun h => absurd h (by simp [WellFormed, wellFormed])
theorem completionWaveStart part : Statement (.completionWaveStart part) := fun h => absurd h (by simp [WellFormed, wellFormed])
theorem completionWaveAnswer c : Statement (.completionWaveAnswer c) := fun h => absurd h (by simp [WellFormed, wellFormed])
theorem completionWaveResult part : Statement (.completionWaveResult part) := fun h => absurd h (by simp [WellFormed, wellFormed])
theorem timedMessageBind c : Statement (.timedMessageBind c) := fun h => absurd h (by simp [WellFormed, wellFormed])
theorem timedQueueEntry c : Statement (.timedQueueEntry c) := fun h => absurd h (by simp [WellFormed, wellFormed])
theorem antiMessageArrival k : Statement (.antiMessageArrival k) := fun h => absurd h (by simp [WellFormed, wellFormed])
theorem gvtInterval part : Statement (.gvtInterval part) := fun h => absurd h (by simp [WellFormed, wellFormed])
theorem gvtRequest c : Statement (.gvtRequest c) := fun h => absurd h (by simp [WellFormed, wellFormed])
theorem gvtStart c : Statement (.gvtStart c) := fun h => absurd h (by simp [WellFormed, wellFormed])
theorem gvtPassResult part : Statement (.gvtPassResult part) := fun h => absurd h (by simp [WellFormed, wellFormed])
theorem gvtCommit c : Statement (.gvtCommit c) := fun h => absurd h (by simp [WellFormed, wellFormed])
theorem causalStamp k : Statement (.causalStamp k) := fun h => absurd h (by simp [WellFormed, wellFormed])
theorem causalArrival k : Statement (.causalArrival k) := fun h => absurd h (by simp [WellFormed, wellFormed])
theorem causalRelease t k : Statement (.causalRelease t k) := fun h => absurd h (by simp [WellFormed, wellFormed])
theorem causalApplied t k : Statement (.causalApplied t k) := fun h => absurd h (by simp [WellFormed, wellFormed])
theorem causalQuery t k e : Statement (.causalQuery t k e) := fun h => absurd h (by simp [WellFormed, wellFormed])
theorem causalNotice k : Statement (.causalNotice k) := fun h => absurd h (by simp [WellFormed, wellFormed])
theorem holdTimeout t : Statement (.holdTimeout t) := fun h => absurd h (by simp [WellFormed, wellFormed])
theorem tumblerInterval die u t0 t1 t2 t3 : Statement (.tumblerInterval die u t0 t1 t2 t3) := fun h => absurd h (by simp [WellFormed, wellFormed])
theorem rotationAbandon die u : Statement (.rotationAbandon die u) := fun h => absurd h (by simp [WellFormed, wellFormed])
theorem rotationMoveDone die u : Statement (.rotationMoveDone die u) := fun h => absurd h (by simp [WellFormed, wellFormed])
theorem drowsyEntry c : Statement (.drowsyEntry c) := fun h => absurd h (by simp [WellFormed, wellFormed])
theorem drowsyWake c : Statement (.drowsyWake c) := fun h => absurd h (by simp [WellFormed, wellFormed])
theorem islandStateChange die east target : Statement (.islandStateChange die east target) := fun h => absurd h (by simp [WellFormed, wellFormed])
theorem powerMeasure part excess : Statement (.powerMeasure part excess) := fun h => absurd h (by simp [WellFormed, wellFormed])
theorem throttleStep part excess : Statement (.throttleStep part excess) := fun h => absurd h (by simp [WellFormed, wellFormed])
theorem pad w0 : Statement (.pad w0) := fun h => absurd h (by simp [WellFormed, wellFormed])
theorem span w0 w1 : Statement (.span w0 w1) := fun h => absurd h (by simp [WellFormed, wellFormed])
theorem select w0 : Statement (.select w0) := fun h => absurd h (by simp [WellFormed, wellFormed])
theorem field w0 w1 : Statement (.field w0 w1) := fun h => absurd h (by simp [WellFormed, wellFormed])
theorem burst w0 ws : Statement (.burst w0 ws) := fun h => absurd h (by simp [WellFormed, wellFormed])
theorem sealRec w0 : Statement (.sealRec w0) := fun h => absurd h (by simp [WellFormed, wellFormed])
theorem globalKeyring w0 ws : Statement (.globalKeyring w0 ws) := fun h => absurd h (by simp [WellFormed, wellFormed])
theorem globalTree w0 ws : Statement (.globalTree w0 ws) := fun h => absurd h (by simp [WellFormed, wellFormed])
theorem globalBucket w0 ws : Statement (.globalBucket w0 ws) := fun h => absurd h (by simp [WellFormed, wellFormed])
theorem globalCircuit w0 ws : Statement (.globalCircuit w0 ws) := fun h => absurd h (by simp [WellFormed, wellFormed])
theorem globalStreamPlan w0 ws : Statement (.globalStreamPlan w0 ws) := fun h => absurd h (by simp [WellFormed, wellFormed])
theorem imageEnd w0 : Statement (.imageEnd w0) := fun h => absurd h (by simp [WellFormed, wellFormed])
theorem haspAcq port : Statement (.haspAcq port) := fun h => absurd h (by simp [WellFormed, wellFormed])
theorem haspRel port : Statement (.haspRel port) := fun h => absurd h (by simp [WellFormed, wellFormed])
theorem haspLinkDown  : Statement (.haspLinkDown) := fun h => absurd h (by simp [WellFormed, wellFormed])
theorem launch port : Statement (.launch port) := fun h => absurd h (by simp [WellFormed, wellFormed])
theorem next port : Statement (.next port) := fun h => absurd h (by simp [WellFormed, wellFormed])
theorem round port : Statement (.round port) := fun h => absurd h (by simp [WellFormed, wellFormed])
theorem preempt port : Statement (.preempt port) := fun h => absurd h (by simp [WellFormed, wellFormed])
theorem preemptDrainBound part : Statement (.preemptDrainBound part) := fun h => absurd h (by simp [WellFormed, wellFormed])
theorem restore port : Statement (.restore port) := fun h => absurd h (by simp [WellFormed, wellFormed])
theorem release port : Statement (.release port) := fun h => absurd h (by simp [WellFormed, wellFormed])
theorem power port : Statement (.power port) := fun h => absurd h (by simp [WellFormed, wellFormed])
theorem gateway port : Statement (.gateway port) := fun h => absurd h (by simp [WellFormed, wellFormed])
theorem hostToken port data whole : Statement (.hostToken port data whole) := fun h => absurd h (by simp [WellFormed, wellFormed])
theorem bar2Write port off bytes : Statement (.bar2Write port off bytes) := fun h => absurd h (by simp [WellFormed, wellFormed])
theorem bar2Read port off len : Statement (.bar2Read port off len) := fun h => absurd h (by simp [WellFormed, wellFormed])
theorem hostRegisterWrite port off bytes : Statement (.hostRegisterWrite port off bytes) := fun h => absurd h (by simp [WellFormed, wellFormed])
theorem powerUp failed : Statement (.powerUp failed) := fun h => absurd h (by simp [WellFormed, wellFormed])
theorem deltaRecordAppend r : Statement (.deltaRecordAppend r) := fun h => absurd h (by simp [WellFormed, wellFormed])
theorem managementRead what : Statement (.managementRead what) := fun h => absurd h (by simp [WellFormed, wellFormed])
theorem managementClearHasp  : Statement (.managementClearHasp) := fun h => absurd h (by simp [WellFormed, wellFormed])
theorem managementFirmwareUpdate v : Statement (.managementFirmwareUpdate v) := fun h => absurd h (by simp [WellFormed, wellFormed])
theorem controllerWatchdog  : Statement (.controllerWatchdog) := fun h => absurd h (by simp [WellFormed, wellFormed])
theorem dzihamRequest m req : Statement (.dzihamRequest m req) := fun h => absurd h (by simp [WellFormed, wellFormed])
theorem panelGatewayExchange link remote : Statement (.panelGatewayExchange link remote) := fun h => absurd h (by simp [WellFormed, wellFormed])
theorem causalQueryAnswer k : Statement (.causalQueryAnswer k) := fun h => absurd h (by simp [WellFormed, wellFormed])
theorem causalAcknowledgement k : Statement (.causalAcknowledgement k) := fun h => absurd h (by simp [WellFormed, wellFormed])
theorem weightCacheInvalidate die lo hi : Statement (.weightCacheInvalidate die lo hi) := fun h => absurd h (by simp [WellFormed, wellFormed])
theorem pageTableUpdate part off val : Statement (.pageTableUpdate part off val) := fun h => absurd h (by simp [WellFormed, wellFormed])

end RoundTrip

end Sys2Proof.Laws
end

