-- ==== Sys2Proof/Safety.lean ====
section
/-! DEFINITION. What a safe run is, in the words that statements use: no step of it stops. -/

namespace Sys2Proof.Machine

/-- The next state of an answer. -/
def nextOf : Answer → Option State
  | .next s => some s
  | .fault _ => none
  | .refused _ => none

/-- A state whose next step goes on. -/
def Goes (s : State) : Prop := ∃ t, step s = .next t

end Sys2Proof.Machine
end

