-- ==== Sys2Proof/Tests/Slice0.lean ====
section
/-! SUPPORT. Tests and witnesses: ill-formed terms that WellFormed refuses; words written out from the encodings of the spec, and the
instructions they stand for; single steps whose results are worked out by hand from the entries; and, for each statement, states
that meet its premises, clause by clause. -/

namespace Sys2Proof.Tests

open Machine Stated

/-- A header without guard and wait marker. -/
def hd : Hdr := ⟨false, false, 0⟩
/-- A thread at work. -/
def busyThread : Thread := { st := .running, pc := 8 }
/-- The partition of the lab: die 0, with a load. -/
def labPart : Part := { port := .a, dies := [0], loaded := true, paused := false }
/-- A booted panel with one live die, and its cell 0 in a round, T0 about to issue. -/
def lab : State :=
  { booted := true
    dieMap := [0]
    parts := [(0, labPart)]
    portA := { busy := false }
    portB := { busy := false }
    cell :=
      { thr := #v[busyThread, {}, {}, {}, {}, {}, {}, {}]
        plane := { inRound := true, loaded := true } } }
/-- The lab with its thread changed. -/
def labT (f : Thread → Thread) : State := lab.modMe f
/-- The lab with its cell changed. -/
def labC (f : Cell → Cell) : State := modFocus lab f

/-- The lab with a micro-thread, T1, about to issue. -/
def labM : State := labC fun c => { c with last := 1, thr := c.thr.set 1 busyThread }
/-- A loop level over the words from `a` to `b`. -/
def level (a b : BitVec 10) (n : W32) : Loop := ⟨true, a, b, n⟩
/-- A thread with a value in one register. -/
def withG (i : Fin 32) (v : Nat) (x : Thread) : Thread := { x with g := x.g.set i.val (BitVec.ofNat 256 v) i.isLt }

/-! ### Witnesses: each premise is met, together with the others of its clause -/

/-- ScalarResults. -/
theorem wit_scalar : ∃ f, scalarForm (.add hd 1 2 3 0) = some f ∧ f.Ready lab ∧ Follows lab f.len 9 {} {} :=
  ⟨_, rfl, by unfold Form.Ready; decide, by unfold Follows; decide⟩
theorem wit_scalar_long : ∃ f, scalarForm (.bfx hd 0x2E 0x2E 0 63 0) = some f ∧ f.Ready lab ∧ Follows lab f.len 10 {} {} :=
  ⟨_, rfl, by unfold Form.Ready; decide, by unfold Follows; decide⟩
/-- ScalarRulesInFull, CompareRulesInFull. -/
theorem wit_rules : ¬(hd.gn = true ∧ hd.gp = 0) ∧ Passes lab hd ∧ Follows lab 1 9 {} {} ∧ dstOk 1 = true ∧ srcOk 2 = true ∧
    lab.anyBound [1, 2] = false ∧ lab.anyBound [3] = false ∧ (63 : BitVec 6).toNat = 63 ∧ lab.me.wait = .none ∧
    (regsI 2 3 0).all srcOk = true ∧ lab.anyBound (regsI 2 3 0) = false ∧ lab.anyBound (regsI 2 0x3F 1) = false := by
  unfold Passes Follows; decide
/-- BitOperations: the field at either end. -/
theorem wit_bits : Passes lab hd ∧ dstOk 1 = true ∧ srcOk 2 = true ∧ lab.anyBound [1, 2] = false ∧ Follows lab 1 9 {} {} ∧
    Follows lab 2 10 {} {} ∧ (0 : BitVec 6).toNat + (63 : BitVec 6).toNat + 1 ≤ 64 ∧ (63 : BitVec 6).toNat + (0 : BitVec 6).toNat + 1 ≤ 64 := by
  unfold Passes Follows; decide
/-- PredicateResults. -/
theorem wit_predicates : Passes lab hd ∧ Follows lab 1 9 {} {} ∧ (7 : BitVec 3) ≠ 0 ∧ (2 : BitVec 2) ≠ 3 ∧
    (regsI 2 3 2).all srcOk = true ∧ lab.anyBound (regsI 2 3 2) = false ∧ lab.anyBound [2] = false ∧ srcOk 0x3F = true := by
  unfold Passes Follows; decide
/-- Branches: targets 0 and 1023, by offset and by register. -/
theorem wit_branches : Passes lab hd ∧ lab.inBlock = false ∧ ((0 : BitVec 10).toNat : Int) = lab.me.pc.toNat + (-8 : BitVec 18).toInt ∧
    ((1023 : BitVec 10).toNat : Int) = lab.me.pc.toNat + (1015 : BitVec 18).toInt ∧ srcOk 2 = true ∧ lab.anyBound [2] = false ∧
    (lane lab 2).toNat = (0 : BitVec 10).toNat ∧ (lane (labT (withG 2 1023)) 2).toNat = (1023 : BitVec 10).toNat ∧
    Passes (labT (withG 2 1023)) hd := by
  unfold Passes; decide
/-- Loops: a body of 63 words, a count, and none; level 1 within level 0, and beside a level 0 at rest. -/
theorem wit_loops : Passes (labT (withG 2 3)) hd ∧ (labT (withG 2 3)).me.inb = false ∧ srcOk 2 = true ∧
    (labT (withG 2 3)).anyBound [2] = false ∧ (63 : BitVec 6) ≠ 0 ∧ (labT (withG 2 3)).me.pc.toNat + (63 : BitVec 6).toNat ≤ 1023 ∧
    (lane (labT (withG 2 3)) 2).toNat % 2 ^ 32 ≠ 0 ∧ (labT (withG 2 3)).me.lp0.active = false ∧ (lane lab 2).toNat % 2 ^ 32 = 0 ∧
    lab.me.pc.toNat + (63 : BitVec 6).toNat < 1023 ∧
    (let s := labT fun x => { withG 2 3 x with lp0 := level 4 71 2 }
     Passes s hd ∧ s.me.inb = false ∧ s.anyBound [2] = false ∧ (lane s 2).toNat % 2 ^ 32 ≠ 0 ∧ s.me.lp0.active = true ∧
       s.me.pc.toNat + (63 : BitVec 6).toNat ≤ s.me.lp0.stop.toNat) := by
  unfold Passes; decide
/-- FallingThrough: each of its ends. -/
theorem wit_falling : Passes lab hd ∧ Follows lab 1 9 {} {} ∧
    (let s := labT fun x => { x with pc := 1022 }
     Passes s hd ∧ s.me.inb = false ∧ s.me.lp0.active = false ∧ s.me.lp1.active = false ∧ s.me.pc.toNat < 1023) ∧
    (let s := labT fun x => { x with lp1 := level 8 8 2 }
     Passes s hd ∧ s.me.inb = false ∧ s.me.lp1.active = true ∧ s.me.lp1.stop = s.me.pc ∧ 1 < s.me.lp1.count.toNat) ∧
    (let s := labT fun x => { x with lp1 := level 8 8 1 }
     Passes s hd ∧ s.me.inb = false ∧ s.me.lp1.active = true ∧ s.me.lp1.stop = s.me.pc ∧ s.me.lp1.count.toNat ≤ 1 ∧
       s.me.lp0.active = false ∧ s.me.pc.toNat < 1023) ∧
    (let s := labT fun x => { x with inb := true, blkAt := 1, blkLen := 7 }
     Passes s hd ∧ s.me.inb = true ∧ s.me.pc.toNat = s.me.blkAt.toNat + s.me.blkLen.toNat ∧ s.me.outs = [] ∧ s.me.deferred = none) := by
  unfold Passes Follows; decide
/-- A result that a thread waits for. -/
def pending : LongRes := { d := 5, bits := 64, val := 7, ready := true, kind := .local_ }
/-- ThreadsEnd. -/
theorem wit_ends : Passes lab hd ∧ lab.inHandler = false ∧ lab.me.outs = [] ∧ lab.me.deferred = none ∧
    (let s := labM.modMe fun x => { x with inh := true }
     Passes s hd ∧ s.inHandler = true ∧ s.me.outs = [] ∧ s.me.deferred = none) ∧
    (let s := labT fun x => { x with outs := [pending] }
     Passes s hd ∧ s.inHandler = false ∧ s.me.outs ≠ []) ∧
    (let s := labM.modMe fun x => { x with inh := true, outs := [pending] }
     Passes s hd ∧ s.inHandler = true ∧ s.me.outs ≠ []) := by
  unfold Passes; decide
/-- BlockControl. -/
theorem wit_blocks : Passes lab hd ∧ lab.cell.last = 0 ∧ (127 : BitVec 7) ≠ 0 ∧ (255 : BitVec 8) ≠ 0 ∧
    lab.me.pc.toNat + (255 : BitVec 8).toNat + (7 : BitVec 3).toNat ≤ 1023 ∧
    (∀ u : TIdx, inMask 127 u = true → (lab.cell.th u).st ≠ .faulted) ∧ dstOk 1 = true ∧ srcOk 2 = true ∧ lab.anyBound [1, 2] = false ∧
    (lane lab 2).setWidth 7 = (0 : BitVec 7) ∧ Follows lab 1 9 {} {} ∧
    (∀ u : TIdx, inMask 0 u = true → (lab.cell.th u).st = .free ∨ (lab.cell.th u).st = .stopped ∨ (lab.cell.th u).st = .faulted) := by
  unfold Passes Follows; decide
theorem wit_joins :
    let s := modFocus (labT (withG 2 127)) fun c => { c with thr := c.thr.set 1 busyThread }
    Passes s hd ∧ s.cell.last = 0 ∧ s.anyBound [1, 2] = false ∧ (lane s 2).setWidth 7 = (127 : BitVec 7) ∧ Follows s 1 9 {} {} ∧
      ∃ u : TIdx, inMask 127 u = true ∧ (s.cell.th u).st = .running := by
  unfold Passes Follows; decide
theorem wit_fetchb :
    let s := labM.modMe fun x => { withG 2 (1016 + 7 * 1024) x with inb := true, blkAt := 1, blkLen := 7 }
    Passes s hd ∧ s.cell.last ≠ 0 ∧ s.me.inb = true ∧ srcOk 2 = true ∧ s.anyBound [2] = false ∧
      s.me.pc.toNat = s.me.blkAt.toNat + s.me.blkLen.toNat ∧ (lane s 2).setWidth 10 = (1016 : BitVec 10) ∧
      (lane s 2).extractLsb' 10 3 = (7 : BitVec 3) ∧ (1016 : BitVec 10).toNat + (7 : BitVec 3).toNat ≤ 1023 := by
  unfold Passes; decide
/-- ThreadControl. -/
theorem wit_control :
    (let s := modFocus (labT (withG 2 7)) fun c => { c with thr := c.thr.set 7 { st := .faulted, fpc := 3, fcause := 0x8001 } }
     Passes s hd ∧ Follows s 1 9 {} {} ∧ s.cell.last = 0 ∧ srcOk 2 = true ∧ s.anyBound [2] = false ∧
       (lane s 2).toNat % 8 = (7 : TIdx).val ∧ (7 : TIdx) ≠ 0 ∧ s.cell.heldFault 7 = false ∧ (s.cell.th 7).st = .faulted ∧
       (s.cell.th 7).fcause.getLsbD 16 = false ∧ s.me.wait = .none ∧ (s.cell.th 7).st ≠ .free ∧ (s.cell.th 7).wait = .none ∧
       (s.cell.th 7).outs = [] ∧ s.cell.mx.queue = [] ∧ s.cell.mx.leaseQ = [] ∧ ∀ n : Fin 4, s.cell.eng.strm[n].bound = false) ∧
    (let s := labT (withG 2 1)
     Passes s hd ∧ Follows s 1 9 {} {} ∧ (lane s 2).toNat % 8 = (1 : TIdx).val ∧ s.cell.heldFault 1 = false ∧ (s.cell.th 1).st ≠ .faulted ∧
       (s.cell.th 1).st = .free) := by
  unfold Passes Follows; decide
/-- TrapsAreTaken: with a next word, at 1023 without one; from the lead, and with the debug flag. -/
theorem wit_traps : Passes lab hd ∧ srcOk 0x2E = true ∧ lab.anyBound [0x2E] = false ∧ lab.me.outs = [] ∧ lab.cell.holdsFault lab.cell.last = false ∧
    lab.cell.bcastAwaits lab.cell.last = false ∧ labM.cell.bcastAwaits labM.cell.last = false ∧ lab.noNextWord = false ∧ lab.debug = false ∧
    (let s := labT fun x => { x with pc := 1023 }
     Passes s hd ∧ s.me.outs = [] ∧ s.noNextWord = true ∧ s.cell.holdsFault s.cell.last = false) ∧
    (let s : State := { labM with parts := [(0, { labPart with debug := true })] }
     Passes s hd ∧ s.me.outs = [] ∧ s.cell.holdsFault s.cell.last = false ∧ s.debug = true) := by
  unfold Passes; decide
/-- FaultsAreTaken: at once, with a result outstanding, and held above GVT. -/
theorem wit_faults :
    let r := faultAt 0x02 8 5
    (lab.me.outs = [] ∧ lab.cell.holdsFault lab.cell.last = false ∧ r.cause ≠ 0x07 ∧ (r.cause = 0x09 → lab.debug = false)) ∧
    (labT fun x => { x with outs := [pending] }).me.outs ≠ [] ∧
    (let s := modFocus labM fun c => { c with tim := { c.tim with run := some { t := 1, p := {}, vrt := 1, unj := false } } }
     s.me.outs = [] ∧ s.cell.holdsFault s.cell.last = true) := by
  decide
/-- EffectiveFormats, MatrixFormats: with and without a prefix, its formats given and not given. -/
theorem wit_formats : ({} : Thread).pp = false ∧ (none : Option (BitVec 2)) = none ∧ ({ pp := true, pfx := 0x1E000 } : Thread).pp = true ∧
    ({ pfx := 0x1E000 } : Thread).pfx.toNat / 2 ^ 16 ≠ 15 ∧ ({ pfx := 0xFE000 } : Thread).pfx.toNat / 2 ^ 16 = 15 ∧
    ({ pfx := 0xFE000 } : Thread).pfx.toNat / 2 ^ 12 % 16 ≠ 15 ∧ ({ pfx := 0x1F000 } : Thread).pfx.toNat / 2 ^ 12 % 16 = 15 := by decide
/-- RoundsByTheModes: an exact magnitude; a tie. -/
theorem wit_rounds : (0 : Int) ≤ 0 ∧ (2 : Nat) = roundMag .rne false 3 0 (0 + ((0 : Nat) + 1)) := by decide
/-- VectorResults: an integer, a floating and a block format, one register or two. -/
theorem wit_vector : (∃ f, vectorForm lab (.vadd hd 1 2 3 1) = some f ∧ f.Ready lab) ∧
    (∃ f, vectorForm lab (.vbc hd 0x27 2 7 0) = some f ∧ f.Ready lab) ∧ Follows lab 1 9 {} {} :=
  ⟨⟨_, rfl, by unfold VForm.Ready; decide⟩, ⟨_, rfl, by unfold VForm.Ready; decide⟩, by unfold Follows; decide⟩
/-- An effective element format in the thread's format register. -/
def withFmt (v : BitVec 16) (x : Thread) : Thread := { x with fmt := v }
theorem wit_vector_int : let s := labT (withFmt 0x2E09)
    (∃ f, vectorForm s (.vsh hd 1 2 3 3) = some f ∧ f.Ready s) ∧ (∃ f, vectorForm s (.vadd hd 1 2 3 3) = some f ∧ f.Ready s) ∧
      (∃ f, vectorForm s (.vshuf hd 0x2E 2 3 1) = some f ∧ f.Ready s) ∧ Follows s 1 9 {} {} :=
  ⟨⟨_, rfl, by unfold VForm.Ready; decide⟩, ⟨_, rfl, by unfold VForm.Ready; decide⟩, ⟨_, rfl, by unfold VForm.Ready; decide⟩,
    by unfold Follows; decide⟩
/-- VectorReductions. -/
theorem wit_reductions : lab.me.guard hd = true ∧ lab.me.cuts = [] ∧ Follows lab 1 9 {} {} ∧ srcOk 2 = true ∧ srcOk 3 = true ∧ lab.anyBound [1, 2, 3] = false ∧
    dstOk 1 = true ∧ isFN lab.ef = true ∧ lab.ef ≠ 15 ∧ (7 : BitVec 6).toNat < 256 / fmtBits lab.ef ∧ lab.me.pp = false := by
  unfold Follows; decide
/-- RoundedResults: CVT from FP32 to FP16, to itself, and from FP4 to UI8; the last part of each. -/
theorem wit_rounded : dstOk 1 = true ∧ srcOk 2 = true ∧ lab.anyBound [1, 2] = false ∧ lab.me.guard hd = true ∧ lab.me.cuts = [] ∧ Follows lab 1 9 {} {} ∧
    isF lab.ef = true ∧ lab.ef.toNat ≤ 10 ∧ fmtBits lab.ef ≤ 4 * fmtBits 2 ∧ fmtBits 2 ≤ 4 * fmtBits lab.ef ∧
    (1 : BitVec 2).toNat < max (fmtBits lab.ef) (fmtBits 2) / min (fmtBits lab.ef) (fmtBits 2) ∧
    (0 : BitVec 2).toNat < max (fmtBits lab.ef) (fmtBits 0) / min (fmtBits lab.ef) (fmtBits 0) ∧ fmtBits lab.ef ≤ fmtBits 0 ∧
    fmtBits 2 < fmtBits lab.ef := by
  unfold Follows; decide
/-- BlockFormats: QBLK to the 8-bit and to the 4-bit block format, DQBLK from either. -/
theorem wit_block_formats :
    (let s := labT (withFmt 0x2EB0)
     s.me.guard hd = true ∧ s.me.cuts = [] ∧ Follows s 1 9 {} {} ∧ s.anyBound [1, 28, 0] = false ∧ dstOk 1 = true ∧ (0 : Spec).toNat < 32 ∧ (1 : Spec) ≠ 0 ∧
       isF s.ef = true ∧ (s.rf = 11 ∨ s.rf = 12) ∧ (2 : BitVec 2).getLsbD 0 = false ∧ (28 : Spec).toNat + 32 * fmtBits s.ef / 256 ≤ 32) ∧
    (let s := labT (withFmt 0x2ED0)
     s.me.guard hd = true ∧ s.me.cuts = [] ∧ Follows s 1 9 {} {} ∧ s.anyBound [1, 28, 0] = false ∧ isF s.ef = true ∧ s.rf = 13 ∧ (1 : Spec) ≠ 0x2E ∧
       (28 : Spec).toNat + 32 * fmtBits s.ef / 256 ≤ 32) ∧
    (let s := labT (withFmt 0x2E0E)
     s.me.guard hd = true ∧ s.me.cuts = [] ∧ Follows s 1 9 {} {} ∧ s.anyBound [28, 2, 3] = false ∧ srcOk 2 = true ∧ srcOk 3 = true ∧ 11 ≤ s.ef.toNat ∧
       s.ef ≠ 15 ∧ isF s.rf = true ∧ (3 : BitVec 2).toNat < (if s.ef = 13 then 2 else if s.ef = 14 then 4 else 1) ∧
       (28 : Spec).toNat + 32 * fmtBits s.rf / 256 ≤ 32) := by
  unfold Follows; decide
/-- FormatsAreSet: with no prefix pending, and with one. -/
theorem wit_prefix : Follows lab 1 9 {} {} ∧ lab.me.guard hd = true ∧ lab.me.cuts = [] ∧ lab.me.pp = false ∧ ((31 : Spec).toNat < 32 ∨ (31 : Spec) = 0x2E) ∧
    (let s := labT fun x => { x with pp := true }
     Follows s 1 9 {} {} ∧ s.me.guard hd = true ∧ s.me.cuts = [] ∧ s.me.pp = true) := by
  unfold Follows; decide
/-- SystemRegisters: a register, one that is read only, none; FPC of a faulted thread and of one that is not. -/
theorem wit_system : Follows lab 1 9 {} {} ∧ lab.me.pp = false ∧ dstOk 1 = true ∧ lab.anyBound [1] = false ∧ lab.me.guard hd = true ∧ lab.me.cuts = [] ∧
    sysDefined 0x004 = true ∧ sysWritePriv 0x000 = true ∧ sysDefined 0xFFF = false ∧ sysWritePriv 0xFFF = false ∧
    (let s := labM
     Follows s 1 9 {} {} ∧ s.me.pp = false ∧ s.anyBound [1] = false ∧ s.me.guard hd = true ∧ s.me.cuts = [] ∧ s.me.ftid.toNat = (0 : TIdx).val ∧
       s.cell.last ≠ 0 ∧ (0 : TIdx) ≠ s.cell.last) ∧
    (let s := modFocus (labT fun x => { x with ftid := 7 }) fun c => { c with thr := c.thr.set 7 { st := .faulted } }
     Follows s 1 9 {} {} ∧ s.me.pp = false ∧ s.anyBound [1] = false ∧ s.me.guard hd = true ∧ s.me.cuts = [] ∧ s.me.ftid.toNat = (7 : TIdx).val ∧
       s.cell.last = 0 ∧ (7 : TIdx) ≠ 0 ∧ (s.cell.th 7).st = .faulted ∧ (s.cell.th 7).inb = false) ∧
    (let s := labT fun x => { x with ftid := 7 }
     Follows s 1 9 {} {} ∧ s.me.pp = false ∧ s.anyBound [1] = false ∧ s.me.guard hd = true ∧ s.me.cuts = [] ∧ s.me.ftid.toNat = (7 : TIdx).val ∧
       (s.cell.th 7).st ≠ .faulted) := by
  unfold Follows; decide
/-- LateResults. -/
theorem wit_late : Follows lab 1 9 {} {} ∧ dstOk 1 = true ∧ srcOk 2 = true ∧ lab.me.guard hd = true ∧ lab.me.cuts = [] ∧ lab.anyBound [1, 2, 3] = false ∧
    srcOk 3 = true ∧ lab.me.pp = false ∧ (7 : BitVec 6).toNat < 8 ∧ isF lab.ef = true := by
  unfold Follows; decide
/-- SpecialFunctions: a NaN, a negative number, the ends of the integers, a number that is none of these. -/
theorem wit_special : (0xFFFFFFFF : Nat) < 2 ^ 32 ∧ nanF 0 0x7F800001 = true ∧ (2 ^ 31 < 0xFF7FFFFF ∧ 0xFF7FFFFF < 0xFF800000) ∧
    (-149 ≤ (-149 : Int) ∧ (127 : Int) ≤ 127) ∧ nanF 0 0x7F800000 = false ∧ 0x7F800000 ≤ 0x7F800000 := by decide
/-- A cell whose watermark channel 0 is open over the first granule. -/
def markedCell (c : Cell) : Cell := c.modWm 0 fun _ => { base := 0, end_ := 32, mark := 0, open_ := true }
/-- A state that an access finds in scratchpad, in the system window, kept back, outside both, or misaligned. -/
theorem wit_loads : ∃ f, loadForm (.ldv hd 1 2 63) = some f ∧
    (let s := labT (withG 2 (0x8000 - 64 * 32))
     f.Ready s ∧ Follows s f.len 9 {} {} ∧ padOpen s (f.addr s).toNat f.n) ∧
    (let s := modFocus lab markedCell
     ∃ g, loadForm (.ld hd 1 2 3 3) = some g ∧ g.Ready s ∧ Follows s g.len 9 {} {} ∧ (g.addr s).toNat + g.n ≤ 0x8000 ∧
       (g.addr s).toNat % g.n = 0 ∧ s.cell.unmarked (g.addr s).toNat g.n = true) ∧
    (let s := labT (withG 2 (0x8000 - 63 * 32))
     f.Ready s ∧ Follows s f.len 9 {} {} ∧ ¬(f.addr s).toNat + f.n ≤ 0x8000 ∧
       ¬(2 ^ 45 ≤ (f.addr s).toNat ∧ (f.addr s).toNat + f.n ≤ 2 ^ 45 + 0x428)) ∧
    (let s := labT (withG 2 1)
     f.Ready s ∧ Follows s f.len 9 {} {} ∧ (f.addr s).toNat + f.n ≤ 0x8000 ∧ (f.addr s).toNat % f.n ≠ 0) := by
  unfold Access.Ready Follows padOpen Passes Access.addr
  exact ⟨_, rfl, by decide, ⟨_, rfl, by decide⟩, by decide, by decide⟩
theorem wit_loads_system : ∃ f, loadForm (.ldL hd 1 2 0 3 0x420) = some f ∧
    (let s := labT (withG 2 (2 ^ 45))
     f.Ready s ∧ Follows s f.len 10 {} {} ∧ sysOpen (f.addr s).toNat f.n) := by
  unfold Access.Ready Follows sysOpen Passes Access.addr
  exact ⟨_, rfl, by decide⟩
/-- Stores. -/
theorem wit_stores : ∃ f, storeForm (.st hd 1 2 63 0) = some f ∧
    (let s := labT (withG 2 (0x8000 - 64))
     f.Ready s ∧ Follows s f.len 9 {} {} ∧ padOpen s (f.addr s).toNat f.n ∧ (8 ≤ f.n ∨ s.cell.badRead (f.addr s).toNat f.n = none) ∧
       s.cell.sleepers = [] ∧ Memory.wf s.cell.pad.mem = true ∧ s.cell.journaled s.cell.last = false) ∧
    (let s := labC fun c => { c with pad := { c.pad with ecc2 := [56] } }
     f.Ready s ∧ Follows s f.len 9 {} {} ∧ padOpen s (f.addr s).toNat f.n ∧ f.n < 8 ∧ s.cell.badRead (f.addr s).toNat f.n ≠ none ∧
       s.cell.journaled s.cell.last = false) ∧
    (let s := labT (withG 2 (0x8000 - 63))
     f.Ready s ∧ Follows s f.len 9 {} {} ∧ ¬(f.addr s).toNat + f.n ≤ 0x8000 ∧
       ¬(2 ^ 45 ≤ (f.addr s).toNat ∧ (f.addr s).toNat + f.n ≤ 2 ^ 45 + 0x428)) ∧
    (let s := labT (withG 2 (2 ^ 45 + 0x427 - 63))
     f.Ready s ∧ Follows s f.len 9 {} {} ∧ sysOpen (f.addr s).toNat f.n) := by
  unfold Access.Ready Follows padOpen sysOpen Passes Access.addr
  exact ⟨_, rfl, by decide, by decide, by decide, by decide⟩
theorem wit_stores_refused : ∃ f, storeForm (.stv hd 1 2 0) = some f ∧
    (let s := modFocus lab markedCell
     f.Ready s ∧ Follows s f.len 9 {} {} ∧ (f.addr s).toNat + f.n ≤ 0x8000 ∧ (f.addr s).toNat % f.n = 0 ∧
       s.cell.unmarked (f.addr s).toNat f.n = true) ∧
    (let s := labT (withG 2 0x7FDF)
     f.Ready s ∧ Follows s f.len 9 {} {} ∧ (f.addr s).toNat + f.n ≤ 0x8000 ∧ (f.addr s).toNat % f.n ≠ 0) := by
  unfold Access.Ready Follows Passes Access.addr
  exact ⟨_, rfl, by decide, by decide⟩
/-- T1 asleep in a WAITA of EQ on the word at 0x40, for a value. -/
def sleeper (c : W64) : Thread := { st := .sleeping, pc := 4, wait := .waita 0x40 c 0 7 }
/-- AtomicsAndWaits. -/
theorem wit_atomics :
    (let s := labT fun x => withG 1 5 (withG 2 0x7FF8 x)
     Follows s 1 9 {} {} ∧ Passes s hd ∧ dstOk 1 = true ∧ srcOk 2 = true ∧ s.anyBound [1, 2, 3] = false ∧ padOpen s (lane s 2).toNat 8 ∧
       s.cell.badRead (lane s 2).toNat 8 = none ∧ (9 : BitVec 6).toNat ≤ 9 ∧ s.cell.sleepers = [] ∧ Memory.wf s.cell.pad.mem = true ∧
       s.cell.journaled s.cell.last = false ∧
       atomic (0 : BitVec 6).toNat (word64 s (lane s 2).toNat) (lane0 (held s 1)) (lane1 (held s 1)) = some 5 ∧ srcOk 3 = true ∧
       s.me.tmd = false ∧ meets 0 (word64 s (lane s 2).toNat) (lane s 3) ∧ ¬meets 0 (word64 s (lane s 2).toNat) (lane s 1)) ∧
    (let s := labT fun x => withG 1 (5 + 2 ^ 64) (withG 2 0x7FF8 x)
     atomic (9 : BitVec 6).toNat (word64 s (lane s 2).toNat) (lane0 (held s 1)) (lane1 (held s 1)) = none) := by
  unfold Follows Passes padOpen meets; decide
theorem wit_woken : ∀ c : W64, c = 5 ∨ c = 6 →
    let s := modFocus (labT fun x => withG 1 5 (withG 2 0x40 x)) fun y => { y with thr := y.thr.set 1 (sleeper c) }
    Follows s 1 9 {} {} ∧ Passes s hd ∧ padOpen s (lane s 2).toNat 8 ∧ s.cell.badRead (lane s 2).toNat 8 = none ∧ (1 : TIdx) ≠ s.cell.last ∧
      (s.cell.th 1).wait = .waita (lane s 2).toNat c 0 7 ∧ s.cell.sleepers = [1] ∧ Memory.wf s.cell.pad.mem = true ∧ (s.cell.th 1).outs = [] ∧
      s.cell.bound 1 7 = none ∧ (s.cell.th 1).next (s.cell.th 1).pc.toNat = .at_ 5 {} {} ∧ s.cell.journaled s.cell.last = false ∧
      (5 : W64) = lane s 1 ∧ dstOk 7 = true ∧ (meets 0 5 c ↔ c = 5) := by
  unfold Follows Passes padOpen meets
  rintro c (rfl | rfl) <;> decide
/-- A cell whose T1 runs a journaled handler at time 9; page 0 is a journal page. -/
def journalCell (c : Cell) : Cell := { c with tim := { c.tim with run := some { t := 1, p := {}, vrt := 9, unj := false }, jpages := 1 } }
/-- JournalEntries: with a free entry, the last word of page 0 stored to; with none. -/
theorem wit_journal :
    (let s := modFocus (labM.modMe (withG 2 0x1F8)) journalCell
     Follows s 1 9 {} {} ∧ Passes s hd ∧ dstOk 1 = true ∧ srcOk 2 = true ∧ s.anyBound [1, 2] = false ∧ padOpen s (lane s 2).toNat 8 ∧
       s.cell.sleepers = [] ∧ Memory.wf s.cell.pad.mem = true ∧ s.cell.journaled s.cell.last = true ∧
       s.cell.tim.jpages.getLsbD ((lane s 2).toNat / 512) = true ∧ s.cell.tim.jused < s.cell.jLen ∧
       (lane s 2).toNat + 8 ≤ s.cell.jBase + 16 * ((s.cell.tim.jhead + s.cell.tim.jused) % s.cell.jLen)) ∧
    (let s := modFocus (labM.modMe (withG 2 0x1F8)) fun c =>
       let c := journalCell c
       { c with tim := { c.tim with jused := 256 } }
     Follows s 1 9 {} {} ∧ Passes s hd ∧ padOpen s (lane s 2).toNat 8 ∧ s.cell.journaled s.cell.last = true ∧
       s.cell.tim.jpages.getLsbD ((lane s 2).toNat / 512) = true ∧ s.cell.jLen ≤ s.cell.tim.jused) := by
  unfold Follows Passes padOpen; decide
/-- Operands of a copy of one granule between scratchpad 0x7FE0 and the top of the global window. -/
def copyRegs (x : Thread) : Thread := withG 1 0xFFFF (withG 2 (2 ^ 47 + 2 ^ 45 - 32) (withG 3 (0x7FE0 + 32 * 2 ^ 16) x))
/-- A copy of thread 0, with nothing left to move. -/
def copyDone : CopyEnt := { t := 0, put := true, hint := 0, woff := 0xFFF, value := 9, todo := [] }
/-- CopiesIssue: with a free entry and with none; a timed handler; a length of zero. -/
theorem wit_copies : ∃ f, copyForm (.cget hd 1 2 3 2) = some f ∧
    (let s := labT copyRegs
     Passes s f.h ∧ Follows s f.len 9 {} {} ∧ f.Good s ∧ s.cell.eng.freeEnt = some 0) ∧
    (let s := modFocus (labT copyRegs) fun c => { c with eng := { c.eng with ents := Vector.replicate 16 (some copyDone) } }
     Passes s f.h ∧ Follows s f.len 9 {} {} ∧ f.Good s ∧ s.cell.eng.freeEnt = none) ∧
    (let s := labT fun x => { x with tmd := true }
     Passes s f.h ∧ Follows s f.len 9 {} {} ∧ f.x ≠ 3 ∧ f.d.toNat < 42 ∧ f.a.toNat < 42 ∧ f.b.toNat < 42 ∧ s.anyBound [f.d, f.a, f.b] = false ∧
       s.me.tmd = true) ∧
    (let s := lab
     Passes s f.h ∧ Follows s f.len 9 {} {} ∧ s.anyBound [f.d, f.a, f.b] = false ∧ s.me.tmd = false ∧ half (lane s f.b) 16 = 0) := by
  unfold Copying.Good Copying.InWindows Copying.aligned Follows Passes
  exact ⟨_, rfl, by decide, by decide, by decide, by decide⟩
theorem wit_copies_long : ∃ f, copyForm (.cputL hd 1 2 3 0 1 4) = some f ∧
    (let s := labT fun x => withG 1 0xFFFF (withG 2 (2 ^ 47) (withG 3 (0x7FC0 + 32 * 2 ^ 16 + 32 * 2 ^ 32) x))
     Passes s f.h ∧ Follows s f.len 10 {} {} ∧ f.Good s ∧ s.cell.eng.freeEnt = some 0) := by
  unfold Copying.Good Copying.InWindows Copying.aligned Follows Passes
  exact ⟨_, rfl, by decide⟩
/-- The lab with barrier 3 awaiting two arrivals. -/
def barrierLab (v : Nat) : State := modFocus (labT (withG 2 v)) (·.modBar 3 fun _ => { target := 2, arr := 1, gen := 7 })
/-- MarksAndBarriers, the clauses on channels, BINIT and idle barriers. -/
theorem wit_marks :
    (let s := labT (withG 2 (0x8000 * 2 ^ 16))
     Follows s 1 9 {} {} ∧ Passes s hd ∧ s.me.tmd = false ∧ srcOk 2 = true ∧ dstOk 1 = true ∧ s.anyBound [1, 2] = false ∧
       (lane s 2).toNat / 2 ^ 32 = 0 ∧ half (lane s 2) 0 < half (lane s 2) 16 ∧ half (lane s 2) 16 ≤ 0x8000 ∧ half (lane s 2) 0 % 32 = 0 ∧
       half (lane s 2) 16 % 32 = 0) ∧
    (let s := labT (withG 2 (0xFFFF + 2 ^ 32))
     Follows s 1 9 {} {} ∧ Passes s hd ∧ s.me.tmd = false ∧ s.anyBound [1, 2] = false ∧ half (lane s 2) 0 ≠ 0 ∧ half (lane s 2) 16 = 0 ∧
       s.cell.barSleepers = [] ∧ s.cell.eng.bars[barIx 3].target = 0) := by
  unfold Follows Passes; decide
/-- MarksAndBarriers, the clauses on a barrier at work: no copy of the thread's and one of them, no record free, and a generation
that is past (6) or not (7). -/
theorem wit_barriers :
    (let s := barrierLab 6
     Follows s 1 9 {} {} ∧ Passes s hd ∧ s.me.tmd = false ∧ s.anyBound [1, 2] = false ∧ s.cell.eng.bars[barIx 3].target ≠ 0 ∧
       s.cell.barSleepers = [] ∧ (∀ (j : Fin 16) (e : CopyEnt), s.cell.eng.ents[j] = some e → e.t ≠ s.cell.last) ∧
       (∃ r : Fin 4, s.cell.eng.recs[r] = none) ∧
       (1 ≤ (s.cell.eng.bars[barIx 3].gen.toNat + 2 ^ 32 - (lane s 2).toNat % 2 ^ 32) % 2 ^ 32 ∧
        (s.cell.eng.bars[barIx 3].gen.toNat + 2 ^ 32 - (lane s 2).toNat % 2 ^ 32) % 2 ^ 32 ≤ 2 ^ 31)) ∧
    (let s := barrierLab 7
     s.cell.eng.bars[barIx 3].target ≠ 0 ∧
       ¬(1 ≤ (s.cell.eng.bars[barIx 3].gen.toNat + 2 ^ 32 - (lane s 2).toNat % 2 ^ 32) % 2 ^ 32 ∧
        (s.cell.eng.bars[barIx 3].gen.toNat + 2 ^ 32 - (lane s 2).toNat % 2 ^ 32) % 2 ^ 32 ≤ 2 ^ 31)) ∧
    (let s := modFocus (barrierLab 7) (·.setEnt 15 (some copyDone))
     s.cell.eng.bars[barIx 3].target ≠ 0 ∧ s.cell.eng.freeRec = some 0 ∧
       ∃ (j : Fin 16) (e : CopyEnt), s.cell.eng.ents[j] = some e ∧ e.t = s.cell.last) ∧
    (let s := modFocus (barrierLab 7) fun c => { c with eng := { c.eng with recs := Vector.replicate 4 (some ⟨3, 1⟩) } }
     s.cell.eng.bars[barIx 3].target ≠ 0 ∧ s.cell.eng.freeRec = none) := by
  unfold Follows Passes
  refine ⟨⟨by decide, by decide, by decide, by decide, by decide, by decide, ?_, by decide, by decide⟩, by decide,
    ⟨by decide, by decide, ⟨15, copyDone, by decide, by decide⟩⟩, by decide⟩
  intro j e h
  have hj : ∀ j : Fin 16, (barrierLab 6).cell.eng.ents[j] = none := by decide
  simp [hj j] at h
/-- The descriptor of a local stream of four elements of 8 bytes at 0x100. -/
def streamDesc (kind : Nat) : Nat := kind + 3 * 2 ^ 4 + 0x100 * 2 ^ 16 + 3 * 2 ^ 32 + 8 * 2 ^ 96
/-- A cell with a descriptor at 0x7FE0, and engine 3 in some state. -/
def descCell (x : Stream) (c : Cell) : Cell :=
  ({ c with pad := { c.pad with mem := Memory.writeNat [] 0x7FE0 32 (streamDesc 0) } } : Cell).modStrm 3 fun _ => x
/-- An engine bound by thread 0. -/
def engine (kind : Nat) : Stream := bindOf 0 (BitVec.ofNat 256 (streamDesc kind)) 0
set_option maxRecDepth 4000 in
/-- StreamsAreBound: a free engine, another thread's, one's own with nothing and with a packet still to be written. -/
theorem wit_bind :
    (let s := modFocus (labT (withG 2 0x7FE0)) (descCell {})
     Passes s hd ∧ s.me.tmd = false ∧ (39 : Spec).toNat = 36 + (3 : Fin 4).val ∧ Follows s 2 10 {} {} ∧ (0x7FE0 : BitVec 15).toNat % 32 = 0 ∧
       (bindOf s.cell.last (s.cell.gran 0x7FE0) 0).descFault = none ∧ s.cell.badRead 0x7FE0 32 = none ∧ s.cell.eng.strm[3].bound = false ∧
       Follows s 1 9 {} {} ∧ srcOk 2 = true ∧ s.anyBound [2] = false ∧ (lane s 2).toNat < 2 ^ 15 ∧ (lane s 2).toNat % 32 = 0 ∧
       (lane s 2).toNat = 0x7FE0) ∧
    (let s := modFocus lab (descCell { engine 0 with own := 5 })
     Passes s hd ∧ s.me.tmd = false ∧ (bindOf s.cell.last (s.cell.gran 0x7FE0) 0).descFault = none ∧ s.cell.eng.strm[3].bound = true ∧
       s.cell.eng.strm[3].own ≠ s.cell.last) ∧
    (let s := modFocus lab (descCell (engine 0))
     Passes s hd ∧ s.me.tmd = false ∧ Follows s 1 9 {} {} ∧ s.cell.eng.strm[3].bound = true ∧ s.cell.eng.strm[3].own = s.cell.last ∧
       s.cell.eng.strm[3].buf = []) ∧
    (let s := modFocus lab (descCell { engine 1 with buf := [5], fetch := 1 })
     Passes s hd ∧ s.me.tmd = false ∧ Follows s 1 9 {} {} ∧ s.cell.eng.strm[3].bound = true ∧ s.cell.eng.strm[3].own = s.cell.last ∧
       s.cell.eng.strm[3].isWrite = true ∧ s.cell.eng.strm[3].buf ≠ [] ∧ s.cell.eng.strm[3].err = false) := by
  unfold Passes Follows; decide
/-- StreamsMove: the first element of a read, and of a packet written out. -/
theorem wit_stream_moves :
    (let s := modFocus lab (descCell (engine 0))
     s.cur = (0 : Name).toNat ∧ s.cell.eng.strm[3].bound = true ∧ s.cell.eng.strm[3].err = false ∧ s.cell.eng.strm[3].fail = none ∧
       s.cell.eng.strm[3].out = none ∧ s.asksOf (.stream 0 3) = [] ∧ s.cell.eng.strm[3].isGlobal = false ∧ s.cell.eng.strm[3].kind = 0 ∧ s.cell.eng.strm[3].exh = false ∧ s.cell.eng.strm[3].buf.length < 4 ∧
       s.cell.eng.strm[3].fetch < s.cell.eng.strm[3].packets ∧ s.cell.eng.strm[3].skip = 0 ∧
       s.cell.eng.strm[3].at_ (s.cell.eng.strm[3].fetch * s.cell.eng.strm[3].perPacket + s.cell.eng.strm[3].acc.length) = ((0x100 : Nat) : Int) ∧
       s.cell.unmarked 0x100 s.cell.eng.strm[3].esize = false ∧ s.cell.badRead 0x100 s.cell.eng.strm[3].esize = none) ∧
    (let s := modFocus lab (descCell { engine 1 with buf := [5], fetch := 1 })
     s.cur = (0 : Name).toNat ∧ s.cell.eng.strm[3].bound = true ∧ s.cell.eng.strm[3].err = false ∧ s.cell.eng.strm[3].fail = none ∧
       s.cell.eng.strm[3].out = none ∧ s.asksOf (.stream 0 3) = [] ∧ s.cell.eng.strm[3].isGlobal = false ∧ s.cell.eng.strm[3].kind = 1 ∧ s.cell.eng.strm[3].buf = [5] ∧
       s.cell.eng.strm[3].at_ ((s.cell.eng.strm[3].fetch - s.cell.eng.strm[3].buf.length) * s.cell.eng.strm[3].perPacket +
         s.cell.eng.strm[3].acc.length) = ((0x100 : Nat) : Int) ∧
       s.cell.partBad 0x100 s.cell.eng.strm[3].esize = false ∧ (s.cell.th s.cell.eng.strm[3].own).wait = .none ∧ s.cell.sleepers = []) := by
  decide
/-- StreamOperands: an addition of a stream to itself, and one that a stream takes. -/
theorem wit_vector_streams :
    (let s := modFocus lab (descCell { engine 0 with buf := [5], fetch := 1 })
     (vectorForm (fronts s) (.vadd hd 7 39 39 0)).isSome = true ∧ s.me.guard hd = true ∧ s.me.cuts = [] ∧ Follows s 1 9 {} {} ∧ dstOk 7 = true ∧
       [39, 39].all srcOk = true ∧ s.cell.bound s.cell.last 7 = none ∧ s.cell.bound s.cell.last 39 = some 3 ∧
       s.cell.eng.strm[(3 : Fin 4)].isWrite = false ∧ s.cell.eng.strm[(3 : Fin 4)].popBlocked = false) ∧
    (let s := modFocus lab (descCell (engine 1))
     (vectorForm (fronts s) (.vadd hd 39 7 7 0)).isSome = true ∧ s.cell.bound s.cell.last 39 = some 3 ∧ s.cell.bound s.cell.last 7 = none ∧
       (39 : Spec) ∉ ([7, 7] : List Spec) ∧ dstOk 39 = true ∧ s.cell.eng.strm[(3 : Fin 4)].isWrite = true ∧
       s.cell.eng.strm[(3 : Fin 4)].err = false ∧ s.cell.eng.strm[(3 : Fin 4)].exh = false ∧
       s.cell.eng.strm[(3 : Fin 4)].fetch < s.cell.eng.strm[(3 : Fin 4)].packets ∧ s.cell.eng.strm[(3 : Fin 4)].buf.length + 0 < 4 ∧
       s.me.outs = []) := by
  unfold Follows; and_intros <;> decide
/-- StreamOperands: a packet to take, none yet, none left; room, none, and a push past the last. -/
theorem wit_stream_operands :
    (∀ x : Stream, x = { engine 0 with buf := [5], fetch := 1 } ∨ x = engine 0 ∨ x = { engine 0 with exh := true, fetch := 1 } →
      let s := modFocus lab (descCell x)
      Passes s hd ∧ Follows s 1 9 {} {} ∧ s.cell.bound s.cell.last 39 = some 3 ∧ s.cell.bound s.cell.last 7 = none ∧ (7 : Spec).toNat < 40 ∧
        dstOk 7 = true ∧ s.cell.eng.strm[3].isWrite = false ∧ s.cell.eng.strm[3].err = false) ∧
    (∀ x : Stream, x = engine 1 ∨ x = { engine 1 with buf := [1, 2, 3, 4], fetch := 0 } ∨ x = { engine 1 with fetch := 1 } →
      let s := modFocus lab (descCell x)
      Passes s hd ∧ Follows s 1 9 {} {} ∧ s.cell.bound s.cell.last 39 = some 3 ∧ s.cell.bound s.cell.last 7 = none ∧ srcOk 7 = true ∧
        s.cell.eng.strm[3].isWrite = true ∧ s.cell.eng.strm[3].err = false ∧ s.cell.eng.strm[3].exh = false ∧
        (s.cell.eng.strm[3].fetch < s.cell.eng.strm[3].packets ↔ x.fetch = 0) ∧ (s.me.outs.filter fun o => o.d.toNat == 36 + 3).length = 0) := by
  unfold Passes Follows
  refine ⟨?_, ?_⟩ <;> rintro x (rfl | rfl | rfl) <;> decide
/-- A cell whose tiles belong to thread `t`. -/
def ownedBy (t : TIdx) (c : Cell) : Cell := { c with mx := { c.mx with owner := Vector.replicate 4 (some t) } }
/-- Leases: free tiles; tiles of another thread; one's own; a full queue; a timed handler; a cap of zero. -/
theorem wit_leases : Passes lab hd ∧ Follows lab 1 9 {} {} ∧ dstOk 1 = true ∧ lab.anyBound [1] = false ∧ (15 : BitVec 4) ≠ 0 ∧ UnitFree lab ∧
    holdsNone lab ∧ tiles 15 ≤ cap lab ∧ (∀ i : Fin 4, (15 : BitVec 4).getLsbD i.val = true → lab.cell.mx.owner[i] = none) ∧
    lab.cell.mx.leaseQ = [] ∧ lab.cell.mx.queue = [] ∧ ¬holds lab 15 ∧
    (let s := modFocus lab (ownedBy 1)
     UnitFree s ∧ holdsNone s ∧ tiles 15 ≤ cap s ∧ ∃ i : Fin 4, (15 : BitVec 4).getLsbD i.val = true ∧ s.cell.mx.owner[i] ≠ none) ∧
    (let s := modFocus lab (ownedBy 0)
     UnitFree s ∧ ¬holdsNone s ∧ holds s 15) ∧
    (let s := labC fun c => { c with mx := { c.mx with mlcap := 0 } }
     UnitFree s ∧ cap s < tiles 15) ∧
    (let s := labC fun c => { c with mx := { c.mx with queue := List.replicate 4 { id := 0, t := 0, op := .rel 1 } } }
     Passes s hd ∧ Follows s 1 9 {} {} ∧ s.anyBound [1] = false ∧ 4 ≤ s.cell.mx.queue.length) ∧
    (let s := labT fun x => { x with tmd := true }
     Passes s hd ∧ Follows s 1 9 {} {} ∧ s.anyBound [1] = false ∧ s.cell.mx.queue.length < 4 ∧ s.me.tmd = true) := by
  unfold Passes Follows UnitFree holdsNone holds; decide
/-- An MSHAPE with both operands in one format and no scales. -/
def shape (f : Nat) (x : Thread) : Thread := { x with mshape := BitVec.ofNat 21 (f + 2 ^ 4 * f + 2 ^ 8 * 0x2E + 2 ^ 14 * 0x2E) }
/-- A descriptor of one granule a step, at the top of scratchpad. -/
def operandDesc : Nat := 0x7FC0 + 32 * 2 ^ 16 + 32 * 2 ^ 32
/-- Multiplications: a run that ends its file, and zeros. -/
theorem wit_mma :
    let s := modFocus (labT (shape 5)) (ownedBy 0)
    s.me.guard hd = true ∧ s.me.cuts = [] ∧ UnitFree s ∧ holds1 s 3 ∧ Follows s 1 9 {} {} ∧ s.mode 0 = some ⟨8, 1, 1⟩ ∧ IsRun s 31 1 ∧ IsRun s 0x2E 1 ∧
      s.cell.mx.torOut[tile 2] = false ∧ (31 : Spec).toNat + 1 ≤ 32 := by
  unfold Follows UnitFree holds1 IsRun; decide
/-- Multiplications: runs of eight registers, and a sparse multiplication. -/
theorem wit_mma_wide :
    (let s := modFocus (labT (shape 11)) (ownedBy 0)
     s.me.guard hd = true ∧ s.me.cuts = [] ∧ UnitFree s ∧ holds1 s 3 ∧ Follows s 1 9 {} {} ∧ s.mode 0 = some ⟨32, 8, 8⟩ ∧ IsRun s 24 8 ∧ IsRun s 0x20 8) ∧
    (let s := modFocus (labT (shape 3)) (ownedBy 0)
     UnitFree s ∧ holds1 s 3 ∧ Follows s 1 9 {} {} ∧ s.mode 1 = some ⟨8, 2, 1⟩ ∧ IsRun s 30 2 ∧ IsRun s 3 1) := by
  unfold Follows UnitFree holds1 IsRun; decide
/-- Multiplications: a bound stream register, in a short and in a long form. -/
theorem wit_mma_stream :
    let s := modFocus (labT (shape 5)) fun c => descCell { engine 0 with buf := [5], fetch := 1 } (ownedBy 0 c)
    s.me.guard hd = true ∧ s.me.cuts = [] ∧ UnitFree s ∧ holds1 s 3 ∧ Follows s 1 9 {} {} ∧ Follows s 2 10 {} {} ∧ s.mode 0 = some ⟨8, 1, 1⟩ ∧
      s.cell.bound s.cell.last 39 = some 3 ∧ IsRun s 3 1 ∧ s.cell.eng.strm[3].isWrite = false ∧ 1 ≤ s.cell.eng.strm[3].buf.length ∧
      DescOk s 39 s.me.afEff 1 256 := by
  dsimp only [Follows, UnitFree, holds1, IsRun, DescOk]; and_intros <;> decide
/-- Multiplications: descriptors that end with scratchpad. -/
theorem wit_mma_long :
    let s := modFocus (labT fun x => shape 5 (withG 2 operandDesc x)) (ownedBy 0)
    s.me.guard hd = true ∧ s.me.cuts = [] ∧ UnitFree s ∧ holds1 s 3 ∧ Follows s 2 10 {} {} ∧ s.mode 0 = some ⟨8, 1, 1⟩ ∧ DescOk s 2 s.me.afEff 1 2 ∧
      DescOk s 2 s.me.bfEff 1 2 ∧ s.cell.mx.torOut[tile 2] = false := by
  dsimp only [Follows, UnitFree, holds1, DescOk]; and_intros <;> decide
/-- Multiplications: a sparse long form with its column meta at the top. -/
theorem wit_mma_meta :
    let s := modFocus (labT fun x => shape 3 (withG 2 (0x7F80 + 32 * 2 ^ 16 + 64 * 2 ^ 32) x)) (ownedBy 0)
    s.me.guard hd = true ∧ s.me.cuts = [] ∧ UnitFree s ∧ holds1 s 3 ∧ Follows s 2 10 {} {} ∧ s.mode 1 = some ⟨8, 2, 1⟩ ∧ (0x7FF0 : BitVec 15).toNat % 8 = 0 ∧
      (0x7FF0 : BitVec 15).toNat + 8 * ((1 : BitVec 8).toNat + 1) ≤ 0x8000 ∧ DescOk s 2 s.me.afEff 2 2 ∧ DescOk s 2 s.me.bfEff 1 2 := by
  dsimp only [Follows, UnitFree, holds1, DescOk]; and_intros <;> decide
/-- TileTransfers: images at the top of scratchpad, misaligned, of no held tile; CBLOAD of all entries; a tag of width 8 and none. -/
theorem wit_tiles :
    (let s := modFocus (labT (withG 2 0x7F00)) (ownedBy 0)
     Follows s 1 9 {} {} ∧ s.me.guard hd = true ∧ s.me.cuts = [] ∧ UnitFree s ∧ srcOk 2 = true ∧ s.anyBound [2] = false ∧ holds1 s 3 ∧ ImageOk (imageFmt s 12) ∧
       ImageOk (imageFmt s 16) ∧ (lane s 2 + BitVec.ofNat 64 (32 * (0 : BitVec 6).toNat)).toNat % 32 = 0 ∧
       (lane s 2 + BitVec.ofNat 64 (32 * (0 : BitVec 6).toNat)).toNat + imageSize (imageFmt s 12) ≤ 0x8000 ∧
       (24 : Spec).toNat + imageSize (imageFmt s 12) / 32 ≤ 32 ∧ s.me.pp = false ∧ s.specTag (lane s 2) 8 = none) ∧
    (let s := modFocus (labT (withG 2 0x7F01)) (ownedBy 0)
     holds1 s 3 ∧ (lane s 2 + BitVec.ofNat 64 (32 * (0 : BitVec 6).toNat)).toNat % 32 ≠ 0) ∧
    (¬holds1 lab 3 ∧ ImageOk (imageFmt lab 12) ∧ ImageOk (imageFmt lab 16)) ∧
    (let s := labT (withG 2 (0x7BE0 + 255 * 2 ^ 24))
     s.me.pp = false ∧ (lane s 2).toNat / 2 ^ 15 % 2 = 0 ∧ (lane s 2).toNat / 2 ^ 32 = 0 ∧
       (lane s 2).toNat / 2 ^ 16 % 2 ^ 8 + ((lane s 2).toNat / 2 ^ 24 % 2 ^ 8 + 1) ≤ 256 ∧ (lane s 2).toNat % 2 ^ 15 % 4 = 0 ∧
       (lane s 2).toNat % 2 ^ 15 + 4 * ((lane s 2).toNat / 2 ^ 24 % 2 ^ 8 + 1) + ((lane s 2).toNat / 2 ^ 24 % 2 ^ 8 + 1 + 7) / 8 ≤ 0x8000) := by
  unfold Follows UnitFree holds1 ImageOk; decide
/-- A partition whose tree 1 is cell 0, the root, LOCAL, with a child labelled 5 beside its own place. -/
def treeGlobals (w : Nat) : Globals :=
  { trees := [(1, [⟨0, 0, 0, true, 0, false⟩, ⟨1, 5, 0, true, 0, false⟩])]
    bucks := [(4094, ⟨0, false, true, w, 8, 1, 0⟩)] }
/-- The lab with these structures. -/
def withGlobals (g : Globals) (s : State) : State := { s with parts := [(0, { labPart with globals := g })] }
theorem wit_mred :
    let s := withGlobals (treeGlobals 8) (modFocus (labT (withG 2 4094)) (ownedBy 0))
    Follows s 1 9 {} {} ∧ s.me.guard hd = true ∧ s.me.cuts = [] ∧ UnitFree s ∧ s.anyBound [2] = false ∧ s.me.pp = false ∧ holds1 s 3 ∧
      s.specTag (lane s 2) 8 = some 4094 := by
  unfold Follows UnitFree holds1; decide
/-- A full egress queue. -/
def fullEgress (c : Cell) : Cell := { c with msg := { c.msg with egress := List.replicate 8 (.msg {}) } }
/-- Sends: within the partition and beyond it; a timed message; a timed handler; reserved bits, a low class, a high channel, no room. -/
theorem wit_sends :
    (let s := labT (withG 3 (4 + 2 ^ 4 * 47))
     Passes s hd ∧ Follows s 1 9 {} {} ∧ Follows s 2 10 {} {} ∧ srcOk 3 = true ∧ (28 : Spec).toNat + (3 : BitVec 2).toNat < 32 ∧ dstOk 1 = true ∧
       s.anyBound [1, 3] = false ∧ s.anyBound [3] = false ∧ (lane s 3).toNat / 2 ^ 16 % 2 = 0 ∧ s.me.tmd = false ∧
       (lane s 3).toNat / 2 ^ 17 % 2 ^ 15 = 0 ∧ 4 ≤ ((lane s 3).setWidth 4).toNat ∧ (BitVec.ofNat 6 ((lane s 3).toNat / 2 ^ 4)).toNat < 48 ∧
       s.cell.msg.egress.length < 8 ∧ (lane s 1).setWidth 20 = (0 : Name) ∧ partOfName s (0 : Name).toNat = some s.cell.part.toNat ∧
       partOfName s (0x4000 : Name).toNat ≠ some s.cell.part.toNat ∧ s.me.wait = .none) ∧
    (let s := labT (withG 3 (4 + 2 ^ 16 + 2 ^ 32))
     Passes s hd ∧ Follows s 1 9 {} {} ∧ s.anyBound [1, 3] = false ∧ (lane s 3).toNat / 2 ^ 16 % 2 = 1 ∧ (lane s 3).toNat / 2 ^ 17 % 2 ^ 15 = 0 ∧
       4 ≤ ((lane s 3).setWidth 4).toNat ∧ s.cell.msg.egress.length < 8 ∧ s.cell.journaled s.cell.last = false) ∧
    (labT fun x => { x with tmd := true }).me.tmd = true ∧
    (let s := labT (withG 3 (4 + 2 ^ 17))
     s.me.tmd = false ∧ (lane s 3).toNat / 2 ^ 17 % 2 ^ 15 ≠ 0) ∧
    (let s := labT (withG 3 3)
     s.me.tmd = false ∧ (lane s 3).toNat / 2 ^ 17 % 2 ^ 15 = 0 ∧ ((lane s 3).setWidth 4).toNat < 4) ∧
    (let s := labT (withG 3 (4 + 2 ^ 4 * 48))
     (lane s 3).toNat / 2 ^ 17 % 2 ^ 15 = 0 ∧ 48 ≤ (BitVec.ofNat 6 ((lane s 3).toNat / 2 ^ 4)).toNat) ∧
    (let s := modFocus (labT (withG 3 4)) fullEgress
     Passes s hd ∧ Follows s 1 9 {} {} ∧ s.anyBound [1, 3] = false ∧ s.me.tmd = false ∧ (lane s 3).toNat / 2 ^ 17 % 2 ^ 15 = 0 ∧
       4 ≤ ((lane s 3).setWidth 4).toNat ∧ (BitVec.ofNat 6 ((lane s 3).toNat / 2 ^ 4)).toNat < 48 ∧ 8 ≤ s.cell.msg.egress.length) := by
  unfold Passes Follows; and_intros <;> decide
/-- RemoteAtomics: the last word of the global window, one past it, a misaligned one. -/
theorem wit_ratom :
    (let s := labT (withG 2 (2 ^ 47 + 2 ^ 45 - 8))
     Passes s hd ∧ Follows s 1 9 {} {} ∧ Follows s 2 10 {} {} ∧ (1 : Spec).toNat < 42 ∧ srcOk 2 = true ∧ s.anyBound [1, 2] = false ∧
       s.me.tmd = false ∧ 2 ^ 47 ≤ (lane s 2).toNat ∧ (lane s 2).toNat + atomBytes 0 ≤ 2 ^ 47 + 2 ^ 45 ∧ (lane s 2).toNat % atomBytes 0 = 0 ∧
       4 ≤ (4 : BitVec 4).toNat ∧ s.cell.msg.egress.length < 8 ∧ (2 : BitVec 2) ≠ 3 ∧ dstOk 5 = true ∧ s.anyBound [5] = false) ∧
    (let s := labT (withG 2 (2 ^ 47 + 2 ^ 45 - 7))
     Passes s hd ∧ s.anyBound [1, 2] = false ∧ s.me.tmd = false ∧ ¬(2 ^ 47 ≤ (lane s 2).toNat ∧ (lane s 2).toNat + atomBytes 0 ≤ 2 ^ 47 + 2 ^ 45)) ∧
    (let s := labT (withG 2 (2 ^ 47 + 1))
     Passes s hd ∧ s.anyBound [1, 2] = false ∧ s.me.tmd = false ∧ 2 ^ 47 ≤ (lane s 2).toNat ∧
       (lane s 2).toNat + atomBytes 1 ≤ 2 ^ 47 + 2 ^ 45 ∧ (lane s 2).toNat % atomBytes 1 ≠ 0) := by
  unfold Passes Follows; and_intros <;> decide
/-- A keyring entry of two slots of four granules, with tile (0, 0, 0) as its only member. -/
def keyEnt : KeyEnt := { skind := false, sidx := 0, wl := 0, nslot := 2, blk := 9, tree := 1, tiles := [(0, 0, 0, true, 0)] }
/-- Structures with that entry under key 9, and a plan of four blocks. -/
def lightGlobals : Globals :=
  { keys := [(9, keyEnt)]
    trees := [(1, [⟨0, 0, 0, true, 0, false⟩])]
    plans := [(9, { nblk := 4, gaddr := 0, gstr := 288 })] }
/-- A cell whose slot 7 is valid, for key 9 with channel 6, in some state. -/
def slotCell (x : Landing) (c : Cell) : Cell :=
  { c with
    plane := { c.plane with live := Sp.set c.plane.live 23 (BitVec.ofNat 32 (2 ^ 10 * 9 + 2 ^ 20 * 6 + 2 ^ 23)) }
    land := c.land.set 7 x }
/-- SlotReleases: a held slot; one that is not; a timed handler. -/
theorem wit_release :
    (let s := withGlobals lightGlobals (modFocus (labT (withG 2 7)) (slotCell { held := true, blk := 1 }))
     Passes s hd ∧ Follows s 1 9 {} {} ∧ srcOk 2 = true ∧ s.anyBound [2] = false ∧ (lane s 2).toNat % 8 = (7 : Fin 8).val ∧ s.me.tmd = false ∧
       s.cell.slotV 7 = true ∧ s.cell.land[7].held = true ∧
       (∀ m : Fin 8, s.cell.slotV m = true → s.cell.slotKey m = s.cell.slotKey 7 → s.cell.land[m].held = true →
         s.cell.land[7].blk ≤ s.cell.land[m].blk) ∧
       s.keyEnt (s.cell.slotKey 7) = some keyEnt) ∧
    (let s := modFocus lab (slotCell {})
     Passes s hd ∧ Follows s 1 9 {} {} ∧ s.me.tmd = false ∧ s.cell.slotV 7 = true ∧ s.cell.land[7].held = false ∧ s.cell.slotV 0 = false) ∧
    (let s := labT fun x => { x with tmd := true }
     Passes s hd ∧ Follows s 1 9 {} {} ∧ s.me.tmd = true) := by
  unfold Passes Follows; and_intros <;> decide
/-- Contributions: of one granule and of eight, the tag's EMPTY bit clear and set, no room, no such tag; a granule beyond repair excluded. -/
theorem wit_contributions :
    (let s := withGlobals (treeGlobals 1) (labT (withG 2 4094))
     Passes s hd ∧ s.me.tmd = false ∧ dstOk 1 = true ∧ srcOk 2 = true ∧ srcOk 3 = true ∧ s.anyBound [1, 2, 3] = false ∧ Follows s 1 9 {} {} ∧
       s.specTag (lane s 2) 1 = some 4094 ∧ s.cell.red.buf = none) ∧
    (let s := withGlobals (treeGlobals 1) (modFocus (labT (withG 2 4094)) fun c => { c with red := { c.red with buf := some ⟨1, 0, {}⟩ } })
     Passes s hd ∧ s.specTag (lane s 2) 1 = some 4094 ∧ s.cell.red.buf ≠ none) ∧
    (let s := withGlobals (treeGlobals 8) (labT (withG 2 4094))
     Passes s hd ∧ Follows s 2 10 {} {} ∧ s.specTag (lane s 2) ((7 : BitVec 3).toNat + 1) = some 4094 ∧ (1 : BitVec 2).toNat ≤ 1 ∧
       (0x7F00 : BitVec 15).toNat + 32 * ((7 : BitVec 3).toNat + 1) ≤ 0x8000 ∧ (0x7F00 : BitVec 15).toNat % 32 = 0 ∧
       s.cell.unmarked 0x7F00 256 = false ∧ s.cell.red.buf = none ∧ (lane s 2).getLsbD 12 = false ∧ s.cell.badRead 0x7F00 256 = none) ∧
    (let s := withGlobals (treeGlobals 8) (labT (withG 2 (4094 + 4096)))
     s.specTag (lane s 2) 8 = some 4094 ∧ (lane s 2).getLsbD 12 = true) ∧
    lab.specTag (lane lab 2) 1 = none := by
  unfold Passes Follows; and_intros <;> decide
/-- Fences: nothing to wait for; a copy to wait for; a reserved scope. -/
theorem wit_fences : Passes lab hd ∧ Follows lab 1 9 {} {} ∧ (2 : BitVec 6).toNat ≤ 2 ∧ (2 : BitVec 2) ≠ 3 ∧ lab.fenceWaits lab.cell.last 2 2 = false ∧
    (∀ i : Fin 16, lab.cell.eng.ents[i] = none) ∧ lab.cell.msg.egress = [] ∧ lab.cell.msg.busy = [] ∧ (∀ f ∈ lab.flights, f.p.kind ≠ 1) ∧
    (∀ n : Fin 4, lab.cell.eng.strm[n].buf = []) ∧ lab.cell.mx.queue = [] ∧
    (let s := labC (·.setEnt 0 (some { copyDone with err := some (3, 0) }))
     Passes s hd ∧ Follows s 1 9 {} {} ∧ s.fenceWaits s.cell.last 2 1 = true) ∧
    2 < (3 : BitVec 6).toNat := by
  unfold Passes Follows; and_intros <;> decide
/-- TimeInstructions: at once, journaled, with too few entries, and outside a timed handler. -/
theorem wit_time :
    (let s := modFocus (labM.modMe (withG 3 (4 + 2 ^ 4 * 47))) fun c => { c with tim := { c.tim with run := some { t := 1, p := {}, vrt := 9, unj := true } } }
     Passes s hd ∧ Follows s 1 9 {} {} ∧ srcOk 2 = true ∧ srcOk 3 = true ∧ s.anyBound [1, 2, 3] = false ∧ dstOk 1 = true ∧
       s.cell.timedThread s.cell.last = true ∧ (lane s 3).toNat / 2 ^ 16 = 0 ∧ 4 ≤ (lane s 3).toNat % 16 ∧ (lane s 3).toNat / 2 ^ 4 % 64 < 48 ∧
       s.cell.journaled s.cell.last = false ∧ s.cell.msg.egress.length < 8 ∧ partOfName s ((lane s 1).toNat % 2 ^ 20) = some s.cell.part.toNat) ∧
    (let s := modFocus (labM.modMe (withG 3 4)) fun c =>
       let c := journalCell c
       { c with tim := { c.tim with jused := 254 } }
     Passes s hd ∧ Follows s 1 9 {} {} ∧ s.anyBound [1, 2, 3] = false ∧ s.cell.timedThread s.cell.last = true ∧ (lane s 3).toNat / 2 ^ 16 = 0 ∧
       4 ≤ (lane s 3).toNat % 16 ∧ s.cell.journaled s.cell.last = true ∧ s.cell.tim.jused + 2 ≤ s.cell.jLen ∧ s.cell.sleepers = [] ∧
       Memory.wf s.cell.pad.mem = true) ∧
    (let s := modFocus (labM.modMe (withG 3 4)) fun c =>
       let c := journalCell c
       { c with tim := { c.tim with jused := 255 } }
     s.cell.timedThread s.cell.last = true ∧ s.cell.journaled s.cell.last = true ∧ s.cell.jLen < s.cell.tim.jused + 2) ∧
    (dstOk 1 = true ∧ lab.cell.timedThread lab.cell.last = false) := by
  unfold Passes Follows; and_intros <;> decide
/-- The lab with one thread put in place. -/
def labThread (t : TIdx) (x : Thread) : State := labC fun c => { c with thr := c.thr.set t x }
/-- BlocksAndJoins: T0 waits for a delivery to all, and for a join of all. -/
theorem wit_delivery :
    (let s := labThread 0 { st := .parked, pc := 8, wait := .bcast 127 1016 7 }
     s.cur = (0 : Name).toNat ∧ (s.cell.th 0).next (s.cell.th 0).pc.toNat = .at_ 9 {} {} ∧ (s.cell.th 0).wait = .bcast 127 1016 7 ∧
       ∀ u : TIdx, inMask 127 u = true → (s.cell.th u).st = .free ∨ (s.cell.th u).st = .stopped) ∧
    (let s := labThread 0 { st := .parked, pc := 8, wait := .joinm 127 5 true }
     s.cur = (0 : Name).toNat ∧ (s.cell.th 0).next (s.cell.th 0).pc.toNat = .at_ 9 {} {} ∧ (s.cell.th 0).wait = .joinm 127 5 true ∧
       s.cell.bound 0 5 = none ∧
       ∀ u : TIdx, inMask 127 u = true → (s.cell.th u).st = .free ∨ (s.cell.th u).st = .stopped ∨ (s.cell.th u).st = .faulted) := by decide
/-- LongResultsAreWritten: a running thread, one on the wait marker, and a load that met an uncorrectable word. -/
theorem wit_long :
    (let s := labThread 1 { st := .running, outs := [pending] }
     s.cur = (0 : Name).toNat ∧ (s.cell.th 1).outs[0]? = some pending ∧ pending.ready = true ∧ (s.cell.th 0).wait = .none ∧ pending.bad = none ∧
       s.cell.bound 1 pending.d = none ∧ (s.cell.th 1).wait = .none) ∧
    (let s := labThread 1 { st := .parked, wait := .marker, outs := [pending] }
     s.cur = (0 : Name).toNat ∧ (s.cell.th 1).outs[0]? = some pending ∧ (s.cell.th 0).wait = .none ∧ s.cell.bound 1 pending.d = none ∧
       (s.cell.th 1).wait = .marker ∧ (s.cell.th 1).outs.length = 1 ∧ (1 : TIdx) ≠ 0) ∧
    (let s := labThread 1 { st := .running, outs := [{ pending with bad := some 8 }] }
     s.cur = (0 : Name).toNat ∧ (s.cell.th 1).outs[0]? = some { pending with bad := some 8 } ∧ (s.cell.th 0).wait = .none ∧
       (s.cell.th 1).wait = .none) := by decide
/-- ReadsMeetLateResults: a thread with nothing outstanding, one with a result that is in, and one whose instruction meets it. -/
theorem wit_within :
    ((∀ o ∈ lab.me.outs, o.ready = false) ∧ ∀ e ∈ lab.cell.mx.queue.head?, e.t ≠ lab.cell.last) ∧
    (let s := labT fun x => { x with outs := [pending] }
     s.me.outs = [pending] ∧ pending.ready = true ∧ pending.bad = none ∧ pending.d.toNat < 42 ∧ s.cell.bound s.cell.last pending.d = none ∧
       ∀ e ∈ s.cell.mx.queue.head?, e.t ≠ s.cell.last) ∧
    (let s := labT fun x => { x with cuts := [⟨5, 9, 1⟩] }
     dstOk 41 = true ∧ srcOk 5 = true ∧ s.anyBound [41, 5] = false ∧ s.me.guard hd = true ∧ s.me.pp = false ∧ Follows s 1 9 {} {} ∧
       s.me.cuts = [⟨5, 9, 1⟩]) := by
  unfold Follows; decide
/-- SUB of a register from itself, the first read before the late result, the second after it (R67; worked by hand). -/
theorem test_late_result_within :
    (match exec (.sub hd 6 5 5 0) (labT fun x => { x.putReg 5 7 with cuts := [⟨5, 9, 1⟩] }) with
     | .next t => lane0 (t.cell.reg 0 6)
     | _ => 0) = 2 := by decide +kernel
/-- A cell whose channel 5 has a handler for T1. -/
def handlerCell (c : Cell) : Cell := { c with plane := { c.plane with bank0 := { c.plane.bank0 with handlers := [(10, 0x801000)] } } }
/-- A message for it, and that message come to its cell. -/
def letter : Pkt := { dest := 0, src := 1, chan := 5, cls := 4, pay := [7] }
/-- A cell whose deposits in the spill ring have all been written. -/
def ringWritten (c : Cell) : Cell :=
  let d := c.inbox.dep.foldl (fun c g => c.modPad (·.write g.1 32 g.2.toNat)) c
  { d with inbox := { d.inbox with dep := [] } }
def arrived (p : Pkt) : Flight := { p := p, pos := 0, vc := 0, phase := .arrived }
set_option maxRecDepth 20000 in
/-- ArrivalsBind: at the cell, out of the buffer, to the spill queue, from a latch, out of the spill queue, and the deposit. -/
theorem wit_arrivals :
    (let s : State := { modFocus lab handlerCell with mnet := [arrived letter] }
     s.cur = (0 : Name).toNat ∧ s.ready 0 [0, 2] = some (arrived letter) ∧ letter.dest = 0 ∧ letter.kind = 0 ∧ letter.anti = false ∧
       letter.tmd = false ∧ letter.causal = none ∧ letter.loc = false ∧ letter.chan ≠ 57 ∧ s.cell.usable letter.chan.toNat = true ∧
       s.cell.pausing = false ∧ hTimed (s.cell.hword letter.chan.toNat) = false ∧ s.cell.masked letter = false ∧ s.cell.inbox.occ = 0 ∧
       s.cell.inbox.ibuf = [] ∧ s.cell.inbox.latches = [] ∧ s.cell.bindable letter.chan.toNat = some 1 ∧
       curPos s (0 : Name).toNat = some ⟨0, 0, 0⟩) ∧
    (let s := modFocus lab fun c => { c with inbox := { c.inbox with dep := [(0x7FE0, 5)] } }
     s.cur = (0 : Name).toNat ∧ s.heldAt (0 : Name).toNat = false ∧ s.cell.inbox.rbuf = [] ∧ s.cell.inbox.ibuf = [] ∧
       s.cell.inbox.dep = [(0x7FE0, 5)] ∧ s.cell.sleepers = []) ∧
    (let s := modFocus lab fun c =>
       let c := handlerCell c
       { c with inbox := { c.inbox with ibuf := [letter] } }
     s.cell.inbox.dep = [] ∧ s.cell.inbox.rbuf = [] ∧ s.cell.inbox.ibuf = letter :: [] ∧ s.cell.disposal letter = .bind 1) ∧
    (let s := modFocus (labThread 1 busyThread) fun c =>
       let c := handlerCell c
       { c with inbox := { c.inbox with ibuf := [letter], latches := [letter] } }
     s.cell.inbox.dep = [] ∧ s.cell.inbox.rbuf = [] ∧ s.cell.inbox.ibuf = letter :: [] ∧ s.cell.disposal letter = .spill ∧ s.cell.inbox.latches = letter :: [] ∧
       s.cell.inbox.ibuf.length < 4 ∧ s.cell.pausing = false) ∧
    (let s := modFocus lab fun c =>
       let c := handlerCell c
       ringWritten (({ c with plane := { c.plane with live := [(0, 0x107600)] } } : Cell).spill letter)
     s.cell.inbox.occ ≠ 0 ∧ s.cell.arrivalBinds = false ∧ s.cell.depositing s.cell.sqHead = false ∧ s.cell.masked (s.cell.entryPkt s.cell.sqHead) = false ∧
       s.cell.bindable (s.cell.entryPkt s.cell.sqHead).chan.toNat = some 1 ∧ s.cell.badRead s.cell.sqHead 160 = none) ∧
    ((labThread 1 { st := .bound, wait := .deposit letter 3 2 false 3 }).cell.th 1).wait = .deposit letter 3 2 false 3 := by
  and_intros <;> decide
/-- The lab with a matrix instruction of T0 in the queue. -/
def queueLab (op : MOp) : State := labC fun c => { ownedBy 0 c with mx := { (ownedBy 0 c).mx with queue := [{ id := 4, t := 0, op := op }] } }
/-- MatrixUnitWorks. -/
theorem wit_matrix :
    (let s := queueLab (.rel 15)
     s.cur = (0 : Name).toNat ∧ s.cell.mx.queue = { id := 4, t := 0, op := .rel 15 } :: [] ∧ (s.cell.th 0).wait = .none) ∧
    (queueLab (.zero 15)).cell.mx.queue = { id := 4, t := 0, op := .zero 15 } :: [] ∧
    (queueLab (.lease 15 1)).cell.mx.queue = { id := 4, t := 0, op := .lease 15 1 } :: [] ∧
    (let s := modFocus (labThread 1 { st := .parked, pc := 8, wait := .lease 15 5 }) fun c => { c with mx := { c.mx with leaseQ := [⟨3, 1, 15, 5⟩] } }
     s.cell.mx.leaseQ = [⟨3, 1, 15, 5⟩] ∧ s.cell.leaseDead = false ∧
       (∀ i : Fin 4, (15 : BitVec 4).getLsbD i.val = true → s.cell.mx.owner[i] = none) ∧ s.cell.bound 1 5 = none ∧
       (s.cell.th 1).next (s.cell.th 1).pc.toNat = .at_ 9 {} {}) ∧
    (let s : State := { lab with cnet := [.torus 8 0 3 [5]] }
     s.cnet[0]? = some (.torus 8 0 3 [5]) ∧ s.cell.mx.torIn[(3 : BitVec 2).toNat]'(3 : BitVec 2).isLt = none ∧
       s.crosses (8 : Name).toNat (0 : Name).toNat = true) := by
  and_intros <;> decide
/-- MatrixUnitWorks: a tile given back before, which a queued instruction still names. -/
theorem wit_leaving :
    let e : MEntry := { id := 5, t := 0, op := .zero 1 }
    let s := labC fun c => { ownedBy 0 c with mx := { (ownedBy 0 c).mx with queue := [{ id := 4, t := 0, op := .rel 1 }, e] } }
    s.cell.mx.queue = { id := 4, t := 0, op := .rel 1 } :: [e] ∧ (1 : BitVec 4).getLsbD (0 : Fin 4).val = true ∧
      s.cell.mx.owner[(0 : Fin 4)] = some 0 ∧ (∃ x ∈ [e], x.op.names 0 = true) ∧ ¬∃ x ∈ [e], x.op.names 1 = true := by
  and_intros <;> decide
/-- EnginesComplete: a read of the last granule, a completion, an error, a record with nothing left. -/
theorem wit_engines :
    (let x : CopyEnt := { copyDone with todo := [{ loc := 0x7FE0, len := 32, ga := 0 }] }
     let s := labC (·.setEnt 15 (some x))
     s.cur = (0 : Name).toNat ∧ s.cell.eng.ents[(15 : Fin 16)] = some x ∧ x.put = true ∧ x.err = none ∧ s.stopping = false ∧
       s.asksOf (.copy 0 15) = [] ∧ s.cell.unmarkedBut x.exempt 0x7FE0 32 = false ∧ s.cell.badRead 0x7FE0 32 = none) ∧
    (let s := labC (·.setEnt 15 (some copyDone))
     s.cell.eng.ents[(15 : Fin 16)] = some copyDone ∧ copyDone.todo = [] ∧ copyDone.err = none ∧ copyDone.woff ≠ 0xFFFF ∧ s.cell.eng.sigs.length < 2) ∧
    (let x : CopyEnt := { copyDone with err := some (3, 0) }
     let s := labC (·.setEnt 15 (some x))
     s.cell.eng.ents[(15 : Fin 16)] = some x ∧ x.err = some (3, 0) ∧ x.woff ≠ 0xFFFF ∧ ∀ p ∈ x.todo, p.out = false) ∧
    (let s := labC (·.setRec 3 (some ⟨3, 0⟩))
     s.cell.eng.recs[(3 : Fin 4)] = some ⟨3, 0⟩ ∧ s.cell.barSleepers = []) := by
  and_intros <;> decide
/-- Two dies in one partition. -/
def lab2 : State := { lab with dieMap := [0, 1], parts := [(0, { labPart with dies := [0, 1] })] }
/-- A packet without learning, for cell 0. -/
def plainPkt : Pkt := { dest := 0, src := 1, kind := 0, nolrn := true }
/-- A packet that may learn, and an entry for cell 1. -/
def knownPkt : Pkt := { dest := 1, src := 0, kind := 0 }
/-- RoutersForward: a packet that may look up its name and finds no entry, at the router of its place. -/
theorem wit_router_unknown :
    let f : Flight := { p := { knownPkt with dest := 0 }, pos := 0, vc := 0 }
    let s : State := { lab with mnet := [f] }
    s.mnet[0]? = some f ∧ f.phase = .moving ∧ f.p.isReply = false ∧ f.p.causal = none ∧ f.p.nolrn = false ∧ tableHit s f.pos f.p.dest = none ∧
      physDie s (nameDie f.p.dest.toNat) = some (posOf f.pos).die ∧ curPos s f.p.dest.toNat = some ⟨0, 0, 0⟩ ∧ routerOf ⟨0, 0, 0⟩ = f.pos ∧
      nameAt s (posOf f.pos) = some f.p.dest.toNat ∧ s.laterIn 0 f = false := by
  and_intros <;> decide
/-- RoutersForward: at the router of its place, one column east of it, and where a table has its name. -/
theorem wit_routers :
    (let f : Flight := { p := plainPkt, pos := 0, vc := 0 }
     let s : State := { lab with mnet := [f] }
     s.mnet[0]? = some f ∧ f.phase = .moving ∧ f.p.isReply = false ∧ f.p.causal = none ∧ f.p.nolrn = true ∧ s.laterIn 0 f = false ∧
       physDie s (nameDie f.p.dest.toNat) = some (posOf f.pos).die ∧ curPos s f.p.dest.toNat = some ⟨0, 0, 0⟩ ∧
       routerOf ⟨0, 0, 0⟩ = f.pos ∧ nameAt s (posOf f.pos) = some f.p.dest.toNat) ∧
    (let f : Flight := { p := plainPkt, pos := 1, vc := 0 }
     let s : State := { lab with mnet := [f] }
     s.mnet[0]? = some f ∧ physDie s (nameDie f.p.dest.toNat) = some (posOf f.pos).die ∧ curPos s f.p.dest.toNat = some ⟨0, 0, 0⟩ ∧
       s.boundaryShut f = false ∧ routerOf ⟨0, 0, 0⟩ ≠ f.pos ∧ hopFrom f.pos 4 = some 0 ∧ 0 / 16384 = f.pos / 16384 ∧
       ¬(posOf f.pos).col < 0 ∧ 0 < (posOf f.pos).col ∧ (posOf f.pos).col ≠ 0 ∧ f.turned = false) ∧
    (let f : Flight := { p := knownPkt, pos := 0, vc := 0 }
     let e : NameEnt := { name := 1, port := 2, age := 3 }
     let s : State := { lab with mnet := [f], routers := [(0, [e])] }
     s.mnet[0]? = some f ∧ f.phase = .moving ∧ f.p.isReply = false ∧ f.p.causal = none ∧ f.p.nolrn = false ∧
       tableHit s f.pos f.p.dest = some e ∧ f.turned = false ∧ hopFrom f.pos e.port.toNat = some 1 ∧ 1 / 16384 = f.pos / 16384 ∧
       s.boundaryShut f = false) := by
  and_intros <;> decide
/-- PathsAreTaken, RemoteAtomicsAnswered: a free path, an acknowledgement, an atomic on the last word, its answer. -/
theorem wit_travel :
    (let p : Pkt := { letter with src := 0, dest := 1 }
     let s := labC fun c => { c with msg := { c.msg with egress := [.msg p] } }
     s.cur = (0 : Name).toNat ∧ s.cell.msg.egress = .msg p :: [] ∧ p.src = 0 ∧ p.kind = 0 ∧ curPos s (0 : Name).toNat = some ⟨0, 0, 0⟩ ∧
       s.windowShut p.dest.toNat = false ∧
       s.cell.msg.busy.contains ⟨p.stid, p.dest, p.cls⟩ = false ∧ s.cell.msg.busy.length < 32) ∧
    (let f := arrived { letter with kind := 4 }
     ({ lab with mnet := [f] } : State).ready 0 [4] = some f ∧ f.p.dest = 0) ∧
    (let f := arrived { letter with kind := 1, pay := [BitVec.ofNat 256 (0x7FF8 + 2 ^ 64 * 5)] }
     let s : State := { lab with mnet := [f] }
     s.ready 0 [1] = some f ∧ curPos s (0 : Name).toNat = some ⟨0, 0, 0⟩ ∧ f.p.dest = 0 ∧ f.p.causal = none ∧ 0x7FF8 % 8 = 0 ∧ 0x7FF8 < 0x8000 ∧
       f.p.pay.headD 0 = BitVec.ofNat 256 (0x7FF8 + 2 ^ 64 * 5) ∧ 5 < 2 ^ 64 ∧ s.cell.unmarked 0x7FF8 8 = false ∧
       s.cell.badRead 0x7FF8 8 = none ∧ s.cell.sleepers = [] ∧ s.windowFull f.p.dest.toNat f.p.src.toNat = false) ∧
    (let f := arrived { letter with kind := 3 }
     ({ lab with mnet := [f] } : State).ready 0 [3] = some f ∧ f.p.dest = 0 ∧ f.p.causal = none ∧ f.p.post = false) := by
  and_intros <;> decide
/-- A contribution to tag 4094. -/
def share (n : Nat) : Contribution := ⟨4094, 0, { data := List.replicate n 5 }⟩
/-- ReductionsProgress: up to the parent; into a slot; a slot whose time has passed; a credit; a result of one
granule, which comes, is written, and is whole. -/
theorem wit_reductions_move :
    (let b : Bucket := ⟨0, false, true, 1, 8, 1, 0⟩
     let n : TreeNode := ⟨0, 1, 1, true, 0, false⟩
     let g : Globals := { trees := [(1, [n, ⟨1, 0, 0, true, 0, false⟩])], bucks := [(4094, b)] }
     let s := withGlobals g (labC fun c => { c with red := { c.red with buf := some (share 1) } })
     s.cur = (0 : Name).toNat ∧ s.cell.red.upq = [] ∧ s.cell.red.buf = some (share 1) ∧ s.bucketNode 4094 = some (b, n) ∧
       s.globals.hosts b.tree n = false ∧ s.cell.red.upOut.contains 4094 = false ∧ n.xp = false ∧ s.windowShut n.pname.toNat = false) ∧
    (let s : State := { withGlobals (treeGlobals 1) lab with snet := [.contrib 0 0 0 (share 1)] }
     s.snet[0]? = some (.contrib 0 0 0 (share 1)) ∧ s.sReady 0 = true ∧
       awaits s (0 : Name).toNat = false ∧ s.bucketNode 4094 = some (⟨0, false, true, 1, 8, 1, 0⟩, ⟨0, 0, 0, true, 0, false⟩) ∧ s.cell.red.late 4094 0 = false ∧ s.cell.red.slots = []) ∧
    (let g : Globals := { trees := [(1, [⟨0, 0, 0, true, 0, false⟩, ⟨1, 4, 0, true, 0, false⟩])], bucks := [(4094, ⟨0, false, true, 1, 8, 1, 0⟩)] }
     let s := withGlobals g lab
     s.bucketNode 4094 = some (⟨0, false, true, 1, 8, 1, 0⟩, ⟨0, 0, 0, true, 0, false⟩) ∧
       ∃ l ∈ s.globals.children 1 ⟨0, 0, 0, true, 0, false⟩, l ≠ 0) ∧
    (let s : State := { withGlobals (treeGlobals 1) (labC fun c => { c with red := { c.red with slots := [⟨4094, 0, 0, []⟩] } }) with
       dieCycle := [(0, 256)] }
     s.bucketNode (4094 : BitVec 12).toNat = some (⟨0, false, true, 1, 8, 1, 0⟩, ⟨0, 0, 0, true, 0, false⟩) ∧
       s.cell.red.slots = [⟨4094, 0, 0, []⟩] ∧ (4094 : Nat) = (4094 : BitVec 12).toNat ∧ s.frozen = false ∧ (8 : Nat) ≠ 0 ∧
       2 ^ 8 ≤ (cycleOf s s.cell.name.toNat - (0 : W64)).toNat) ∧
    ({ lab with snet := [.credit 0 0 4094] } : State).snet[0]? = some (.credit 0 0 4094) ∧
    (let g : Globals := { trees := [(1, [⟨0, 0, 0, true, 0, false⟩])], bucks := [(4094, ⟨0, false, false, 1, 8, 1, 0⟩)] }
     let s : State := { withGlobals g lab with snet := [.result 0 0 (share 1)] }
     s.snet[0]? = some (.result 0 0 (share 1)) ∧ s.sReady 0 = true ∧ awaits s (0 : Name).toNat = false ∧ s.cell.latched 56 = false ∧
       (∀ m ∈ s.snet, m.writer ≠ some (0, 4094)) ∧ (∀ m ∈ s.snet.take 0, m.atDie ≠ some (0, 0, 4094)) ∧
       s.bucketNode 4094 = some (⟨0, false, false, 1, 8, 1, 0⟩, ⟨0, 0, 0, true, 0, false⟩) ∧ TreeNode.isRoot ⟨0, 0, 0, true, 0, false⟩ = true) ∧
    (∀ left : List Nat, left ∈ [[0], []] →
      let s : State := { withGlobals (treeGlobals 1) lab with snet := [.writing 0 0 (share 1) left] }
      s.snet[0]? = some (.writing 0 0 (share 1) left) ∧ s.globals.bucket 4094 = some ⟨0, false, true, 1, 8, 1, 0⟩ ∧
        s.cell.latched 56 = false) := by
  and_intros <;> decide
/-- A circuit within cell 0, of rings of one granule. -/
def circuit : Circuit := { sname := 0, dname := 0, sbase := 0, dbase := 0x7FE0, size := 1, pidx := 0x40, lidx := 0x80 }
/-- The lab with that circuit, and PCNT at one. -/
def circuitLab (m : List CMsg) : State :=
  { withGlobals { circs := [(255, circuit)] } (labC fun c => { c with pad := { c.pad with mem := Memory.writeNat [] 0x200 8 1 } }) with cnet := m }
/-- CircuitsCarry. -/
theorem wit_circuits :
    (let s := circuitLab []
     s.cur = (0 : Name).toNat ∧ KM.get s.globals.circs (255 : BitVec 8).toNat = some circuit ∧ circuit.sname = 0 ∧
       (s.cell.circEnd 255).sent < s.cell.bytes (8 * circuit.pidx) 8 ∧ (s.cell.circEnd 255).sent - (s.cell.circEnd 255).credit < circuit.size ∧
       s.cell.badRead (circuit.sbase + 32 * ((s.cell.circEnd 255).sent % circuit.size)) 32 = none ∧ s.cell.sleepers = [] ∧
       s.cell.badRead (8 * circuit.pidx) 8 = none ∧ s.windowShut circuit.dname.toNat = false) ∧
    (let s := circuitLab [.granule 0 255 0 5]
     s.cnet[0]? = some (.granule 0 255 0 5) ∧ KM.get s.globals.circs 255 = some circuit ∧ s.cur = circuit.dname.toNat ∧
       (s.cell.circEnd 255).landed = 0 ∧ s.cell.landBlocked (circuit.dbase + 32 * (0 % circuit.size)) 32 = false ∧ s.sReady circuit.dname = true ∧
       s.cell.sleepers = [] ∧ (∀ n : Fin 8, s.cell.eng.wm[n].open_ = false) ∧ (s.cell.circEnd 255).wrote = false) ∧
    (let s := modFocus (circuitLab [.granule 0 255 0 5]) fun c => { c with msg := { c.msg with circ := [(255, { wrote := true })] } }
     s.sReady circuit.dname = true ∧ (s.cell.circEnd 255).landed = 0 ∧ (s.cell.circEnd 255).wrote = true) ∧
    (∃ q, part (circuitLab []) (0 : PartIdx).toNat = some q ∧ KM.get q.globals.circs 255 = some circuit ∧
      part (circuitLab []) (255 / 256) = some q ∧ KM.get q.globals.circs (255 % 256) = some circuit) ∧
    ((circuitLab []).crosses circuit.dname.toNat circuit.sname.toNat = true ∧
      (getCell (circuitLab []) circuit.dname.toNat).badRead (8 * circuit.lidx + 8) 8 = none) := by
  refine ⟨by and_intros <;> decide, by and_intros <;> decide, by and_intros <;> decide, ⟨_, rfl, by decide, rfl, by decide⟩, by decide, by decide⟩
/-- A packet from die 0 that die 1 holds, its vector one ahead in entry `e`. -/
def heldFor (e : Nat) : Flight := { arrived { letter with dest := 0x4000, causal := some ⟨0, 1, 0, [(e, 1)], false⟩ } with pos := 16384, phase := .moving }
/-- CausalUnitsOrder: at the last column of die 0 towards die 1; come to die 1; held, released, applied, acknowledged; a query and a notice. -/
theorem wit_causal :
    (let f : Flight := { p := { plainPkt with dest := 0x4000 }, pos := 127, vc := 0 }
     let s : State := { lab2 with mnet := [f] }
     s.mnet[0]? = some f ∧ s.atGate f = some (0, 1) ∧ (unitOf s 0).inWindow (Sp.get (unitOf s 0).k 0 + 1) = true ∧
       ((unitOf s 0).stamp 0 1).1.fv = false) ∧
    (let s : State := { lab2 with mnet := [heldFor 0] }
     s.mnet[0]? = some (heldFor 0) ∧ s.atHome (heldFor 0) = some (1, ⟨0, 1, 0, [(0, 1)], false⟩) ∧ (heldFor 0).p.isControl = false ∧
       (unitOf s 1).hold.length < 2048) ∧
    (let s : State := { lab2 with causal := [(1, { hold := [.m (heldFor 0)] })] }
     (unitOf s (1 : BitVec 6).toNat).hold[0]? = some (.m (heldFor 0)) ∧ (Held.m (heldFor 0)).causal = some ⟨0, 1, 0, [(0, 1)], false⟩ ∧
       (unitOf s 1).vector ⟨0, 1, 0, [(0, 1)], false⟩ = some [(0, 1)] ∧ (0 : BitVec 16) = Sp.get (unitOf s 1).a 0 ∧
       ∀ e, e < 64 → e ≠ (0 : BitVec 6).toNat → e ≠ (1 : BitVec 6).toNat → (Sp.get (unitOf s 1).a e - Sp.get [(0, (1 : BitVec 16))] e).toNat < 2 ^ 15) ∧
    (let s : State := { lab2 with causal := [(1, { released := [(0, 1, [(0, 1)])], done := [(0, 1)] })] }
     (unitOf s (1 : BitVec 6).toNat).released[0]? = some (0, 1, [(0, 1)]) ∧ (unitOf s 1).done.contains (0, 1) = true ∧ (unitOf s 1).notices = []) ∧
    ({ lab2 with cacks := [(0, 1, 1)] } : State).cacks[0]? = some (0, 1, 1) ∧
    (let s : State := { lab2 with causal := [(1, { hold := [.m (heldFor 63)] })] }
     (unitOf s (1 : BitVec 6).toNat).hold[0]? = some (.m (heldFor 63)) ∧ (Held.m (heldFor 63)).causal = some ⟨0, 1, 0, [(63, 1)], false⟩ ∧ (unitOf s 1).vector ⟨0, 1, 0, [(63, 1)], false⟩ = some [(63, 1)] ∧
       (63 : BitVec 6).toNat ≠ (0 : BitVec 6).toNat ∧ (63 : BitVec 6) ≠ 1 ∧
       2 ^ 15 ≤ (Sp.get (unitOf s 1).a (63 : BitVec 6).toNat - Sp.get [(63, (1 : BitVec 16))] (63 : BitVec 6).toNat).toNat) ∧
    (∀ k : BitVec 4, k = 6 ∨ k = 7 →
      let f : Flight := { heldFor 0 with p := { (heldFor 0).p with kind := k } }
      let s : State := { lab2 with mnet := [f] }
      s.mnet[0]? = some f ∧ s.atHome f = some (1, ⟨0, 1, 0, [(0, 1)], false⟩) ∧ f.p.kind = k ∧ (unitOf s 1).notices = [] ∧
        (Sp.get (unitOf s 1).a 0 - 0).toNat < 2 ^ 15 ∧ 2 ^ 15 ≤ (Sp.get (unitOf s 1).a 0 - 1).toNat) := by
  refine ⟨by and_intros <;> decide, by and_intros <;> decide, by and_intros <;> decide, by and_intros <;> decide, by decide,
    by and_intros <;> decide, ?_⟩
  rintro k (rfl | rfl) <;> and_intros <;> decide
/-- A table reservation has at least one unit of 4 MiB (R31). -/
theorem tableUnits_pos (d : Nat) : 1 ≤ tableUnits d := Nat.le_add_right 1 _
/-- The lab with two entries in the tables of die 0. -/
def mapped (a v b w : Nat) : State := { lab with tables := Memory.writeNat (Memory.writeNat [] a 8 v) b 8 w }
/-- A region's entry in order, with a table within the first unit. -/
theorem level1_of (s : State) (d va e : Nat) (h : tableWord s d (8 * (va / 2 ^ 30)) = e)
    (h1 : ¬(bitOf e 0 = false ∨ bits e 2 10 ≠ 0 ∨ bits e 40 24 ≠ 0))
    (h2 : bits e 12 28 * 4096 + (if bitOf e 1 then 2 ^ 17 else 2 ^ 21) ≤ 2 ^ 22) :
    level1 s d va = some (bitOf e 1, bits e 12 28 * 4096) := by
  have u := tableUnits_pos d
  subst h
  unfold level1
  dsimp only
  rw [if_neg h1, if_neg (by omega)]
/-- A walk over a region's entry and a page's in order. -/
theorem walkEnd_of (s : State) (d va p b e : Nat) (g : Bool) (h : level1 s d va = some (g, b)) (h1 : tableWord s d (level2At g b va) = e)
    (h2 : entOk g e = true) (h3 : entReach s p e = true) : walkEnd s d va p = .ok (g, e) := by
  subst h1
  unfold walkEnd
  rw [h]
  dsimp only
  rw [if_neg (by rw [h2]; decide), if_neg (by rw [h3]; decide)]
/-- A walk over a region's entry and a page's that is not in order. -/
theorem walkEnd_none (s : State) (d va p b e : Nat) (g : Bool) (h : level1 s d va = some (g, b)) (h1 : tableWord s d (level2At g b va) = e)
    (h2 : entOk g e = false) : walkEnd s d va p = .error 0x0B := by
  subst h1
  unfold walkEnd
  rw [h]
  dsimp only
  rw [if_pos h2]
/-- A walk that a page walker serves. -/
def served (va : Nat) (l : List Asker) : Walk := { die := 0, rtu := 0, va := va, who := l, busy := true }
/-- Walks of both granules, in the first region and at the end of the last, and one that a copy's write waits for and that ends with a
fault, meet their premises. -/
theorem wit_walks :
    (let s : State := { mapped 0 0x200001 0x200000 3 with walks := [served 0 [⟨.copy 0 15, 0, true⟩]] }
     s.walks[0]? = some (served 0 [⟨.copy 0 15, 0, true⟩]) ∧ s.missQ = [] ∧ walkEnd s 0 0 ((partOfDie s 0).getD 64) = .ok (false, 3) ∧
       bitOf 3 1 = true ∧ (served 0 [⟨.copy 0 15, 0, true⟩]).busy = true ∧ ∀ v ∈ dropAt s.walks 0, v.die = 0 → v.busy = true) ∧
    (let s : State := { mapped 0x3FFF8 0x80003 0x9FFF8 19 with walks := [served 0x1FFFFFFFFFFF []] }
     s.walks[0]? = some (served 0x1FFFFFFFFFFF []) ∧ s.missQ = [] ∧
       walkEnd s 0 0x1FFFFFFFFFFF ((partOfDie s 0).getD 64) = .ok (true, 19)) ∧
    (let s : State := { mapped 0 0x200001 0x200000 2 with
       cell := lab.cell.setEnt 15 (some copyDone), walks := [served 0 [⟨.copy 0 15, 0, true⟩]] }
     s.walks[0]? = some (served 0 [⟨.copy 0 15, 0, true⟩]) ∧ s.missQ = [] ∧ walkEnd s 0 0 ((partOfDie s 0).getD 64) = .error 0x0B ∧
       s.cur = (0 : Name).toNat ∧ s.cell.eng.ents[(15 : Fin 16)] = some copyDone ∧ copyDone.err = none) := by
  refine ⟨⟨rfl, rfl, ?_, by decide, rfl, by decide⟩, ⟨rfl, rfl, ?_⟩, ⟨rfl, rfl, ?_, rfl, by decide, by decide⟩⟩
  · exact walkEnd_of _ 0 0 _ 0x200000 3 false (level1_of _ 0 0 0x200001 (by decide) (by decide) (by decide)) (by decide) (by decide) (by decide)
  · exact walkEnd_of _ 0 0x1FFFFFFFFFFF _ 0x80000 19 true (level1_of _ 0 0x1FFFFFFFFFFF 0x80003 (by decide) (by decide) (by decide)) (by decide) (by decide)
      (by decide)
  · exact walkEnd_none _ 0 0 _ 0x200000 2 false (level1_of _ 0 0 0x200001 (by decide) (by decide) (by decide)) (by decide) (by decide)
/-- TranslationAndStores: a walk that waits for the walker of one that ends. -/
theorem wit_walker :
    let v : Walk := { die := 0, rtu := 15, va := 4096, who := [] }
    let s : State := { lab with walks := [served 0 [], v] }
    s.walks[0]? = some (served 0 []) ∧ (served 0 []).busy = true ∧ s.missQ = [] ∧ dropAt s.walks 0 = [v] ∧ v.die = (served 0 []).die ∧
      v.rtu < 16 ∧ v.busy = false := by decide
/-- TranslationAndStores: a shootdown and its answer, a table's last word of the first unit, for a partition there and for one saved. -/
theorem wit_translation :
    part lab (0 : PartIdx).toNat = some labPart ∧
    (let s : State := { lab with shoot := [⟨0, 0, 4095, [(0, 15)]⟩] }
     s.shoot = [⟨0, 0, 4095, [(0, 15)]⟩] ∧ [(0, 15)].contains ((0 : DieSite).toNat, (15 : BitVec 4).toNat) = true) ∧
    ((0xFFFFFF8 : BitVec 28).toNat % 8 = 0 ∧ (0 : Nat) ∈ labPart.dies ∧ (logDie lab 0).isSome) ∧
    (∃ k : SavedPart, ({ lab with savedParts := [k] } : State).savedParts = [k] ∧ k.num = (5 : PartIdx).toNat ∧
      part { lab with savedParts := [k] } (5 : PartIdx).toNat = none) ∧
    (0x3FFFF8 : BitVec 28).toNat + 8 ≤ tableUnits 0 * 2 ^ 22 ∧ (0x3FFFF8 : BitVec 28).toNat + 8 ≤ Config.tableBytes := by
  have u := tableUnits_pos 0
  refine ⟨by decide, by decide, by decide, ⟨{ num := 5, ctx := 0, part := labPart, tabs := [], resid := [], sres := [], cres := [] }, rfl, rfl, by decide⟩, ?_, by decide⟩
  rw [show (0x3FFFF8 : BitVec 28).toNat = 0x3FFFF8 from rfl]
  omega
/-- The partition of the lab with structures of light and a source under key 9. -/
def litPart (x : Source) : Part := { labPart with globals := lightGlobals, srcs := [(9, x)] }
/-- The lab with that partition. -/
def lit (x : Source) (s : State) : State := { s with parts := [(0, litPart x)] }
/-- A source with block 1 on the light path, the last frame owed to cell 0. -/
def flyingSource : Source := { started := true, m := 0, k := 2, air := [{ k := 1, owed := [(0, 1)], data := List.replicate 9 7 }] }
/-- LightSources: the last block of the window, the first beyond it, the three messages, a ring. -/
theorem wit_sources :
    (let x : Source := { started := true, m := 2, k := 3 }
     let s := lit x lab
     part s (0 : PartIdx).toNat = some (litPart x) ∧ KM.get (litPart x).srcs (9 : BitVec 8).toNat = some x ∧
       KM.get (litPart x).globals.keys 9 = some keyEnt ∧ KM.get (litPart x).globals.plans 9 = some ⟨4, 0, 288⟩ ∧ x.k < 4 ∧
       x.k < x.m + keyEnt.nslot ∧ s.tuned 0 = true ∧ s.sourceFree (litPart x) keyEnt = true ∧ 1 < (x.unread keyEnt.blk).length) ∧
    (({ reads := (List.range 8).map fun i => (i, some 7) } : Source).unread keyEnt.blk).length = 1 ∧
    (let x : Source := { started := true, m := 0, k := 2 }
     let s := lit x lab
     part s 0 = some (litPart x) ∧ KM.get (litPart x).srcs 9 = some x ∧ x.m + keyEnt.nslot ≤ x.k) ∧
    (∀ m : SMsg, m ∈ [SMsg.srcCount 0 9 1, .srcStart 0 9, .srcRepair 0 9 0 1] →
      let s : State := { lit flyingSource lab with snet := [m] }
      s.relAt 0 = some m ∧ part s 0 = some (litPart flyingSource) ∧ KM.get (litPart flyingSource).srcs 9 = some flyingSource) ∧
    ({ lab with rings := [(0, 5, false)] } : State).rings[0]? = some ((0 : PartIdx).toNat, 5, false) := by
  refine ⟨by and_intros <;> decide, by decide, by decide, ?_, by decide⟩
  intro m hm
  simp only [List.mem_cons, List.not_mem_nil, or_false] at hm
  obtain rfl | rfl | rfl := hm <;> decide
/-- A source whose frame 1 of block 1 waits for a repair request. -/
def lostSource : Source := { flyingSource with air := [{ k := 1, lost := [(0, 1)], data := List.replicate 9 7 }] }
/-- LightSources: a frame to repair. -/
theorem wit_repair :
    let b : Block := { k := 1, lost := [(0, 1)], data := List.replicate 9 7 }
    let s : State := { lit lostSource lab with snet := [.srcRepair 0 9 0 1] }
    s.relAt 0 = some (.srcRepair 0 9 0 1) ∧ part s (0 : PartIdx).toNat = some (litPart lostSource) ∧
      KM.get (litPart lostSource).srcs 9 = some lostSource ∧ lostSource.air = [b] ∧ b.lost.contains ((0 : Name).toNat, 1) = true := by decide
/-- LandingSlots: the only granule of the last frame of a block, then of the first of two, then the seventh of a frame of eight; a frame to
ask for again; a release that takes an entry, and one that is reported; a count and a repair request at the root. -/
theorem wit_landing :
    (∀ l : Landing, l ∈ [({ armed := true, blk := 1, got := [0] } : Landing), { armed := true, blk := 1 }, { armed := true, blk := 1, fails := [1, 1] }] →
      let b : Block := { k := 1, owed := [(0, 1)], data := List.replicate 9 7 }
      let s := lit flyingSource (modFocus lab (slotCell l))
      s.cur = (0 : Name).toNat ∧ s.keyEnt (s.cell.slotKey 7) = some keyEnt ∧ part s s.cell.part.toNat = some (litPart flyingSource) ∧
        KM.get (litPart flyingSource).srcs (s.cell.slotKey 7) = some flyingSource ∧ flyingSource.blockFor (0 : Name).toNat 1 = some b ∧
        s.cell.slotV 7 = true ∧ s.cell.land[(7 : Fin 8)] = l ∧ l.armed = true ∧ l.latch = false ∧ l.blk = b.k ∧
        s.cell.wmLatched (s.cell.slotWm 7).val = false ∧ b.bad.contains 1 = false ∧ (l.fails.filter (· == 1)).length < 3 ∧
        l.missing 1 ((b.data.drop (8 * 1)).take 8).length = [0] ∧ (∀ g ∈ l.part, g / 8 ≠ 1) ∧ s.cell.sleepers = [] ∧
        s.reportTo (s.cell.slotKey 7) = some (0, 0)) ∧
    keyEnt.frames = 2 ∧ ({ part := [0, 1, 2, 3, 4, 5] } : Landing).missing 0 8 = [6, 7] ∧
    (let s := lit flyingSource (modFocus lab (slotCell { latch := true, armed := true, blk := 3 }))
     s.cur = (0 : Name).toNat ∧ s.cell.land[(7 : Fin 8)].latch = true ∧ s.cell.eng.sigs.contains 7 = false ∧ s.cell.eng.sigs.length < 2 ∧
       s.cell.wmLatched (s.cell.slotWm 7).val = false ∧ s.slotRead 7 = false) ∧
    (let s := modFocus (lit flyingSource (modFocus lab (slotCell { latch := true, armed := true, blk := 3 }))) fun c =>
       { c with eng := { c.eng with sigs := [7] } }
     s.cur = (0 : Name).toNat ∧ s.cell.eng.sigs.contains 7 = true ∧ s.reportTo (s.cell.slotKey 7) = some (0, 0)) ∧
    (let q : Part := { litPart flyingSource with combs := [(combKey 9 0, { sent := 1 })] }
     let s : State := { lab with parts := [(0, q)], snet := [.relCount 0 9 0 0 2] }
     s.relAt 0 = some (.relCount 0 9 0 0 2) ∧ ({ s with snet := [.relRepair 0 9 0 0 0 1] } : State).relAt 0 = some (.relRepair 0 9 0 0 0 1) ∧
       part s (0 : PartIdx).toNat = some q ∧
       KM.get q.globals.keys 9 = some keyEnt ∧ q.globals.node keyEnt.tree 0 = some ⟨0, 0, 0, true, 0, false⟩ ∧
       TreeNode.isRoot ⟨0, 0, 0, true, 0, false⟩ = true ∧ KM.get q.combs (combKey 9 0) = some { sent := 1 } ∧
       q.globals.children keyEnt.tree ⟨0, 0, 0, true, 0, false⟩ = [0]) := by
  refine ⟨?_, by decide, by decide, by and_intros <;> decide, by and_intros <;> decide, by and_intros <;> decide⟩
  intro l hl
  simp only [List.mem_cons, List.not_mem_nil, or_false] at hl
  obtain rfl | rfl | rfl := hl <;> and_intros <;> decide
/-- A cell with nothing left to do, its idle bank READY or not. -/
def doneCell (i : IdleState) (c : Cell) : Cell := { c with thr := c.thr.set 0 { st := .stopped }, plane := { c.plane with idle := i, ended := i == .ready } }
/-- The partition of the lab with a token on its way. -/
def tokenPart (a : Action) (held : List Nat) : Part :=
  { labPart with token := some { act := a, left := if held = [] then [0] else [], held := held, ends := true } }
/-- The lab with its cell done and that token. -/
def tokenLab (a : Action) (held : List Nat) (i : IdleState) : State := { labC (doneCell i) with parts := [(0, tokenPart a held)] }
/-- TokensPass: REPEAT, SWAP, PAUSE, and a cell without a load; RoundEndsAreReported. -/
theorem wit_token :
    (∀ a : Action, a ∈ [Action.repeat_, .pause] →
      let s := tokenLab a [] .empty
      s.cur = (0 : Name).toNat ∧ partOfName s (0 : Name).toNat = some 0 ∧ part s 0 = some (tokenPart a []) ∧
        s.tokenAt 0 (0 : Name).toNat = some { act := a, left := [0], held := [], ends := true } ∧ s.cell.plane.loaded = true) ∧
    (let s := tokenLab .swap [] .ready
     s.cur = (0 : Name).toNat ∧ partOfName s (0 : Name).toNat = some 0 ∧ s.tokenAt 0 (0 : Name).toNat = some ⟨.swap, [0], [], true⟩ ∧
       s.cell.plane.wantsSwap = true ∧ s.cell.plane.canSwap = true) ∧
    (let s := modFocus (tokenLab .swap [] .empty) fun c => { c with plane := { c.plane with loaded := false } }
     s.tokenAt 0 (0 : Name).toNat = some ⟨.swap, [0], [], true⟩ ∧ s.cell.plane.wantsSwap = false) := by
  refine ⟨?_, by and_intros <;> decide, by and_intros <;> decide⟩
  intro a ha
  simp only [List.mem_cons, List.not_mem_nil, or_false] at ha
  obtain rfl | rfl := ha <;> and_intros <;> decide
/-- RoundsComplete: a held SWAP, a bank to clear, a start, and a wave's start, answer and result. -/
theorem wit_completion_rounds :
    (let s := tokenLab .swap [0] .ready
     s.cur = (0 : Name).toNat ∧ partOfName s (0 : Name).toNat = some 0 ∧ part s 0 = some (tokenPart .swap [0]) ∧
       (tokenPart .swap [0]).token = some ⟨.swap, [], [0], true⟩ ∧ s.cell.plane.canSwap = true ∧ s.still (0 : Name).toNat = true) ∧
    (labC fun c => { c with plane := { c.plane with clearing := true } }).cell.plane.clearing = true ∧
    (let q : Part := { labPart with paused := true, startAct := some .swap }
     let s : State := { lab with parts := [(0, q)] }
     part s (0 : PartIdx).toNat = some q ∧ q.startAct = some .swap ∧ s.awake (0 : PartIdx).toNat = true ∧ partCells s (0 : PartIdx).toNat ≠ []) ∧
    (let s := labC (doneCell .empty)
     part s (0 : PartIdx).toNat = some labPart ∧ partRoot s (0 : PartIdx).toNat = some 0 ∧ labPart.running = true ∧ labPart.wave = none ∧
       s.doneAt 0 = true) ∧
    (let q : Part := { labPart with wave := some { left := [0] } }
     let s : State := { labC (doneCell .empty) with parts := [(0, q)] }
     partOfName s (0 : Name).toNat = some 0 ∧ part s 0 = some q ∧ q.wave = some { left := [0] } ∧ s.doneAt (0 : Name).toNat = true) ∧
    (∀ q : Part, q ∈ [({ labPart with wave := some ⟨[], 2, 1⟩ } : Part), { labPart with wave := some ⟨[], 1, 1⟩ },
        { labPart with wave := some ⟨[], 1, 1⟩, lastTot := some (1, 1), rounds := 1 },
        { labPart with wave := some ⟨[], 1, 1⟩, lastTot := some (1, 1), timed := true }] →
      let s : State := { labC (doneCell .empty) with parts := [(0, q)] }
      part s (0 : PartIdx).toNat = some q ∧ q.wave.isSome = true ∧ q.lightQuiet = true ∧ q.gvt = none ∧ q.running = true ∧
        partCells s (0 : PartIdx).toNat ≠ []) ∧
    (∀ b : Bool, State.settled { labC (doneCell .empty) with
      parts := [(0, { labPart with wave := some ⟨[], 1, 1⟩, lastTot := some (1, 1), timed := b })] } (0 : PartIdx).toNat = true) := by
  refine ⟨by and_intros <;> decide, by decide, by and_intros <;> decide, by and_intros <;> decide, by and_intros <;> decide, ?_, by decide⟩
  intro q hq
  simp only [List.mem_cons, List.not_mem_nil, or_false] at hq
  obtain rfl | rfl | rfl | rfl := hq <;> and_intros <;> decide
/-- A cell whose channel 5 has a timed handler for T1, with this queue. -/
def timedCell (q : List TqEnt) (c : Cell) : Cell :=
  { c with plane := { c.plane with bank0 := { c.plane.bank0 with handlers := [(10, 0x881000)] } }, tim := { c.tim with tq := q } }
/-- A timed message of VRT 9. -/
def timedLetter : Pkt := { letter with tmd := true, vrt := 9 }
/-- The lab with a journal of one start entry of VRT 12 and one write entry of the last word, and a rollback to VRT 9. -/
def rollingLab : State :=
  labC fun c => { c with
    pad := { c.pad with
      mem := Memory.writeNat (Memory.writeNat (Memory.writeNat [] c.jBase 8 (jWord0 1 0 12)) (c.jBase + 16) 8 (jWord0 0 4095 12)) (c.jBase + 24) 8 77 }
    tim := { c.tim with jused := 2, lvt := 9, rbk := some { v := 9 } } }
/-- VirtualTime: the lowest message at GVT and above it; a message that enters, at LVT and below it; a write entry undone; an
anti-message and its positive, and one without. -/
theorem wit_virtual_time :
    (∀ v : BitVec 48, v = 0 ∨ v = 9 →
      let e : TqEnt := { p := { timedLetter with vrt := v }, done := false, slot := none }
      let s := labC (timedCell [e])
      s.cur = (0 : Name).toNat ∧ s.cell.tim.run = none ∧ s.cell.tim.rbk = none ∧ s.cell.nextTimed = some e ∧
        s.cell.bindable e.p.chan.toNat = some 1 ∧ s.cell.masked e.p = false ∧ s.cell.sleepers = [] ∧ e.slot = none ∧ s.cell.tim.gvt = 0 ∧
        s.cell.journalShort 1 = false) ∧
    (∀ v : BitVec 48, v = 9 ∨ v = 10 →
      let s := labC fun c =>
        let c := timedCell [] c
        { c with inbox := { c.inbox with ibuf := [timedLetter] }, tim := { c.tim with lvt := v } }
      s.cell.inbox.ibuf = timedLetter :: [] ∧ s.cell.mayEnter = some (timedLetter, none) ∧ s.cell.tim.rbk = none) ∧
    (let s := rollingLab
     s.cell.mayEnter = none ∧ s.cell.tim.rbk = some { v := 9 } ∧ s.cell.tim.run = none ∧ s.cell.tim.antiw = [] ∧ s.cell.sleepers = [] ∧
       s.cell.tim.jused = 2 ∧ ∀ i, i < 2 → s.cell.badRead (s.cell.jAt (s.cell.tim.jhead + i)) 16 = none) ∧
    (∀ l : List TqEnt, l ∈ [[{ p := timedLetter, done := false, slot := none }], []] →
      let f := arrived { timedLetter with anti := true }
      let s : State := { labC (timedCell l) with mnet := [f] }
      s.ready 0 [0] = some f ∧ curPos s (0 : Name).toNat = some ⟨0, 0, 0⟩ ∧ f.p.dest = 0 ∧ f.p.anti = true ∧ f.p.causal = none ∧
        s.cell.tim.rbk = none ∧ s.cell.inbox.ibuf = [] ∧ s.cell.tim.tq = l ∧ timedLetter.sameMsg f.p = true) := by
  refine ⟨?_, ?_, by and_intros <;> decide +kernel, ?_⟩
  · rintro v (rfl | rfl) <;> and_intros <;> decide +kernel
  · rintro v (rfl | rfl) <;> and_intros <;> decide +kernel
  · intro l hl
    simp only [List.mem_cons, List.not_mem_nil, or_false] at hl
    obtain rfl | rfl := hl <;> and_intros <;> decide +kernel
/-- GvtComputed: an interval of 2^4 cycles, a request, a cell's part in a first pass and in a later one, the end of a pass, and COMMIT. -/
theorem wit_gvt :
    (let q : Part := { labPart with timed := true }
     let s : State := { labC fun c => { c with plane := { c.plane with live := [(4, 4 * 2 ^ 18)] } } with parts := [(0, q)], dieCycle := [(0, 16)] }
     part s (0 : PartIdx).toNat = some q ∧ q.gvtFree = true ∧ s.gint (0 : PartIdx).toNat = 4 ∧
       2 ^ s.gint (0 : PartIdx).toNat ≤ (s.rootTime (0 : PartIdx).toNat - q.gvtEnd).toNat) ∧
    (let s : State := { labC fun c => { c with tim := { c.tim with jused := c.jLen } } with parts := [(0, { labPart with timed := true })] }
     partOfName s (0 : Name).toNat = some 0 ∧ (getCell s (0 : Name).toNat).wantsGvt = true) ∧
    (∀ b : Bool,
      let g : GvtRun := { n := 1, left := [0], first := b }
      let q : Part := { labPart with timed := true, gvt := some g }
      let s : State := { lab with parts := [(0, q)] }
      s.cur = (0 : Name).toNat ∧ partOfName s (0 : Name).toNat = some 0 ∧ part s 0 = some q ∧ q.gvt = some g ∧ q.gvtFree = false ∧
        g.left.contains (0 : Name).toNat = true ∧ s.heldAt (0 : Name).toNat = false) ∧
    (let g : GvtRun := { n := 1, left := [], commit := some 5, todo := [0] }
     let q : Part := { labPart with timed := true, gvt := some g }
     let s : State := { lab with parts := [(0, q)] }
     partOfName s (0 : Name).toNat = some 0 ∧ part s (0 : PartIdx).toNat = some q ∧ g.left = [] ∧ g.todo.contains (0 : Name).toNat = true ∧
       s.cell.tim.rbk = none ∧ s.heldAt (0 : Name).toNat = false ∧ ({ g with commit := none } : GvtRun).commit = none) := by
  and_intros <;> decide +kernel
/-- The lab with tumbler 0 of die 0, and the count of its die. -/
def tumLab (x : Tumbler) (n : W64) (s : State) : State := { s with tumblers := [(0, x)], dieCycle := [(0, n)] }
/-- PowerStates: drowsy and awake; Retain and Gated at their least tolerances; back from both; throttling by either means. -/
theorem wit_power :
    (let s := labC fun c => { doneCell .empty c with idleCyc := 64, msg := { c.msg with busy := [] } }
     s.cur = (0 : Name).toNat ∧ 64 ≤ s.cell.idleCyc ∧ s.restful = true) ∧
    lab.cell.idleCyc < 64 ∧
    (let s : State := { labC fun c => { doneCell .empty c with drowsy := true } with mnet := [arrived letter] }
     (getCell s (0 : Name).toNat).drowsy = true ∧ s.wakes (0 : Name).toNat = true) ∧
    (let s : State := { labC (doneCell .empty) with parts := [(0, { labPart with paused := true, tol := 50 })] }
     (s.island (0 : DieSite).toNat false).st = .run ∧ s.islandIdle (0 : DieSite).toNat false = true ∧ s.tolerance (0 : DieSite).toNat = 50) ∧
    (let s : State := { labC (doneCell .empty) with parts := [(0, { labPart with paused := true, tol := 4999 })] }
     s.islandIdle (0 : DieSite).toNat true = true ∧ s.tolerance (0 : DieSite).toNat = 4999) ∧
    (let s : State := { lab with parts := [(0, { labPart with tol := 49 })] }
     s.tolerance (0 : DieSite).toNat < 50) ∧
    (let q : Part := { labPart with paused := true, tol := 5000, strel := true }
     let s : State := { labC (doneCell .empty) with parts := [(0, q)] }
     (s.island (0 : DieSite).toNat true).st ≠ .gated ∧ s.islandIdle (0 : DieSite).toNat true = true ∧
       (partOfDie s (0 : DieSite).toNat).bind (part s) = some q ∧ q.strel = true ∧ s.tolerance (0 : DieSite).toNat = 5000 ∧ KM.wf s.others = true) := by
  and_intros <;> decide
/-- An island whose voltage is below 0.40 V runs Slow. -/
theorem slow_of (s : State) (d : Nat) (e : Bool) (h : (s.island d e).volt.toNat < 40) : s.runState d e = .slow := by
  unfold State.runState
  rw [if_pos (.inl h)]
/-- Lowering spines leaves every island as it was. -/
theorem clampSpines_islands (s : State) (d : Nat) : (s.clampSpines d).islands = s.islands := by
  unfold State.clampSpines
  generalize List.range 8 = l
  induction l generalizing s with
  | nil => rfl
  | cons k r ih =>
    rw [List.foldl_cons, ih]
    split <;> rfl
/-- PowerStates: islands that come back, a partition to meter. -/
theorem wit_islands :
    (∀ w : PowerState, w ∈ [PowerState.retain, .gated] →
      let s : State := { lab with islands := [(islandKey 0 true, { volt := 30, want := 35, st := w })] }
      ((s.setIsland 0 true { s.island 0 true with volt := (s.island 0 true).want, st := .run }).clampSpines (0 : DieSite).toNat).runState
          (0 : DieSite).toNat true = .slow ∧ KM.wf s.spines = true ∧ s.feeds (0 : DieSite).toNat 0 true = true ∧
        (s.island (0 : DieSite).toNat true).st = w ∧ s.lowest (0 : DieSite).toNat true = .run) ∧
    (∀ q : Part, q ∈ [({ labPart with metered := true } : Part), { labPart with metered := true, dies := [0, 1, 2, 3, 4] },
        { labPart with thr := .halfRow }] →
      let s : State := { lab with parts := [(0, q)] }
      part s (0 : PartIdx).toNat = some q ∧ KM.wf s.tumblers = true) := by
  constructor
  · intro w hw
    simp only [List.mem_cons, List.not_mem_nil, or_false] at hw
    obtain rfl | rfl := hw <;>
      exact ⟨slow_of _ _ _ (by unfold State.island; rw [clampSpines_islands]; decide), by decide, by decide +kernel, by decide, by decide +kernel⟩
  · intro q hq
    simp only [List.mem_cons, List.not_mem_nil, or_false] at hq
    obtain rfl | rfl | rfl := hq <;> decide
/-- TumblersRotate: an interval, of a tumbler that may rotate and of one that may not; a rotation to abandon; one to end. -/
theorem wit_rotation :
    (let s := tumLab {} 8000000 lab
     tumbler s (0 : DieSite).toNat (0 : TumIdx).toNat = {} ∧ ({} : Tumbler).busy = false ∧
       (s.rotParams (0 : DieSite).toNat).1 * 1000000 ≤ (Sp.get s.dieCycle (0 : DieSite).toNat - ({} : Tumbler).since).toNat ∧
       noRot s (0 : DieSite).toNat (0 : TumIdx).toNat = false) ∧
    (let s := tumLab { since := 5 } 8000005 { lab with parts := [(0, { labPart with rotEn := false })] }
     tumbler s (0 : DieSite).toNat (0 : TumIdx).toNat = { since := 5 } ∧
       (s.rotParams (0 : DieSite).toNat).1 * 1000000 ≤ (Sp.get s.dieCycle (0 : DieSite).toNat - ({ since := 5 } : Tumbler).since).toNat ∧
       noRot s (0 : DieSite).toNat (0 : TumIdx).toNat = true) ∧
    (let x : Tumbler := { busy := true }
     let s := tumLab x 2001 (labThread 1 { st := .bound })
     tumbler s (0 : DieSite).toNat (0 : TumIdx).toNat = x ∧ x.busy = true ∧ x.late = false ∧ s.overdue (0 : DieSite).toNat (0 : TumIdx).toNat = true) ∧
    (let x : Tumbler := { busy := true }
     let s := tumLab x 9 lab
     tumbler s (0 : DieSite).toNat (0 : TumIdx).toNat = x ∧ x.busy = true ∧ s.tumStill (0 : DieSite).toNat (0 : TumIdx).toNat = true ∧
       s.tumSent (0 : DieSite).toNat (0 : TumIdx).toNat = true ∧ s.tumLanded (0 : DieSite).toNat (0 : TumIdx).toNat = true) := by
  and_intros <;> decide
/-- ImageWritesCells: a cell in a round and one out of it, the last word of the constants, of scratchpad, of the configuration. -/
theorem wit_image_writes :
    (let c := lab.cell
     c.plane.inRound = true ∧ KM.wf c.plane.shadow = true ∧ cfgDefined 23 = true ∧ cfgDefined 63 = false) ∧
    (let c : Cell := { lab.cell with plane := { lab.cell.plane with inRound := false } }
     c.plane.inRound = false ∧ c.sleepers = [] ∧ (⟨true, 8191, 31, 1, 1⟩ : KeptWrite).pad = true ∧ (⟨false, 23, 0, 32, 1⟩ : KeptWrite).pad = false) := by
  decide
/-- An image for the lab, its cursor in place, with these words to come. -/
def imageOf (cursor : Option (BitVec 2 × BitVec 4 × Nat)) (ws : List W32) : Image := { port := .a, part := 0, next := true, words := ws, first := 0, last := 0, cursor := cursor }
/-- The lab with that image. -/
def imageLab (cursor : Option (BitVec 2 × BitVec 4 × Nat)) (ws : List W32) (s : State) : State := { s with images := [imageOf cursor ws] }
/-- ImageCommands: no command, the reserved ones, SPAN of the last name, SELECT of the last word of a structure and of the first beyond it. -/
theorem wit_commands :
    (∀ w : W32, (imageLab none [w] lab).images = imageOf none [w] :: [] ∧ (imageLab none [w] lab).imageReady (imageOf none [w]) = true ∧
      (imageOf none [w]).rest.head? = some w) ∧
    (7 ≤ (0x70000000 : W32).toNat / 2 ^ 28 ∧ (0xE0000000 : W32).toNat / 2 ^ 28 ≤ 14) ∧
    (let i := imageOf none [0x10000000, 0xFFFFF]
     i.rest.take 2 = [BitVec.ofNat 32 (2 ^ 28 + (0 : Name).toNat), BitVec.ofNat 32 (0xFFFFF : Name).toNat] ∧ (0 : Name).toNat ≤ (0xFFFFF : Name).toNat) ∧
    (structSize (2 : BitVec 2).toNat (0 : BitVec 4).toNat = some 8192 ∧ (8191 : BitVec 16).toNat < 8192 ∧ 8192 ≤ (8192 : BitVec 16).toNat) := by
  refine ⟨fun w => ⟨rfl, ?_, rfl⟩, by decide, by decide, by decide⟩
  show State.imageReady lab (imageOf none [0]) = true
  decide
/-- ImageWordsReachCells: FIELD and BURST at the end of the idle bank's code. -/
theorem wit_words :
    (let s := imageLab (some (0, 0, 1023)) [0x33E003FF, 1] lab
     let i := imageOf (some (0, 0, 1023)) [0x33E003FF, 1]
     s.images = i :: [] ∧ s.imageReady i = true ∧ i.cursor = some (0, 0, 1023) ∧ structSize (0 : BitVec 2).toNat (0 : BitVec 4).toNat = some 1024 ∧
       (s.selected i).any s.holdsWrites = false ∧ s.selected i = [0] ∧ KM.wf s.others = true ∧
       (0x33E003FF : W32) = BitVec.ofNat 32 (3 * 2 ^ 28 + 2 ^ 21 * (32 - 1) + 2 ^ 16 * 0 + 1023) ∧ i.rest.take 2 = [0x33E003FF, 1]) ∧
    (let s := imageLab (some (0, 0, 1023)) [0x40000001, 1] lab
     let i := imageOf (some (0, 0, 1023)) [0x40000001, 1]
     s.images = i :: [] ∧ s.imageReady i = true ∧ (s.selected i).any s.holdsWrites = false ∧
       (0x40000001 : W32) = BitVec.ofNat 32 (4 * 2 ^ 28 + [(1 : W32)].length) ∧ 1023 + [(1 : W32)].length ≤ 1024 ∧
       i.rest.take (1 + [(1 : W32)].length) = 0x40000001 :: [1]) := by
  and_intros <;> decide
/-- The lab with its cell out of a round, and this image. -/
def quietImage (cursor : Option (BitVec 2 × BitVec 4 × Nat)) (ws : List W32) : State :=
  imageLab cursor ws (labC fun c => { c with plane := { c.plane with inRound := false } })
/-- ImageWordsReachCells: FIELD and BURST of the header in force, in order and not, and of configuration words. -/
theorem wit_header_words :
    (let i := imageOf (some (1, 1, 0)) [0x33E00000, 0x400]
     let s := quietImage (some (1, 1, 0)) [0x33E00000, 0x400]
     s.images = i :: [] ∧ s.imageReady i = true ∧ structSize (1 : BitVec 2).toNat (1 : BitVec 4).toNat = some 2 ∧ s.selected i = [0] ∧
       (0x33E00000 : W32) = BitVec.ofNat 32 (3 * 2 ^ 28 + 2 ^ 21 * (32 - 1) + 2 ^ 16 * 0 + 0) ∧
       (∀ m ∈ s.selected i, (getCell s m).plane.inRound = false) ∧
       (∀ m ∈ s.selected i, refusedWord s i 1 1 [⟨false, 0, 0, 32, 0x400⟩] m = none) ∧
       refusedWord s i 1 1 [⟨false, 0, 0, 32, 0x8000⟩] 0 = some (i.idx + 1) ∧
       refusedWord s i 1 1 [⟨false, 0, 0, 32, 0x400⟩, ⟨false, 1, 0, 32, 0x10000⟩] 0 = some (i.idx + 2)) ∧
    (let i := imageOf (some (2, 1, 0)) [0x33E00000, 0]
     let s := imageLab (some (2, 1, 0)) [0x33E00000, 0] lab
     structSize (2 : BitVec 2).toNat (1 : BitVec 4).toNat = some 64 ∧ s.selected i = [0] ∧
       ∀ m ∈ s.selected i, refusedWord s i 2 1 [⟨false, 16, 0, 32, 0⟩] m = none) := by
  unfold refusedWord; and_intros <;> decide
/-- ImageSealAndEnd: a header in order and one not; checks that hold and, for a record given twice, that do not. -/
theorem wit_seal :
    (let s := imageLab none [0x50000000] lab
     s.images = imageOf none [0x50000000] :: [] ∧ s.imageReady (imageOf none [0x50000000]) = true ∧
       (imageOf none [0x50000000]).rest.head? = some 0x50000000 ∧ (s.selected (imageOf none [0x50000000])).any s.holdsWrites = false ∧
       KM.wf s.others = true ∧ ∀ m ∈ s.selected (imageOf none [0x50000000]), (getCell s m).plane.idleBank.sealable = true) ∧
    (let s := imageLab none [0x50000000] (labC fun c => { c with plane := { c.plane with bank1 := { hdr0 := 0x8000 } } })
     s.selected (imageOf none [0x50000000]) = [0] ∧
       ∀ m ∈ s.selected (imageOf none [0x50000000]), (getCell s m).plane.idle ≠ .ready ∧ (getCell s m).plane.idleBank.sealable = false) ∧
    (let s := imageLab none [0xF0000000] lab
     (imageOf none [0xF0000000]).rest.head? = some 0xF0000000 ∧ part s (imageOf none [0xF0000000]).part.toNat = some labPart ∧
       s.endFits (imageOf none [0xF0000000]).part.toNat labPart (labPart.nextGlobals.getD {}) = true) ∧
    (let q : Part := { labPart with nextGlobals := some { twice := true } }
     let s : State := { imageLab none [0xF0000000] lab with parts := [(0, q)] }
     part s (imageOf none [0xF0000000]).part.toNat = some q ∧
       s.endFits (imageOf none [0xF0000000]).part.toNat q (q.nextGlobals.getD {}) = false) := by
  and_intros <;> decide
/-- The image of one GLOBAL command, whose payload has these words. -/
def globalImage (target : Nat) (ws : List Nat) : Image :=
  imageOf none (BitVec.ofNat 32 (6 * 2 ^ 28 + 2 ^ 16 * target + ws.length) :: ws.map (BitVec.ofNat 32))
/-- A premise on the words of a GLOBAL command. -/
def Carries (i : Image) (target : Nat) (ws : List Nat) : Prop :=
  i.rest.take (1 + (ws.map (BitVec.ofNat 32)).length) = BitVec.ofNat 32 (6 * 2 ^ 28 + 2 ^ 16 * target + ws.length) :: ws.map (BitVec.ofNat 32)
/-- GlobalRecords: fields at the ends of their ranges. -/
theorem wit_records :
    (∀ i : Image, i.part = 0 → ({ lab with images := [i] } : State).images = i :: [] ∧ ({ lab with images := [i] } : State).imageReady i = true ∧
      part { lab with images := [i] } i.part.toNat = some labPart) ∧
    (let k : KeyEnt := { skind := true, sidx := 63, wl := 31, nslot := 4, blk := 256, tree := 255, tiles := [(63, 15, 15, true, 1)] }
     Carries (globalImage 0 (k.words 255)) 0 (k.words 255) ∧ k.sidx < 64 ∧ k.wl < 32 ∧ k.nslot ≤ 4 ∧ k.blk ≤ 256 ∧ k.tree < 256 ∧
       (∀ t ∈ k.tiles, t.1 < 64 ∧ t.2.1 < 16 ∧ t.2.2.1 < 16) ∧ (k.words 255).length < 2 ^ 16) ∧
    (let l : List TreeNode := [⟨0xFFFFF, 5, 0, true, 15, true⟩]
     Carries (globalImage 1 (treeWords 255 l)) 1 (treeWords 255 l) ∧ (255 : BitVec 8) ≠ 0 ∧ (∀ n ∈ l, n.lbl < 6 ∧ n.plink < 16)) ∧
    (let b : Bucket := ⟨8, true, false, 8, 31, 255, 1023⟩
     Carries (globalImage 2 (b.words 4094)) 2 (b.words 4094) ∧ (b.words 4094).length = 2 ∧ (4094 : BitVec 12) ≠ 0 ∧ (4094 : BitVec 12) ≠ 4095 ∧
       b.op ≤ 8 ∧ b.width ≤ 8 ∧ (b.tok = 0 ∨ 8 ≤ b.tok ∧ b.tok < 32) ∧ b.tree < 256 ∧ b.rbase < 1024) ∧
    (let i := globalImage 3 (circuit.words 255)
     let s : State := { lab with images := [i] }
     Carries i 3 (circuit.words 255) ∧ (circuit.words 255).length = 4 ∧ KM.get ({} : Globals).circs (255 : BitVec 8).toNat = none ∧
       isName s circuit.sname.toNat = true ∧ dieInPart s circuit.sname.toNat i.part.toNat = true ∧ isName s circuit.dname.toNat = true ∧
       dieInPart s circuit.dname.toNat i.part.toNat = true ∧ circuit.dbase + 32 * circuit.size = 0x8000) ∧
    (let x : Plan := { nblk := 2 ^ 32 - 1, gaddr := 2 ^ 48 - 1, gstr := 2 ^ 32 - 1 }
     Carries (globalImage 4 (x.words 255)) 4 (x.words 255) ∧ (x.words 255).length = 5 ∧ x.nblk < 2 ^ 32 ∧ x.gaddr < 2 ^ 48 ∧ x.gstr < 2 ^ 32) := by
  unfold Carries
  refine ⟨?_, by and_intros <;> decide, by and_intros <;> decide, by and_intros <;> decide, by and_intros <;> decide, by and_intros <;> decide⟩
  intro i h
  have p : i.part.toNat = 0 := by rw [h]; rfl
  refine ⟨rfl, ?_, ?_⟩
  · show State.awake _ i.part.toNat = true
    rw [p]
    show State.awake lab 0 = true
    decide
  · rw [p]
    show part lab 0 = _
    decide
/-- A booted panel whose port A holds the hasp, with this launch record. -/
def asking (r : Nat) (s : State) : State := { s with hasp := some .a, portA := { busy := false, launch := BitVec.ofNat 512 r } }
/-- RequestChecks: a busy port; the operations on both sides of Table 17.2's rows; no hasp; bit 15 of the record. -/
theorem wit_checks :
    (let s : State := { lab with portA := { busy := true } }
     (1 : Byte).getLsbD 0 = true ∧ (List.replicate 7 (0 : Byte)).length < 8 ∧ (s.port .a).busy = true) ∧
    (∀ r : Nat, r ∈ [0, 9, 255] → ((asking r lab).port .a).busy = false ∧ (recOp ((asking r lab).port .a).launch = 0 ∨ 8 < recOp ((asking r lab).port .a).launch)) ∧
    (∀ r : Nat, r ∈ [1, 4, 5, 6, 7, 8] →
      let s : State := { asking r lab with hasp := some .b }
      recOp (s.port .a).launch = r ∧ r ∈ [1, 4, 5, 6, 7, 8] ∧ s.hasp ≠ some .a) ∧
    (let s := asking 0x8003 lab
     1 ≤ recOp (s.port .a).launch ∧ recOp (s.port .a).launch ≤ 8 ∧ recMalformed (s.port .a).launch = true) := by
  and_intros <;> decide +kernel
/-- RequestsServed: each operation accepted, on a partition that is there or that is not. -/
theorem wit_requests :
    (let s := asking (1 + 2 ^ 8 * 63 + 2 ^ 16 + 2 ^ 22) { lab with dieMap := [0, 1] }
     Accepts s .a 1 ∧ recPart (s.port .a).launch = 63 ∧ recSites (s.port .a).launch = some [1] ∧ part s 63 = none ∧
       (∀ d ∈ [1], partOfDie s d = none) ∧ s.liveOf [1] ≠ []) ∧
    (let s := asking (1 + 2 ^ 16 + 2 ^ 22) lab
     Accepts s .a 1 ∧ part s (recPart (s.port .a).launch) ≠ none) ∧
    (let s := asking 2 { lab with images := [imageOf none []] }
     Accepts s .a 2 ∧ s.reqOn (recPart (s.port .a).launch) = true) ∧
    (∀ n : Nat, n ∈ [2, 3] →
      (Accepts (asking (n + 2 ^ 8) lab) .a n ∧ (asking (n + 2 ^ 8) lab).reqOn (recPart ((asking (n + 2 ^ 8) lab).port .a).launch) = false ∧
        (asking (n + 2 ^ 8) lab).noLoad (recPart ((asking (n + 2 ^ 8) lab).port .a).launch) = true) ∧
      (Accepts (asking n lab) .a n ∧ (asking n lab).reqOn (recPart ((asking n lab).port .a).launch) = false ∧
        (asking n lab).noLoad (recPart ((asking n lab).port .a).launch) = false)) ∧
    (let x : Part := { labPart with paused := true }
     let s := asking 3 { lab with parts := [(0, x)] }
     Accepts s .a 3 ∧ part s (recPart (s.port .a).launch) = some x ∧ x.loaded = true ∧ x.token = none ∧ x.startAct = none ∧
       recAction (s.port .a).launch = 0) ∧
    (∀ r : Nat, r ∈ [7, 8 + 2 ^ 64 * 15 + 2 ^ 80 * 4094, 6] →
      let s := asking r lab
      Accepts s .a (r % 256) ∧ part s (recPart (s.port .a).launch) = some labPart ∧ s.imageOf 0 = false ∧ labPart.preempt = none ∧
        s.rotatingIn labPart = false ∧ KM.wf s.parts = true) := by
  unfold Accepts; and_intros <;> decide +kernel
/-- PartitionsStopAndReturn: PREEMPT with a load and without; a drain that is over; RESTORE of a partition that is there; a lead fault. -/
theorem wit_partitions :
    (∀ x : Part, x ∈ [({ labPart with ctx := 0x800000000000 } : Part), { labPart with loaded := true }, { labPart with loaded := false }] →
      let s := asking 4 { lab with parts := [(0, x)] }
      Accepts s .a 4 ∧ part s (recPart (s.port .a).launch) = some x ∧ s.canPreempt (recPart (s.port .a).launch) x = true) ∧
    (let pr : Preempt := { port := some .a }
     let x : Part := { labPart with preempt := some pr }
     let s : State := { labC (doneCell .empty) with parts := [(0, x)] }
     part s (0 : PartIdx).toNat = some x ∧ x.preempt = some pr ∧ pr.port = some .a ∧ s.deferredIn (0 : PartIdx).toNat = [] ∧
       s.saveReady (0 : PartIdx).toNat x = true ∧ KM.wf s.parts = true) ∧
    (let s := asking (5 + 2 ^ 16 + 2 ^ 22) lab
     Accepts s .a 5 ∧ recSites (s.port .a).launch = some [1] ∧ part s (recPart (s.port .a).launch) ≠ none) ∧
    (let x : Part := { labPart with ctx := 0x800000000000 }
     let f : LeadFault := ⟨0, { cause := 1, fpc := 8 }⟩
     let s : State := { labC fun c => { c with lead := some f } with parts := [(0, x)] }
     s.cur = (0 : Name).toNat ∧ partOfName s (0 : Name).toNat = some 0 ∧ part s 0 = some x ∧ s.cell.lead = some f ∧ x.loaded = true ∧
       x.preempt = none ∧ x.faults = [] ∧ s.canPreempt 0 x = true ∧ x.ctx ≠ 0) := by
  unfold Accepts; and_intros <;> decide +kernel
/-- PartitionsStopAndReturn: a hold memory that is full and stuck. -/
theorem wit_hold :
    let u : CausalUnit := { hold := List.replicate 2048 (.m (arrived letter)), fullSince := some 1 }
    let x : Part := { labPart with ctx := 0x800000000000 }
    let s : State := { lab with parts := [(0, x)], causal := [(0, u)], dieCycle := [(0, 2 ^ 20 + 1)] }
    physDie s (0 : BitVec 6).toNat = some 0 ∧ partOfDie s 0 = some 0 ∧ part s 0 = some x ∧ (unitOf s (0 : BitVec 6).toNat).fullSince = some 1 ∧
      2048 ≤ (unitOf s (0 : BitVec 6).toNat).hold.length ∧ (∀ h ∈ (unitOf s (0 : BitVec 6).toNat).hold, h.causal = none) ∧
      2 ^ 20 ≤ (Sp.get s.dieCycle 0 - 1).toNat ∧ s.canPreempt 0 x = true := by
  refine ⟨by decide, by decide, by decide, rfl, ?_, ?_, by decide, by decide⟩
  · show 2048 ≤ (List.replicate 2048 (Held.m (arrived letter))).length
    exact Nat.le_of_eq List.length_replicate.symm
  · intro f h
    rw [(List.mem_replicate.mp h).2]
    rfl
/-- Bytes of a context area, each translated. -/
theorem ctxGet_of (s : State) (die p va n b : Nat) (h : ∀ i, i < n → s.ctxAt die p (va + i) = some (b + i)) :
    s.ctxGet die p va n = some ((List.range n).map fun i => Sp.get s.store (b + i)) := by
  have g : ∀ l : List Nat, (∀ i ∈ l, i < n) →
      List.foldr (fun i r => match s.ctxAt die p (va + i), r with
        | some a, some l => some (Sp.get s.store a :: l)
        | _, _ => none) (some []) l = some (l.map fun i => Sp.get s.store (b + i)) := by
    intro l
    induction l with
    | nil => exact fun _ => rfl
    | cons a r ih =>
      intro hl
      rw [List.foldr_cons, ih fun i hi => hl i (List.mem_cons_of_mem _ hi), h a (hl a (List.mem_cons_self ..))]
      rfl
  exact g _ fun i hi => List.mem_range.mp hi
/-- A partition that was saved, with tables that map the first 64 KiB to module 0. -/
def savedPart : SavedPart :=
  { num := 0, ctx := 0, part := labPart, tabs := Memory.writeNat (Memory.writeNat [] 0 8 0x80003) 0x80000 8 19, resid := [], sres := [], cres := [] }
/-- The nonzero bytes of its area: a header of no cell and one die; the partition section names the first that was saved. -/
def savedBytes : Memory :=
  [(0, 0x4B), (1, 0x50), (2, 0x43), (3, 0x58), (4, 1), (12, 1), (17, 0x40), (18, 1), (33, 0x10), (37, 4)]
/-- A panel that has saved it, and is asked to restore it to die 1. -/
def restoring : State :=
  asking (5 + 2 ^ 16 + 2 ^ 22) { lab with dieMap := [0, 1], parts := [], savedParts := [savedPart], store := savedBytes }
/-- It, with the tables in die 1. -/
def restoringOn : State := [1].foldl (fun t d => t.setTables d savedPart.tabs) (restoring.modPort .a fun x => { x with busy := true })
/-- A byte of the area. -/
theorem restoring_at (va : Nat) (h : va < 2 ^ 16) : restoringOn.ctxAt 1 0 va = some va := by
  have a : va / 2 ^ 30 = 0 := Nat.div_eq_of_lt (by omega)
  have b : va / 2 ^ 16 = 0 := Nat.div_eq_of_lt h
  have w : walkEnd restoringOn 1 va 0 = .ok (true, 19) := by
    refine walkEnd_of _ 1 va 0 0x80000 19 true (level1_of _ 1 va 0x80003 ?_ (by decide) (by decide)) ?_ (by decide) rfl
    · rw [a]; decide +kernel
    · unfold level2At
      rw [if_pos rfl, b]; decide +kernel
  unfold State.ctxAt
  rw [Nat.mod_eq_of_lt (by omega : va < 2 ^ 45), w]
  show some (storeAddr 0 (0 * 2 ^ 16 + va % 2 ^ 16)) = some va
  unfold storeAddr
  rw [Nat.mod_eq_of_lt h, Nat.mod_eq_of_lt (by unfold Config.moduleBytes; omega)]
  simp
/-- An area of no record. -/
theorem area_of (s : State) (die p ctx : Nat) (h sec : List Byte) (e : s.ctxGet die p ctx 4096 = some h) (n : numAt h 8 4 = 0)
    (f : s.ctxGet die p (ctx + numAt h 32 8 % 2 ^ 37) (numAt h 32 8 / 2 ^ 37) = some sec) : s.area die p ctx = some ⟨h, [], sec⟩ := by
  unfold State.area
  rw [e]
  dsimp only
  rw [f, n]
  rfl
/-- The parts of the area as they are read. -/
def savedHeader : List Byte := Sp.getMany savedBytes 0 40 ++ List.replicate 4056 0
theorem savedHeader_eq : (List.range 4096).map (fun i => Sp.get savedBytes (0 + i)) = savedHeader := by
  have z : ∀ i, 38 ≤ i → Sp.get savedBytes i = 0 := by
    intro i h
    have n : KM.get savedBytes i = none := by
      simp only [savedBytes, KM.get]
      repeat rw [if_neg (by omega)]
      try rfl
    unfold Sp.get
    rw [n]
    rfl
  rw [show 4096 = 40 + 4056 from rfl, List.range_add, List.map_append]
  unfold savedHeader
  have e : (List.range 40).map (fun i => Sp.get savedBytes (0 + i)) = Sp.getMany savedBytes 0 40 := by decide
  rw [e]
  refine congrArg (Sp.getMany savedBytes 0 40 ++ ·) ?_
  rw [List.map_map, List.eq_replicate_iff]
  refine ⟨by rw [List.length_map, List.length_range], ?_⟩
  intro b h
  obtain ⟨i, -, rfl⟩ := List.mem_map.mp h
  exact z _ (by dsimp only; omega)
def savedSection : List Byte := (List.range 32).map fun i => Sp.get savedBytes (4096 + i)
def savedArea : Area := ⟨savedHeader, [], savedSection⟩
theorem restoring_store : restoringOn.store = savedBytes := rfl
theorem header_read : restoringOn.ctxGet 1 0 0 4096 = some savedHeader := by
  rw [← savedHeader_eq, ← restoring_store]
  exact ctxGet_of restoringOn 1 0 0 4096 0 fun i hi => restoring_at (0 + i) (by omega)
theorem section_read : restoringOn.ctxGet 1 0 4096 32 = some savedSection := by
  unfold savedSection
  rw [← restoring_store]
  exact ctxGet_of restoringOn 1 0 4096 32 4096 fun i hi => restoring_at (4096 + i) (by omega)
theorem restoring_area : restoringOn.area 1 0 0 = some savedArea := by
  have n : numAt savedHeader 8 4 = 0 := by decide +kernel
  have o : numAt savedHeader 32 8 % 2 ^ 37 = 4096 := by decide +kernel
  have l : numAt savedHeader 32 8 / 2 ^ 37 = 32 := by decide +kernel
  exact area_of _ 1 0 0 _ _ header_read n (by rw [o, l]; exact section_read)
/-- PartitionsStopAndReturn: RESTORE of an area that this machine saved. -/
theorem wit_restore :
    let s := restoring
    Accepts s .a 5 ∧ recSites (s.port .a).launch = some [1] ∧ part s (recPart (s.port .a).launch) = none ∧ (∀ d ∈ [1], partOfDie s d = none) ∧
      s.liveOf [1] = [1] ∧
      s.savedParts.reverse.find? (fun k => k.num == recPart (s.port .a).launch && k.ctx.toNat == recBits (s.port .a).launch 192 64) = some savedPart ∧
      restoringOn = (s.liveOf [1]).foldl (fun t d => t.setTables d savedPart.tabs) (s.modPort .a fun x => { x with busy := true }) ∧
      restoringOn.area ((s.liveOf [1]).headD 0) (recPart (s.port .a).launch) (recBits (s.port .a).launch 192 64) = some savedArea ∧
      savedArea.wellFormed = true ∧ (s.liveOf [1]).length = savedArea.dies.length ∧
      (restoringOn.rebind (rebound restoringOn.dieMap savedArea.dies (s.liveOf [1]))).takesRecords (s.liveOf [1]) savedArea = true ∧
      (restoringOn.rebind (rebound restoringOn.dieMap savedArea.dies (s.liveOf [1]))).savedParts[
        numAt savedArea.section_ (savedArea.section_.length - 32) 32]? = some savedPart ∧
      ((restoringOn.rebind (rebound restoringOn.dieMap savedArea.dies (s.liveOf [1]))).settlePart 0
        { savedPart.part with dies := s.liveOf [1], sites := [1], ctx := 0 }).replay 0 savedArea.globals.length savedArea.globals {} = some {} := by
  have l : restoring.liveOf [1] = [1] := by decide +kernel
  have p : recPart (restoring.port .a).launch = 0 := by decide +kernel
  have c : recBits (restoring.port .a).launch 192 64 = 0 := by decide +kernel
  dsimp only
  rw [l, p, c]
  refine ⟨?_, by decide +kernel, by decide +kernel, by decide +kernel, rfl, by decide +kernel, rfl, restoring_area, by decide +kernel, by decide +kernel,
    rfl, by decide +kernel, by rw [show savedArea.globals = [] by decide +kernel]; rfl⟩
  unfold Accepts; and_intros <;> decide +kernel
/-- HostAccess: a token for cell 0; one cut short, to a partition outside its round, with a bit that is unused; a byte of the window, first
and last of its page, and one beyond it. -/
theorem wit_tokens :
    (let s : State := { lab with portA := { busy := false, winPart := 0 } }
     part s (s.port .a).winPart.toNat = some labPart ∧ labPart.preempt = none ∧ (0x50000000000000000 : V256).extractLsb' 20 12 = 0 ∧
       s.holds (s.port .a).winPart.toNat ((0x50000000000000000 : V256).extractLsb' 0 20).toNat = true ∧ labPart.inRound = true ∧
       curPos s ((0x50000000000000000 : V256).extractLsb' 0 20).toNat = some ⟨0, 0, 0⟩) ∧
    (({ labPart with paused := true } : Part).inRound = false) ∧ lab.holds 1 (0 : Nat) = false ∧ (0x80000000 : V256).extractLsb' 20 12 ≠ 0 := by
  and_intros <;> decide
/-- The lab with one page of the window mapped to scratchpad. -/
def windowed : State := { mapped 0 0x200001 0x200000 3 with portA := { busy := false, winPart := 0 } }
theorem windowed_region (va : Nat) (a : va / 2 ^ 30 = 0) : level1 windowed 0 va = some (false, 0x200000) :=
  level1_of windowed 0 va 0x200001 (by rw [a]; decide +kernel) (by decide) (by decide)
theorem windowed_entry (va : Nat) (b : va / 2 ^ 12 = 0) : tableWord windowed 0 (level2At false 0x200000 va) = 3 := by
  unfold level2At
  rw [if_neg (by decide), b]; decide +kernel
theorem windowed_reach : entReach windowed 0 3 = true := by decide
theorem windowed_small (va : Nat) (h : va < 4096) : va / 2 ^ 30 = 0 ∧ va / 2 ^ 12 = 0 := ⟨Nat.div_eq_of_lt (by omega), Nat.div_eq_of_lt h⟩
theorem windowed_walk (va : Nat) (h : va < 4096) : walkEnd windowed 0 va 0 = .ok (false, 3) :=
  walkEnd_of windowed 0 va 0 0x200000 3 false (windowed_region va (windowed_small va h).1) (windowed_entry va (windowed_small va h).2) (by decide)
    windowed_reach
theorem windowed_target (o : Nat) (h : o < 4096) : targetOf false 3 o = .pad 0 o := by
  have e : targetOf false 3 o = .pad (bits 3 9 20) (bits 3 6 3 * 2 ^ 12 + o % 2 ^ 12) := rfl
  have m : bits 3 6 3 * 2 ^ 12 + o % 2 ^ 12 = o := by
    rw [show bits 3 6 3 = 0 by decide]
    omega
  rw [e, m]
  rfl
theorem windowed_within (o : Nat) (h : o < 4096) (wr : Bool) : windowed.hostAt .a 0 labPart o wr = .at_ (.pad 0 o) := by
  have g : windowed.portGrants .a 0 wr = true := by cases wr <;> decide
  have c : curPos windowed 0 = some ⟨0, 0, 0⟩ := by decide
  have i : (windowed.island 0 false).st = .run := by decide
  unfold State.hostAt
  rw [show labPart.dies.headD 0 = 0 from rfl, windowed_walk o h]
  dsimp only
  rw [windowed_target o h, if_neg (by cases wr <;> decide)]
  dsimp only
  rw [g, c, if_neg (by decide), if_neg (by cases wr <;> decide)]
  dsimp only
  rw [show decide (64 ≤ 0) = false from rfl, i]
theorem hostAt_none (s : State) (q : Port) (p va : Nat) (y : Part) (wr : Bool) (c : BitVec 8) (h : walkEnd s (y.dies.headD 0) va p = .error c) :
    s.hostAt q p y va wr = .refused := by
  unfold State.hostAt
  rw [h]
theorem windowed_beyond : windowed.hostAt .a 0 labPart 4096 true = .refused :=
  hostAt_none windowed .a 0 4096 labPart true 0x0B
    (walkEnd_none windowed 0 4096 0 0x200000 0 false (windowed_region 4096 (by decide)) (by decide +kernel) (by decide))
/-- A window whose port has no access entry. -/
def shutWindow : State := { windowed with portAccess := [] }
theorem shutWindow_walk : walkEnd shutWindow 0 0 0 = .ok (false, 3) :=
  walkEnd_of shutWindow 0 0 0 0x200000 3 false (level1_of shutWindow 0 0 0x200001 (by decide +kernel) (by decide) (by decide)) (by decide +kernel)
    (by decide) (by decide)
theorem hostAt_shut (s : State) (q : Port) (p va n o : Nat) (y : Part) (g : Bool) (e : Nat) (h : walkEnd s (y.dies.headD 0) va p = .ok (g, e))
    (h1 : bitOf e 1 = true) (h2 : targetOf g e va = .pad n o) (h3 : s.portGrants q p true = false) :
    s.hostAt q p y va true = .denied (64 + p) := by
  unfold State.hostAt
  rw [h]
  dsimp only
  rw [h1, h2, if_neg (by decide), h3]
  rfl
/-- A byte of scratchpad that the port's entry does not grant. -/
theorem window_denied : shutWindow.hostAt .a 0 labPart 0 true = .denied 64 :=
  hostAt_shut shutWindow .a 0 0 0 0 labPart false 3 shutWindow_walk (by decide) (windowed_target 0 (by decide)) rfl
/-- HostAccess: bytes of the window, in the page and beyond it. -/
theorem wit_window :
    (∀ o : Nat, o < 4096 → ∀ wr : Bool, windowed.hostAt .a 0 labPart o wr = .at_ (.pad 0 o)) ∧
    windowed.hostAt .a 0 labPart 4096 true = .refused ∧ windowed.cur = 0 ∧ windowed.cell.sleepers = [] ∧ windowed.cell.badRead 4095 1 = none :=
  ⟨windowed_within, windowed_beyond, by decide, by decide, by decide⟩
/-- Management: an image in progress; a gateway whose bucket the other panel has, and one that it has not; a far child of a node; the management
port's entry. -/
theorem wit_management :
    (let s : State := { lab with images := [imageOf none []] }
     s.images = [imageOf none []] ∧ (s.port .a).pend = none ∧ (s.port .b).pend = none ∧ ∀ e ∈ s.parts, e.2.preempt = none) ∧
    (let b : Bucket := ⟨0, false, true, 1, 0, 1, 0⟩
     let x : Part := { labPart with globals := { bucks := [(4094, b)] } }
     let g : Gateway := ⟨0, 15, [4094]⟩
     let s : State := { lab with parts := [(0, x)], gateways := [g] }
     g.link = (15 : BitVec 4).toNat ∧ part s g.part.toNat = some x ∧ KM.get x.globals.bucks 4094 = some b ∧
       g.tags = [(4094 : BitVec 12).toNat] ∧
       (∀ w ∈ [(⟨BitVec.ofNat 32 (b.match_ 4094), []⟩ : LinkTag)], w.word.toNat % 2 ^ 12 = (4094 : BitVec 12).toNat ∧ w.word.toNat % 2 ^ 21 = b.match_ 4094 ∧
         ∀ n ∈ x.globals.ups b.tree 15, (n.pname, BitVec.ofNat 3 n.lbl) ∈ w.ups) ∧
       ∀ w ∈ [(⟨4094, []⟩ : LinkTag)], w.word.toNat % 2 ^ 12 = (4094 : BitVec 12).toNat ∧ w.word.toNat % 2 ^ 21 ≠ b.match_ 4094) ∧
    (let x : Part := { labPart with globals := { trees := [(1, [⟨8, 3, 0, false, 15, true⟩])], bucks := [(4094, ⟨0, false, true, 1, 0, 1, 0⟩)] } }
     x.farChild 15 4094 0 3 = true ∧ ((15 : BitVec 4).toNat, (0 : PartIdx).toNat, true) ∈ lab.linkAccess) ∧
    (∃ a ∈ lab.mgmtAccess, a.1 = 128) := by
  and_intros <;> decide +kernel
/-- EncodingsDecode, DecodedIsWellFormed: an instruction of two words, and its words. -/
theorem wit_encoding :
    WellFormed (.trap ⟨true, true, 1⟩ 7 15) ∧ decode 0xC8B0073C 0 = .ok (.trap ⟨true, true, 1⟩ 7 15) ∧
      encode (.trap ⟨true, true, 1⟩ 7 15) = [0xC8B0073C] := by
  refine ⟨?_, rfl, by decide⟩
  unfold WellFormed; decide
/-- GuardsHoldBack: a guard that p1 does not meet. -/
theorem wit_guard :
    WellFormed (.trap ⟨false, true, 1⟩ 5 9) ∧ encode (.trap ⟨false, true, 1⟩ 5 9) = 0x48B00524 :: [] ∧
      (labT fun x => { x with p := 2 }).me.guard (Decode.hdr 0x48B00524) = false := by
  unfold WellFormed; decide
/-- SpecifiersAreChecked: the specifiers next to those allowed. -/
theorem wit_specifiers :
    ∃ f, scalarForm (.add hd 0x2A 0x2F 1 0) = some f ∧ (0x2A ≤ f.d.toNat ∧ f.d.toNat ≠ 0x2E) ∧ ∃ a ∈ f.srcs, a.toNat = 0x2F := by
  exact ⟨_, rfl, by decide, by decide⟩
/-- ThreadChoice: two threads of one level, the one that starves and the next in turn. -/
theorem wit_choice :
    (labM.cell.choice [] = none ∧ labM.cell.choice [0, 1] = some 0 ∧ ∀ u ∈ ([0, 1] : List TIdx), (labM.cell.th u).starve < 16) ∧
    (let c := (labThread 1 { busyThread with starve := 16 }).cell
     c.choice [0, 1] = some 1 ∧ ∃ u ∈ ([0, 1] : List TIdx), 16 ≤ (c.th u).starve) := by decide
/-- RegistersByName: R102's link to the last register of thread 7. -/
theorem wit_link :
    (labT fun x => { x with link := 0xFF000000 }).me.link.toNat / 2 ^ (8 * 3) % 8 = (7 : TIdx).val := by decide
/-- ScratchpadChecks: a scratchpad in its form. -/
theorem wit_pad : Memory.wf lab.cell.pad.mem = true ∧ ∀ w ∈ wordsOf 0x7FF8 8, w ∉ lab.cell.pad.ecc2 := by decide
/-- The lab in its named cell, with this code at T0's pc. -/
def coded (l : List (Nat × W32)) : State :=
  labC fun c => { c with mapgen := 1, plane := { c.plane with bank0 := { c.plane.bank0 with code := l } } }
/-- Where some event is enabled, one is chosen. -/
theorem chosen_of (s : State) (h : 0 < s.enabled.length) : ∃ e, s.enabled[choose s s.enabled.length]? = some e := by
  have l : choose s s.enabled.length < s.enabled.length := by
    unfold choose
    split
    · exact h
    · exact Nat.mod_lt _ h
  exact ⟨_, List.getElem?_eq_getElem l⟩
/-- StepsRunDecoded: TRAP at T0's pc, an unassigned word there; an event of the agenda; an event in the engines' turn. -/
theorem wit_steps :
    (∀ w : W32, w ∈ [0x00B00314, 1] →
      let s := coded [(8, w)]
      let u : State := { s.pass with turn := .engines }
      s.agenda = [] ∧ s.turn = .issue ∧ s.others = [] ∧ u.cell.choice ((u.candidates.filter fun c => c.2.isNone).map (·.1)) = some 0 ∧
        (s.cell.th 0).deferred = none ∧ s.cell.codeWord 0 (s.cell.th 0).pc.toNat = some w ∧
        (∀ o ∈ (s.cell.th 0).outs, o.ready = false) ∧ s.cell.mx.queue.head? = none) ∧
    (WellFormed (.trap hd 3 5) ∧ encode (.trap hd 3 5) = [0x00B00314]) ∧ (isLongWord 1 = false ∧ ∀ i, decode 1 0 ≠ .ok i) ∧
    ({ lab with agenda := [.drowsyEntry 0] } : State).agenda = .drowsyEntry 0 :: [] ∧
    (let s : State := { lab with turn := .engines }
     let u : State := { s.pass with turn := .issue }
     s.agenda = [] ∧ s.turn = .engines ∧ ∃ e, u.enabled[choose u u.enabled.length]? = some e) := by
  refine ⟨?_, ⟨?_, by decide⟩, ⟨by decide, ?_⟩, rfl, rfl, rfl, ?_⟩
  · intro w hw
    simp only [List.mem_cons, List.not_mem_nil, or_false] at hw
    obtain rfl | rfl := hw <;> and_intros <;> decide +kernel
  · unfold WellFormed; decide
  · intro i h
    have e : (decode 1 0).toOption = none := by decide
    rw [h] at e
    cases e
  · exact chosen_of _ (by decide +kernel)
/-- CanonicalFormIsKept: the lab is in its form, and takes a step. -/
theorem wit_canonical : Canonical lab ∧ ∃ t, step { lab with agenda := [.drowsyEntry 0] } = .next t := by
  refine ⟨?_, _, rfl⟩
  unfold Canonical; and_intros <;> decide
/-- HaspGrantsOwnership: the record of each group of operations; a held hasp, a free one, and two that ask together. -/
theorem wit_hasp :
    (∀ r : Nat, r ∈ [1, 4, 5, 6, 7, 8] →
      let s : State := { asking r lab with hasp := none }
      (s.port .a).busy = false ∧ recOp (s.port .a).launch ∈ [1, 4, 5, 6, 7, 8] ∧ s.hasp ≠ some .a) ∧
    (∀ r : Nat, r ∈ [2, 3] → recOp ((asking r lab).port .a).launch ∈ [2, 3]) ∧
    ((1 : Byte).getLsbD 0 = true ∧ (1 : Byte).getLsbD 1 = false ∧ (2 : Byte).getLsbD 0 = false ∧ (2 : Byte).getLsbD 1 = true) ∧ (asking 1 lab).hasp = some .a ∧
    (lab.hasp = none ∧ lab.haspLast ≠ .a) ∧
    (let s : State := { lab with haspLast := .a, agenda := [.haspAcq .b] }
     s.booted = true ∧ s.hasp = none ∧ s.haspLast = .a ∧ s.agenda = .haspAcq .b :: []) := by
  and_intros <;> decide +kernel
/-- InstructionsKeepTheRest: an instruction that a running thread completes. -/
theorem wit_frame :
    encode (.nop hd) ≠ [] ∧ lab.me.st = .running ∧ lab.me.wait = .none ∧ (∃ t, exec (.nop hd) lab = .next t ∧ t.me.st ≠ .faulted) ∧
      mayStore (.nop hd) = false ∧ reachesThreads (.nop hd) = false := by
  refine ⟨by decide, by decide, by decide, ⟨_, rfl, by decide⟩, by decide, by decide⟩
/-- ThreadControl: a thread whose fault a journaled handler holds. -/
theorem wit_held_fault :
    let r : TimedRun := { t := 1, p := letter, vrt := 5, unj := false, held := true }
    let s := modFocus (labT (withG 2 1)) fun c => { c with thr := c.thr.set 1 { st := .faulted }, tim := { c.tim with run := some r } }
    Passes s hd ∧ Follows s 1 9 {} {} ∧ s.cell.last = 0 ∧ (lane s 2).toNat % 8 = (1 : TIdx).val ∧ s.anyBound [2] = false ∧
      s.cell.tim.run = some r ∧ r.t = 1 ∧ r.held = true := by
  unfold Passes Follows; and_intros <;> decide +kernel
/-- ThreadControl: a faulted thread within its block, one past it, and one outside every block. -/
theorem wit_resume :
    (∀ x : Thread, x ∈ [({ st := .faulted, fcause := 0x8001, inb := true, blkAt := 5, blkLen := 3, fpc := 8 } : Thread),
        { st := .faulted, fcause := 0x18001, inb := true }, { st := .faulted, fcause := 0x18001 }] →
      let s := modFocus (labT (withG 2 1)) fun c => { c with thr := c.thr.set 1 x }
      Passes s hd ∧ Follows s 1 9 {} {} ∧ s.cell.last = 0 ∧ (lane s 2).toNat % 8 = (1 : TIdx).val ∧ s.cell.heldFault 1 = false ∧
        (s.cell.th 1).st = .faulted ∧ (s.cell.th 1).outs = [] ∧ (s.cell.th 1).deferred = none ∧ (s.cell.th 1).pp = false ∧ s.me.wait = .none ∧
        s.cell.holdsFault 1 = false) ∧
    ((0x8001 : BitVec 17).getLsbD 16 = false ∧ (0x18001 : BitVec 17).getLsbD 16 = true) := by
  unfold Passes Follows; and_intros <;> decide +kernel
/-- LateResults: a divider that is free, and one that another thread keeps busy. -/
theorem wit_divider :
    ¬DividerBusy lab ∧ DividerBusy (labThread 7 { outs := [⟨5, 64, 0, false, .divider, none, none⟩] }) := by
  unfold DividerBusy
  exact ⟨by decide, 7, _, List.mem_singleton.mpr rfl, rfl⟩
/-- Multiplications: a format that takes scales from a register, and one that takes none. -/
theorem wit_scales :
    (let s := labT (withG 2 1)
     ScaleUsed s 2 11 ∧ ¬ScaleUsed s 2 15 ∧ IsScale 31 ∧ IsScale 0x2E ∧ ¬IsScale 0x20) ∧
    ¬ScaleUsed (labT (withG 2 (2 ^ 63))) 2 11 := by
  unfold ScaleUsed IsScale; decide
/-- TileTransfers: images past the end of scratchpad, one of them past 2^64. -/
theorem wit_beyond :
    (0x8000 : Nat) < ((0x8000 : W64).toNat + 32 * (0 : BitVec 6).toNat) + 1 ∧ ((2 ^ 64 - 32 : W64).toNat + 32 * (1 : BitVec 6).toNat) % 32 = 0 ∧
      0x8000 < (2 ^ 64 - 32 : W64).toNat + 32 * (1 : BitVec 6).toNat := by decide +kernel
/-- Fences: nothing outstanding of T0, while T1 has a matrix instruction queued. -/
theorem wit_nothing_out :
    NothingOut (labC fun c => { c with mx := { c.mx with queue := [{ id := 0, t := 1, op := .zero 1 }] } }) 0 := by
  refine ⟨?_, ?_, ?_, ?_, ?_, ?_, ?_⟩ <;> first | decide | (intros; simp_all [labC, lab, modFocus])
/-- FaultsAreTaken: T1 faults while T0 waits to deliver to it. -/
theorem wit_awaited :
    let s := modFocus labM fun c => { c with thr := c.thr.set 0 { st := .parked, pc := 3, wait := .bcast 1 10 0 } }
    s.me.outs = [] ∧ s.cell.bcastAwaits s.cell.last = true ∧ s.cell.holdsFault s.cell.last = false ∧ s.cell.holdsFault 0 = false ∧
      s.cell.last ≠ 0 ∧ (s.cell.th 0).outs = [] := by decide
/-- HostRegisters: the last byte of the record, a token a byte short, and writes next to the registers. -/
theorem wit_registers :
    63 + [(7 : Byte)].length ≤ 64 ∧ (List.replicate 31 (0 : Byte)).length < 32 ∧
    ∀ off : BitVec 16, off ∈ [0xFF, 0x120, 0x1FF, 0x220, 0xFFF, 0x1040] → ∀ i, i < [(7 : Byte)].length →
      ¬(0x100 ≤ off.toNat + i ∧ off.toNat + i < 0x120) ∧ ¬(0x200 ≤ off.toNat + i ∧ off.toNat + i < 0x220) ∧
        ¬(0x1000 ≤ off.toNat + i ∧ off.toNat + i < 0x1040) := by
  refine ⟨by decide, by decide, ?_⟩
  intro off h i hi
  obtain rfl : i = 0 := Nat.lt_one_iff.mp hi
  simp only [List.mem_cons, List.not_mem_nil, or_false] at h
  obtain rfl | rfl | rfl | rfl | rfl | rfl := h <;> decide

/-! ### Witnesses of the clauses on loops, threads and operands at their limits -/

/-- Loops: LOOP.IN without a count, outside an outer level and at its end, with passes of it left and with none. -/
theorem wit_loops_skipped :
    (Passes lab hd ∧ lab.me.inb = false ∧ srcOk 2 = true ∧ lab.anyBound [2] = false ∧ (lane lab 2).toNat % 2 ^ 32 = 0 ∧
      (lab.me.lp0.active = true → lab.me.pc.toNat + (63 : BitVec 6).toNat < lab.me.lp0.stop.toNat) ∧
      lab.me.pc.toNat + (63 : BitVec 6).toNat < 1023) ∧
    ∀ n : W32, n = 2 ∨ n = 1 →
      let s := labT fun x => { x with lp0 := level 4 71 n }
      Passes s hd ∧ s.me.inb = false ∧ s.anyBound [2] = false ∧ (lane s 2).toNat % 2 ^ 32 = 0 ∧ s.me.lp0.active = true ∧
        s.me.pc.toNat + (63 : BitVec 6).toNat = s.me.lp0.stop.toNat ∧ (1 < s.me.lp0.count.toNat ↔ n = 2) ∧
        s.me.pc.toNat + (63 : BitVec 6).toNat < 1023 := by
  unfold Passes
  refine ⟨by decide, ?_⟩
  rintro n (rfl | rfl) <;> decide
/-- FallingThrough: the end of the outer level, alone and with the inner one's, with passes left and with none. -/
theorem wit_outer_ends : ∀ (n : W32) (l : Loop), n = 2 ∨ n = 1 → l = {} ∨ l = level 8 8 1 →
    let s := labT fun x => { x with lp0 := level 4 8 n, lp1 := l }
    Passes s hd ∧ s.me.inb = false ∧ (s.me.lp1.active = true → s.me.lp1.stop = s.me.pc → s.me.lp1.count.toNat ≤ 1) ∧
      (s.me.lp1.active = true ∧ s.me.lp1.stop = s.me.pc ↔ l = level 8 8 1) ∧ s.me.lp0.active = true ∧ s.me.lp0.stop = s.me.pc ∧
      (1 < s.me.lp0.count.toNat ↔ n = 2) ∧ s.me.pc.toNat < 1023 := by
  unfold Passes
  rintro n l (rfl | rfl) (rfl | rfl) <;> decide
/-- BlockControl: a member of the mask in each of the states for which T0 waits. -/
theorem wit_joins_wait : ∀ x ∈ [TState.bound, .running, .sleeping, .parked],
    let s := modFocus (labT (withG 2 127)) fun c => { c with thr := c.thr.set 1 { st := x } }
    Passes s hd ∧ s.cell.last = 0 ∧ s.anyBound [1, 2] = false ∧ (lane s 2).setWidth 7 = (127 : BitVec 7) ∧ Follows s 1 9 {} {} ∧
      ∃ u : TIdx, inMask 127 u = true ∧ (s.cell.th u).st ≠ .free ∧ (s.cell.th u).st ≠ .stopped ∧ (s.cell.th u).st ≠ .faulted := by
  unfold Passes Follows; decide
/-- The lab whose T0 names thread 1, that thread in some state. -/
def control (x : Thread) : State := modFocus (labT (withG 2 1)) fun c => { c with thr := c.thr.set 1 x }
/-- ThreadControl: a faulted thread with END set and a prefix pending, in a block. -/
theorem wit_resume_prefix :
    let s := control { st := .faulted, fcause := 0x18001, inb := true, blkAt := 5, blkLen := 3, fpc := 9, pp := true }
    Passes s hd ∧ Follows s 1 9 {} {} ∧ s.cell.last = 0 ∧ (lane s 2).toNat % 8 = (1 : TIdx).val ∧ s.cell.heldFault 1 = false ∧
      (s.cell.th 1).st = .faulted ∧ (s.cell.th 1).fcause.getLsbD 16 = true ∧ (s.cell.th 1).outs = [] ∧ (s.cell.th 1).deferred = none ∧
      (s.cell.th 1).pp = true ∧ s.me.wait = .none ∧ s.cell.holdsFault 1 = false ∧ (s.cell.th 1).inb = true := by
  unfold Passes Follows; decide +kernel
/-- A thread that waits for a lease. -/
def leaseThread (w : Wait) : Thread := { st := .parked, wait := w, outs := [⟨5, 64, 0, false, .matrix 4, none, none⟩] }
/-- ThreadControl: a thread with a lease request on the list, one with it in the queue, one with a copy's result due and one with a
packet to write. -/
theorem wit_control_waits :
    (∀ b : Bool,
      let s := modFocus (control (leaseThread (.lease 15 5))) fun c => { c with mx := { c.mx with
        leaseQ := if b then [⟨4, 1, 15, 5⟩] else [], queue := if b then [] else [{ id := 4, t := 1, op := .lease 15 5 }] } }
      Passes s hd ∧ Follows s 1 9 {} {} ∧ s.cell.last = 0 ∧ (lane s 2).toNat % 8 = (1 : TIdx).val ∧ s.me.wait = .none ∧
        (s.cell.th 1).st ≠ .free ∧ NoDeposit (s.cell.th 1) ∧ OnlyLeases s 1 ∧ ¬Undrained s 1) ∧
    (let s := control { st := .parked, outs := [pending] }
     Passes s hd ∧ Follows s 1 9 {} {} ∧ s.me.wait = .none ∧ (s.cell.th 1).st ≠ .free ∧ NoDeposit (s.cell.th 1) ∧
       ∃ o ∈ (s.cell.th 1).outs, ∀ i, o.kind ≠ .matrix i) ∧
    (let s := modFocus (control { st := .stopped }) (descCell { engine 1 with buf := [5], fetch := 1, own := 1 })
     Passes s hd ∧ Follows s 1 9 {} {} ∧ s.me.wait = .none ∧ NoDeposit (s.cell.th 1) ∧ Undrained s 1) := by
  unfold Passes Follows NoDeposit
  refine ⟨?_, ?_, ?_⟩
  · rintro (_ | _) <;> refine ⟨by decide, by decide, by decide, by decide, by decide, by decide, by intros; simp [control, leaseThread, modFocus, labT, State.modMe, lab, Cell.th], ?_, ?_⟩
    · intro o h
      obtain rfl := List.mem_singleton.mp h
      exact ⟨4, rfl, .inr ⟨_, List.mem_singleton.mpr rfl, rfl, rfl, 15, 5, rfl⟩⟩
    · unfold Undrained; decide
    · intro o h
      obtain rfl := List.mem_singleton.mp h
      exact ⟨4, rfl, .inl ⟨_, List.mem_singleton.mpr rfl, rfl, rfl⟩⟩
    · unfold Undrained; decide
  · refine ⟨by decide, by decide, by decide, by decide, by intros; simp [control, modFocus, labT, State.modMe, lab, Cell.th], pending, List.mem_singleton.mpr rfl, ?_⟩
    intro i; nofun
  · refine ⟨by decide, by decide, by decide, by intros; simp [control, modFocus, labT, State.modMe, lab, Cell.th, descCell, Cell.modStrm], ?_⟩
    unfold Undrained; decide
/-- CopiesIssue: a local offset that is the first misaligned value. -/
theorem wit_copies_misaligned : ∃ f, copyForm (.cget hd 1 2 3 2) = some f ∧
    (let s := labT fun x => withG 1 0xFFFF (withG 2 (2 ^ 47) (withG 3 (0x7FD4 + 44 * 2 ^ 16) x))
     Passes s f.h ∧ Follows s f.len 9 {} {} ∧ f.InWindows s ∧ (f.aligned s).find? (fun v => decide (v % 8 ≠ 0)) = some 0x7FD4) := by
  unfold Copying.InWindows Copying.aligned Follows Passes
  exact ⟨_, rfl, by decide⟩
/-- MarksAndBarriers: BARR.E with no copy of the thread's while both signal entries are taken. -/
theorem wit_barrier_signals :
    let s := modFocus (barrierLab 7) fun c => { c with eng := { c.eng with sigs := [6, 7] } }
    Passes s hd ∧ s.cell.eng.bars[barIx 3].target ≠ 0 ∧ s.cell.eng.freeRec = some 0 ∧ 2 ≤ s.cell.eng.sigs.length ∧
      ∀ j : Fin 16, s.cell.eng.ents[j] = none := by
  unfold Passes; decide
set_option maxRecDepth 4000 in
/-- StreamsAreBound: a read stream with a fetched packet, one's own, may be bound anew, unbound and rewound. -/
theorem wit_bind_fetched :
    let s := modFocus lab (descCell { engine 0 with buf := [5], fetch := 1 })
    Passes s hd ∧ s.me.tmd = false ∧ Follows s 1 9 {} {} ∧ (bindOf s.cell.last (s.cell.gran 0x7FE0) 0).descFault = none ∧
      s.cell.eng.strm[3].bound = true ∧ s.cell.eng.strm[3].own = s.cell.last ∧ settled s.cell.eng.strm[3] ∧ s.cell.eng.strm[3].buf ≠ [] := by
  unfold Passes Follows settled; decide
/-- Multiplications: tiles that the thread does not hold, with runs of registers, descriptors and a bound stream register. -/
theorem wit_mma_unheld :
    (let s := labT (shape 5)
     s.me.guard hd = true ∧ s.me.cuts = [] ∧ UnitFree s ∧ ¬holds1 s 3 ∧ s.mode 0 = some ⟨8, 1, 1⟩ ∧ MayRun s 31 1 ∧ MayRun s 0x2E 1 ∧ MayDescribe 2 ∧
       MayDescribe 39 ∧ matrixMode 0 s.me.afEff s.me.bfEff = some ⟨8, 1, 1⟩ ∧ s.cell.mx.torOut[tile 2] = false ∧ (31 : Spec).toNat + 1 ≤ 32) ∧
    (let s := modFocus (labT (shape 11)) (ownedBy 1)
     UnitFree s ∧ ¬holds1 s 3 ∧ matrixMode 0 s.me.afEff s.me.bfEff = some ⟨32, 8, 8⟩ ∧ MayRun s 24 8 ∧ IsScale s.me.saEff ∧ IsScale s.me.sbEff ∧
       11 ≤ s.me.bfEff.toNat ∧ s.me.bfEff ≠ 15) ∧
    (let s := modFocus (labT (shape 5)) (descCell { engine 0 with buf := [5], fetch := 1 })
     UnitFree s ∧ ¬holds1 s 3 ∧ MayRun s 39 1) := by
  unfold UnitFree holds1 MayRun IsRun MayDescribe IsScale; and_intros <;> decide
/-- Sends: in a timed handler, a message without a time and with a bound stream register for its result. -/
theorem wit_send_untimed :
    let s := modFocus (labT fun x => { withG 3 4 x with tmd := true }) (descCell (engine 1))
    Passes s hd ∧ Follows s 1 9 {} {} ∧ s.me.tmd = true ∧ (lane s 3).toNat / 2 ^ 16 % 2 = 0 ∧ dstOk 39 = true ∧
      s.cell.bound s.cell.last 39 = some 3 ∧ s.cell.bound s.cell.last 3 = none := by
  unfold Passes Follows; decide +kernel
/-- SlotReleases: an older held slot of the group. -/
theorem wit_release_late :
    let s := withGlobals lightGlobals (modFocus (labT (withG 2 7)) fun c =>
      let c := slotCell { held := true, blk := 2 } c
      { c with plane := { c.plane with live := Sp.set c.plane.live 16 (BitVec.ofNat 32 (2 ^ 10 * 9 + 2 ^ 23)) }, land := c.land.set 0 { held := true, blk := 1 } })
    Passes s hd ∧ Follows s 1 9 {} {} ∧ (lane s 2).toNat % 8 = (7 : Fin 8).val ∧ s.me.tmd = false ∧ s.cell.slotV 0 = true ∧
      s.cell.slotKey 0 = s.cell.slotKey 7 ∧ s.cell.land[(0 : Fin 8)].held = true ∧ s.cell.land[(0 : Fin 8)].blk < s.cell.land[(7 : Fin 8)].blk := by
  unfold Passes Follows; and_intros <;> decide +kernel
/-- ScratchpadChecks: the later of two bad words, the last of scratchpad. -/
theorem wit_pad_bad :
    let p : Pad := { ecc2 := [0x7FF0, 0x7FF8] }
    0x7FF8 ∈ wordsOf 0x7FF0 16 ∧ 0x7FF8 ∈ p.ecc2 ∧ ∀ u ∈ wordsOf 0x7FF0 16, 0x7FF8 < u → u ∉ p.ecc2 := by decide
/-- GuardsHoldBack: a word that is excluded, a prefix that is not accepted and one that is, a full matrix queue, a direction under way, and a
SYSWR to RSEED's read-only neighbour. -/
theorem wit_guard_kinds :
    (excluded lab (.hret ⟨false, true, 1⟩) = true ∧ unitTaken lab (.hret ⟨false, true, 1⟩) = none ∧ takesPrefix (.hret hd) = false ∧
      takesPrefix (.vadd hd 1 2 3 0) = true ∧ excluded lab (.vadd hd 1 2 3 0) = false ∧ (labT fun x => { x with pp := true }).me.pp = true) ∧
    (let s := labC fun c => { c with mx := { c.mx with queue := List.replicate 4 { id := 0, t := 0, op := .rel 1 } } }
     unitTaken s (.mzero ⟨false, true, 1⟩ 1) = some .matrixRoom) ∧
    (let s := labC fun c => { c with mx := { c.mx with torOut := c.mx.torOut.set 2 true } }
     unitTaken s (.mmr ⟨false, true, 1⟩ 0 1 2 2) = some (.torus 2)) ∧
    unitTaken (labThread 7 { outs := [⟨5, 64, 0, false, .divider, none, none⟩] }) (.div ⟨false, true, 1⟩ 1 2 3 0) = some .divider ∧
    (writesFixed (.syswr ⟨false, true, 1⟩ 1 0x000) = true ∧ excluded lab (.syswr ⟨false, true, 1⟩ 1 0x000) = false ∧
      WellFormed (.syswr ⟨false, true, 1⟩ 1 0x000)) := by
  refine ⟨by decide +kernel, by decide +kernel, by decide +kernel, ?_, by decide +kernel, by decide +kernel, ?_⟩
  · decide +kernel
  · unfold WellFormed; decide
/-- InstructionsKeepTheRest: a store, whose bytes are named, and an instruction that binds an engine again. -/
theorem wit_frame_store :
    (let s := labT (withG 2 0x7FC0)
     storesTo s (.st hd 1 2 7 3) 0x7FF8 ∧ ¬storesTo s (.st hd 1 2 7 3) 0x7FF7 ∧ rebinds (.sctlRewind hd 39) = some 39 ∧
       (39 : Spec).toNat = 36 + (3 : Fin 4).val) := by
  refine ⟨.inl ⟨_, rfl, by decide +kernel, by decide +kernel⟩, ?_, rfl, rfl⟩
  rintro (⟨f, h, a, -⟩ | ⟨_, _, _, _, h, -⟩)
  · obtain rfl : _ = f := Option.some.inj h
    revert a; decide +kernel
  · cases h

/-! ### Witnesses of the clauses on the matrix unit and the engines at work -/

/-- A cell of T0 with this matrix instruction at the head of the queue. -/
def unitLab (e : MEntry) : State := labC fun c => { ownedBy 0 c with mx := { (ownedBy 0 c).mx with queue := [e] } }
/-- An instruction of T0. -/
def ment (op : MOp) : MEntry := { id := 4, t := 0, op := op }
/-- Every granule from an address on, as read. -/
def gotAll (a n : Nat) : KMap V256 := (List.range n).map fun i => (a + 32 * i, 0x05)
/-- An integer multiplication of two steps, and an MMR of two by its last registers. -/
def twoMma : MEntry := ment (.mma 3 0 8 9 (.regs [5]) (.regs [7]) 0 0 false 0 2 false none)
def twoMmr (step : Nat) (sent : Bool) : MEntry := { ment (.mmr 3 8 8 (.regs [5]) 31 [7] 0 0 0 2) with step := step, sent := sent }
set_option maxRecDepth 4000 in
/-- MatrixUnitExecutes: an instruction with granules to read; a multiplication's first and last step. -/
theorem wit_unit_reads :
    (let s := unitLab (ment (.load 3 0x7F00 0))
     s.cur = (0 : Name).toNat ∧ s.cell.mx.queue = ment (.load 3 0x7F00 0) :: [] ∧ (s.cell.th 0).wait = .none ∧ (ment (.load 3 0x7F00 0)).lacks ≠ [] ∧
       ∀ x ∈ (ment (.load 3 0x7F00 0)).lacks, s.cell.unmarkedBut [] x.1 x.2 = false ∧ s.cell.badRead (x.1 / 32 * 32) 32 = none) ∧
    ((unitLab twoMma).cell.mx.queue = twoMma :: [] ∧ twoMma.lacks = [] ∧ matrixMode 0 8 9 = some ⟨4, 1, 1⟩ ∧
      ({ twoMma with step := 1 } : MEntry).lacks = [] ∧ ((unitLab twoMma).cell.th 0).wait = .none) := by decide +kernel
/-- MatrixUnitExecutes: an MMR to send, and one whose neighbour's exchange is in, at its first and at its last step. -/
theorem wit_unit_ring :
    (let s := unitLab (twoMmr 0 false)
     s.cell.mx.queue = twoMmr 0 false :: [] ∧ (twoMmr 0 false).lacks = [] ∧ matrixMode 0 8 8 = some ⟨4, 1, 1⟩ ∧ s.cell.mx.torOut[(0 : Fin 4)] = false) ∧
    ∀ i : Nat, i = 0 ∨ i = 1 →
      let s := modFocus (unitLab (twoMmr i true)) fun c => { c with mx := { c.mx with torIn := c.mx.torIn.set 0 (some [9]) } }
      s.cell.mx.queue = twoMmr i true :: [] ∧ (twoMmr i true).lacks = [] ∧ s.cell.mx.torIn[(0 : Fin 4)] = some [9] ∧ isG 31 = true ∧
        (31 : Spec).toNat + 1 ≤ 32 ∧ (i + 1 < 2 ↔ i = 0) := by
  refine ⟨by decide +kernel, ?_⟩
  rintro i (rfl | rfl) <;> decide +kernel
/-- MatrixUnitExecutes: MST.S at its first and last granule, MST.R, MST.L and CBLOAD with all read, MRED. -/
theorem wit_unit_moves :
    (∀ e ∈ [ment (.store 3 0x7F00 0 0), { ment (.store 3 0x7F00 6 0) with step := 7, img := [(0, 9)] }, ment (.toRegs 3 24 0 0),
        { ment (.load 3 0x7F00 0) with got := gotAll 0x7F00 8 }, { ment (.cbload 0x7FF8 255 1) with got := gotAll 0x7FE0 1 },
        ment (.mred 3 4094 false true)],
      let s := unitLab e
      s.cur = (0 : Name).toNat ∧ s.cell.mx.queue = e :: [] ∧ (s.cell.th e.t).wait = .none ∧ e.lacks = [] ∧ s.cell.sleepers = [] ∧
        s.cell.red.buf = none ∧ (e.step ≠ 0 → e.img ≠ [] ∧ ∀ g ∈ e.img, g.1 < 8) ∧ Sp.wf s.cell.pad.cb = true ∧ Sp.wf s.cell.pad.fp = true) ∧
    (24 : Spec).toNat + 8 ≤ 32 ∧ 0x7F00 % 32 = 0 ∧ mstOk 0 = true ∧ 0x7FF8 % 4 = 0 := by decide +kernel
/-- A copy of thread 0 with one piece read, between the last granule of scratchpad and this global address. -/
def landing (put : Bool) (ga : Nat) : CopyEnt := { copyDone with put := put, todo := [{ loc := 0x7FE0, len := 32, ga := ga, buf := some 77 }] }
/-- Cells 0 and 1 of die 0 and cell 0 of die 1 in one partition, with an entry of the RTU that maps page 0 to one of them. -/
def mappedLab (n : Name) : State :=
  let s := focus (focus lab2 1) 0
  { modFocus s (·.setEnt 15 (some (landing true 0x40))) with
    rtu := [{ die := 0, rtu := 0, page := 0, g64 := false, ent := BitVec.ofNat 64 (3 + 2 ^ 9 * n.toNat) }] }
/-- EnginesComplete: the last granule of a CGET, with a channel on and without; a CPUT's to a cell of its die and to another die. -/
theorem wit_engines_write :
    (let x := landing false 0
     let s := labC (·.setEnt 15 (some x))
     s.cur = (0 : Name).toNat ∧ s.cell.eng.ents[(15 : Fin 16)] = some x ∧ x.put = false ∧ x.err = none ∧ s.asksOf (.copy 0 15) = [] ∧
       s.stopping = false ∧ s.cell.landBlocked 0x7FE0 32 = false ∧ Memory.wf s.cell.pad.mem = true ∧ s.cell.sleepers = [] ∧
       ∀ k : Fin 8, (s.cell.eng.wm[k].landed 0x7FE0 32).done = s.cell.eng.wm[k].done) ∧
    (∀ n : Name, n = 1 ∨ n = 0x4000 →
      let s := mappedLab n
      s.cur = (0 : Name).toNat ∧ s.cell.eng.ents[(15 : Fin 16)] = some (landing true 0x40) ∧ s.asksOf (.copy 0 15) = [] ∧ s.stopping = false ∧
        ((fresh s).translate (.copy s.cell.name 15) (0x40 % 2 ^ 45) true).2 = .ok (.pad n.toNat (0x40 % 32 + 0x40)) ∧
        ((fresh s).translate (.copy s.cell.name 15) (0x40 % 2 ^ 45) true).1.windowShut n.toNat = false ∧
        (nameDie n.toNat = nameDie s.cell.name.toNat ↔ n = 1) ∧ n.toNat ≠ 0 ∧ KM.wf s.others = true ∧
        Memory.wf (getCell s n.toNat).pad.mem = true ∧ (getCell s n.toNat).sleepers = [] ∧ (getCell s n.toNat).drowsy = false ∧
        (n = 1 → s.crosses s.cell.name.toNat n.toNat = true) ∧ (getCell s n.toNat).partBad (0x40 + 0x40 % 32) 32 = false) := by
  refine ⟨by and_intros <;> decide +kernel, ?_⟩
  rintro n (rfl | rfl) <;> and_intros <;> decide +kernel
/-- ArrivalsBind: a message that a flood brought. -/
theorem wit_arrival_flood :
    let f : Flight := { arrived letter with flood := some 5 }
    let s : State := { modFocus lab handlerCell with mnet := [f] }
    s.ready 0 [0, 2] = some f ∧ f.flood = some 5 ∧ f.p.dest = 0 ∧ s.heldAt (0 : Name).toNat = false ∧ s.cell.bindable f.p.chan.toNat = some 1 := by
  decide
/-- CircuitsCarry, PathsAreTaken, BlocksAndJoins: no round's token is on its way to the cell, and no rotation holds it. -/
theorem wit_not_held : Machine.awaits (circuitLab []) circuit.sname.toNat = false ∧ Machine.awaits (circuitLab []) circuit.dname.toNat = false ∧
    lab.heldAt (0 : Name).toNat = false ∧ lab.rootHeld 0 (0 : Name).toNat = false ∧ lab.rootMoves 0 = false := by decide

/-! ### Witnesses of the clauses on causal order, rounds, time, power and the ports -/

/-- What crosses from die 0 to die 1, in a state of its vector. -/
def crossing01 (c : Option Causal) : Crossing := { src := 0, dst := 1, causal := c }
/-- CausalUnitsOrder: at stamping, a granule and a contribution that leave the die; eight entries that die 1 has not been sent. -/
theorem wit_causal_planes :
    (let s : State := { lab2 with cnet := [.crossing (crossing01 none) (.granule 0 255 0 5)], snet := [.crossing (crossing01 none) (.contrib 0 0x4000 0 (share 1))] }
     (unitOf s 0).inWindow (Sp.get (unitOf s 0).k 0 + 1) = true ∧ s.cnet[0]? = some (.crossing (crossing01 none) (.granule 0 255 0 5)) ∧
       s.snet[0]? = some (.crossing (crossing01 none) (.contrib 0 0x4000 0 (share 1))) ∧ (SMsg.contrib 0 0x4000 0 (share 1)).resultKey = none ∧
       (crossing01 none).rel = false ∧ (changed s 0 1).length ≤ 7) ∧
    (let s : State := { lab2 with causal := [(0, { k := (List.range 8).map fun i => (i, 1) })] }
     (unitOf s 0).inWindow (Sp.get (unitOf s 0).k 0 + 1) = true ∧ 7 < (changed s 0 1).length) := by
  and_intros <;> decide +kernel
/-- CausalUnitsOrder: at die 1, a full vector, and packets of the C and S planes; a packet released and not yet applied. -/
theorem wit_causal_arrivals :
    (let f : Flight := { heldFor 0 with p := { (heldFor 0).p with kind := 5 } }
     let s : State := { lab2 with mnet := [f] }
     s.mnet[0]? = some f ∧ s.atHome f = some (1, ⟨0, 1, 0, [(0, 1)], false⟩) ∧ f.p.kind = 5) ∧
    (let x := crossing01 (some ⟨0, 1, 0, [(0, 1)], false⟩)
     let s : State := { lab2 with cnet := [.crossing x (.granule 0 255 0 5)], snet := [.crossing x (.contrib 0 0x4000 0 (share 1))] }
     x.causal = some ⟨0, 1, 0, [(0, 1)], false⟩ ∧ x.rel = false ∧ (unitOf s x.dst).hold.length < 2048 ∧
       s.cnet[0]? = some (.crossing x (.granule 0 255 0 5)) ∧ s.snet[0]? = some (.crossing x (.contrib 0 0x4000 0 (share 1)))) ∧
    (let s : State := { lab2 with causal := [(1, { released := [(0, 1, [(0, 1), (63, 9)])] })] }
     Sp.wf (unitOf s 1).k = true ∧ (unitOf s 1).released.find? (fun x => x.1 == (⟨0, 1, 0, [], false⟩ : Causal).odie.toNat && x.2.1 == 1) =
       some (0, 1, [(0, 1), (63, 9)])) := by
  and_intros <;> decide +kernel
/-- TokensPass: a READY idle bank of an image that has not ended; a cell without a load under each action. RoundEndsAreReported: a SWAP. -/
theorem wit_token_more :
    (let s := modFocus (tokenLab .swap [] .ready) fun c => { c with plane := { c.plane with ended := false } }
     s.tokenAt 0 (0 : Name).toNat = some ⟨.swap, [0], [], true⟩ ∧ s.cell.plane.idle = .ready ∧ s.cell.plane.ended = false ∧ (part s 0).isSome = true) ∧
    (∀ a : Action, a ∈ [Action.repeat_, .pause, .swap] →
      let s := modFocus (tokenLab a [] .empty) fun c => { c with plane := { c.plane with loaded := false } }
      s.tokenAt 0 (0 : Name).toNat = some ⟨a, [0], [], true⟩ ∧ s.cell.plane.loaded = false ∧ (a = .swap → s.cell.plane.idle ≠ .ready)) ∧
    (let s := tokenLab .swap [] .ready
     s.tokenAt 0 (0 : Name).toNat = some ⟨.swap, [0], [], true⟩ ∧ s.cell.plane.wantsSwap = true ∧ s.cell.plane.canSwap = true ∧
       part s 0 = some (tokenPart .swap [])) := by
  refine ⟨by decide, ?_, by decide⟩
  intro a ha
  simp only [List.mem_cons, List.not_mem_nil, or_false] at ha
  obtain rfl | rfl | rfl := ha <;> decide
/-- RoundsComplete: two waves that agree while a refusal is on its way. -/
theorem wit_unsettled :
    let q : Part := { labPart with wave := some ⟨[], 1, 1⟩, lastTot := some (1, 1) }
    let s : State := { labC (doneCell .empty) with parts := [(0, q)], mnet := [arrived { letter with kind := 2 }] }
    part s (0 : PartIdx).toNat = some q ∧ q.lightQuiet = true ∧ q.gvt = none ∧ q.running = true ∧ s.rootMoves (0 : PartIdx).toNat = false ∧
      s.settled (0 : PartIdx).toNat = false := by decide
/-- The lab with a journal of one entry, and a rollback that keeps the oldest `n`. -/
def keeping (w0 w1 n : Nat) : State :=
  labC fun c => { c with
    pad := { c.pad with mem := Memory.writeNat (Memory.writeNat [] c.jBase 8 w0) (c.jBase + 8) 8 w1 }
    tim := { c.tim with jused := 1, lvt := 9, rbk := some { v := 9, keep := some (n, 5) } } }
/-- VirtualTime: an entry of each kind to undo, and none. -/
theorem wit_undo :
    (∀ k : Nat, k < 5 →
      let s := keeping (jWord0 k 4095 12) 77 0
      s.cell.mayEnter = none ∧ s.cell.tim.rbk = some { v := 9, keep := some (0, 5) } ∧ s.cell.tim.run = none ∧ s.cell.sleepers = [] ∧
        dieInPart s (BitVec.ofNat 20 77 : Name).toNat s.cell.part.toNat = true ∧
        s.cell.jEntry (s.cell.tim.jused - 1) = (jWord0 k 4095 12, 77) ∧ jKind (jWord0 k 4095 12, 77) = k ∧ s.cell.tim.tq = [] ∧
        s.cell.badRead (s.cell.jAt (s.cell.tim.jhead + (s.cell.tim.jused - 1))) 16 = none ∧ 0 < s.cell.tim.jused) ∧
    (let s := keeping (jWord0 1 0 5) 0 1
     s.cell.mayEnter = none ∧ s.cell.tim.rbk = some { v := 9, keep := some (1, 5) } ∧ s.cell.tim.run = none ∧ s.cell.tim.jused ≤ 1 ∧
       s.cell.tim.antiw = []) := by
  refine ⟨?_, by and_intros <;> decide +kernel⟩
  intro k hk
  match k, hk with
  | 0, _ | 1, _ | 2, _ | 3, _ | 4, _ => and_intros <;> decide +kernel
/-- GvtComputed: COMMIT at a cell with a journal of a start below GVT, a defer pair and a start at GVT, and a processed message. -/
theorem wit_commit :
    let w (i a b : Nat) (m : Memory) : Memory := Memory.writeNat (Memory.writeNat m i 8 a) (i + 8) 8 b
    let c0 := lab.cell
    let c : Cell := { c0 with
      pad := { c0.pad with mem := w (c0.jAt 3) (jWord0 1 0 5) 0 (w (c0.jAt 2) (jWord0 4 0 4) (4 * 2 ^ 32) (w (c0.jAt 1) (jWord0 3 0 4) 77 (w (c0.jAt 0) (jWord0 1 0 4) 0 []))) }
      tim := { c0.tim with jused := 4, tq := [{ p := { timedLetter with vrt := 4 }, done := true, slot := none }],
                           run := some { t := 1, p := timedLetter, vrt := 5, unj := false, held := true } } }
    let g : GvtRun := { n := 1, left := [], commit := some 5, todo := [0] }
    let q : Part := { labPart with timed := true, gvt := some g }
    let s : State := { lab with cell := c, parts := [(0, q)] }
    s.cur = (0 : Name).toNat ∧ partOfName s (0 : Name).toNat = some 0 ∧ part s 0 = some q ∧ g.commit = some 5 ∧
      g.todo.contains (0 : Name).toNat = true ∧ s.cell.tim.rbk = none ∧ s.rootHeld 0 (0 : Name).toNat = false ∧ s.cell.sleepers = [] ∧
      (∀ i, i < 4 → s.cell.badRead (s.cell.jAt (s.cell.tim.jhead + i)) 16 = none) ∧ isStart s 0 ∧ isStart s 3 ∧
      jKind (s.cell.jEntry 1) = 3 ∧ jKind (s.cell.jEntry 2) = 4 ∧
      dieInPart s (BitVec.ofNat 20 (s.cell.jEntry 2).2 : Name).toNat s.cell.part.toNat = true := by
  unfold isStart; and_intros <;> decide +kernel
/-- PowerStates: a Gated island whose tolerance allows Retain only; masks to relax, by a step and to the end. -/
theorem wit_power_more :
    (let s : State := { labC (doneCell .empty) with parts := [(0, { labPart with paused := true, tol := 50 })], islands := [(islandKey 0 true, { volt := 30, want := 35, st := .gated })] }
     (s.island (0 : DieSite).toNat true).st = .gated ∧ s.islandIdle (0 : DieSite).toNat true = true ∧ s.tolerance (0 : DieSite).toNat = 50) ∧
    (∀ m : Nat, m = 1 ∨ m = 31 →
      let q : Part := { labPart with thr := .mask }
      let s : State := { lab with parts := [(0, q)], tumblers := [(0, { mask := m })] }
      part s (0 : PartIdx).toNat = some q ∧ q.dies.Nodup ∧ KM.wf s.tumblers = true ∧ (tumbler s 0 0).mask = m) := by
  refine ⟨by and_intros <;> decide, ?_⟩
  rintro m (rfl | rfl) <;> decide
/-- TumblersRotate: a rotation that holds and may end; one that stands still, one that does not, and one that holds, past its bound. -/
theorem wit_rotation_more :
    (let x : Tumbler := { busy := true, hold := some 3 }
     let s := tumLab x 9 lab
     tumbler s (0 : DieSite).toNat (0 : TumIdx).toNat = x ∧ x.busy = true ∧ x.late = false ∧ x.hold.isSome = true ∧
       s.tumSent (0 : DieSite).toNat (0 : TumIdx).toNat = true ∧ s.tumLanded (0 : DieSite).toNat (0 : TumIdx).toNat = true) ∧
    (let s := tumLab { busy := true } 9 lab
     s.tumStill (0 : DieSite).toNat (0 : TumIdx).toNat = true ∧ (tumbler s 0 0).hold = none ∧ Sp.get s.dieCycle (0 : DieSite).toNat = 9) ∧
    (let s := tumLab { busy := true } 2001 (labThread 1 { st := .bound })
     s.tumStill (0 : DieSite).toNat (0 : TumIdx).toNat = false ∧ (tumbler s 0 0).hold = none) ∧
    (tumbler (tumLab { busy := true, hold := some 3 } 1504 lab) (0 : DieSite).toNat (0 : TumIdx).toNat).hold = some 3 := by
  and_intros <;> decide
/-- PartitionsStopAndReturn: RESTORE to a site without a live die. -/
theorem wit_restore_none :
    let s := asking (5 + 2 ^ 16 + 2 ^ 22) { lab with parts := [] }
    Accepts s .a 5 ∧ recSites (s.port .a).launch = some [1] ∧ part s (recPart (s.port .a).launch) = none ∧ (∀ d ∈ [1], partOfDie s d = none) ∧
      s.liveOf [1] = [] := by
  unfold Accepts; and_intros <;> decide +kernel
/-- Management: an edge across the link that the other side has too, one that it lacks, and one that only it has; a die that the self-test
condemns. -/
theorem wit_edges :
    (let b : Bucket := ⟨0, false, true, 1, 0, 1, 0⟩
     let x : Part := { labPart with globals := { trees := [(1, [⟨8, 3, 9, false, 15, true⟩])], bucks := [(4094, b)] } }
     let g : Gateway := ⟨0, 15, [4094]⟩
     let s : State := { lab with parts := [(0, x)], gateways := [g] }
     g.link = (15 : BitVec 4).toNat ∧ part s g.part.toNat = some x ∧ KM.get x.globals.bucks 4094 = some b ∧ g.tags = [(4094 : BitVec 12).toNat] ∧
       (x.globals.ups b.tree 15).map (fun n => (n.pname, BitVec.ofNat 3 n.lbl)) = [(9, 3)] ∧
       (∀ u, u ∈ [((9 : Name), (3 : BitVec 3))] ↔ u ∈ (x.globals.ups b.tree 15).map fun n => (n.pname, BitVec.ofNat 3 n.lbl)) ∧
       ∀ l ∈ [([] : List (Name × BitVec 3)), [(9, 3), (7, 3)]],
         ¬∀ u, u ∈ l ↔ u ∈ (x.globals.ups b.tree 15).map fun n => (n.pname, BitVec.ofNat 3 n.lbl)) ∧
    State.reset.condemn [5] ≠ [] := by
  refine ⟨⟨by decide, by decide, by decide, by decide, by decide, ?_, ?_⟩, by decide⟩
  · have e : (({ trees := [(1, [⟨8, 3, 9, false, 15, true⟩])], bucks := [(4094, ⟨0, false, true, 1, 0, 1, 0⟩)] } : Globals).ups 1 15).map
        (fun n => (n.pname, BitVec.ofNat 3 n.lbl)) = [(9, 3)] := by decide
    intro u; exact ⟨fun h => e ▸ h, fun h => e ▸ h⟩
  · have e : (({ trees := [(1, [⟨8, 3, 9, false, 15, true⟩])], bucks := [(4094, ⟨0, false, true, 1, 0, 1, 0⟩)] } : Globals).ups 1 15).map
        (fun n => (n.pname, BitVec.ofNat 3 n.lbl)) = [(9, 3)] := by decide
    intro l hl h
    simp only [List.mem_cons, List.not_mem_nil, or_false] at hl
    obtain rfl | rfl := hl
    · exact absurd ((h (9, 3)).2 (e ▸ by decide)) (by decide)
    · exact absurd (e ▸ (h (7, 3)).1 (by decide)) (by decide)

/-! ### Ill-formed terms, one for each check, are refused -/

/-- Guard 0b1000 (R47); the reserved values of X, of B as a sub-operation and of COND (R50, R53); the system register that only FPC's own
form writes; an event, which has no words. -/
theorem test_ill_formed :
    [Instr.nop ⟨false, true, 0⟩, .add ⟨true, true, 0⟩ 1 2 3 0, .sendL ⟨false, true, 0⟩ 1 2 3 0 0 0].map wellFormed = [false, false, false] ∧
    [Instr.add hd 1 2 3 3, .sub hd 1 2 3 3, .mul hd 1 2 3 3, .and hd 1 2 3 3, .or hd 1 2 3 3, .xor hd 1 2 3 3, .andn hd 1 2 3 3,
      .shl hd 1 2 3 3, .ext hd 1 2 0 3, .ext hd 1 2 2 0, .mov hd 1 2 2, .cmp hd 0 1 2 3 3, .lds hd 1 2 0 3, .aop hd 1 2 10].map wellFormed =
      List.replicate 14 false ∧
    [Instr.vfma hd 1 2 3 3, .vlane hd 1 2 0 3, .vspec hd 1 2 8, .mma hd 0 0 1 2 3, .cget hd 1 2 3 3, .cput hd 1 2 3 3, .clmask hd 1 2 3,
      .fence hd 3 0, .fence hd 0 3, .syswr hd 1 0x041, .movi hd 1 3 0, .addi hd 1 2 2 0, .andi hd 1 2 2 0, .ori hd 1 2 2 0,
      .bfx hd 1 2 2 0 0, .ldL hd 1 2 2 0 0, .ldL hd 1 2 1 3 0, .mmaL hd 0 1 2 3 0 0 0, .cgetL hd 1 2 3 3 0 0, .cputL hd 1 2 3 3 0 0,
      .rdconL hd 1 2 2 0 0, .roundEndToken 0].map wellFormed = List.replicate 22 false := by decide

/-! ### Words written out from the encodings (Tables 02.4 to 02.8 and the entries), by family: W, G, OP, D, A, B, X -/

/-- Control: JMP g9, CALLR g9, RET g31, and RET with W and guard p3. -/
theorem test_words_control :
    [0b00000000001100000000100100000000, 0b00000000001100000000100100000001, 0b00000000001100000001111100000010,
      0b10011000001100000001111100000010].map (decodeTableWord 32) =
    [some (.jmp hd 9), some (.callr hd 9), some (.ret hd 31), some (.ret ⟨true, false, 3⟩ 31)] := by decide
/-- Scalar: SUB g1, g2, −1; MAX g1, g2, g3; CMP.LT p3, g2, c1. -/
theorem test_words_scalar :
    [0b00000001000100000100001011111110, 0b00000001110000000100001000001101, 0b00000010000001001100001011000100].map (decodeTableWord 32) =
    [some (.sub hd 1 2 0x3F 2), some (.max hd 1 2 3), some (.cmp hd 2 3 2 0x31 0)] := by decide
/-- Memory: LD.D g1, [g2 + 3 words]; ST.B g1, [g2]; LDV.BC q0, [g2]; AOP.CAS g1, g2. -/
theorem test_words_memory :
    [0b00000010100000000100001000001111, 0b00000010101000000100001000000000, 0b00000010101110000000001000000010,
      0b00000010110000000100001000100100].map (decodeTableWord 32) =
    [some (.ld hd 1 2 3 3), some (.st hd 1 2 0 0), some (.ldvBc hd 0x20 2 0), some (.aop hd 1 2 9)] := by decide
/-- Vector and formats: VADD q0, q1, q2; VFMA's FNMA; CVT to format 9 under RZ; PFX with FS 2, FD keeping, SC g4, RS 3. -/
theorem test_words_vector :
    [0b00000011000010000010000110001000, 0b00000011001110000010000110001010, 0b00000100000010000010000110010100,
      0b00000100010000101111000100110000].map (decodeTableWord 32) =
    [some (.vadd hd 0x20 0x21 0x22 0), some (.vfma hd 0x20 0x21 0x22 2), some (.cvt hd 0x20 0x21 9 1 0), some (.pfx hd 2 15 4 3)] := by decide
/-- Matrix: MZERO of a0, as R205's example writes it; CBLOAD g5. -/
theorem test_words_matrix :
    [0x04A00004, 0b00000100111000000000010100000000].map (decodeTableWord 32) = [some (.mzero hd 1), some (.cbload hd 5)] := by decide
/-- Engines: CPUT.BY g1, g2, g3 under its policy 2. -/
theorem test_words_engines : decodeTableWord 32 0b00000101001100000100001000001110 = some (.cput hd 1 2 3 2) := by decide
/-- Long forms, word 1 above word 0: MOVI g1 sign-extended, BFX.S g1, g2 of LSB 4 and width 8. -/
theorem test_words_long :
    [0b10000000000000000000000000000000 * 2 ^ 32 + 0b00000110000000000100000000000001,
      0b00000000000000000000000111000100 * 2 ^ 32 + 0b00000110010000000100001000000001].map (decodeTableWord 64) =
    [some (.movi hd 1 1 0x80000000), some (.bfx hd 1 2 1 4 7)] := by decide

/-! ### Single steps -/

/-- The thread after an instruction. -/
def after (i : Instr) (s : State) : Option Thread := match exec i s with | .next t => some t.me | _ => none
/-- Lane 0 of g1 after an instruction. -/
def g1 (i : Instr) (s : State) : Option Nat := (after i s).map fun x => (x.g[1]).toNat
/-- R111: sums wrap modulo 2^64, and lanes 1–7 of D stay. -/
theorem test_add_wraps :
    g1 (.add hd 1 2 1 1) (labT fun x => withG 1 (2 ^ 64 * 7 + 3) (withG 2 (2 ^ 64 - 1) x)) = some (2 ^ 64 * 7) := by decide +kernel
/-- R111: B below 64 is a shift count; 64 gives zero. -/
theorem test_shl_64 : g1 (.shl hd 1 2 3 0) (labT fun x => withG 2 1 (withG 3 64 x)) = some 0 := by decide +kernel
/-- R113: an arithmetic shift by more than the width leaves the sign. -/
theorem test_sar_all : g1 (.shr hd 1 2 3 3) (labT fun x => withG 2 (2 ^ 63) (withG 3 200 x)) = some (2 ^ 64 - 1) := by decide +kernel
/-- R112: the low half of a signed product is in MUL, its high half in MULH: −1 times 1 is −1. -/
theorem test_mulh_signed : g1 (.mulh hd 1 2 3 0) (labT fun x => withG 2 (2 ^ 64 - 1) (withG 3 1 x)) = some (2 ^ 64 - 1) := by decide +kernel
/-- R91: BR by −5 from word 8; CALL links word 9. -/
theorem test_branch :
    (after (.br hd (-5)) lab).map (·.pc) = some 3 ∧ (after (.call hd 2) lab).map (fun x => (x.pc, x.g[31])) = some (10, 9) := by decide +kernel
/-- R91: a target below word 0 is ILLEGAL at the branch. -/
theorem test_branch_out : (after (.br hd (-9)) lab).map (fun x => (x.st, x.fpc, x.fcause.toNat % 256)) = some (.faulted, 8, 1) := by decide +kernel
/-- R371: TRAP reports its code and its operand, and resumes after itself. -/
theorem test_trap :
    (after (.trap hd 3 5) (labT (withG 3 77))).map (fun x => (x.st, x.fpc, x.faddr)) = some (.faulted, 9, 77) := by decide +kernel
/-- R220, R6: a byte store at an offset of one byte; a word load that takes it, lowest byte first, as a long-latency result (R65). -/
theorem test_store_load :
    (match exec (.st hd 1 2 1 0) (labT fun x => withG 1 0x1FF (withG 2 0x40 x)) with
      | .next t => (after (.ld hd 1 2 0 2) (t.modMe fun x => { x with pc := 8 })).map fun x => (x.g[1], x.outs.map (·.val))
      | _ => none) = some (0x1FF, [0xFF00]) := by decide +kernel
/-- R51: PFX sets PP, and the next instruction clears it. -/
theorem test_prefix :
    (after (.pfx hd 2 15 0x2E 3) lab).map (·.pp) = some true ∧
      (after (.add hd 1 2 1 1) (labT fun x => { x with pp := true })).map (fun x => (x.st, x.fcause.toNat % 256)) = some (.faulted, 1) := by
  decide +kernel
/-- R94: the lead stops at STOP. -/
theorem test_stop : (after (.stop hd) lab).map (·.st) = some .stopped := by decide +kernel

end Sys2Proof.Tests
end

/-! SUPPORT. The canonical form of memories and tables (R6, R209) is kept by every operation of the model: `PadWf.f` says so of an operation on
a cell, `Canonical.f` of one on the panel, in the order in which the model defines them. A proof follows the branches of its operation,
and cites the lemma of each operation that a branch goes through. An update that touches nothing the form speaks of is closed by the
hypothesis itself. -/

namespace Sys2Proof.Machine.KM

theorem mem_of_get {α : Type} {a : Nat} {x : α} : ∀ {m : KMap α}, KM.get m a = some x → (a, x) ∈ m
  | [], h => by simp [KM.get] at h
  | (k, v) :: r, h => by
    unfold KM.get at h
    split at h
    · next e => simp_all
    · split at h
      · cases h
      · exact List.mem_cons_of_mem _ (KM.mem_of_get h)
theorem wf_put {α : Type} {m : KMap α} {a : Nat} {x : α} (h : KM.wf m = true) : KM.wf (KM.put m a x) = true :=
  KM.wf_iff.mpr (KM.rising_put (KM.wf_iff.mp h))
theorem wf_del {α : Type} {m : KMap α} {a : Nat} (h : KM.wf m = true) : KM.wf (KM.del m a) = true :=
  KM.wf_iff.mpr (KM.rising_del (KM.wf_iff.mp h))

end Sys2Proof.Machine.KM

namespace Sys2Proof.Machine

/-- A map whose values change keeps its keys. -/
theorem Rising.map_values {α : Type} {f : Nat × α → Nat × α} (hf : ∀ e, (f e).1 = e.1) : ∀ {m : KMap α}, Rising m → Rising (m.map f)
  | [], _ => trivial
  | (k, v) :: r, h => by
    obtain ⟨hk, hr⟩ := h
    refine ⟨fun e he => ?_, Rising.map_values hf hr⟩
    obtain ⟨x, hx, rfl⟩ := List.mem_map.mp he
    rw [hf, hf]
    exact hk x hx

end Sys2Proof.Machine

namespace Sys2Proof.Stated

open Machine

-- One lemma after another: the workers of so many proofs at once would hold more memory (their stacks) than the check allows.
set_option Elab.async false

/-! ### The canonical form, by its parts -/

/-- The scratchpad of a cell is in canonical form. -/
def PadWf (c : Cell) : Prop := Memory.wf c.pad.mem = true
/-- The memories and tables of a state beside the cell in hand. -/
def Rest (s : State) : Prop :=
  (∀ x ∈ s.others, PadWf x.2) ∧ Memory.wf s.store = true ∧ Memory.wf s.tables = true ∧ Memory.wf s.hostMem = true ∧
  (∀ c ∈ s.saved, PadWf c) ∧ (∀ k ∈ s.savedParts, Memory.wf k.tabs = true) ∧
  KM.wf s.others = true ∧ KM.wf s.parts = true ∧ KM.wf s.tumblers = true
/-- The next state that an answer brings, if it brings one, is canonical. -/
def AnswerWf : Answer → Prop
  | .next t => Canonical t
  | _ => True
/-- The state that a body leaves, if it leaves one, is canonical. -/
def CtlWf : Ctl → Prop
  | .done s | .goto _ s | .skip _ s | .hold _ _ s | .ends _ s => Canonical s
  | _ => True

variable {s t : State} {c : Cell}

theorem canonical_iff : Canonical s ↔ PadWf s.cell ∧ Rest s := Iff.rfl

/-- The cell in hand of a canonical state. -/
theorem Canonical.cell (h : Canonical s) : PadWf s.cell := (canonical_iff.mp h).1
theorem Canonical.rest (h : Canonical s) : Rest s := (canonical_iff.mp h).2
/-- Two states with the same memories and tables beside their cells in hand. -/
def SameRest (s t : State) : Prop :=
  t.others = s.others ∧ t.store = s.store ∧ t.tables = s.tables ∧ t.hostMem = s.hostMem ∧ t.saved = s.saved ∧
  t.savedParts = s.savedParts ∧ t.parts = s.parts ∧ t.tumblers = s.tumblers
/-- An update of the cell in hand, and of nothing else that the form speaks of. -/
theorem Canonical.withCell (h : Canonical s) (hc : PadWf t.cell) (e : SameRest s t := by exact ⟨rfl, rfl, rfl, rfl, rfl, rfl, rfl, rfl⟩) :
    Canonical t := by
  obtain ⟨ho, hs, ht, hh, hv, hk, hp, hu⟩ := e
  refine canonical_iff.mpr ⟨hc, ?_⟩
  rw [Rest, ho, hs, ht, hh, hv, hk, hp, hu]
  exact h.rest
/-- An update of nothing that the form speaks of. -/
theorem Canonical.same (h : Canonical s) (ec : t.cell = s.cell := by rfl)
    (e : SameRest s t := by exact ⟨rfl, rfl, rfl, rfl, rfl, rfl, rfl, rfl⟩) : Canonical t :=
  h.withCell (ec ▸ h.cell) e
theorem Canonical.ite {p : Prop} [Decidable p] (hs : Canonical s) (ht : Canonical t) : Canonical (if p then s else t) := by
  split
  · exact hs
  · exact ht
theorem PadWf.ite {p : Prop} [Decidable p] {c d : Cell} (hc : PadWf c) (hd : PadWf d) : PadWf (if p then c else d) := by
  split
  · exact hc
  · exact hd
/-- The state of a pair that an operation answers with. -/
theorem Canonical.fst {α : Type} {p : State × α} {x : α} (h : Canonical p.1) (e : p = (t, x)) : Canonical t := by
  subst e
  exact h
/-- An operation that may not apply, and leaves the state where it does not. -/
theorem Canonical.getD {o : Option State} (h : Canonical s) (ho : ∀ t, o = some t → Canonical t) : Canonical (o.getD s) := by
  cases o with
  | none => exact h
  | some t => exact ho t rfl
theorem Canonical.foldl {α : Type} {f : State → α → State} (hf : ∀ s x, Canonical s → Canonical (f s x)) :
    ∀ {l : List α} {s : State}, Canonical s → Canonical (l.foldl f s)
  | [], _, h => h
  | x :: _, s, h => Canonical.foldl hf (s := f s x) (hf s x h)
/-- A fold whose state goes along with what it gathers. -/
theorem fst_foldl {α β : Type} {f : State × β → α → State × β} (hf : ∀ r x, Canonical r.1 → Canonical (f r x).1) :
    ∀ {l : List α} {r : State × β}, Canonical r.1 → Canonical (l.foldl f r).1
  | [], _, h => h
  | x :: _, r, h => fst_foldl hf (r := f r x) (hf r x h)
theorem Canonical.foldr {α : Type} {f : α → State → State} (hf : ∀ x s, Canonical s → Canonical (f x s)) (h : Canonical s) :
    ∀ {l : List α}, Canonical (l.foldr f s)
  | [] => h
  | x :: _ => hf x _ (Canonical.foldr hf h)
theorem PadWf.foldl {α : Type} {f : Cell → α → Cell} (hf : ∀ c x, PadWf c → PadWf (f c x)) :
    ∀ {l : List α} {c : Cell}, PadWf c → PadWf (l.foldl f c)
  | [], _, h => h
  | x :: _, c, h => PadWf.foldl hf (c := f c x) (hf c x h)

/-! ### Cells and partitions (14_space) -/

theorem padWf_freshCell {n : Nat} : PadWf (freshCell s n) := rfl
theorem Canonical.setTumbler {die u : Nat} {x : Tumbler} (h : Canonical s) : Canonical (setTumbler s die u x) := by
  obtain ⟨hc, ho, hs, ht, hh, hv, hk, wo, wp, wt⟩ := h
  exact ⟨hc, ho, hs, ht, hh, hv, hk, wo, wp, KM.wf_put wt⟩
/-- Change of the record of a partition. -/
theorem Canonical.withParts {m : KMap Part} (h : Canonical s) (hm : KM.wf m = true) : Canonical { s with parts := m } := by
  obtain ⟨hc, ho, hs, ht, hh, hv, hk, wo, -, wt⟩ := h
  exact ⟨hc, ho, hs, ht, hh, hv, hk, wo, hm, wt⟩
theorem Canonical.wf_parts (h : Canonical s) : KM.wf s.parts = true := by
  obtain ⟨-, -, -, -, -, -, -, -, wp, -⟩ := h
  exact wp
theorem Canonical.modPart {p : Nat} {f : Part → Part} (h : Canonical s) : Canonical (modPart s p f) := by
  unfold Machine.modPart
  split
  · exact h
  · exact h.withParts (KM.wf_put h.wf_parts)
/-- The cells beside the one in hand. -/
theorem Canonical.withOthers {m : KMap Cell} (h : Canonical s) (hc : PadWf c) (ho : ∀ x ∈ m, PadWf x.2) (wo : KM.wf m = true) {n : Nat} :
    Canonical { s with cur := n, cell := c, others := m } := by
  obtain ⟨-, -, hs, ht, hh, hv, hk, -, wp, wt⟩ := h
  exact ⟨hc, ho, hs, ht, hh, hv, hk, wo, wp, wt⟩
theorem Canonical.others (h : Canonical s) : (∀ x ∈ s.others, PadWf x.2) ∧ KM.wf s.others = true := by
  obtain ⟨-, ho, -, -, -, -, -, wo, -, -⟩ := h
  exact ⟨ho, wo⟩
/-- Any named cell of a canonical state, listed or not. -/
theorem Canonical.getCell {n : Nat} (h : Canonical s) : PadWf (getCell s n) := by
  unfold Machine.getCell
  split
  · exact h.cell
  · cases e : KM.get s.others n with
    | none => exact padWf_freshCell
    | some c => exact h.others.1 _ (KM.mem_of_get e)
theorem PadWf.put {m : KMap Cell} {n : Nat} (hc : PadWf c) (hm : ∀ x ∈ m, PadWf x.2) : ∀ x ∈ KM.put m n c, PadWf x.2 := fun x hx => by
  rcases KM.mem_put hx with rfl | hx
  · exact hc
  · exact hm x hx
theorem Canonical.focus {n : Nat} (h : Canonical s) : Canonical (focus s n) := by
  unfold Machine.focus
  split
  · exact h
  · exact h.withOthers h.getCell (fun x hx => h.cell.put h.others.1 x (KM.mem_del hx)) (KM.wf_del (KM.wf_put h.others.2))
theorem Canonical.putCell {n : Nat} (h : Canonical s) (hc : PadWf c) : Canonical (putCell s n c) := by
  unfold Machine.putCell
  split
  · exact h.withCell hc
  · exact h.withOthers h.cell (hc.put h.others.1) (KM.wf_put h.others.2)
theorem Canonical.modCell {n : Nat} {f : Cell → Cell} (h : Canonical s) (hf : ∀ c, PadWf c → PadWf (f c)) : Canonical (modCell s n f) :=
  h.putCell (hf _ h.getCell)
theorem Canonical.modFocus {f : Cell → Cell} (h : Canonical s) (hf : ∀ c, PadWf c → PadWf (f c)) : Canonical (modFocus s f) :=
  h.withCell (hf _ h.cell)
theorem Canonical.within {n : Nat} {f : State → State} (h : Canonical s) (hf : ∀ s, Canonical s → Canonical (f s)) :
    Canonical (within s n f) := (hf _ h.focus).focus

/-! ### The memories of the panel -/

theorem Canonical.withTables {m : Memory} (h : Canonical s) (hm : Memory.wf m = true) : Canonical { s with tables := m } := by
  obtain ⟨hc, ho, hs, -, w⟩ := h
  exact ⟨hc, ho, hs, hm, w⟩
theorem Canonical.wf_tables (h : Canonical s) : Memory.wf s.tables = true := by
  obtain ⟨-, -, -, ht, -⟩ := h
  exact ht
theorem Canonical.wf_store (h : Canonical s) : Memory.wf s.store = true := by
  obtain ⟨-, -, hs, -⟩ := h
  exact hs
/-- A write to the weight stores. -/
theorem Canonical.withStore {s t : State} (h : Canonical s) (hm : Memory.wf t.store = true)
    (e : ({ t with store := s.store } : State) = { s with dzResp := t.dzResp, dzBad := t.dzBad } := by rfl) : Canonical t := by
  have ht : Canonical { t with store := s.store } := e ▸ h.same
  obtain ⟨hc, ho, -, w⟩ := ht
  exact ⟨hc, ho, hm, w⟩
theorem Canonical.withSaved {l : List Cell} (h : Canonical s) (hl : ∀ c ∈ l, PadWf c) : Canonical { s with saved := s.saved ++ l } := by
  obtain ⟨hc, ho, hs, ht, hh, hv, w⟩ := h
  exact ⟨hc, ho, hs, ht, hh, fun c hm => ((List.mem_append.mp hm).elim (hv c) (hl c)), w⟩
theorem Canonical.withSavedPart {k : SavedPart} (h : Canonical s) (hk : Memory.wf k.tabs = true) :
    Canonical { s with savedParts := s.savedParts ++ [k] } := by
  obtain ⟨hc, ho, hs, ht, hh, hv, hp, w⟩ := h
  refine ⟨hc, ho, hs, ht, hh, hv, fun x hx => ?_, w⟩
  rcases List.mem_append.mp hx with hx | hx
  · exact hp x hx
  · rw [List.mem_singleton.mp hx]
    exact hk

/-! ### Choices and the focus (`Machine/Space`) -/

theorem Canonical.fresh (h : Canonical s) : Canonical (fresh s) := h

/-! ### Threads and registers (`Machine/Regs`) -/

theorem PadWf.setTh {t : TIdx} {x : Thread} (h : PadWf c) : PadWf (c.setTh t x) := h
theorem PadWf.modTh {t : TIdx} {f : Thread → Thread} (h : PadWf c) : PadWf (c.modTh t f) := h.setTh
theorem Canonical.modMe {f : Thread → Thread} (h : Canonical s) : Canonical (s.modMe f) := h.withCell h.cell.modTh
theorem Canonical.modTh {t : TIdx} {f : Thread → Thread} (h : Canonical s) : Canonical (s.modTh t f) := h.withCell h.cell.modTh
theorem PadWf.modStrm {e : Fin 4} {f : Machine.Stream → Machine.Stream} (h : PadWf c) : PadWf (c.modStrm e f) := h
theorem Canonical.popAll {srcs : List Spec} (h : Canonical s) : Canonical (s.popAll srcs) := by
  unfold State.popAll
  split
  · exact h
  · exact h.withCell (PadWf.foldl (fun _ _ hc => hc.modStrm) h.cell)
theorem PadWf.write {t : TIdx} {d : Spec} {v : V256} (h : PadWf c) : PadWf (c.write t d v) := by
  unfold Cell.write
  split
  · exact h.modStrm
  · exact h.modTh
theorem Canonical.putRes {d : Spec} {r : Res} (h : Canonical s) : Canonical (s.putRes d r) := h.withCell h.cell.write
theorem Canonical.produce {d : Spec} {r : Res} (h : Canonical s) : Canonical (s.produce d r) := h.putRes.modMe

/-! ### Scratchpad, arrival, exceptions (`Machine/Ops`) -/

theorem PadWf.modPad {f : Pad → Pad} (hf : Memory.wf (f c.pad).mem = true) : PadWf (c.modPad f) := hf
theorem PadWf.touched {a n : Nat} (h : PadWf c) : PadWf (c.touched a n) := h
theorem PadWf.wakeOne {lo n : Nat} {t : TIdx} (h : PadWf c) : PadWf (c.wakeOne lo n t) := by
  unfold Cell.wakeOne
  split
  · split
    · split
      · exact h.touched.modTh
      · split
        · exact h.touched.write.modTh
        · exact h.touched
    · exact h
  · exact h
theorem PadWf.store {a n v : Nat} (h : PadWf c) : PadWf (c.store a n v) := Cell.wf_store h
theorem PadWf.received {p : Pkt} (h : PadWf c) : PadWf (c.received p) := by
  unfold Cell.received
  split <;> exact h
theorem PadWf.bind {t : TIdx} {p : Pkt} (h : PadWf c) : PadWf (c.bind t p) := h.modTh
theorem PadWf.deposit {a v : Nat} (h : PadWf c) : PadWf (c.deposit a v) := h
theorem PadWf.spill {p : Pkt} (h : PadWf c) : PadWf (c.spill p) := h
theorem Canonical.inject {p : Pkt} {vc : BitVec 2} (h : Canonical s) : Canonical (s.inject p vc) := by
  unfold State.inject
  split <;> exact h
theorem Canonical.modInbox {f : Inbox → Inbox} (h : Canonical s) : Canonical (s.modInbox f) := h.modFocus fun _ hc => hc
theorem Canonical.dispose {p : Pkt} {d : Disposal} (h : Canonical s) : Canonical (s.dispose p d) := by
  unfold State.dispose
  split
  · exact Canonical.modInbox (h.modFocus fun _ hc => hc.received)
  · exact h.modFocus fun _ hc => hc.received.bind
  · exact h.modFocus fun _ hc => hc.spill
  · exact Canonical.inject (.modInbox (h.modFocus fun _ hc => hc.received))
  · exact h.modInbox
theorem PadWf.awake (h : PadWf c) : PadWf c.awake := h
theorem Canonical.raise {ch : BitVec 6} {v : V256} (h : Canonical s) : Canonical (s.raise ch v) := by
  unfold State.raise
  dsimp only
  split
  · exact Canonical.dispose (h.modFocus fun _ hc => hc.awake)
  · split
    · exact Canonical.dispose (h.modFocus fun _ hc => hc.awake)
    · split
      · exact Canonical.dispose (h.modFocus fun _ hc => hc.awake)
      · exact Canonical.modInbox (h.modFocus fun _ hc => hc.awake)
theorem Canonical.raise61 {v : V256} (h : Canonical s) : Canonical (s.raise61 v) := by
  unfold State.raise61
  split
  · exact h.raise
  · exact h.modFocus fun _ hc => hc
theorem PadWf.countErr (h : PadWf c) : PadWf c.countErr := h
theorem Canonical.further61 {v : V256} (h : Canonical s) : Canonical (s.further61 v) := by
  unfold State.further61
  split
  · exact h.raise61
  · exact h.raise61.modFocus fun _ hc => hc.countErr
theorem PadWf.leadFault {t : TIdx} {r : FaultRec} (h : PadWf c) : PadWf (c.leadFault t r) := by
  unfold Cell.leadFault
  split <;> exact h
theorem PadWf.stopFault (h : PadWf c) : PadWf c.stopFault := by
  unfold Cell.stopFault
  split
  · split
    · exact h.leadFault
    · exact h
  · exact h
theorem Canonical.reportFault {t : TIdx} {r : FaultRec} (h : Canonical s) : Canonical (s.reportFault t r) := by
  unfold State.reportFault
  split
  · exact h.modFocus fun _ hc => hc
  · split
    · exact h.modFocus fun _ hc => hc.leadFault
    · exact h.raise.modFocus fun _ hc => hc.stopFault
theorem Canonical.takeFault {t : TIdx} {r : FaultRec} (h : Canonical s) : Canonical (s.takeFault t r) := by
  unfold State.takeFault
  exact Canonical.reportFault (h.modFocus fun _ hc => hc)
theorem Canonical.enterFault {t : TIdx} {r : FaultRec} (h : Canonical s) : Canonical (s.enterFault t r) := by
  unfold State.enterFault
  dsimp only
  split
  · split
    · exact h.takeFault.takeFault
    · exact h.takeFault.modTh
  · exact h.takeFault
theorem PadWf.dropLeases {t : TIdx} (h : PadWf c) : PadWf (c.dropLeases t) := h
theorem PadWf.endTimed {t : TIdx} (h : PadWf c) : PadWf (c.endTimed t) := by
  unfold Cell.endTimed
  repeat' split
  all_goals exact h
theorem PadWf.unbindAll {t : TIdx} (h : PadWf c) : PadWf (c.unbindAll t) := h
theorem Canonical.dropAskers {gone : Waiter → Bool} (h : Canonical s) : Canonical (s.dropAskers gone) := h
theorem Canonical.forgetStream {n : Fin 4} (h : Canonical s) : Canonical (s.forgetStream n) := h.dropAskers
theorem Canonical.forgetStreams {t : TIdx} (h : Canonical s) : Canonical (s.forgetStreams t) := by
  unfold State.forgetStreams
  refine Canonical.foldl (fun _ _ h => ?_) h
  split
  · exact h.forgetStream
  · exact h
theorem Canonical.finish {u : TIdx} {f : Finish} (h : Canonical s) : Canonical (s.finish u f) := by
  have hc : PadWf (((s.cell.endTimed u).dropLeases u).modTh u Thread.killed) := h.cell.endTimed.dropLeases.modTh
  unfold State.finish
  dsimp only
  split
  · exact h.enterFault
  · next clear =>
    have hf : Canonical (if clear then s.forgetStreams u else s) := Canonical.ite h.forgetStreams h
    exact hf.withCell (PadWf.stopFault (PadWf.modTh (PadWf.ite hc.unbindAll.modTh hc)))
  · exact h.enterFault
  · exact h.enterFault
  · split
    · exact h.enterFault
    · exact h.modFocus fun _ hc => hc.dropLeases.modTh
  · exact h.modFocus fun _ hc => hc.dropLeases.modTh.stopFault
  · exact h.modFocus fun _ hc => hc.endTimed.dropLeases.modTh
theorem Canonical.leadOn {f : Finish} (h : Canonical s) : Canonical (s.leadOn f) := by
  unfold State.leadOn
  split
  · split
    · exact h.finish
    · exact h
  · exact h
theorem Canonical.settle {t : TIdx} (h : Canonical s) : Canonical (s.settle t) := by
  unfold State.settle
  split
  · split
    · exact h.finish.leadOn
    · exact h
  · split
    · exact h.modTh
    · exact h
  · exact h
theorem Canonical.settleAll {l : List TIdx} (h : Canonical s) : Canonical (s.settleAll l) := Canonical.foldl (fun _ _ h => h.settle) h
theorem Canonical.padStore {a n v : Nat} (h : Canonical s) : Canonical (s.padStore a n v) := Canonical.settleAll
    (h.modFocus fun _ hc => hc.store.awake)
theorem Canonical.fault {t : TIdx} {r : FaultRec} (h : Canonical s) : Canonical (s.fault t r) := h.modTh.settle
theorem Canonical.endWith {t : TIdx} {f : Finish} (h : Canonical s) : Canonical (s.endWith t f) := h.modTh.settle
theorem Canonical.fall {t : TIdx} {len : Nat} {w : Bool} (h : Canonical s) : Canonical (s.fall t len w) := h.modTh.settle
theorem Canonical.resume {t : TIdx} (h : Canonical s) : Canonical (s.resume t) := by
  unfold State.resume
  dsimp only
  split
  · exact h.modTh.endWith
  · split
    · exact h.modTh.fault
    · exact h.modTh

/-! ### Issue (`Machine/Operands`) -/

theorem Canonical.illegal (h : Canonical s) : Canonical s.illegal := h.fault
theorem Canonical.usePfx (h : Canonical s) : Canonical s.usePfx := h.modMe
theorem Canonical.after {hd : Hdr} {len : Nat} {c : Ctl} (h : Canonical s) (hc : CtlWf c) : Canonical (s.after hd len c) := by
  cases c with
  | done _ => exact Canonical.fall (Canonical.usePfx hc)
  | goto _ _ => exact Canonical.modMe (Canonical.usePfx hc)
  | skip _ _ => exact Canonical.settle (Canonical.modMe (Canonical.usePfx hc))
  | hold _ _ _ => exact Canonical.modMe (Canonical.usePfx hc)
  | need _ => exact h.modMe
  | ends _ _ => exact Canonical.endWith (Canonical.usePfx hc)
  | fault _ _ => exact h.fault
  | trap _ => exact h.fault
theorem Canonical.runInstr {hd : Hdr} {len : Nat} {pfx : Bool} {ill : State → Bool} {body : State → Ctl}
    (hbody : ∀ s, Canonical s → CtlWf (body s)) (h : Canonical s) :
    Canonical (runInstr hd len pfx ill body s) := by
  unfold Machine.runInstr
  split
  · exact h.illegal
  · split
    · exact h.after (hbody _ h)
    · exact h.usePfx.fall
theorem Canonical.issue {hd : Hdr} {len : Nat} {pfx : Bool} {ill : State → Bool} {body : State → Ctl}
    (hbody : ∀ s, Canonical s → CtlWf (body s)) (h : Canonical s) :
    AnswerWf (issue hd len pfx ill body s) := h.runInstr hbody
theorem Canonical.eligible {lacks : State → Option Need} {run : State → Answer} (hrun : ∀ s, Canonical s → AnswerWf (run s))
    (h : Canonical s) :
    AnswerWf (eligible lacks run s) := by
  unfold Machine.eligible
  split
  · exact h.modMe
  · exact hrun _ h
theorem Canonical.unbound {l : List Spec} {body : State → Ctl} (hbody : ∀ s, Canonical s → CtlWf (body s)) (h : Canonical s) :
    CtlWf (unbound l body s) := by
  unfold Machine.unbound
  split
  · exact trivial
  · exact hbody _ h
theorem Canonical.untimed {body : State → Ctl} (hbody : ∀ s, Canonical s → CtlWf (body s)) (h : Canonical s) : CtlWf (untimed body s) := by
  unfold Machine.untimed
  split
  · exact trivial
  · exact hbody _ h
theorem Canonical.produces {srcs : List Spec} {d : Spec} {f : State → Res} (h : Canonical s) : CtlWf (produces srcs d f s) := by
  unfold Machine.produces
  split
  · exact trivial
  · exact h.popAll.produce
theorem Canonical.putsOnly {srcs : List Spec} {d : Spec} {f : State → Res} (h : Canonical s) : CtlWf (putsOnly srcs d f s) := by
  unfold Machine.putsOnly
  split
  · exact trivial
  · exact h.popAll.putRes
theorem Canonical.putsPred {srcs : List Spec} {f : State → Thread → Thread} (h : Canonical s) : CtlWf (putsPred srcs f s) := by
  unfold Machine.putsPred
  split
  · exact trivial
  · exact h.popAll.modMe
theorem Canonical.outstanding {d : Spec} {n : Nat} {v : V256} {bad : Option W64} {kind : optParam LongKind LongKind.local_}
    (h : Canonical s) :
    Canonical (s.outstanding d n v bad kind) := h.modMe

/-! ### Contributions (`Machine/Buckets`) -/

theorem PadWf.contribute {tag : Nat} {empty : Bool} {data : List V256} (h : PadWf c) : PadWf (c.contribute tag empty data) := h
theorem Canonical.eccEvent (h : Canonical s) : Canonical s.eccEvent := h.fresh.further61
theorem Canonical.unitRead {a n : Nat} (h : Canonical s) : Canonical (s.unitRead a n).1 := by
  unfold State.unitRead
  split
  · exact Canonical.eccEvent (h.modFocus fun _ hc => hc.touched)
  · exact h.modFocus fun _ hc => hc.touched

/-! ### Control and threads (`Machine/Control`) -/

theorem Canonical.linkReturn (h : Canonical s) : Canonical s.linkReturn := h.modMe
theorem Canonical.jumpsTo {a : Spec} {link : State → State} (hlink : ∀ s, Canonical s → Canonical (link s)) (h : Canonical s) :
    CtlWf (jumpsTo a link s) := by
  unfold Machine.jumpsTo
  split
  · exact trivial
  · split
    · exact trivial
    · exact hlink _ h.popAll
theorem Canonical.execLoop {hd : Hdr} {a : Spec} {len : BitVec 6} {x : BitVec 1} (h : Canonical s) : AnswerWf (execLoop hd a len x s) := by
  unfold Machine.execLoop
  refine h.issue fun _ h => ?_
  split
  · exact trivial
  · dsimp only
    split <;> exact h.popAll.modMe
theorem Canonical.execBcast {hd : Hdr} {mask : BitVec 7} {len : BitVec 3} {off : BitVec 8} (h : Canonical s) :
    AnswerWf (execBcast hd mask len off s) := by
  unfold Machine.execBcast
  refine h.issue fun _ h => ?_
  split
  · exact trivial
  · exact h
theorem Canonical.execFetchb {hd : Hdr} {a : Spec} (h : Canonical s) : AnswerWf (execFetchb hd a s) := by
  unfold Machine.execFetchb
  refine h.issue fun _ h => ?_
  split
  · exact trivial
  · dsimp only
    split
    · exact trivial
    · exact h.popAll.modMe
theorem PadWf.join {m : BitVec 7} {d : Spec} {free : Bool} (h : PadWf c) : PadWf (c.join m d free) := by
  unfold Cell.join
  split
  · exact PadWf.foldl (fun _ _ hc => hc.modTh) h.write
  · exact h.write
theorem Canonical.joins {hd : Hdr} {d a : Spec} {free : Bool} (h : Canonical s) : AnswerWf (joins hd d a free s) := by
  unfold Machine.joins
  refine h.issue fun _ h => ?_
  split
  · exact trivial
  · dsimp only
    split
    · exact h.popAll.modFocus fun _ hc => hc.join
    · exact h.popAll
theorem Canonical.controls {hd : Hdr} {a : Spec} {f : TIdx → State → Ctl} (hf : ∀ a0 s, Canonical s → CtlWf (f a0 s)) (h : Canonical s) :
    AnswerWf (controls hd a f s) := by
  unfold Machine.controls
  refine h.issue fun _ h => ?_
  split
  · exact trivial
  · dsimp only
    split
    · exact trivial
    · exact hf _ _ h.popAll
theorem Canonical.execTctlResume {hd : Hdr} {a : Spec} (h : Canonical s) : AnswerWf (execTctlResume hd a s) := by
  unfold Machine.execTctlResume
  refine h.controls fun _ _ h => ?_
  split
  · exact h.resume
  · exact h
theorem PadWf.withdraw {t : TIdx} (h : PadWf c) : PadWf (c.withdraw t) := PadWf.modTh h
theorem Canonical.kills {clear : Bool} {t : TIdx} (h : Canonical s) : CtlWf (kills clear t s) := by
  unfold Machine.kills
  split
  · exact h
  · split
    · exact h
    · dsimp only
      split
      · exact Canonical.finish (h.modFocus fun _ hc => hc.modTh.withdraw.modTh)
      · exact h.modFocus fun _ hc => hc.modTh.withdraw.modTh
theorem Canonical.execTrap {hd : Hdr} {a : Spec} {code : BitVec 6} (h : Canonical s) : AnswerWf (execTrap hd a code s) := by
  unfold Machine.execTrap
  exact h.issue fun _ h => h.unbound fun _ h => trivial

/-! ### System registers (`Machine/SysRegs`) -/

theorem PadWf.sysWrite {hlen vlen n : Nat} {v : W64} (h : PadWf c) : PadWf (c.sysWrite hlen vlen n v) := by
  unfold Cell.sysWrite
  split <;> exact h
theorem Canonical.sysWrite {n : BitVec 12} {v : W64} (h : Canonical s) : Canonical (s.sysWrite n v) :=
    h.modMe.modFocus fun _ hc => hc.sysWrite
theorem Canonical.execSyswr {hd : Hdr} {d : Spec} {n : BitVec 12} (h : Canonical s) : AnswerWf (execSyswr hd d n s) := by
  unfold Machine.execSyswr
  dsimp only
  split
  · exact h.fault
  · refine h.issue fun _ h => ?_
    split
    · exact trivial
    · exact h.popAll.sysWrite
theorem Canonical.execFpcWrite {hd : Hdr} {d : Spec} (h : Canonical s) : AnswerWf (execFpcWrite hd d s) := by
  unfold Machine.execFpcWrite
  refine h.issue fun _ h => ?_
  split
  · exact trivial
  · dsimp only
    split
    · exact trivial
    · exact h.popAll.modTh

/-! ### The journal (`Machine/Journal`) -/

theorem Canonical.jAppend {w0 w1 : Nat} (h : Canonical s) : Canonical (s.jAppend w0 w1) := h.padStore.modFocus fun _ hc => hc
theorem Canonical.threadStore {t : TIdx} {a n v : Nat} (h : Canonical s) : Canonical (s.threadStore t a n v) :=
    (Canonical.foldl (fun _ _ h => h.jAppend) h).padStore

/-! ### Loads and stores (`Machine/Memory`) -/

theorem Canonical.loadAt {d : Spec} {n w : Nat} {f : Nat → V256} {a : W64} (h : Canonical s) : CtlWf (loadAt d n w f a s) := by
  unfold Machine.loadAt
  split
  · exact trivial
  · split
    · exact trivial
    · refine Canonical.outstanding ?_
      split
      · exact h.modFocus fun _ hc => hc.touched
      · exact h
theorem Canonical.storeAt {d r : Spec} {n : Nat} {a : W64} (h : Canonical s) : CtlWf (storeAt d r n a s) := by
  unfold Machine.storeAt
  split
  · exact trivial
  · split
    · exact trivial
    · split
      · exact trivial
      · split
        · dsimp only
          split
          · exact Canonical.modMe (h.modFocus fun _ hc => hc.touched)
          · exact Canonical.threadStore (h.modFocus fun _ hc => hc.touched)
        · exact h.threadStore
theorem Canonical.aopAt {d r : Spec} {op : Nat} {a : W64} (h : Canonical s) : CtlWf (aopAt d r op a s) := by
  unfold Machine.aopAt
  split
  · exact trivial
  · split
    · exact trivial
    · split
      · exact trivial
      · dsimp only
        split
        · exact Canonical.outstanding (h.modFocus fun _ hc => hc.touched)
        · split
          · exact Canonical.outstanding (.threadStore (h.modFocus fun _ hc => hc.touched))
          · exact Canonical.outstanding (h.modFocus fun _ hc => hc.touched)
theorem Canonical.waitAt {d b r : Spec} {x : BitVec 2} {a : W64} (h : Canonical s) : CtlWf (waitAt d b r x a s) := by
  unfold Machine.waitAt
  split
  · exact trivial
  · split
    · exact trivial
    · split
      · exact trivial
      · split
        · exact trivial
        · split
          · exact trivial
          · dsimp only
            split
            · exact Canonical.modMe (.popAll (h.modFocus fun _ hc => hc.touched))
            · split
              · exact Canonical.putRes (.popAll (h.modFocus fun _ hc => hc.touched))
              · exact Canonical.popAll (h.modFocus fun _ hc => hc.touched)

/-! ### Vectors (`Machine/Vector`) -/

theorem Canonical.vector {hd : Hdr} {d : Spec} {srcs : List Spec} {bad : State → Bool} {f : State → V256} (h : Canonical s) :
    AnswerWf (vector hd d srcs bad f s) := h.issue fun _ h => h.produces
theorem Canonical.arith {hd : Hdr} {d a b : Spec} {x : BitVec 2} {ff : FVal → FVal → FVal} {fi : ℤ → ℤ → ℤ} (h : Canonical s) :
    AnswerWf (arith hd d a b x ff fi s) := h.vector
theorem Canonical.producesSeeded {srcs : List Spec} {d : Spec} {f : State → Res × W64} (h : Canonical s) :
    CtlWf (producesSeeded srcs d f s) := by
  unfold Machine.producesSeeded
  split
  · exact trivial
  · exact h.popAll.modMe.produce
theorem Canonical.execVcmp {hd : Hdr} {pd m : BitVec 3} {a b : Spec} {x : BitVec 2} (h : Canonical s) :
    AnswerWf (execVcmp hd pd m a b x s) := by
  unfold Machine.execVcmp
  refine h.issue fun _ h => ?_
  split
  · exact trivial
  · exact h.popAll.produce.modMe
theorem Canonical.qblkWrite {d b : Spec} {r : Res} {byte : Option (Nat × Nat)} (h : Canonical s) : Canonical (qblkWrite d b r byte s) := by
  unfold Machine.qblkWrite
  split <;> exact h.putRes.modMe
theorem Canonical.execQblk {hd : Hdr} {d a b : Spec} {x : BitVec 2} (h : Canonical s) : AnswerWf (execQblk hd d a b x s) := by
  unfold Machine.execQblk
  refine h.issue fun _ h => ?_
  split
  · exact trivial
  · exact h.popAll.modMe.qblkWrite
theorem Canonical.execDqblk {hd : Hdr} {d a b : Spec} {x : BitVec 2} (h : Canonical s) : AnswerWf (execDqblk hd d a b x s) := by
  unfold Machine.execDqblk
  refine h.issue fun _ h => ?_
  split
  · exact trivial
  · exact h.popAll.modMe
theorem Canonical.execVspec {hd : Hdr} {d a : Spec} {fn : BitVec 6} (h : Canonical s) : AnswerWf (execVspec hd d a fn s) := by
  unfold Machine.execVspec
  refine h.issue fun _ h => ?_
  split
  · exact trivial
  · exact h.popAll.outstanding
theorem Canonical.execPfx {hd : Hdr} {fs fd : BitVec 4} {sc : Spec} {rs : BitVec 2} (h : Canonical s) :
    AnswerWf (execPfx hd fs fd sc rs s) := by
  unfold Machine.execPfx
  split
  · exact h.illegal
  · split
    · exact h.modMe.fall
    · exact h.fall

/-! ### Matrix instructions (`Machine/Matrix`) -/

theorem PadWf.takeTiles {t : TIdx} {m : BitVec 4} (h : PadWf c) : PadWf (c.takeTiles t m) := h
theorem Canonical.enqueue {op : MOp} (h : Canonical s) : Canonical (s.enqueue op) := Canonical.modMe (h.modFocus fun _ hc => hc)
theorem Canonical.matrixIssue {hd : Hdr} {len : Nat} {pfx : Bool} {ill : State → Bool} {body : State → Ctl}
    (hbody : ∀ s, Canonical s → CtlWf (body s)) (h : Canonical s) :
    AnswerWf (matrixIssue hd len pfx ill body s) := by
  unfold Machine.matrixIssue
  refine h.eligible fun _ h => h.issue fun _ h => ?_
  split
  · exact trivial
  · exact hbody _ h
theorem Canonical.execMlease {hd : Hdr} {d : Spec} {m : BitVec 4} (h : Canonical s) : AnswerWf (execMlease hd d m s) := by
  unfold Machine.execMlease
  refine h.matrixIssue fun _ h => ?_
  split
  · exact trivial
  · split
    · exact trivial
    · exact h.enqueue
theorem Canonical.execMleaseTry {hd : Hdr} {d : Spec} {m : BitVec 4} (h : Canonical s) : AnswerWf (execMleaseTry hd d m s) := by
  unfold Machine.execMleaseTry
  refine h.matrixIssue fun _ h => ?_
  split
  · exact trivial
  · split
    · exact trivial
    · split
      · exact Canonical.putRes (h.modFocus fun _ hc => hc.takeTiles)
      · exact h.putRes
theorem Canonical.execMrel {hd : Hdr} {m : BitVec 4} (h : Canonical s) : AnswerWf (execMrel hd m s) := by
  unfold Machine.execMrel
  refine h.matrixIssue fun _ h => ?_
  split
  · exact trivial
  · exact h.enqueue
theorem Canonical.execMzero {hd : Hdr} {m : BitVec 4} (h : Canonical s) : AnswerWf (execMzero hd m s) := by
  unfold Machine.execMzero
  refine h.matrixIssue fun _ h => ?_
  split
  · exact trivial
  · exact h.enqueue
theorem Canonical.popN {e : Fin 4} {k : Nat} (h : Canonical s) : Canonical (s.popN e k).1 := h.withCell h.cell.modStrm
theorem Canonical.takeRun {before : List Spec} {a : Spec} {g : Nat} (h : Canonical s) : Canonical (s.takeRun before a g).1 := by
  unfold State.takeRun
  split
  · exact h.popN
  · exact h
theorem Canonical.execMma {hd : Hdr} {t : BitVec 2} {m : BitVec 4} {a b : Spec} {x : BitVec 2} (h : Canonical s) :
    AnswerWf (execMma hd t m a b x s) := by
  unfold Machine.execMma
  dsimp only
  refine h.matrixIssue fun _ h => ?_
  split
  · exact trivial
  · split
    · exact trivial
    · exact h.takeRun.takeRun.enqueue
theorem Canonical.execMmaL {hd : Hdr} {t : BitVec 2} {a b : Spec} {x : BitVec 2} {steps : BitVec 8} {skip : BitVec 1} {mbase : BitVec 15}
    (h : Canonical s) :
    AnswerWf (execMmaL hd t a b x steps skip mbase s) := by
  unfold Machine.execMmaL
  dsimp only
  refine h.matrixIssue fun _ h => ?_
  split
  · exact trivial
  · split
    · exact trivial
    · split
      · exact trivial
      · exact trivial
      · split
        · exact trivial
        · split
          · exact trivial
          · split
            · exact trivial
            · exact h.enqueue
theorem Canonical.ringIssue {hd : Hdr} {len : Nat} {x : BitVec 2} {ill : State → Bool} {body : State → Ctl}
    (hbody : ∀ s, Canonical s → CtlWf (body s)) (h : Canonical s) :
    AnswerWf (ringIssue hd len x ill body s) := h.eligible fun _ h => h.matrixIssue hbody
theorem Canonical.execMmr {hd : Hdr} {t : BitVec 2} {a b : Spec} {x : BitVec 2} (h : Canonical s) : AnswerWf (execMmr hd t a b x s) := by
  unfold Machine.execMmr
  dsimp only
  refine h.ringIssue fun _ h => ?_
  split
  · exact trivial
  · split
    · exact trivial
    · exact h.takeRun.enqueue
theorem Canonical.execMmrL {hd : Hdr} {t : BitVec 2} {a b : Spec} {x : BitVec 2} {steps : BitVec 8} (h : Canonical s) :
    AnswerWf (execMmrL hd t a b x steps s) := by
  unfold Machine.execMmrL
  dsimp only
  refine h.ringIssue fun _ h => ?_
  split
  · exact trivial
  · split
    · exact trivial
    · split
      · exact trivial
      · exact h.enqueue
theorem Canonical.movesTile {ti : Fin 4} {f : BitVec 4} {o : Nat} {op : MOp} (h : Canonical s) : CtlWf (movesTile ti f o op s) := by
  unfold Machine.movesTile
  split
  · exact trivial
  · split
    · exact trivial
    · split
      · exact trivial
      · exact h.enqueue
theorem Canonical.execMstS {hd : Hdr} {t : BitVec 2} {a : Spec} {off : BitVec 6} (h : Canonical s) : AnswerWf (execMstS hd t a off s) := by
  unfold Machine.execMstS
  refine h.matrixIssue fun _ h => ?_
  split
  · exact trivial
  · exact h.popAll.movesTile
theorem Canonical.execMstR {hd : Hdr} {d : Spec} {t : BitVec 2} (h : Canonical s) : AnswerWf (execMstR hd d t s) := by
  unfold Machine.execMstR
  refine h.matrixIssue fun _ h => ?_
  split
  · exact trivial
  · exact h.enqueue
theorem Canonical.execMstL {hd : Hdr} {t : BitVec 2} {a : Spec} {off : BitVec 6} (h : Canonical s) : AnswerWf (execMstL hd t a off s) := by
  unfold Machine.execMstL
  refine h.matrixIssue fun _ h => ?_
  split
  · exact trivial
  · exact h.popAll.movesTile
theorem Canonical.execCbload {hd : Hdr} {a : Spec} (h : Canonical s) : AnswerWf (execCbload hd a s) := by
  unfold Machine.execCbload
  refine h.matrixIssue fun _ h => ?_
  split
  · exact trivial
  · dsimp only
    split
    · exact trivial
    · split
      · exact trivial
      · split
        · exact trivial
        · exact h.popAll.enqueue
theorem Canonical.execMred {hd : Hdr} {t : BitVec 2} {a : Spec} {x : BitVec 1} (h : Canonical s) : AnswerWf (execMred hd t a x s) := by
  unfold Machine.execMred
  refine h.matrixIssue fun _ h => ?_
  split
  · exact trivial
  · split
    · exact trivial
    · split
      · exact trivial
      · exact h.popAll.enqueue

/-! ### The matrix unit (`Machine/MatrixUnit`) -/

theorem PadWf.setTile {t : Fin 4} {x : Sparse 32} (h : PadWf c) : PadWf (c.setTile t x) := h
theorem PadWf.modHead {f : MEntry → MEntry} (h : PadWf c) : PadWf (c.modHead f) := h
theorem Canonical.unmark {t : TIdx} {id : Nat} (h : Canonical s) : Canonical (s.unmark t id) := h.modTh.settle.settle
theorem Canonical.popHead (h : Canonical s) : Canonical s.popHead := h.modFocus fun _ hc => hc
theorem Canonical.finishHead {e : MEntry} (h : Canonical s) : Canonical (s.finishHead e) := h.popHead.unmark
theorem Canonical.stepDone {e : MEntry} {steps : Nat} {f : MEntry → MEntry} {last : State → State} (h : Canonical s)
    (hlast : ∀ s, Canonical s → Canonical (last s)) :
    Canonical (s.stepDone e steps f last) := by
  unfold State.stepDone
  split
  · exact h.modFocus fun _ hc => hc.modHead
  · exact Canonical.finishHead (hlast _ h)
theorem Canonical.withPops {e : MEntry} {l : List (Fin 4)} {go : State} (h : Canonical s) (h1 : Canonical go) :
    Canonical (s.withPops e l go) := by
  unfold State.withPops
  split
  · exact h1
  · split
    · exact h
    · exact h.popN.modFocus fun _ hc => hc.modHead
theorem Canonical.mmaStep {e : MEntry} {t : Fin 4} {p : StepArgs} {a b : MSrc} {steps : Nat} {skip : Bool} {mbase : Option Nat}
    (h : Canonical s) :
    Canonical (s.mmaStep e t p a b steps skip mbase) := by
  unfold State.mmaStep
  split
  · exact h.finishHead
  · dsimp only
    split
    · split
      · exact h.withPops (h.stepDone fun _ h => h)
      · exact h.withPops (Canonical.stepDone (h.modFocus fun _ hc => hc.setTile) fun _ h => h)
    · split
      · exact h.withPops (h.stepDone fun _ h => h)
      · exact h.withPops (Canonical.stepDone (h.modFocus fun _ hc => hc.setTile) fun _ h => h)
theorem Canonical.countStep {dir : BitVec 2} (h : Canonical s) : Canonical (s.countStep dir) := h.modFocus fun _ hc => hc
theorem Canonical.mmrStep {e : MEntry} {t : Fin 4} {p : StepArgs} {a : MSrc} {breg : Spec} {bval : List V256} {dir : BitVec 2}
    {steps : Nat} (h : Canonical s) :
    Canonical (s.mmrStep e t p a breg bval dir steps) := by
  unfold State.mmrStep
  split
  · exact h.finishHead
  · split
    · split
      · exact h
      · exact h.withPops (Canonical.modFocus (h.withCell h.cell) fun _ hc => hc.modHead)
    · split
      · exact h
      · exact Canonical.stepDone (.countStep (h.modFocus fun _ hc => hc)) fun _ h => h.modTh
theorem Canonical.tileImage {e : MEntry} {ti : Fin 4} {f : BitVec 4} {rs : BitVec 2} (h : Canonical s) :
    Canonical (s.tileImage e ti f rs).1 := by
  unfold State.tileImage
  split
  · exact h.modTh
  · exact h
theorem Canonical.moveTile {e : MEntry} {ti : Fin 4} {f : BitVec 4} {rs : BitVec 2} {put : Nat → V256 → State → State} (h : Canonical s)
    (hput : ∀ a0 a1 s, Canonical s → Canonical (put a0 a1 s)) :
    Canonical (s.moveTile e ti f rs put) := by
  unfold State.moveTile
  dsimp only
  split
  · exact h.tileImage.finishHead
  · exact Canonical.stepDone (hput _ _ _ h.tileImage.fresh) fun _ h => h
theorem Canonical.storeTile {e : MEntry} {ti : Fin 4} {o : Nat} {f : BitVec 4} {rs : BitVec 2} (h : Canonical s) :
    Canonical (s.storeTile e ti o f rs) := h.moveTile fun _ _ _ h => h.padStore
theorem Canonical.tileToRegs {e : MEntry} {ti : Fin 4} {d : Spec} {f : BitVec 4} {rs : BitVec 2} (h : Canonical s) :
    Canonical (s.tileToRegs e ti d f rs) := h.moveTile fun _ _ _ h => h.modTh
theorem Canonical.loadTile {e : MEntry} {ti : Fin 4} {o : Nat} {f : BitVec 4} (h : Canonical s) : Canonical (s.loadTile e ti o f) :=
    h.modFocus fun _ hc => hc.setTile
theorem Canonical.loadCodebook {e : MEntry} {off first n : Nat} (h : Canonical s) : Canonical (s.loadCodebook e off first n) := by
  exact Canonical.stepDone (h.modFocus fun _ hc => (PadWf.modPad hc)) fun _ h => h
theorem Canonical.unitDo {e : MEntry} (h : Canonical s) : Canonical (s.unitDo e) := by
  unfold State.unitDo
  split
  · exact h.popHead.modFocus fun _ hc => hc
  · exact Canonical.finishHead (h.modFocus fun _ hc => hc)
  · exact Canonical.finishHead (h.modFocus fun _ hc => PadWf.foldl (fun _ _ hc => hc.setTile) hc)
  · exact h.mmaStep
  · exact h.mmrStep
  · exact h.storeTile
  · exact h.tileToRegs
  · exact h.loadTile.finishHead
  · exact h.loadCodebook
  · split
    · exact h
    · refine Canonical.finishHead (h.modFocus fun _ hc => ?_)
      split
      · exact hc.contribute.setTile
      · exact hc.contribute
theorem Canonical.unitStep {e : MEntry} (h : Canonical s) : Canonical (s.unitStep e) := by
  unfold State.unitStep
  split
  · exact h.unitDo
  · dsimp only
    split
    · exact h
    · exact h.fresh.unitRead.modFocus fun _ hc => hc.modHead
theorem Canonical.execMatrixExecute {c : Name} (h : Canonical s) : AnswerWf (execMatrixExecute c s) := by
  unfold Machine.execMatrixExecute
  refine h.within fun _ h => ?_
  split
  · exact h
  · exact h.unitStep
theorem Canonical.grantLease {r : LeaseReq} (h : Canonical s) : Canonical (s.grantLease r) :=
    Canonical.settle (.fresh (h.modFocus fun _ hc => PadWf.modTh (.write (.takeTiles hc))))
theorem Canonical.grantAll : ∀ {l : List LeaseReq} {s : State} {older : List (BitVec 4)}, Canonical s → Canonical (s.grantAll l older)
  | [], _, _, h => h
  | r :: l, s, older, h => by
    rw [State.grantAll]
    split
    · exact h.grantLease.grantAll
    · exact h.grantAll
theorem Canonical.execLeaseGrant {c : Name} (h : Canonical s) : AnswerWf (execLeaseGrant c s) := by
  unfold Machine.execLeaseGrant
  refine h.within fun _ h => ?_
  refine Canonical.grantAll ?_
  split
  · exact Canonical.fault (h.modFocus fun _ hc => hc.withdraw)
  · exact h

/-! ### Boundaries (`Machine/Boundary`) -/

theorem Canonical.knock {n : Nat} (h : Canonical s) : Canonical (s.knock n).1 := by
  unfold State.knock
  split
  · exact h.modCell fun _ hc => hc.awake
  · exact h
theorem Canonical.execTorusExchangeArrival {k : Nat} (h : Canonical s) : AnswerWf (execTorusExchangeArrival k s) := by
  unfold Machine.execTorusExchangeArrival
  split
  · split
    · exact h
    · exact Canonical.modCell (h.modCell fun _ hc => hc) fun _ hc => hc
  · exact h

/-! ### Translation, weight stores (`Machine/Translate`) -/

theorem Canonical.takeWalks {die : Nat} : ∀ {k : Nat} {s : State}, Canonical s → Canonical (s.takeWalks die k)
  | 0, _, h => h
  | k + 1, s, h => by
    rw [State.takeWalks]
    split
    · exact h
    · split
      · exact h
      · exact Canonical.takeWalks h.same
theorem Canonical.missed {die rtu : Nat} {a : Asker} (h : Canonical s) : Canonical (missed s die rtu a) := by
  unfold Machine.missed
  split
  · exact h
  · split
    · exact h
    · split
      · exact Canonical.takeWalks h
      · split <;> exact h
theorem Canonical.countRefused {p : Nat} {wr : Bool} {t : Target} (h : Canonical s) : Canonical (s.countRefused p wr t) := by
  unfold State.countRefused
  repeat' split
  all_goals exact h
theorem Canonical.answerBy {e : RtuEnt} {va : Nat} {wr : Bool} (h : Canonical s) : Canonical (s.answerBy e va wr).1 := by
  unfold State.answerBy
  dsimp only
  split
  · exact h
  · split
    · exact h
    · split
      · exact h
      · exact h.countRefused
theorem Canonical.translate {who : Waiter} {va : Nat} {wr : Bool} (h : Canonical s) : Canonical (s.translate who va wr).1 := by
  unfold State.translate
  dsimp only
  split
  · exact Canonical.answerBy h
  · split
    · exact Canonical.answerBy h
    · exact h.missed
theorem Canonical.moduleWrite {mod addr n v : Nat} (h : Canonical s) : Canonical (s.moduleWrite mod addr n v) :=
  h.withStore (State.wf_moduleWrite h.wf_store)
theorem Canonical.parityLost {x : CacheLine} (h : Canonical s) : Canonical (s.parityLost x) := h
theorem Canonical.weightRead {die va mod addr n : Nat} {p : Policy} (h : Canonical s) : Canonical (s.weightRead die va mod addr n p).1 := by
  unfold State.weightRead
  dsimp only
  split
  · exact h
  · split
    · split
      · split
        · exact h
        · exact h.fresh.parityLost
      · exact h
    · split <;> exact h
theorem Canonical.globalRead {va n : Nat} {t : Target} {hint : BitVec 2} (h : Canonical s) : Canonical (s.globalRead va n t hint).1 := by
  unfold State.globalRead
  split
  · exact h.modCell fun _ hc => hc.touched
  · exact h.weightRead
theorem Canonical.globalWrite {n v : Nat} {t : Target} (h : Canonical s) : Canonical (s.globalWrite n v t).1 := by
  unfold State.globalWrite
  split
  · exact h.within fun _ h => h.padStore
  · split
    · exact h.fresh
    · exact h.fresh.moduleWrite
theorem Canonical.cput {m : CMsg} (h : Canonical s) : Canonical (s.cput m) := h
theorem Canonical.cputCausal {a b : Nat} {m : CMsg} (h : Canonical s) : Canonical (s.cputCausal a b m) := by
  unfold State.cputCausal
  split <;> exact h.cput
theorem Canonical.setUnit {t : Nat} {u : CausalUnit} (h : Canonical s) : Canonical (setUnit s t u) := h
theorem Canonical.reportApplied {t : Nat} {c : Causal} (h : Canonical s) : Canonical (s.reportApplied t c) := by
  unfold State.reportApplied
  dsimp only
  split
  · exact h
  · exact h.setUnit
theorem Canonical.appliedX {x : Option Crossing} (h : Canonical s) : Canonical (s.appliedX x) := by
  unfold State.appliedX
  split
  · exact h
  · split
    · exact h
    · exact h.reportApplied
theorem Canonical.dropC {k : Nat} (h : Canonical s) : Canonical (s.dropC k) := h
theorem Canonical.performAsk {a : Ask} (h : Canonical s) : Canonical (s.performAsk a).1 := by
  unfold State.performAsk
  split
  · refine fst_foldl (r := (s, (0 : BitVec 8))) (fun _ _ h => ?_) h
    exact h.globalWrite
  · refine fst_foldl (r := (s, ([] : List Piece), (0 : BitVec 8))) (fun _ _ h => ?_) h
    dsimp only
    split
    · exact h.globalRead
    · exact h.globalRead
theorem Canonical.serveAsk {k : Nat} {a : Ask} {x : Option Crossing} (h : Canonical s) : Canonical (s.serveAsk k a x) := by
  unfold State.serveAsk
  split
  · next e1 =>
      exact h.knock.fst e1
  · next e2 =>
      split
      · exact h.knock.fst e2
      · split
        · exact ((((h.knock.fst e2).dropC).performAsk).appliedX).cput
        · exact ((((h.knock.fst e2).dropC).performAsk).appliedX).cputCausal
theorem Canonical.giveFault {cause : BitVec 8} {a : Asker} (h : Canonical s) : Canonical (giveFault s cause a) := by
  unfold Machine.giveFault
  split <;> exact h.modCell fun _ hc => hc
theorem Canonical.nextMiss {die rtu : Nat} : ∀ {k : Nat} {s : State}, Canonical s → Canonical (nextMiss s die rtu k)
  | 0, _, h => h
  | k + 1, s, h => by
    rw [Machine.nextMiss]
    split
    · exact h
    · split
      · exact h
      · refine Canonical.nextMiss ?_
        split
        · exact h.same
        · exact Canonical.missed h.same
theorem Canonical.execPageWalkComplete {k : Nat} (h : Canonical s) : AnswerWf (execPageWalkComplete k s) := by
  unfold Machine.execPageWalkComplete
  split
  · exact h
  · split
    · exact h
    · dsimp only
      refine Canonical.takeWalks (.nextMiss ?_)
      repeat' split
      all_goals exact Canonical.foldl (fun _ _ h => h.giveFault) h
theorem Canonical.execShootdown {p : PartIdx} {lo hi : BitVec 45} (h : Canonical s) : AnswerWf (execShootdown p lo hi s) := by
  unfold Machine.execShootdown
  split
  · exact h
  · exact h
theorem Canonical.keptTables {p off val : Nat} (h : Canonical s) : Canonical (s.keptTables p off val) := by
  obtain ⟨hc, ho, hs, ht, hh, hv, hk, w⟩ := h
  refine ⟨hc, ho, hs, ht, hh, hv, fun _ hm => ?_, w⟩
  obtain ⟨k, hmem, rfl⟩ := List.mem_map.mp hm
  split
  · exact Memory.wf_writeNat (hk k hmem)
  · exact hk k hmem
theorem Canonical.execPageTableUpdate {p : PartIdx} {off : BitVec 28} {val : W64} (h : Canonical s) :
    AnswerWf (execPageTableUpdate p off val s) := by
  unfold Machine.execPageTableUpdate
  split
  · split
    · exact h
    · exact h.keptTables
  · split
    · exact h
    · exact h.withTables (wf_tableUpdate _ h.wf_tables)
theorem Canonical.dzRead {m : BitVec 4} {addr n failed : Nat} (h : Canonical s) : Canonical (s.dzRead m addr n failed) := h.same
theorem wf_setBytes {base : Nat} : ∀ (l : List (Option Byte)) {m : Memory} {k : Nat}, Memory.wf m = true →
    Memory.wf (l.foldl (fun (r : Memory × Nat) b => (match b with | some v => Sp.set r.1 (base + r.2) v | none => r.1, r.2 + 1)) (m, k)).1 = true
  | [], _, _, h => h
  | none :: r, _, _, h => wf_setBytes r h
  | some _ :: r, _, _, h => wf_setBytes r (Memory.wf_set h)
theorem Canonical.execDzihamRequest {m : BitVec 4} {req : DzihamReq} (h : Canonical s) : AnswerWf (execDzihamRequest m req s) := by
  unfold Machine.execDzihamRequest
  split
  · exact h.dzRead
  · split
    · exact h.dzRead
    · exact h
  · dsimp only
    split
    · exact h.same
    · exact h.withStore (wf_setBytes _ h.wf_store)

/-! ### Watermarks (`Machine/Landing`) -/

theorem PadWf.modWm {n : Fin 8} {f : Watermark → Watermark} (h : PadWf c) : PadWf (c.modWm n f) := h
theorem Canonical.fillMarks {a n : Nat} (h : Canonical s) : Canonical (s.fillMarks a n) := by
  unfold State.fillMarks
  refine Canonical.foldl (fun _ _ h => ?_) h
  dsimp only
  split
  · exact Canonical.raise (h.modFocus fun _ hc => hc.modWm)
  · exact h.modFocus fun _ hc => hc.modWm
theorem Canonical.landStore {a n v : Nat} (h : Canonical s) : Canonical (s.landStore a n v) := h.padStore.fillMarks
theorem Canonical.engineIssue {hd : Hdr} {len : Nat} {ill : State → Bool} {body : State → Ctl}
    (hbody : ∀ s, Canonical s → CtlWf (body s)) (h : Canonical s) :
    AnswerWf (engineIssue hd len ill body s) := by
  unfold Machine.engineIssue
  refine h.issue fun _ h => ?_
  split
  · exact trivial
  · exact hbody _ h
theorem Canonical.withSrc {a : Spec} {f : W64 → State → Ctl} (hf : ∀ a0 s, Canonical s → CtlWf (f a0 s)) (h : Canonical s) :
    CtlWf (withSrc a f s) := by
  unfold Machine.withSrc
  split
  · exact trivial
  · exact hf _ _ h.popAll
theorem Canonical.wopenAt {n : Fin 8} {v : W64} (h : Canonical s) : CtlWf (wopenAt n v s) := by
  unfold Machine.wopenAt
  dsimp only
  split
  · exact trivial
  · split
    · exact trivial
    · split
      · exact trivial
      · split
        · exact trivial
        · exact h.modFocus fun _ hc => hc.modWm

/-! ### Copies, signals, barriers (`Machine/Copies`) -/

theorem PadWf.setEnt {i : Fin 16} {x : Option CopyEnt} (h : PadWf c) : PadWf (c.setEnt i x) := h
theorem Canonical.copyAt {put long : Bool} {d a b : Spec} {x : BitVec 2} {rows gstr : Nat} (h : Canonical s) :
    CtlWf (copyAt put long d a b x rows gstr s) := by
  unfold Machine.copyAt
  dsimp only
  split
  · exact trivial
  · split
    · exact trivial
    · exact h.modFocus fun _ hc => hc.setEnt
theorem Canonical.copies {hd : Hdr} {len : Nat} {put long : Bool} {d a b : Spec} {x : BitVec 2} {rows gstr : Nat} (h : Canonical s) :
    AnswerWf (copies hd len put long d a b x rows gstr s) := h.engineIssue fun _ h => h.unbound fun _ h => h.copyAt
theorem PadWf.modBar {i : Fin 16} {f : Barrier → Barrier} (h : PadWf c) : PadWf (c.modBar i f) := h
theorem PadWf.passBar {t : TIdx} {d : Spec} {i : Fin 16} (h : PadWf c) : PadWf (c.passBar t d i) := h.write.modTh
theorem PadWf.wakeBar {i : Fin 16} (h : PadWf c) : PadWf (c.wakeBar i) := by
  unfold Cell.wakeBar
  refine PadWf.foldl (fun _ _ hc => ?_) h
  split
  · split
    · exact hc.passBar
    · exact hc
  · exact hc
theorem Canonical.changeBar {i : Fin 16} {f : Barrier → Barrier} (h : Canonical s) : Canonical (s.changeBar i f) := Canonical.settleAll
    (h.modFocus fun _ hc => hc.modBar.wakeBar)
theorem Canonical.execBinit {hd : Hdr} {a : Spec} {i : BitVec 4} (h : Canonical s) : AnswerWf (execBinit hd a i s) := by
  unfold Machine.execBinit
  refine h.engineIssue fun _ h => h.withSrc fun _ _ h => ?_
  split
  · exact trivial
  · exact h.changeBar
theorem Canonical.onBar {i : BitVec 4} {f : Barrier → State → Ctl} (hf : ∀ a0 s, Canonical s → CtlWf (f a0 s)) (h : Canonical s) :
    CtlWf (onBar i f s) := by
  unfold Machine.onBar
  split
  · exact trivial
  · exact hf _ _ h
theorem Canonical.execBarr {hd : Hdr} {d : Spec} {i : BitVec 4} (h : Canonical s) : AnswerWf (execBarr hd d i s) := by
  unfold Machine.execBarr
  refine h.engineIssue fun _ h => h.onBar fun _ _ h => ?_
  split
  · exact trivial
  · exact h.putRes.changeBar
theorem Canonical.execBwait {hd : Hdr} {d a : Spec} {i : BitVec 4} (h : Canonical s) : AnswerWf (execBwait hd d a i s) := by
  unfold Machine.execBwait
  refine h.engineIssue fun _ h => h.onBar fun _ _ h => ?_
  split
  · exact trivial
  · dsimp only
    split
    · exact h.popAll.putRes
    · exact h.popAll
theorem PadWf.setRec {i : Fin 4} {x : Option ARec} (h : PadWf c) : PadWf (c.setRec i x) := h
theorem Canonical.execBarrE {hd : Hdr} {i : BitVec 4} (h : Canonical s) : AnswerWf (execBarrE hd i s) := by
  unfold Machine.execBarrE
  refine h.engineIssue fun _ h => h.onBar fun _ _ h => ?_
  split
  · exact trivial
  · dsimp only
    split
    · exact h.changeBar
    · exact h.modFocus fun _ hc => hc.setRec
theorem Canonical.execEngineArrivalFire {c : Name} {r : Nat} (h : Canonical s) : AnswerWf (execEngineArrivalFire c r s) := by
  unfold Machine.execEngineArrivalFire
  refine h.within fun _ h => ?_
  split
  · split
    · split
      · exact Canonical.changeBar (h.modFocus fun _ hc => hc.setRec)
      · exact h
    · exact h
  · exact h
theorem PadWf.freeEnt {i : Fin 16} (h : PadWf c) : PadWf (c.freeEnt i) := h
theorem Canonical.freeEnt {i : Fin 16} (h : Canonical s) : Canonical (s.freeEnt i) :=
    Canonical.foldl (fun _ _ h => h.appliedX) (Canonical.dropAskers (h.modFocus fun _ hc => hc.freeEnt))
theorem PadWf.modEnt {i : Fin 16} {f : CopyEnt → CopyEnt} (h : PadWf c) : PadWf (c.modEnt i f) := h.setEnt
theorem Canonical.copyFail {i : Fin 16} {cause : BitVec 8} {ga : Nat} (h : Canonical s) : Canonical (s.copyFail i cause ga) :=
    h.modFocus fun _ hc => hc.modEnt
theorem PadWf.modPieces {i : Fin 16} {f : List Piece → List Piece} (h : PadWf c) : PadWf (c.modPieces i f) := h.modEnt
theorem Canonical.copied {i : Fin 16} {done : Piece → Bool} (h : Canonical s) : Canonical (s.copied i done) := by
  unfold State.copied
  dsimp only
  split
  · split
    · exact (Canonical.foldl (fun _ _ h => h.appliedX) (h.modFocus fun _ hc => hc.modPieces)).freeEnt
    · exact Canonical.foldl (fun _ _ h => h.appliedX) (h.modFocus fun _ hc => hc.modPieces)
  · exact Canonical.foldl (fun _ _ h => h.appliedX) (h.modFocus fun _ hc => hc.modPieces)
theorem Canonical.askPieces {i : Fin 16} {put : Bool} {cell base : Nat} {ps : List Piece} (h : Canonical s) :
    Canonical (s.askPieces i put cell base ps) := Canonical.cputCausal (h.modFocus fun _ hc => hc.modPieces)
theorem Canonical.answered {i : Fin 16} {a : Ask} {cause : BitVec 8} {x : Option Crossing} (h : Canonical s) :
    Canonical (s.answered i a cause x) := by
  unfold State.answered
  dsimp only
  split
  · refine Canonical.copyFail (.modFocus ?_ fun _ hc => hc.modPieces)
    split
    · split
      · exact h
      · exact h.appliedX
    · split
      · exact h
      · exact h.appliedX
  · split
    · refine Canonical.copied ?_
      split
      · split
        · exact h
        · exact h.appliedX
      · split
        · exact h
        · exact h.appliedX
    · refine Canonical.modFocus ?_ fun _ hc => hc.modPieces
      split
      · split
        · exact h
        · exact h.appliedX
      · split
        · exact h
        · exact h.appliedX
theorem Canonical.landPieces {ps : List Piece} (h : Canonical s) : Canonical (s.landPieces ps) := by
  unfold State.landPieces
  refine Canonical.foldl (fun _ _ h => h.landStore) (Canonical.foldl (fun _ _ h => ?_) h)
  exact h.modFocus fun _ hc => PadWf.modPad (Memory.wf_writeNat hc)
theorem Canonical.reaches {rd : Bool} {t : Target} (h : Canonical s) : Canonical (s.reaches rd t).1 := by
  unfold State.reaches
  split
  · split
    · exact h
    · exact h.knock
  · exact h
theorem Canonical.readPieces {hint : BitVec 2} {t : Target} : ∀ {l : List Piece}
    {s : State}, Canonical s → Canonical (s.readPieces hint t l).1
  | [], _, h => h
  | p :: r, s, h => by
    rw [State.readPieces]
    split
    · next e => exact h.globalRead.fst e
    · next e =>
      split
      · next e' => exact (h.globalRead.fst e).readPieces.fst e'
      · next e' => exact (h.globalRead.fst e).readPieces.fst e'
theorem Canonical.getPiece {i : Fin 16} {e : CopyEnt} {p : Piece} (h : Canonical s) : Canonical (s.getPiece i e p) := by
  unfold State.getPiece
  split
  · dsimp only
    split
    · next e1 =>
        exact h.translate.fst e1
    · next e2 =>
        exact (h.translate.fst e2).copyFail
    · next e3 =>
        split
        · split
          · exact h.translate.fst e3
          · exact (h.translate.fst e3).askPieces
        · split
          · next e4 =>
              exact ((h.translate.fst e3).reaches).fst e4
          · next e5 =>
              split
              · next e6 =>
                  exact (((((h.translate.fst e3).reaches).fst e5).readPieces).fst e6).copyFail
              · next e7 =>
                  exact (((((h.translate.fst e3).reaches).fst e5).readPieces).fst e7).modFocus fun _ hc => hc.modPieces
  · dsimp only
    split
    · exact h
    · exact h.landPieces.copied
theorem Canonical.putPiece {i : Fin 16} {e : CopyEnt} {p : Piece} (h : Canonical s) : Canonical (s.putPiece i e p) := by
  unfold State.putPiece
  dsimp only
  split
  · have hread : Canonical ((e.todo.filter (·.sameLoc p)).foldl (fun s q => Machine.modFocus s (·.touched q.loc q.len)) s) :=
      Canonical.foldl (fun _ _ h => h.modFocus fun _ hc => hc.touched) h
    split
    · exact h
    · split
      · exact hread.copyFail
      · exact hread.modFocus fun _ hc => hc.modEnt
  · split
    · exact h
    · split
      · next e => exact h.translate.fst e
      · next e => exact (h.translate.fst e).copyFail
      · next e =>
        have ht := h.translate.fst e
        split
        · split
          · exact ht
          · exact ht.askPieces
        · split
          · next e => exact ht.reaches.fst e
          · next e =>
            have hr := ht.reaches.fst e
            split
            · next e =>
              refine Canonical.copyFail (Canonical.fst (fst_foldl (fun _ _ h => ?_) ?_) e)
              · exact h.globalWrite
              · exact hr
            · next e =>
              refine Canonical.copied (Canonical.fst (fst_foldl (fun _ _ h => ?_) ?_) e)
              · exact h.globalWrite
              · exact hr
theorem PadWf.noteBegun {i : Fin 16} {old : List Piece} (h : PadWf c) : PadWf (c.noteBegun i old) := h.modEnt
theorem Canonical.copyMsg {i : Fin 16} {k : Nat} (h : Canonical s) : Canonical (s.copyMsg i k) := by
  unfold State.copyMsg
  split
  · exact h.serveAsk
  · split
    · exact h
    · exact h.dropC.answered
  · exact h
theorem Canonical.execCopyTransfer {c : Name} {e : Nat} (h : Canonical s) : AnswerWf (execCopyTransfer c e s) := by
  unfold Machine.execCopyTransfer
  refine h.within fun _ h => ?_
  split
  · split
    · dsimp only
      split
      · exact h.fresh.copyMsg
      · refine Canonical.modFocus ?_ fun _ hc => hc.noteBegun
        split
        · exact h.fresh.putPiece
        · exact h.fresh.getPiece
      · exact h.fresh
    · exact h
  · exact h
theorem Canonical.complete {i : Fin 16} {x : CopyEnt} {status : BitVec 8} (h : Canonical s) : Canonical (s.complete i x status) := by
  unfold State.complete
  refine Canonical.freeEnt ?_
  split
  · exact h
  · exact h.padStore
theorem Canonical.execCopyCompletionWrite {c : Name} {e : Nat} (h : Canonical s) : AnswerWf (execCopyCompletionWrite c e s) := by
  unfold Machine.execCopyCompletionWrite
  refine h.within fun _ h => ?_
  split
  · split
    · split
      · exact h.complete
      · exact h
    · exact h
  · exact h
theorem Canonical.execCopyError {c : Name} {e : Nat} (h : Canonical s) : AnswerWf (execCopyError c e s) := by
  unfold Machine.execCopyError
  refine h.within fun _ h => ?_
  split
  · split
    · split
      · exact h
      · split
        · exact h
        · split
          · exact Canonical.raise61 (.freeEnt (h.modFocus fun _ hc => hc.countErr))
          · exact Canonical.complete (h.modFocus fun _ hc => hc.countErr)
    · exact h
  · exact h

/-! ### Streams (`Machine/Streams`) -/

theorem Canonical.streamFail {n : Fin 4} {cause : BitVec 8} {ga : W64} (h : Canonical s) : Canonical (s.streamFail n cause ga) :=
    Canonical.raise61 (h.modFocus fun _ hc => hc.modStrm.countErr)
theorem Canonical.bindAt {d : Spec} {off : Nat} {start : BitVec 16} (h : Canonical s) : CtlWf (bindAt d off start s) := by
  unfold Machine.bindAt
  dsimp only
  split
  · exact trivial
  · split
    · exact trivial
    · split
      · exact trivial
      · split
        · exact trivial
        · split
          · exact Canonical.streamFail (.forgetStream (h.modFocus fun _ hc => hc.touched.modStrm))
          · exact Canonical.forgetStream (h.modFocus fun _ hc => hc.touched.modStrm)
theorem Canonical.execSbind {hd : Hdr} {d a : Spec} (h : Canonical s) : AnswerWf (execSbind hd d a s) := by
  unfold Machine.execSbind
  refine h.engineIssue fun _ h => h.withSrc fun _ _ h => ?_
  split
  · exact trivial
  · exact h.bindAt
theorem Canonical.onStrm {d : Spec} {f : Machine.Stream → State → Ctl} (hf : ∀ a0 s, Canonical s → CtlWf (f a0 s)) (h : Canonical s) :
    CtlWf (onStrm d f s) := by
  unfold Machine.onStrm
  dsimp only
  split
  · exact hf _ _ h
  · exact trivial
theorem Canonical.execSctlUnbind {hd : Hdr} {d : Spec} (h : Canonical s) : AnswerWf (execSctlUnbind hd d s) := by
  unfold Machine.execSctlUnbind
  refine h.engineIssue fun _ h => h.onStrm fun _ _ h => ?_
  split
  · exact Canonical.forgetStream (h.modFocus fun _ hc => hc.modStrm)
  · exact trivial
theorem Canonical.execSctlDrain {hd : Hdr} {d : Spec} (h : Canonical s) : AnswerWf (execSctlDrain hd d s) := by
  unfold Machine.execSctlDrain
  refine h.engineIssue fun _ h => h.onStrm fun _ _ h => ?_
  split
  · exact h
  · exact trivial
theorem Canonical.execSctlRewind {hd : Hdr} {d : Spec} (h : Canonical s) : AnswerWf (execSctlRewind hd d s) := by
  unfold Machine.execSctlRewind
  refine h.engineIssue fun _ h => h.onStrm fun _ _ h => ?_
  split
  · exact Canonical.forgetStream (h.modFocus fun _ hc => hc.modStrm)
  · exact trivial
theorem Canonical.askElem {n : Fin 4} {x : Machine.Stream} {cell off a : Nat} {v : Option Nat} (h : Canonical s) :
    Canonical (s.askElem n x cell off a v) := by
  unfold State.askElem
  split
  · exact h
  · exact Canonical.cputCausal (h.modFocus fun _ hc => hc)
theorem Canonical.elemRead {n : Fin 4} {x : Machine.Stream} {a : Nat} (h : Canonical s) : Canonical (s.elemRead n x a).1 := by
  unfold State.elemRead
  split
  · split
    · next e1 =>
        split
        · exact (h.translate.fst e1).askElem
        · split
          · next e2 =>
              exact ((h.translate.fst e1).reaches).fst e2
          · next e3 =>
              exact (((h.translate.fst e1).reaches).fst e3).globalRead
    · next e4 =>
        exact h.translate.fst e4
  · exact h.modFocus fun _ hc => hc.touched
theorem Canonical.refill {n : Fin 4} {x : Machine.Stream} (h : Canonical s) : Canonical (s.refill n x) := by
  unfold State.refill
  dsimp only
  split
  · exact h
  · split
    · split
      · exact h.modFocus fun _ hc => hc.modStrm
      · exact h
    · split
      · exact h
      · split
        · exact Canonical.streamFail (h.modFocus fun _ hc => hc.touched)
        · split
          · split
            · exact Canonical.modFocus (h.modFocus fun _ hc => hc.touched) fun _ hc => hc.modStrm
            · split
              · exact Canonical.modFocus (h.modFocus fun _ hc => hc.touched) fun _ hc => hc.modStrm
              · split
                · exact h.modFocus fun _ hc => hc.touched
                · split
                  · next e1 =>
                      exact Canonical.fst (.elemRead (h.modFocus fun _ hc => hc.touched)) e1
                  · next e2 =>
                      exact Canonical.streamFail (.fst (.elemRead (h.modFocus fun _ hc => hc.touched)) e2)
                  · next e3 =>
                      exact Canonical.streamFail (.fst (.elemRead (h.modFocus fun _ hc => hc.touched)) e3)
                  · next e4 =>
                      exact Canonical.modFocus (.fst (.elemRead (h.modFocus fun _ hc => hc.touched)) e4) fun _ hc => hc.modStrm
          · split
            · exact h.modFocus fun _ hc => hc.modStrm
            · split
              · exact h.modFocus fun _ hc => hc.modStrm
              · split
                · exact h
                · split
                  · next e5 =>
                      exact h.elemRead.fst e5
                  · next e6 =>
                      exact (h.elemRead.fst e6).streamFail
                  · next e7 =>
                      exact (h.elemRead.fst e7).streamFail
                  · next e8 =>
                      exact (h.elemRead.fst e8).modFocus fun _ hc => hc.modStrm
theorem Canonical.streamAnswer {n : Fin 4} {a : Ask} {cause : BitVec 8} (h : Canonical s) : Canonical (s.streamAnswer n a cause) := by
  unfold State.streamAnswer
  dsimp only
  split
  · exact h
  · split
    · exact Canonical.settle (.streamFail (h.modFocus fun _ hc => hc.modStrm))
    · split
      · exact Canonical.settle (.modFocus (h.modFocus fun _ hc => hc.modStrm) fun _ hc => hc.modStrm)
      · exact Canonical.modFocus (h.modFocus fun _ hc => hc.modStrm) fun _ hc => hc.modStrm
theorem Canonical.streamMsg {t : State} {c : Name} {n : Fin 4} (h : Canonical s) (e : s.streamMsg c n = some t) : Canonical t := by
  unfold State.streamMsg at e
  dsimp only at e
  split at e
  · cases e
  · split at e
    · cases e
      exact h.fresh.serveAsk
    · cases e
      split
      · exact h
      · exact h.fresh.dropC.appliedX.streamAnswer
    · cases e
theorem Canonical.execStreamRefill {c : Name} {n : Fin 4} (h : Canonical s) : AnswerWf (execStreamRefill c n s) := by
  unfold Machine.execStreamRefill
  refine h.within fun _ h => ?_
  split
  · next e =>
      exact h.streamMsg e
  · dsimp only
    split
    · exact h
    · split
      · exact h.streamFail
      · split
        · exact h
        · exact h.refill
theorem Canonical.writeOut {n : Fin 4} {x : Machine.Stream} {v : V256} (h : Canonical s) : Canonical (s.writeOut n x v) := by
  unfold State.writeOut
  dsimp only
  split
  · split
    · next e1 =>
        exact h.translate.fst e1
    · next e2 =>
        exact (h.translate.fst e2).streamFail
    · next e3 =>
        split
        · exact (h.translate.fst e3).askElem
        · split
          · next e4 =>
              exact ((h.translate.fst e3).reaches).fst e4
          · next e5 =>
              split
              · next e6 =>
                  exact (((((h.translate.fst e3).reaches).fst e5).globalWrite).fst e6).streamFail
              · next e7 =>
                  exact (((((h.translate.fst e3).reaches).fst e5).globalWrite).fst e7).modFocus fun _ hc => hc.modStrm
  · split
    · exact h.padStore.streamFail
    · exact h.padStore.modFocus fun _ hc => hc.modStrm
theorem Canonical.execStreamWriteOut {c : Name} {n : Fin 4} (h : Canonical s) : AnswerWf (execStreamWriteOut c n s) := by
  unfold Machine.execStreamWriteOut
  refine h.within fun _ h => ?_
  split
  · next e =>
      exact h.streamMsg e
  · dsimp only
    split
    · exact h
    · split
      · exact h.streamFail.settle
      · split
        · exact h.modFocus fun _ hc => hc.modStrm
        · exact h
      · exact h.writeOut.settle

/-! ### Messages (`Machine/Messages`) -/

theorem PadWf.modMsg {f : Msgs → Msgs} (h : PadWf c) : PadWf (c.modMsg f) := h
theorem PadWf.modTim {f : Timed → Timed} (h : PadWf c) : PadWf (c.modTim f) := h
theorem Canonical.takeSeq (h : Canonical s) : Canonical s.takeSeq := h.modMe
theorem Canonical.postUnmapped {v : V256} (h : Canonical s) : Canonical (s.postUnmapped v) := Canonical.raise61
    (h.modFocus fun _ hc => hc.modMsg)
theorem PadWf.toEgress {x : EgItem} (h : PadWf c) : PadWf (c.toEgress x) := h.modMsg
theorem Canonical.makeMsg {p : Pkt} (h : Canonical s) : Canonical (s.makeMsg p) := by
  unfold State.makeMsg
  dsimp only
  refine h.modFocus fun _ hc => ?_
  split
  · exact PadWf.modTim hc
  · exact hc
theorem Canonical.sendOrPost {p : Pkt} (h : Canonical s) : Canonical (s.sendOrPost p) := by
  unfold State.sendOrPost
  split
  · exact h.makeMsg
  · exact h.postUnmapped
theorem Canonical.sendAt {name : Name} {chan : BitVec 6} {cls : BitVec 4} {v : W64} {pay : List V256} (h : Canonical s) :
    CtlWf (sendAt name chan cls v pay s) := by
  unfold Machine.sendAt
  dsimp only
  split
  · exact trivial
  · split
    · exact trivial
    · split
      · exact trivial
      · split
        · exact trivial
        · refine Canonical.sendOrPost ?_
          split
          · exact h.takeSeq.jAppend
          · exact h.takeSeq
theorem Canonical.sends {b : Spec} {l : List Spec} {body : State → Ctl} (hbody : ∀ s, Canonical s → CtlWf (body s)) (h : Canonical s) :
    CtlWf (sends b l body s) := by
  unfold Machine.sends
  split
  · exact trivial
  · exact h.unbound hbody
theorem Canonical.execSend {hd : Hdr} {d a b : Spec} {x : BitVec 2} (h : Canonical s) : AnswerWf (execSend hd d a b x s) := by
  unfold Machine.execSend
  exact h.issue fun _ h => h.sends fun _ h => h.sendAt
theorem Canonical.ratomAt {d a : Spec} {opc cls : BitVec 4} {post : Bool} (h : Canonical s) : CtlWf (ratomAt d a opc cls post s) := by
  unfold Machine.ratomAt
  dsimp only
  split
  · exact trivial
  · split
    · exact trivial
    · split
      · exact trivial
      · split
        · exact trivial
        · split
          · exact trivial
          · split
            · exact h.takeSeq.modFocus fun _ hc => hc.toEgress
            · exact Canonical.modMe (h.takeSeq.modFocus fun _ hc => hc.toEgress)
theorem Canonical.ratomBody {d a : Spec} {opc cls : BitVec 4} {post : Bool} (h : Canonical s) : CtlWf (ratomBody d a opc cls post s) :=
    h.untimed fun _ h => h.unbound fun _ h => h.ratomAt
theorem Canonical.execClmask {hd : Hdr} {d a : Spec} {x : BitVec 2} (h : Canonical s) : AnswerWf (execClmask hd d a x s) := by
  unfold Machine.execClmask
  exact h.issue fun _ h => h.unbound fun _ h => h.putRes.modFocus fun _ hc => hc.modMsg
theorem Canonical.tdeferAt {name : Name} {pay v : W64} (h : Canonical s) : CtlWf (tdeferAt name pay v s) := by
  unfold Machine.tdeferAt
  dsimp only
  split
  · exact trivial
  · split
    · exact trivial
    · split
      · exact trivial
      · split
        · split
          · exact trivial
          · exact h.takeSeq.jAppend.jAppend
        · split
          · exact trivial
          · exact h.takeSeq.sendOrPost
theorem Canonical.atomDone {t : TIdx} {seq : BitVec 16} {cls : BitVec 4} {post : Bool} {ga old : W64} {status : BitVec 8}
    (h : Canonical s) :
    Canonical (s.atomDone t seq cls post ga old status) := by
  unfold State.atomDone
  split
  · split
    · exact h
    · exact h.postUnmapped
  · exact h.modTh
theorem Canonical.dropEgress {i : Nat} (h : Canonical s) : Canonical (s.dropEgress i) := h.modFocus fun _ hc => hc.modMsg
theorem Canonical.launch {i : Nat} {p : Pkt} (h : Canonical s) : Canonical (s.launch i p) :=
    h.dropEgress.inject.modFocus fun _ hc => hc.modMsg
theorem Canonical.egressFrom : ∀ {l : List EgItem} {s : State} {i : Nat} {held : List (TIdx × BitVec 4)} {paths : List Path}, Canonical s →
    Canonical (s.egressFrom i l held paths)
  | [], _, _, _, _, h => h
  | .msg p :: r, s, i, held, paths, h => by
    rw [State.egressFrom]
    split
    · exact h.egressFrom
    · exact h.launch
  | .atom t seq cls opc post ga v c failed :: r, s, i, held, paths, h => by
    rw [State.egressFrom.eq_def]
    dsimp only
    split
    · exact h.dropEgress.atomDone
    · split
      · exact h.egressFrom
      · split
        · next e => exact (h.translate.fst e).egressFrom
        · next e => exact (h.translate.fst e).dropEgress.atomDone
        · next e => exact (h.translate.fst e).dropEgress.atomDone
        · next e =>
          have ht := h.translate.fst e
          split
          · exact ht.egressFrom
          · split
            · exact ht.launch.modFocus fun _ hc => hc.modMsg
            · exact ht.launch
theorem Canonical.execEgressInject {c : Name} (h : Canonical s) : AnswerWf (execEgressInject c s) := by
  unfold Machine.execEgressInject
  refine h.within fun _ h => ?_
  split
  · exact h
  · exact h.egressFrom

/-! ### The mesh (`Machine/Mesh`) -/

theorem Canonical.setFlight {k : Nat} {f : Flight} (h : Canonical s) : Canonical (s.setFlight k f) := h
theorem Canonical.dropFlight {k : Nat} (h : Canonical s) : Canonical (s.dropFlight k) := h
theorem Canonical.injectAt {pos : Nat} {p : Pkt} {vc : BitVec 2} (h : Canonical s) : Canonical (s.injectAt pos p vc) := h
theorem Canonical.learnAt {pos : Nat} {p : Pkt} {port : Nat} (h : Canonical s) : Canonical (s.learnAt pos p port) := by
  unfold State.learnAt
  split <;> exact h
theorem Canonical.hitAge {pos : Nat} {n : Name} (h : Canonical s) : Canonical (s.hitAge pos n) := h
theorem Canonical.mapTables {die : Nat} {f : NameEnt → NameEnt} (h : Canonical s) : Canonical (s.mapTables die f) := h
theorem Canonical.ended {f : Flight} (h : Canonical s) : Canonical (s.ended f) := by
  unfold State.ended
  split
  · split
    · exact h.reportApplied
    · exact h
  · exact h
theorem Canonical.unmapped {k : Nat} {f : Flight} (h : Canonical s) : Canonical (s.unmapped k f) := by
  unfold State.unmapped
  split
  · exact h
  · split
    · exact h.dropFlight.ended
    · split
      · exact h.dropFlight.ended.injectAt
      · exact h.dropFlight.ended.injectAt.injectAt
theorem Canonical.outAt {pos port q : Nat} (h : Canonical s) : Canonical (s.outAt pos port q).1 := by
  unfold State.outAt
  dsimp only
  split
  · exact h
  · exact h.fresh
theorem Canonical.arriveAt {k : Nat} {f : Flight} (h : Canonical s) : Canonical (s.arriveAt k f) := by
  unfold State.arriveAt
  split
  · exact h
  · exact h.setFlight
theorem Canonical.holdFlight {k : Nat} {f : Flight} (h : Canonical s) : Canonical (s.holdFlight k f) := by
  unfold State.holdFlight
  split <;> exact h
theorem Canonical.dropAtHinge {k : Nat} {f : Flight} {port : Nat} (h : Canonical s) : Canonical (s.dropAtHinge k f port) := h
theorem Canonical.flood {k : Nat} {f : Flight} (h : Canonical s) : Canonical (s.flood k f) := by
  unfold State.flood
  dsimp only
  split
  · split
    · exact h
    · split
      · exact h.holdFlight
      · refine Canonical.learnAt ?_
        split
        · exact h.setFlight
        · exact h.arriveAt
  · split
    · split
      · refine Canonical.modCell ?_ fun _ hc => hc
        split
        · exact Canonical.injectAt h.dropFlight.ended
        · exact h.dropFlight.ended
      · split
        · exact Canonical.injectAt h.dropFlight.ended
        · exact h.dropFlight.ended
    · split
      · exact Canonical.injectAt h.dropFlight.ended
      · exact h.dropFlight.ended
theorem Canonical.atPlace {k : Nat} {f : Flight} (h : Canonical s) : Canonical (s.atPlace k f) := by
  unfold State.atPlace
  split
  · exact h.unmapped
  · split
    · exact h.arriveAt
    · exact h.flood
theorem Canonical.hop {k : Nat} {f : Flight} {port : Nat} (h : Canonical s) : Canonical (s.hop k f port) := by
  unfold State.hop
  split
  · exact h.dropAtHinge
  · dsimp only
    split
    · exact h
    · split
      · exact h.dropAtHinge
      · split
        · split
          · exact h.outAt.holdFlight
          · exact h.outAt.setFlight.learnAt
        · split
          · exact h.holdFlight
          · exact h.setFlight.learnAt
theorem Canonical.execRouterForward {k : Nat} (h : Canonical s) : AnswerWf (execRouterForward k s) := by
  unfold Machine.execRouterForward
  split
  · exact h
  · split
    · exact h
    · dsimp only
      split
      · refine Canonical.unmapped ?_
        split
        · split
          · exact h.learnAt.hitAge
          · exact h.learnAt
        · split
          · exact h.hitAge
          · exact h
      · refine Canonical.arriveAt ?_
        split
        · split
          · exact h.learnAt.hitAge
          · exact h.learnAt
        · split
          · exact h.hitAge
          · exact h
      · split
        · split
          · exact h.learnAt.hitAge
          · exact h.learnAt
        · split
          · exact h.hitAge
          · exact h
      · refine Canonical.atPlace ?_
        split
        · split
          · exact h.learnAt.hitAge
          · exact h.learnAt
        · split
          · exact h.hitAge
          · exact h
      · refine Canonical.hop ?_
        split
        · split
          · exact h.learnAt.hitAge
          · exact h.learnAt
        · split
          · exact h.hitAge
          · exact h
      · refine Canonical.flood ?_
        split
        · split
          · exact h.learnAt.hitAge
          · exact h.learnAt
        · split
          · exact h.hitAge
          · exact h
theorem Canonical.applied {f : Flight} (h : Canonical s) : Canonical (s.applied f) := by
  unfold State.applied
  split
  · exact h.reportApplied
  · exact h
theorem PadWf.clearPath {p : Pkt} (h : PadWf c) : PadWf (c.clearPath p) := h.modMsg
theorem Canonical.execAcknowledgement {k : Nat} (h : Canonical s) : AnswerWf (execAcknowledgement k s) := by
  unfold Machine.execAcknowledgement
  split
  · exact h
  · exact h.dropFlight.modCell fun _ hc => hc.clearPath
theorem Canonical.performAtom {off opc v c : Nat} (h : Canonical s) : Canonical (s.performAtom off opc v c).1 := by
  unfold State.performAtom
  dsimp only
  split
  · exact h.modFocus fun _ hc => hc.touched
  · split
    · exact Canonical.padStore (h.modFocus fun _ hc => hc.touched)
    · exact h.modFocus fun _ hc => hc.touched
theorem Canonical.execRemoteAtomicPerform {k : Nat} (h : Canonical s) : AnswerWf (execRemoteAtomicPerform k s) := by
  unfold Machine.execRemoteAtomicPerform
  split
  · exact h
  · dsimp only
    split
    · exact h
    · exact h.dropFlight.within fun _ h => h.performAtom.inject.applied
theorem Canonical.execAtomicResponse {k : Nat} (h : Canonical s) : AnswerWf (execAtomicResponse k s) := by
  unfold Machine.execAtomicResponse
  split
  · exact h
  · exact h.dropFlight.within fun _ h => Canonical.applied (.atomDone (h.modFocus fun _ hc => hc.clearPath.modMsg))

/-! ### Arrivals (`Machine/Arrival`) -/

theorem PadWf.errorReply {p : Pkt} (h : PadWf c) : PadWf (c.errorReply p) := by
  unfold Cell.errorReply
  split
  · exact h
  · exact h
theorem Canonical.takeIn {p : Pkt} {d : Disposal} (h : Canonical s) : Canonical (s.takeIn p d) := by
  unfold State.takeIn
  split
  · exact h.modInbox
  · exact h.dispose
theorem Canonical.ackFrom {f : Flight} (h : Canonical s) : Canonical (s.ackFrom f) := by
  unfold State.ackFrom
  split
  · exact h.injectAt
  · exact h.inject
theorem Canonical.execMessageArrival {k : Nat} (h : Canonical s) : AnswerWf (execMessageArrival k s) := by
  unfold Machine.execMessageArrival
  split
  · exact h
  · split
    · exact h
    · split
      · exact h
      · refine h.dropFlight.within fun _ h => ?_
        refine Canonical.applied ?_
        split
        · exact Canonical.ackFrom (.takeIn (h.modFocus fun _ hc => hc.errorReply.modTim))
        · exact Canonical.takeIn (h.modFocus fun _ hc => hc.errorReply.modTim)
theorem Canonical.fromBuffer {l : List Pkt} {drop : State → State} (h : Canonical s) (hdrop : ∀ s, Canonical s → Canonical (drop s)) :
    Canonical (s.fromBuffer l drop) := by
  unfold State.fromBuffer
  split
  · exact h
  · split
    · exact h
    · exact Canonical.dispose (hdrop _ h)
theorem Canonical.depositOne (h : Canonical s) : Canonical s.depositOne := by
  unfold State.depositOne
  split
  · exact h.fresh.modInbox.padStore
  · exact h
theorem Canonical.execIngressToSpill {c : Name} (h : Canonical s) : AnswerWf (execIngressToSpill c s) := by
  unfold Machine.execIngressToSpill
  refine h.within fun _ h => ?_
  split
  · exact h.depositOne
  · split
    · exact h
    · repeat' split
      all_goals exact h.fromBuffer fun _ h => h.modInbox
theorem Canonical.execLatchedEventEntry {c : Name} (h : Canonical s) : AnswerWf (execLatchedEventEntry c s) := by
  unfold Machine.execLatchedEventEntry
  refine h.within fun _ h => ?_
  split
  · exact h
  · split
    · exact h.modInbox
    · exact h
theorem Canonical.execSpillQueueBind {c : Name} (h : Canonical s) : AnswerWf (execSpillQueueBind c s) := by
  unfold Machine.execSpillQueueBind
  refine Canonical.within h fun s h => ?_
  split
  · exact h
  · dsimp only
    split
    · exact h.dispose.modInbox
    · split
      · have hb (p : Pkt) (t : TIdx) (f : Cell → Inbox) :
            Canonical (Machine.modFocus s fun c => { ((c.touched s.cell.sqHead 160).received p).bind t p with inbox := f c }) :=
          h.modFocus fun _ hc => PadWf.bind (t := t) (p := p) hc.touched.received
        split
        · exact (hb ..).eccEvent
        · exact hb ..
      · exact h
theorem Canonical.execBcastDelivery {n : Name} (h : Canonical s) : AnswerWf (execBcastDelivery n s) := by
  unfold Machine.execBcastDelivery
  refine h.within fun _ h => ?_
  split
  · dsimp only
    split
    · exact h
    · split
      · exact h.fault
      · split
        · exact Canonical.fall (h.modFocus fun _ hc => PadWf.foldl (fun _ _ hc => hc.modTh) hc)
        · exact h
  · exact h
theorem Canonical.execJoinmComplete {c : Name} (h : Canonical s) : AnswerWf (execJoinmComplete c s) := by
  unfold Machine.execJoinmComplete
  refine h.within fun _ h => ?_
  split
  · split
    · exact Canonical.fall (h.modFocus fun _ hc => hc.join)
    · exact h
  · exact h
theorem PadWf.writeLate {t : TIdx} {o : LongRes} {ix : Nat} (h : PadWf c) : PadWf (c.writeLate t o ix) := by
  unfold Cell.writeLate
  split
  · exact h.modStrm
  · exact h.modTh
theorem Canonical.execLongLatencyWriteback {c : Name} {t : TIdx} {k : Nat} (h : Canonical s) :
    AnswerWf (execLongLatencyWriteback c t k s) := by
  unfold Machine.execLongLatencyWriteback
  refine h.within fun _ h => ?_
  split
  · exact h.settle.settle
  · split
    · exact h
    · refine Canonical.settle (.settle ?_)
      split
      · exact h.modTh.modTh
      · exact Canonical.fresh (h.modTh.modFocus fun _ hc => hc.writeLate)

/-! ### Causal units (`Machine/Causality`) -/

theorem Canonical.stampAt {t : State} {d u pos : Nat} {x : Causal} (h : Canonical s) (e : s.stampAt d u pos = some (x, t)) :
    Canonical t := by
  unfold State.stampAt at e
  dsimp only at e
  split at e
  · cases e
  · cases e
    split
    · exact h.setUnit.injectAt
    · exact h.setUnit
theorem Canonical.stampFlight {k : Nat} {f : Flight} (h : Canonical s) : Canonical (s.stampFlight k f) := by
  unfold State.stampFlight
  split
  · exact h
  · split
    · exact h
    · next e =>
        exact (h.stampAt e).setFlight
theorem Canonical.stampCrossing {x : Crossing} {put : State → Crossing → State} (h : Canonical s)
    (hput : ∀ s x, Canonical s → Canonical (put s x)) : Canonical (s.stampCrossing x put) := by
  unfold State.stampCrossing
  split
  · exact h
  · split
    · exact h
    · next e => exact hput _ _ (h.stampAt e)
theorem Canonical.execCausalStamp {k : Nat} (h : Canonical s) : AnswerWf (execCausalStamp k s) := by
  unfold Machine.execCausalStamp
  dsimp only
  split
  · exact h.stampFlight
  · split
    · exact h.stampCrossing fun _ _ h => h
    · exact h
    · split
      · split
        · exact h
        · exact h.stampCrossing fun _ _ h => h
      · exact h
theorem Canonical.holdAt {t : Nat} {x : Held} (h : Canonical s) : Canonical (s.holdAt t x) := h.setUnit
theorem Canonical.holdM {k : Nat} {f : Flight} (h : Canonical s) : Canonical (s.holdM k f) := by
  unfold State.holdM
  split
  · exact h
  · dsimp only
    split
    · exact h.dropFlight.setUnit
    · split
      · exact h
      · split
        · exact h.dropFlight.holdAt
        · exact h
theorem Canonical.execCausalArrival {k : Nat} (h : Canonical s) : AnswerWf (execCausalArrival k s) := by
  unfold Machine.execCausalArrival
  dsimp only
  split
  · exact h.holdM
  · split
    · split
      · split
        · exact h.dropC.holdAt
        · exact h
      · exact h
    · exact h
    · split
      · split
        · split
          · exact Canonical.holdAt h
          · exact h
        · exact h
      · exact h
theorem Canonical.release {x : Held} (h : Canonical s) : Canonical (s.release x) := by
  unfold State.release
  split <;> exact h
theorem Canonical.execCausalRelease {t : BitVec 6} {k : Nat} (h : Canonical s) : AnswerWf (execCausalRelease t k s) := by
  unfold Machine.execCausalRelease
  dsimp only
  split
  · exact h
  · split
    · exact h
    · split
      · exact h
      · exact h.setUnit.release
theorem Canonical.execCausalApplied {t : BitVec 6} {k : Nat} (h : Canonical s) : AnswerWf (execCausalApplied t k s) := by
  unfold Machine.execCausalApplied
  dsimp only
  repeat' split
  all_goals exact h
theorem Canonical.execCausalAcknowledgement {k : Nat} (h : Canonical s) : AnswerWf (execCausalAcknowledgement k s) := by
  unfold Machine.execCausalAcknowledgement
  split
  · exact h
  · exact h
theorem Canonical.fromUnit {t : Nat} {p : Pkt} (h : Canonical s) : Canonical (s.fromUnit t p) := h.injectAt
theorem Canonical.execCausalQuery {t : BitVec 6} {k : Nat} {e : BitVec 6} (h : Canonical s) : AnswerWf (execCausalQuery t k e s) := by
  unfold Machine.execCausalQuery
  dsimp only
  split
  · exact h
  · split
    · exact h
    · split
      · exact h
      · split
        · exact h.fromUnit
        · exact h
theorem Canonical.execCausalQueryAnswer {k : Nat} (h : Canonical s) : AnswerWf (execCausalQueryAnswer k s) := by
  unfold Machine.execCausalQueryAnswer
  split
  · exact h
  · split
    · exact h
    · split
      · exact h
      · exact h.dropFlight.setUnit.fromUnit
theorem Canonical.execCausalNotice {k : Nat} (h : Canonical s) : AnswerWf (execCausalNotice k s) := by
  unfold Machine.execCausalNotice
  split
  · exact h
  · split
    · exact h
    · split
      · exact h
      · exact h.dropFlight.setUnit

/-! ### Reduction (`Machine/Reduction`) -/

theorem PadWf.modRed {f : Reduce → Reduce} (h : PadWf c) : PadWf (c.modRed f) := h
theorem Canonical.contributes {d : Spec} {tag : Nat} {empty : Bool} {data : List V256} (h : Canonical s) :
    CtlWf (s.contributes d tag empty data) := Canonical.putRes (h.modFocus fun _ hc => hc.contribute)
theorem Canonical.rdconAt {d a : Spec} {empty : Bool} {data : State → V256} (h : Canonical s) : CtlWf (rdconAt d a empty data s) := by
  unfold Machine.rdconAt
  split
  · exact trivial
  · split
    · exact trivial
    · split
      · exact trivial
      · exact h.contributes
theorem Canonical.rdconLAt {d a : Spec} {empty : Bool} {loff w : Nat} (h : Canonical s) : CtlWf (rdconLAt d a empty loff w s) := by
  unfold Machine.rdconLAt
  split
  · exact trivial
  · split
    · exact trivial
    · dsimp only
      split
      · exact trivial
      · split
        · exact trivial
        · split
          · exact trivial
          · split
            · exact trivial
            · split
              · exact h.contributes
              · split
                · exact Canonical.modMe (h.modFocus fun _ hc => hc.touched)
                · exact Canonical.contributes (h.modFocus fun _ hc => hc.touched)
theorem Canonical.sput {m : SMsg} (h : Canonical s) : Canonical (s.sput m) := h
theorem Canonical.sputCausal {to_ : Name} {m : SMsg} (h : Canonical s) : Canonical (s.sputCausal to_ m) := by
  unfold State.sputCausal
  split <;> exact h.sput
theorem Canonical.dropS {k : Nat} (h : Canonical s) : Canonical (s.dropS k) := h
theorem Canonical.overLink {p link tag : Nat} {m : SMsg} (h : Canonical s) : Canonical (s.overLink p link tag m) := by
  unfold State.overLink
  split <;> exact h
theorem Canonical.creditTo {b : Bucket} {n : TreeNode} {tag lbl : Nat} (h : Canonical s) : Canonical (s.creditTo b n tag lbl) := by
  unfold State.creditTo
  split
  · exact h.modFocus fun _ hc => hc.modRed
  · split
    · split
      · exact h.overLink
      · exact h.sput
    · exact h
theorem Canonical.forwardResult {b : Bucket} {n : TreeNode} {k : Contribution} (h : Canonical s) : Canonical (s.forwardResult b n k) := by
  unfold State.forwardResult
  split
  · refine Canonical.foldl (fun _ _ h => ?_) h
    split
    · exact h.overLink
    · exact h.sputCausal
  · exact h
theorem Canonical.closeSlot {b : Bucket} {n : TreeNode} {x : RSlot} (h : Canonical s) : Canonical (s.closeSlot b n x) := by
  unfold State.closeSlot
  split
  · exact (Canonical.foldl (fun _ _ h => h.creditTo) (h.modFocus fun _ hc => hc.modRed)).sput
  · exact (Canonical.foldl (fun _ _ h => h.creditTo) (h.modFocus fun _ hc => hc.modRed)).modFocus fun _ hc => hc.modRed
theorem Canonical.atSlot {t : State} {lbl : Nat} {k : Contribution} (h : Canonical s) (e : s.atSlot lbl k = some t) : Canonical t := by
  have hred {f : Reduce → Reduce} : Canonical (Machine.modFocus s (·.modRed f)) := h.modFocus fun _ hc => hc.modRed
  unfold State.atSlot at e
  dsimp only at e
  split at e
  · cases e
    exact hred
  · split at e
    · cases e
      exact hred.creditTo
    · split at e
      · cases e
      · cases e
        split
        · exact hred.closeSlot
        · exact hred
theorem Canonical.sendUp {n : TreeNode} {k : Contribution} (h : Canonical s) : Canonical (s.sendUp n k) := by
  unfold State.sendUp
  split
  · exact Canonical.overLink (h.modFocus fun _ hc => hc.modRed)
  · exact Canonical.sputCausal (h.modFocus fun _ hc => hc.modRed)
theorem Canonical.drainUp {t : State} (h : Canonical s) (e : s.drainUp = some t) : Canonical t := by
  unfold State.drainUp at e
  split at e
  · cases e
  · obtain ⟨x, -, rfl⟩ := Option.map_eq_some_iff.mp e
    exact Canonical.sendUp (h.modFocus fun _ hc => hc.modRed)
theorem Canonical.execReductionOutputDrain {c : Name} (h : Canonical s) : AnswerWf (execReductionOutputDrain c s) := by
  unfold Machine.execReductionOutputDrain
  refine h.within fun _ h => ?_
  split
  · next e =>
      exact h.drainUp e
  · split
    · exact h
    · split
      · exact h.modFocus fun _ hc => hc.modRed
      · split
        · split
          · exact h
          · exact Canonical.getD h fun _ e => Canonical.atSlot (h.modFocus fun _ hc => hc.modRed) e
        · split
          · exact h
          · exact Canonical.sendUp (h.modFocus fun _ hc => hc.modRed)
theorem Canonical.execContributionArrival {k : Nat} (h : Canonical s) : AnswerWf (execContributionArrival k s) := by
  unfold Machine.execContributionArrival
  split
  · split
    · refine Canonical.within h fun s h => h.getD fun t e => ?_
      obtain ⟨u, hu, rfl⟩ := Option.map_eq_some_iff.mp e
      exact (h.dropS.atSlot hu).appliedX
    · exact h
  · exact h
theorem Canonical.execSlotTimeout {c : Name} {tag : BitVec 12} (h : Canonical s) : AnswerWf (execSlotTimeout c tag s) := by
  unfold Machine.execSlotTimeout
  refine h.within fun _ h => ?_
  split
  · split
    · exact Canonical.closeSlot (h.modFocus fun _ hc => hc.modRed)
    · exact h
  · exact h
theorem Canonical.execCreditReturn {k : Nat} (h : Canonical s) : AnswerWf (execCreditReturn k s) := by
  unfold Machine.execCreditReturn
  split
  · split
    · exact h.dropS.modCell fun _ hc => hc.modRed
    · exact h
  · exact h
theorem Canonical.passResult {x : Contribution} {cr : Option Crossing} (h : Canonical s) : Canonical (s.passResult x cr) := by
  unfold State.passResult
  split
  · exact h.appliedX
  · exact h.appliedX.forwardResult
theorem Canonical.takeResult {p : PartIdx} {node : Name} {x : Contribution} {cr : Option Crossing} (h : Canonical s) :
    Canonical (s.takeResult p node x cr) := by
  unfold State.takeResult
  split
  · exact h.appliedX
  · split
    · exact h.sput
    · exact h.passResult
theorem Canonical.writeResult {k : Nat} {p : PartIdx} {node : Name} {x : Contribution} {left : List Nat} {cr : Option Crossing}
    (h : Canonical s) :
    Canonical (s.writeResult k p node x left cr) := by
  unfold State.writeResult
  split
  · exact Canonical.padStore (.fresh h)
  · exact h.dropS.raise.passResult
theorem Canonical.execResultDelivery {k : Nat} (h : Canonical s) : AnswerWf (execResultDelivery k s) := by
  unfold Machine.execResultDelivery
  split
  · split
    · refine h.within fun _ h => ?_
      split
      · exact h
      · exact h.dropS.takeResult
    · exact h
  · split
    · exact h
    · refine h.within fun _ h => ?_
      split
      · exact h
      · exact h.writeResult
  · exact h

/-! ### Light (`Machine/Light`) -/

theorem PadWf.modSlot {n : Fin 8} {f : Landing → Landing} (h : PadWf c) : PadWf (c.modSlot n f) := h
theorem PadWf.openSlot {n : Fin 8} {bytes : Nat} (h : PadWf c) : PadWf (c.openSlot n bytes) := h.modWm
theorem PadWf.exemptReads {w b m : Nat} (h : PadWf c) : PadWf (c.exemptReads w b m) := h
theorem Canonical.lrelAt {n : Fin 8} (h : Canonical s) : CtlWf (lrelAt n s) := by
  unfold Machine.lrelAt
  dsimp only
  split
  · exact trivial
  · split
    · exact trivial
    · exact h.modFocus fun _ hc => hc.exemptReads.openSlot.modSlot
theorem PadWf.modSigs {f : List (Fin 8) → List (Fin 8)} (h : PadWf c) : PadWf (c.modSigs f) := h
theorem Canonical.execReleaseReport {c : Name} {n : Fin 8} (h : Canonical s) : AnswerWf (execReleaseReport c n s) := by
  unfold Machine.execReleaseReport
  refine h.within fun _ h => ?_
  dsimp only
  split
  · split
    · exact Canonical.sput (h.modFocus fun _ hc => hc.modSlot.modSigs)
    · exact h.modFocus fun _ hc => hc.modSlot.modSigs
  · split
    · exact h
    · exact h.modFocus fun _ hc => hc.modSigs
theorem Canonical.sputSome {m : Option SMsg} (h : Canonical s) : Canonical (s.sputSome m) := by
  unfold State.sputSome
  split
  · exact h.sput
  · exact h
theorem Canonical.execReleaseCombine {k : Nat} (h : Canonical s) : AnswerWf (execReleaseCombine k s) := by
  unfold Machine.execReleaseCombine
  split
  · split
    · exact h.dropS
    · dsimp only
      split
      · exact h.dropS.modPart
      · exact h.dropS.modPart.sputSome
  · split
    · exact h.dropS
    · dsimp only
      split
      · exact h.dropS.modPart.sputSome.sputSome
      · exact h.dropS.modPart
  · split
    · exact h.dropS
    · exact h.dropS.sputSome
  · exact h
theorem Canonical.execSourceCountReceipt {k : Nat} (h : Canonical s) : AnswerWf (execSourceCountReceipt k s) := by
  unfold Machine.execSourceCountReceipt
  split
  · exact h.dropS.modPart
  · exact h.dropS.modPart
  · exact h.dropS.modPart
  · exact h
theorem Canonical.planRead {p : Nat} {k : KeyEnt} {va : Nat} (h : Canonical s) : Canonical (s.planRead p k va).1 := by
  unfold State.planRead
  dsimp only
  split
  · split
    · exact h.weightRead
    · exact h
  · exact h
theorem Canonical.execBlockSend {p : PartIdx} {key : BitVec 8} (h : Canonical s) : AnswerWf (execBlockSend p key s) := by
  unfold Machine.execBlockSend
  split
  · exact h
  · dsimp only
    split
    · split
      · exact h.fresh.planRead.modPart
      · exact h
    · exact h
theorem Canonical.landGranule {n : Fin 8} {key : Nat} {k : KeyEnt} {b : Block} {i : Nat} {zero : Bool} (h : Canonical s) :
    Canonical (s.landGranule n key k b i zero) := by
  unfold State.landGranule
  dsimp only
  split
  · exact h.fresh.landStore.modFocus fun _ hc => hc.modSlot
  · split
    · exact Canonical.further61 (.modPart (h.fresh.landStore.modFocus fun _ hc => hc.modSlot))
    · exact Canonical.modPart (h.fresh.landStore.modFocus fun _ hc => hc.modSlot)
theorem Canonical.execLightFrameLanding {c : Name} {n : Fin 8} {i : Nat} {good : Bool} (h : Canonical s) :
    AnswerWf (execLightFrameLanding c n i good s) := by
  unfold Machine.execLightFrameLanding
  refine h.within fun _ h => ?_
  dsimp only
  split
  · split
    · exact h
    · split
      · split
        · exact Canonical.sput (.modPart (h.modFocus fun _ hc => hc.modSlot))
        · exact Canonical.modPart (h.modFocus fun _ hc => hc.modSlot)
      · refine Canonical.landGranule ?_
        split
        · exact h.modFocus fun _ hc => hc.modSlot
        · exact h
  · exact h
theorem Canonical.execRingRetune {p : PartIdx} {i : Nat} (h : Canonical s) : AnswerWf (execRingRetune p i s) := by
  unfold Machine.execRingRetune
  repeat' split
  all_goals exact h

/-! ### Circuits (`Machine/Circuits`) -/

theorem PadWf.modCirc {id : Nat} {f : CircuitEnd → CircuitEnd} (h : PadWf c) : PadWf (c.modCirc id f) := h.modMsg
theorem Canonical.readCounter {off : Nat} (h : Canonical s) : Canonical (s.readCounter off).1 := by
  unfold State.readCounter
  split
  · exact Canonical.eccEvent (h.modFocus fun _ hc => hc.touched)
  · exact h.modFocus fun _ hc => hc.touched
theorem Canonical.execCircuitSourceRead {c : Name} {id : BitVec 8} (h : Canonical s) : AnswerWf (execCircuitSourceRead c id s) := by
  unfold Machine.execCircuitSourceRead
  refine h.within fun _ h => ?_
  split
  · exact h
  · dsimp only
    split
    · exact h
    · split
      · next e1 =>
          exact h.readCounter.fst e1
      · next e2 =>
          split
          · refine Canonical.cputCausal (.padStore ?_)
            split
            · exact Canonical.eccEvent ((h.readCounter.fst e2).modFocus fun _ hc => hc.touched.modCirc)
            · exact (h.readCounter.fst e2).modFocus fun _ hc => hc.touched.modCirc
          · exact h.readCounter.fst e2
theorem Canonical.execCircuitLand {k : Nat} (h : Canonical s) : AnswerWf (execCircuitLand k s) := by
  unfold Machine.execCircuitLand
  split
  · split
    · exact h.dropC.appliedX
    · dsimp only
      split
      · exact h
      · split
        · exact h.dropC.within fun _ h => Canonical.padStore (h.modFocus fun _ hc => hc.modCirc)
        · split
          · exact h
          · exact Canonical.within h fun _ h => Canonical.appliedX (h.landStore.modFocus fun _ hc => hc.modCirc)
  · exact h
theorem Canonical.execCircuitCredit {k : Nat} (h : Canonical s) : AnswerWf (execCircuitCredit k s) := by
  unfold Machine.execCircuitCredit
  split
  · exact h
  · split
    · exact h
    · dsimp only
      split
      · exact h.within fun _ h => h.readCounter
      · exact Canonical.modCell (h.within fun _ h => h.readCounter) fun _ hc => hc.modCirc

/-! ### FENCE (`Machine/Fence`) -/

theorem Canonical.execFence {hd : Hdr} {kind : BitVec 6} {x : BitVec 2} (h : Canonical s) : AnswerWf (execFence hd kind x s) := by
  unfold Machine.execFence
  refine h.issue fun _ h => ?_
  split
  · exact trivial
  · exact h

/-! ### Virtual time (`Machine/Timed`) -/

theorem PadWf.tqImage {e : TqEnt} (h : PadWf c) : PadWf (c.tqImage e) := by
  unfold Cell.tqImage
  split
  · exact h
  · exact h.deposit
theorem PadWf.tqFlag {e : TqEnt} (h : PadWf c) : PadWf (c.tqFlag e) := by
  unfold Cell.tqFlag
  split
  · exact h
  · exact h.store
theorem PadWf.setDone {p : Pkt} {old new : Bool} (h : PadWf c) : PadWf (c.setDone p old new) := by
  unfold Cell.setDone
  dsimp only
  split
  · exact h.modTim.tqFlag
  · exact h.modTim
theorem Canonical.jRead {i : Nat} (h : Canonical s) : Canonical (s.jRead i).1 := by
  unfold State.jRead
  dsimp only
  split
  · exact Canonical.fresh (h.modFocus fun _ hc => hc.touched)
  · exact h.modFocus fun _ hc => hc.touched
theorem Canonical.jWalk {g : Nat} : ∀ {n : Nat} {s : State} {i : Nat} {l : List (Nat × Nat)}, Canonical s → Canonical (s.jWalk g n i l).1
  | 0, _, _, _, h => h
  | n + 1, s, i, l, h => by
    rw [State.jWalk]
    split
    · exact h.jRead
    · exact h.jRead.jWalk
theorem Canonical.jDown {shows : List (Nat × Nat) → Bool} : ∀ {n : Nat} {s : State} {l : List (Nat × Nat)}, Canonical s →
    Canonical (s.jDown shows n l).1
  | 0, _, _, h => h
  | n + 1, s, l, h => by
    rw [State.jDown]
    split
    · exact h.jRead
    · exact h.jRead.jDown
theorem Canonical.tqRead {e : TqEnt} (h : Canonical s) : Canonical (s.tqRead e) := by
  unfold State.tqRead
  split
  · exact h
  · split
    · exact Canonical.eccEvent (h.modFocus fun _ hc => hc.touched)
    · exact h.modFocus fun _ hc => hc.touched
theorem Canonical.execTimedMessageBind {c : Name} (h : Canonical s) : AnswerWf (execTimedMessageBind c s) := by
  unfold Machine.execTimedMessageBind
  refine h.within fun _ h => ?_
  split
  · dsimp only
    split
    · exact h
    · split
      · exact h
      · refine Canonical.modFocus ?_ fun _ hc => hc.bind
        split
        · refine h.tqRead.modFocus fun _ hc => PadWf.modTim (.setDone ?_)
          split
          · exact hc
          · exact hc.received
        · refine Canonical.jAppend (h.tqRead.modFocus fun _ hc => PadWf.modTim (.setDone ?_))
          split
          · exact hc
          · exact hc.received
  · exact h
theorem PadWf.antiSeen (h : PadWf c) : PadWf c.antiSeen := h
theorem PadWf.annihilate {p : Pkt} (h : PadWf c) : PadWf (c.annihilate p) := by
  unfold Cell.annihilate
  split
  · exact h
  · refine PadWf.antiSeen (.modTim ?_)
    split
    · exact h
    · exact h.received
theorem PadWf.matchAnti {a : Pkt} (h : PadWf c) : PadWf (c.matchAnti a) := by
  unfold Cell.matchAnti
  split
  · exact PadWf.antiSeen (.modTim (.received h))
  · split
    · exact h.modTim.antiSeen
    · split
      · exact h.modTim
      · exact h.annihilate
theorem PadWf.matchWaiting : ∀ {l : List Pkt} {c : Cell}, PadWf c → PadWf (c.matchWaiting l)
  | [], _, h => h
  | a :: r, c, h => by
    rw [Cell.matchWaiting]
    split
    · exact h.modTim
    · exact h.modTim.matchAnti.matchWaiting
theorem Canonical.jPop (h : Canonical s) : Canonical s.jPop := h.modFocus fun _ hc => hc.modTim
theorem Canonical.undo {e : Nat × Nat} (h : Canonical s) : Canonical (s.undo e) := by
  unfold State.undo
  dsimp only
  split
  · exact h.jPop.padStore
  · split
    · exact h.jPop.sendOrPost.modFocus fun _ hc => hc.modTim
    · split
      · split
        · split
          · exact Canonical.eccEvent (h.jPop.modFocus fun _ hc => hc.setDone)
          · exact h.jPop.modFocus fun _ hc => hc.setDone
        · split
          · exact Canonical.eccEvent (h.jPop.modFocus fun _ hc => hc.setDone)
          · exact h.jPop.modFocus fun _ hc => hc.setDone
      · exact h.jPop
theorem Canonical.rollScan {r : Rollback} (h : Canonical s) : Canonical (s.rollScan r).1 := h.jDown
theorem PadWf.rollEnd {r : Rollback} {lvt : BitVec 48} (h : PadWf c) : PadWf (c.rollEnd r lvt) := by
  unfold Cell.rollEnd
  refine PadWf.matchWaiting ?_
  split
  · exact h.modTim.annihilate
  · exact h.modTim
theorem Canonical.rollTail {r : Rollback} {keep : Nat} {lvt : BitVec 48} (h : Canonical s) : Canonical (s.rollTail r keep lvt) := by
  unfold State.rollTail
  split
  · exact h.jRead.undo
  · exact h.modFocus fun _ hc => hc.rollEnd
theorem Canonical.rollOn {r : Rollback} {keep : Nat} {lvt : BitVec 48} (h : Canonical s) : Canonical (s.rollOn r keep lvt) := by
  unfold State.rollOn
  split
  · split
    · split
      · exact h
      · exact h.modTh.endWith
    · exact h.rollTail
  · exact h.rollTail
theorem Canonical.rollStep (h : Canonical s) : Canonical s.rollStep := by
  unfold State.rollStep
  split
  · exact h
  · split
    · exact h.rollOn
    · exact Canonical.rollOn (h.rollScan.modFocus fun _ hc => hc.modTim)
theorem PadWf.enterQueue {p : Pkt} {slot : Option Nat} (h : PadWf c) : PadWf (c.enterQueue p slot) := by
  unfold Cell.enterQueue
  dsimp only
  split
  · exact PadWf.modTim (.tqImage (.modTim h))
  · exact PadWf.tqImage (.modTim h)
theorem Canonical.execTimedQueueEntry {c : Name} (h : Canonical s) : AnswerWf (execTimedQueueEntry c s) := by
  unfold Machine.execTimedQueueEntry
  refine h.within fun _ h => ?_
  split
  · split
    · exact h.rollStep
    · exact h.modFocus fun _ hc => hc.enterQueue
  · exact h.rollStep
theorem Canonical.execAntiMessageArrival {k : Nat} (h : Canonical s) : AnswerWf (execAntiMessageArrival k s) := by
  unfold Machine.execAntiMessageArrival
  split
  · exact h
  · split
    · exact h
    · refine h.dropFlight.within fun _ h => ?_
      dsimp only
      refine Canonical.applied (.ackFrom (h.modFocus fun _ hc => ?_))
      split
      · exact hc.modTim.modTim
      · exact hc.modTim.matchAnti
theorem Canonical.gvtBegin {p : Nat} {final : Bool} (h : Canonical s) : Canonical (s.gvtBegin p final) := h.modPart
theorem Canonical.execGvtInterval {p : PartIdx} (h : Canonical s) : AnswerWf (execGvtInterval p s) := by
  unfold Machine.execGvtInterval
  split
  · exact h
  · split
    · exact h.gvtBegin
    · exact h
theorem Canonical.execGvtRequest {c : Name} (h : Canonical s) : AnswerWf (execGvtRequest c s) := by
  unfold Machine.execGvtRequest
  dsimp only
  split
  · exact h
  · split
    · exact h
    · split
      · exact h.gvtBegin
      · exact h.modPart
theorem Canonical.execGvtStart {c : Name} (h : Canonical s) : AnswerWf (execGvtStart c s) := by
  unfold Machine.execGvtStart
  dsimp only
  split
  · exact h
  · split
    · exact h
    · refine Canonical.modPart ?_
      split
      · exact h.modCell fun _ hc => hc.modTim
      · exact h
theorem Canonical.execGvtPassResult {p : PartIdx} (h : Canonical s) : AnswerWf (execGvtPassResult p s) := by
  unfold Machine.execGvtPassResult
  split
  · exact h
  · split
    · exact h
    · exact h.modPart
theorem Canonical.raiseCommit {g : BitVec 48} {epoch : BitVec 16} {reclaimed released : Nat} (h : Canonical s) :
    Canonical (s.raiseCommit g epoch reclaimed released) := by
  unfold State.raiseCommit
  dsimp only
  split
  · exact h.raise
  · exact h.modInbox
theorem Canonical.releaseRun {g : BitVec 48} (h : Canonical s) : Canonical (s.releaseRun g) := by
  unfold State.releaseRun
  split
  · exact h
  · split
    · exact h
    · split
      · exact Canonical.modFocus (.raise (h.modFocus fun _ hc => hc.modTim)) fun _ hc => hc.stopFault
      · exact h.modFocus fun _ hc => hc.modTim
theorem Canonical.commit {n : Nat} {g : BitVec 48} (h : Canonical s) : Canonical (s.commit n g).1 :=
    Canonical.raiseCommit (.releaseRun ((Canonical.foldl (fun _ _ h => h.sendOrPost)
      (Canonical.modFocus (.jWalk (h.modFocus fun _ hc => hc.modTim)) fun _ hc => hc.modTim)).modFocus fun _ hc => hc.modTim))
theorem Canonical.execGvtCommit {c : Name} (h : Canonical s) : AnswerWf (execGvtCommit c s) := by
  unfold Machine.execGvtCommit
  dsimp only
  split
  · exact h
  · split
    · exact h
    · split
      · exact h
      · split
        · exact h.focus.commit.focus.modPart
        · split
          · split
            · exact h.focus.commit.focus.modPart.gvtBegin
            · exact h.focus.commit.focus.modPart
          · exact h.focus.commit.focus.modPart

/-! ### Islands and spines (`Machine/Islands`) -/

theorem Canonical.setIsland {die : Nat} {east : Bool} {x : Island} (h : Canonical s) : Canonical (s.setIsland die east x) := h
theorem Canonical.setVolt {die : Nat} {east : Bool} {v : Nat} (h : Canonical s) : Canonical (s.setVolt die east v) := by
  unfold State.setVolt
  split
  · exact h
  · exact h.setIsland
theorem Canonical.settleIsland {die : Nat} {east : Bool} (h : Canonical s) : Canonical (s.settleIsland die east) := by
  unfold State.settleIsland
  dsimp only
  split
  · exact h.setIsland
  · exact h
theorem Canonical.clampSpines {die : Nat} (h : Canonical s) : Canonical (s.clampSpines die) := by
  unfold State.clampSpines
  refine Canonical.foldl (fun _ _ h => ?_) h
  split <;> exact h
theorem Canonical.wakeIsland {die : Nat} {east : Bool} (h : Canonical s) : Canonical (s.wakeIsland die east) := by
  unfold State.wakeIsland
  dsimp only
  split
  · exact h
  · exact h.setIsland.clampSpines.settleIsland.settleIsland
theorem Canonical.raiseToRun {die : Nat} {east : Bool} (h : Canonical s) : Canonical (s.raiseToRun die east) := by
  unfold State.raiseToRun
  dsimp only
  split
  · exact h.setIsland
  · exact h
theorem Canonical.reselect {n old : Nat} (h : Canonical s) : Canonical (s.reselect n old) := by
  unfold State.reselect
  split
  · exact h
  · dsimp only
    split
    · exact h
    · exact Canonical.settleIsland (.settleIsland h)

/-! ### Rounds (`Machine/Rounds`) -/

theorem Canonical.modPort {q : Port} {f : PortSt → PortSt} (h : Canonical s) : Canonical (s.modPort q f) := by
  unfold State.modPort
  split <;> exact h
theorem Canonical.reportTo1 {q : Port} {r : Report} (h : Canonical s) : Canonical (s.reportTo1 q r) := h.modPort
theorem PadWf.newRound (h : PadWf c) : PadWf c.newRound := h
theorem PadWf.passedBy {swap : Bool} (h : PadWf c) : PadWf (c.passedBy swap) := h
theorem PadWf.swapClears (h : PadWf c) : PadWf c.swapClears := h
theorem PadWf.applyKept {k : KeptWrite} (h : PadWf c) : PadWf (c.applyKept k) := by
  unfold Cell.applyKept
  split
  · exact h.store
  · exact h
theorem PadWf.endBindings (h : PadWf c) : PadWf c.endBindings := h
theorem PadWf.doRepeat (h : PadWf c) : PadWf c.doRepeat := PadWf.newRound h
theorem PadWf.doSwap (h : PadWf c) : PadWf c.doSwap := PadWf.newRound (.swapClears (.foldl (fun _ _ hc => hc.applyKept) h))
theorem PadWf.doPause (h : PadWf c) : PadWf c.doPause := h
theorem Canonical.armSlots (h : Canonical s) : Canonical s.armSlots := by
  unfold State.armSlots
  refine Canonical.foldl (fun _ _ h => ?_) (Canonical.foldl (fun _ _ h => ?_) (h.modFocus fun _ hc => hc))
  · split
    · exact h.sput
    · exact h
  · split
    · exact h.modFocus fun _ hc => hc.openSlot.modSlot
    · exact h
theorem Canonical.installLoad {p : Nat} (h : Canonical s) : Canonical (s.installLoad p) := by
  unfold State.installLoad
  split
  · exact h
  · split
    · exact h
    · exact Canonical.foldl (fun _ _ h => h.setUnit) h.modPart
theorem Canonical.swapCell {p n : Nat} (h : Canonical s) : Canonical (s.swapCell p n) := Canonical.reselect
    (h.installLoad.within fun _ h => Canonical.armSlots (h.modFocus fun _ hc => hc.doSwap))
theorem Canonical.tokenDone {p : Nat} (h : Canonical s) : Canonical (s.tokenDone p) := by
  unfold State.tokenDone
  split
  · exact h
  · split
    · exact h
    · split
      · exact h
      · dsimp only
        split
        · exact h.modPart.reportTo1
        · exact h.modPart
theorem Canonical.modToken {p : Nat} {f : Token → Token} (h : Canonical s) : Canonical (s.modToken p f) := h.modPart
theorem Canonical.passCell {p n : Nat} {k : Token} (h : Canonical s) : Canonical (s.passCell p n k) := by
  unfold State.passCell
  dsimp only
  split
  · split
    · exact Canonical.reselect (h.modToken.within fun _ h => Canonical.armSlots (h.modFocus fun _ hc => hc.doRepeat))
    · exact h.modToken.modCell fun _ hc => hc.passedBy
  · split
    · exact h.modToken.modCell fun _ hc => hc.doPause
    · exact h.modToken
  · split
    · exact h.modToken.installLoad.modCell fun _ hc => hc.passedBy
    · split
      · exact h.modToken.swapCell
      · exact h.modToken.modToken
theorem Canonical.execRoundEndToken {c : Name} (h : Canonical s) : AnswerWf (execRoundEndToken c s) := by
  unfold Machine.execRoundEndToken
  dsimp only
  split
  · exact h.passCell.tokenDone
  · exact h
theorem Canonical.execHeldSwapApply {c : Name} (h : Canonical s) : AnswerWf (execHeldSwapApply c s) := by
  unfold Machine.execHeldSwapApply
  dsimp only
  split
  · exact h
  · split
    · exact h.modToken.swapCell.tokenDone
    · exact h
theorem Canonical.execBankClear {c : Name} (h : Canonical s) : AnswerWf (execBankClear c s) := by
  unfold Machine.execBankClear
  refine h.modCell fun _ hc => ?_
  split <;> exact hc
theorem Canonical.sendToken {p : Nat} {act : Machine.Action} {ends : Bool} (h : Canonical s) : Canonical (s.sendToken p act ends) :=
    h.modPart.tokenDone
theorem Canonical.execStartCommand {p : PartIdx} (h : Canonical s) : AnswerWf (execStartCommand p s) := by
  unfold Machine.execStartCommand
  split
  · exact h
  · split
    · split
      · exact h.sendToken
      · exact h
    · exact h
theorem Canonical.execCompletionWaveStart {p : PartIdx} (h : Canonical s) : AnswerWf (execCompletionWaveStart p s) := by
  unfold Machine.execCompletionWaveStart
  split
  · split
    · exact h.modPart
    · exact h
  · exact h
theorem Canonical.execCompletionWaveAnswer {c : Name} (h : Canonical s) : AnswerWf (execCompletionWaveAnswer c s) := by
  unfold Machine.execCompletionWaveAnswer
  dsimp only
  split
  · exact h
  · split
    · exact h.modPart
    · exact h
theorem Canonical.execCompletionWaveResult {p : PartIdx} (h : Canonical s) : AnswerWf (execCompletionWaveResult p s) := by
  unfold Machine.execCompletionWaveResult
  split
  · exact h
  · split
    · exact h
    · split
      · exact h
      · split
        · split
          · exact h.modPart
          · split
            · exact h.gvtBegin
            · exact h.sendToken
        · exact h.modPart

/-! ### Requests (`Machine/Requests`) -/

theorem Canonical.respond {q : Port} {r : Report} (h : Canonical s) : Canonical (s.respond q r) := h.modPort
theorem Canonical.endReq {q : Port} {p code : Nat} (h : Canonical s) : Canonical (s.endReq q p code) := h.respond
theorem PadWf.unloaded (h : PadWf c) : PadWf c.unloaded := h
theorem Canonical.noTraffic {p : Nat} (h : Canonical s) : Canonical (s.noTraffic p) := h
theorem Canonical.modCells {p : Nat} {f : Cell → Cell} (h : Canonical s) (hf : ∀ c, PadWf c → PadWf (f c)) :
    Canonical (s.modCells p f) := Canonical.foldl (fun _ _ h => h.modCell hf) h
theorem Canonical.discardLoad {p : Nat} (h : Canonical s) : Canonical (s.discardLoad p) := Canonical.modPart
    (h.noTraffic.modCells fun _ hc => hc.unloaded)
theorem Canonical.dropPart {p : Nat} (h : Canonical s) : Canonical (s.dropPart p) := by
  obtain ⟨hc, ho, hs, ht, hh, hv, hk, wo, wp, wt⟩ := h
  refine ⟨hc, ho, hs, ht, hh, hv, hk, wo, KM.wf_del wp, KM.wf_iff.mpr (Rising.map_values (fun e => ?_) (KM.wf_iff.mp wt))⟩
  split <;> rfl
theorem Canonical.beginPreempt {p : Nat} {port : Option Port} {cause : BitVec 8} (h : Canonical s) :
    Canonical (s.beginPreempt p port cause) := h.modPart

/-! ### The load image (`Machine/Image`) -/

theorem Canonical.modImage {f : Image → Image} (h : Canonical s) : Canonical (s.modImage f) := h
theorem Canonical.launched {p : Nat} (h : Canonical s) : Canonical (s.launched p) :=
  Canonical.modPart (h.modCells fun _ hc => hc)
theorem Canonical.imageOver {i : Image} {code word : Nat} (h : Canonical s) : Canonical (s.imageOver i code word) := by
  unfold State.imageOver
  refine Canonical.respond ?_
  split
  · exact Canonical.launched h
  · exact h
/-- A command of an image: what it does to the state stays in the form where its parser's states do (R37). -/
theorem Canonical.command {ws : List W32} {f : Image → State → Except ImgErr (Image × State)} (h : Canonical s)
    (hf : ∀ i j t, f i s = .ok (j, t) → Canonical t) : Canonical (s.command ws f) := by
  unfold State.command
  split
  · exact h
  · split
    · split
      · next e => exact (hf _ _ _ e).modImage
      · exact h.imageOver
    · exact h
theorem PadWf.imageWrite {bank st : Nat} {k : KeptWrite} (h : PadWf c) : PadWf (c.imageWrite bank st k) := by
  unfold Cell.imageWrite
  dsimp only
  split
  · exact h
  · split
    · split <;> exact h
    · split
      · exact h
      · split
        · exact h
        · exact h.applyKept
theorem Canonical.writeCells {t : State} {i : Image} {bank st : Nat} {ks : List KeptWrite} (h : Canonical s)
    (e : s.writeCells i bank st ks = .ok t) : Canonical t := by
  unfold State.writeCells at e
  dsimp only at e
  split at e
  · cases e
  · split at e
    · cases e
    · cases e
      exact Canonical.foldl (fun _ _ h => h.modCell fun _ hc => PadWf.foldl (fun _ _ hc => hc.imageWrite) hc) h
theorem Canonical.writeCommand {ws : List W32} {f : Image → State → Except ImgErr (Image × State)} (h : Canonical s)
    (hf : ∀ i j t, f i s = .ok (j, t) → Canonical t) : Canonical (s.writeCommand ws f) := by
  unfold State.writeCommand
  split
  · split
    · exact h
    · exact h.command hf
  · exact h
theorem Canonical.padAt {t : State} {w0 : W32} {i j : Image} (h : Canonical s) (e : padAt w0 i s = .ok (j, t)) : Canonical t := by
  unfold Machine.padAt at e
  split at e
  · split at e
    · cases e
      exact h
    · cases e
  · cases e
theorem Canonical.execPad {w0 : W32} (h : Canonical s) : AnswerWf (execPad w0 s) := by
  unfold Machine.execPad
  split
  · exact h
  · dsimp only
    split
    · exact h.command fun _ _ _ e => h.padAt e
    · exact h
theorem Canonical.execSpan {w0 w1 : W32} (h : Canonical s) : AnswerWf (execSpan w0 w1 s) := by
  unfold Machine.execSpan
  split
  · exact h
  · refine h.command fun i j t e => ?_
    repeat' (split at e; · cases e)
    cases e
    exact h
theorem Canonical.execSelect {w0 : W32} (h : Canonical s) : AnswerWf (execSelect w0 s) := by
  unfold Machine.execSelect
  split
  · exact h
  · refine h.command fun i j t e => ?_
    dsimp only at e
    split at e
    · cases e
    · repeat' (split at e; · cases e)
      cases e
      exact h
/-- What FIELD and BURST make of the writes that every cell took. -/
theorem Canonical.writeCells_map {t : State} {i j : Image} {f : State → Image} {bank st : Nat} {ks : List KeptWrite} (h : Canonical s)
    (e : (s.writeCells i bank st ks).map (fun s => (f s, s)) = .ok (j, t)) : Canonical t := by
  cases hw : s.writeCells i bank st ks with
  | error c => rw [hw] at e; cases e
  | ok u =>
    rw [hw] at e
    cases e
    exact h.writeCells hw
theorem Canonical.execField {w0 w1 : W32} (h : Canonical s) : AnswerWf (execField w0 w1 s) := by
  unfold Machine.execField
  split
  · exact h
  · refine h.writeCommand fun i j t e => ?_
    dsimp only at e
    split at e
    · cases e
    · repeat' (split at e; · cases e)
      exact h.writeCells_map e
theorem Canonical.execBurst {w0 : W32} {ws : List W32} (h : Canonical s) : AnswerWf (execBurst w0 ws s) := by
  unfold Machine.execBurst
  dsimp only
  split
  · exact h
  · refine h.writeCommand fun i j t e => ?_
    split at e
    · cases e
    · repeat' (split at e; · cases e)
      exact h.writeCells_map e
theorem Canonical.execSealRec {w0 : W32} (h : Canonical s) : AnswerWf (execSealRec w0 s) := by
  unfold Machine.execSealRec
  split
  · exact h
  · refine h.writeCommand fun i j t e => ?_
    dsimp only at e
    split at e
    · cases e
    · split at e
      · cases e
      · cases e
        refine Canonical.foldl (fun _ _ h => Canonical.modCell h fun c hc => ?_) h
        exact hc
theorem Canonical.globalCommand {target : Nat} {one : State → Nat → RecParser} {w0 : W32} {ws : List W32} (h : Canonical s) :
    Canonical (s.globalCommand target one w0 ws) := by
  unfold State.globalCommand
  dsimp only
  split
  · exact h
  · refine h.command fun i j t e => ?_
    split at e
    · cases e
    · split at e
      · cases e
        exact h
      · split at e
        · cases e
        · cases e
          exact h.modPart
theorem Canonical.execGlobalKeyring {w0 : W32} {ws : List W32} (h : Canonical s) : AnswerWf (execGlobalKeyring w0 ws s) := by
  unfold Machine.execGlobalKeyring
  split
  · exact h.globalCommand
  · exact h
theorem Canonical.execGlobalTree {w0 : W32} {ws : List W32} (h : Canonical s) : AnswerWf (execGlobalTree w0 ws s) := by
  unfold Machine.execGlobalTree
  split
  · exact h.globalCommand
  · exact h
theorem Canonical.execGlobalBucket {w0 : W32} {ws : List W32} (h : Canonical s) : AnswerWf (execGlobalBucket w0 ws s) := by
  unfold Machine.execGlobalBucket
  split
  · exact h.globalCommand
  · exact h
theorem Canonical.execGlobalCircuit {w0 : W32} {ws : List W32} (h : Canonical s) : AnswerWf (execGlobalCircuit w0 ws s) := by
  unfold Machine.execGlobalCircuit
  split
  · exact h.globalCommand
  · exact h
theorem Canonical.execGlobalStreamPlan {w0 : W32} {ws : List W32} (h : Canonical s) : AnswerWf (execGlobalStreamPlan w0 ws s) := by
  unfold Machine.execGlobalStreamPlan
  split
  · exact h.globalCommand
  · exact h
theorem Canonical.execImageEnd {w0 : W32} (h : Canonical s) : AnswerWf (execImageEnd w0 s) := by
  unfold Machine.execImageEnd
  split
  · exact h
  · split
    · exact h
    · split
      · exact h.imageOver
      · split
        · exact h
        · split
          · exact h.imageOver
          · dsimp only
            split
            · exact h.imageOver
            · split
              · exact Canonical.imageOver (.modPart (h.modCells fun _ hc => hc))
              · exact h.imageOver

/-! ### Power and rotation (`Machine/Power`) -/

theorem Canonical.powerDie {r : BitVec 512} {die : Nat} (h : Canonical s) : Canonical (s.powerDie r die) := by
  unfold State.powerDie
  exact (Canonical.foldl (fun _ _ h => h.same) h.setVolt.setVolt).settleIsland.settleIsland
theorem Canonical.powerDies {p : Nat} {r : BitVec 512} (h : Canonical s) : Canonical (s.powerDies p r) := by
  unfold State.powerDies
  split
  · exact Canonical.foldl (fun _ _ h => h.powerDie) h
  · exact h
theorem Canonical.execDrowsyEntry {c : Name} (h : Canonical s) : AnswerWf (execDrowsyEntry c s) := by
  unfold Machine.execDrowsyEntry
  refine h.within fun _ h => ?_
  split
  · exact h.modFocus fun _ hc => hc
  · exact h
theorem Canonical.execDrowsyWake {c : Name} (h : Canonical s) : AnswerWf (execDrowsyWake c s) := by
  unfold Machine.execDrowsyWake
  split
  · exact h.modCell fun _ hc => hc.awake
  · exact h
theorem Canonical.forget {n : Nat} (h : Canonical s) : Canonical (s.forget n) := by
  unfold State.forget
  split
  · exact h.withCell padWf_freshCell
  · exact h.withOthers h.cell (fun x hx => h.others.1 x (KM.mem_del hx)) (KM.wf_del h.others.2)
theorem Canonical.gate {die : Nat} {east : Bool} (h : Canonical s) : Canonical (s.gate die east) :=
    (Canonical.foldl (fun _ _ h => h.forget) h).setIsland
theorem Canonical.execIslandStateChange {die : DieSite} {east : Bool} {target : PowerState} (h : Canonical s) :
    AnswerWf (execIslandStateChange die east target s) := by
  unfold Machine.execIslandStateChange
  dsimp only
  split
  · split
    · exact h.setIsland
    · exact h
  · split
    · exact h.gate
    · exact h
  · exact h
  · split
    · exact h
    · exact h.wakeIsland
theorem Canonical.maskDuties {q : Machine.Part} {f : State → Nat → Nat} (h : Canonical s) : Canonical (s.maskDuties q f) := by
  unfold State.maskDuties
  refine Canonical.foldl (fun _ _ h => ?_) h
  exact h.setTumbler.fresh
theorem Canonical.execThrottleStep {p : PartIdx} {excess : Bool} (h : Canonical s) : AnswerWf (execThrottleStep p excess s) := by
  unfold Machine.execThrottleStep
  split
  · exact h
  · split
    · split
      · exact h
      · split
        · exact h.modPart
        · exact h.maskDuties.modPart
    · split
      · exact h
      · exact h.modPart
      · dsimp only
        split
        · exact h.maskDuties.modPart
        · exact h.maskDuties
theorem Canonical.execTumblerInterval {die : DieSite} {u : TumIdx} {t0 t1 t2 t3 : BitVec 8} (h : Canonical s) :
    AnswerWf (execTumblerInterval die u t0 t1 t2 t3 s) := by
  unfold Machine.execTumblerInterval
  dsimp only
  split
  · exact h
  · split <;> exact h.setTumbler
theorem Canonical.thaw {die u : Nat} (h : Canonical s) : Canonical (s.thaw die u) := by
  unfold State.thaw
  refine Canonical.foldl (fun _ _ h => ?_) h
  exact Canonical.modCell h fun _ hc => hc
theorem Canonical.turnTumbler {die u : Nat} (h : Canonical s) : Canonical (s.turnTumbler die u) := h.setTumbler.setTumbler
theorem Canonical.turnTumblers (h : Canonical s) : Canonical s.turnTumblers := Canonical.foldl (fun _ _ h => h.turnTumbler) h
theorem Canonical.execRotationAbandon {die : DieSite} {u : TumIdx} (h : Canonical s) : AnswerWf (execRotationAbandon die u s) := by
  unfold Machine.execRotationAbandon
  dsimp only
  split
  · exact h
  · exact h.thaw.setTumbler
theorem Canonical.carryArrived {names : List Nat} (h : Canonical s) : Canonical (s.carryArrived names) := h
theorem Canonical.rotate {die u : Nat} (h : Canonical s) : Canonical (s.rotate die u) :=
    Canonical.foldl (fun _ _ h => h.within fun _ h => h.raise) h.setTumbler.carryArrived
theorem Canonical.execRotationMoveDone {die : DieSite} {u : TumIdx} (h : Canonical s) : AnswerWf (execRotationMoveDone die u s) := by
  unfold Machine.execRotationMoveDone
  dsimp only
  split
  · exact h.thaw.rotate
  · exact h

/-! ### Residual packets (`Machine/Residue`) -/

theorem Canonical.putResidue {p : PartIdx} {k : SavedPart} (h : Canonical s) : Canonical (s.putResidue p k) := h

/-! ### Pre-emption and restore (`Machine/Context`) -/

theorem Canonical.ctxPut {die p : Nat} : ∀ {l : List Byte} {s : State} {va : Nat}, Canonical s → Canonical (s.ctxPut die p va l)
  | [], _, _, h => h
  | b :: r, s, va, h => by
    rw [State.ctxPut]
    refine Canonical.ctxPut (h.withStore ?_)
    split
    · exact Memory.wf_set h.wf_store
    · exact h.wf_store
theorem Canonical.endRound {p : Nat} {q : Machine.Part} {cause : BitVec 8} (h : Canonical s) : Canonical (s.endRound p q cause) := by
  unfold State.endRound
  split
  · exact h.discardLoad
  · split
    · exact h.beginPreempt
    · exact h.modPart
theorem Canonical.execLeadFault {c : Name} (h : Canonical s) : AnswerWf (execLeadFault c s) := by
  unfold Machine.execLeadFault
  dsimp only
  split
  · split
    · exact h.modCell fun _ hc => hc
    · split
      · exact h
      · split
        · exact Canonical.reportTo1 (.endRound (.modPart (h.modCell fun _ hc => hc)))
        · exact Canonical.endRound (.modPart (h.modCell fun _ hc => hc))
  · exact h
theorem Canonical.execHoldTimeout {t : BitVec 6} (h : Canonical s) : AnswerWf (execHoldTimeout t s) := by
  unfold Machine.execHoldTimeout
  dsimp only
  split
  · split
    · split
      · exact h.endRound.reportTo1
      · exact h
    · exact h
  · exact h
theorem Canonical.raiseAllDeferred {l : List (Nat × TIdx)} (h : Canonical s) : Canonical (s.raiseAllDeferred l) := by
  unfold State.raiseAllDeferred
  refine Canonical.foldl (fun _ _ h => h.within fun _ h => ?_) h
  split
  · exact h.fault
  · exact h
theorem PadWf.kept {since : W64} (h : PadWf c) : PadWf (c.kept since) := h
theorem Canonical.saveCells {die p ctx : Nat} {q : Part} {pr : Preempt} : ∀ {l : List Nat} {s : State} {i : Nat}, Canonical s →
    Canonical (s.saveCells die p ctx q pr i l)
  | [], _, _, h => h
  | n :: r, s, i, h => by
    unfold State.saveCells
    refine (Canonical.ctxPut (h.withSaved fun c hc => ?_)).saveCells
    rw [List.mem_singleton.mp hc]
    exact h.getCell.kept
/-- The part of a memory within a range of addresses, moved to its start. -/
theorem wf_section {m : Memory} {n d : Nat} (h : Memory.wf m = true) :
    Memory.wf ((m.filter fun c => c.1 / n == d).map fun c => (c.1 % n, c.2)) = true := by
  rw [Memory.wf_iff] at h ⊢
  refine ⟨?_, fun e he => ?_⟩
  · have key : ∀ {l : Memory}, Rising l → (∀ c ∈ l, c.1 / n = d) → Rising (l.map fun c => (c.1 % n, c.2)) := by
      intro l
      induction l with
      | nil => exact fun _ _ => trivial
      | cons c r ih =>
        intro hr hd
        refine ⟨fun e he => ?_, ih hr.2 fun c hc => hd c (List.mem_cons_of_mem _ hc)⟩
        obtain ⟨x, hx, rfl⟩ := List.mem_map.mp he
        have h1 := hr.1 x hx
        have h2 := hd c (List.mem_cons_self ..)
        have h3 := hd x (List.mem_cons_of_mem _ hx)
        have h4 := Nat.div_add_mod c.1 n
        have h5 := Nat.div_add_mod x.1 n
        rw [h2] at h4
        rw [h3] at h5
        show c.1 % n < x.1 % n
        omega
    exact key h.1.filter fun c hc => by simpa using (List.mem_filter.mp hc).2
  · obtain ⟨x, hx, rfl⟩ := List.mem_map.mp he
    exact h.2 x (List.mem_filter.mp hx).1
theorem Canonical.savePart {p : Nat} {q : Part} {pr : Preempt} (h : Canonical s) : Canonical (s.savePart p q pr) := by
  unfold State.savePart
  have h1 := Canonical.foldl (l := q.dies) (f := fun s d => (s.raiseToRun d false).raiseToRun d true)
    (fun _ _ h => h.raiseToRun.raiseToRun) h
  exact (h1.ctxPut.saveCells.ctxPut.withSavedPart (wf_section (Canonical.wf_tables (h1.ctxPut.saveCells.ctxPut)))).noTraffic.modCells
    (fun _ hc => hc.unloaded) |>.dropPart
theorem Canonical.execPreemptDrainBound {p : PartIdx} (h : Canonical s) : AnswerWf (execPreemptDrainBound p s) := by
  unfold Machine.execPreemptDrainBound
  split
  · exact h
  · split
    · exact h
    · split
      · exact h.raiseAllDeferred
      · split
        · split
          · exact h.savePart.respond
          · exact h.savePart
        · exact h
theorem Canonical.setTables {die : Nat} {tabs : Memory} (h : Canonical s) : Canonical (s.setTables die tabs) :=
  h.withTables (State.wf_setTables h.wf_tables)
theorem PadWf.renamed {n : Nat} (h : PadWf c) : PadWf (c.renamed n) := h
/-- Cells entered under new names. -/
theorem wf_renamed {f : Nat → Nat} {g : Nat × Cell → Cell} : ∀ (l : KMap Cell)
    {m : KMap Cell}, (∀ x ∈ l, PadWf (g x)) → (∀ x ∈ m, PadWf x.2) →
    KM.wf m = true →
    (∀ x ∈ l.foldl (fun m e => KM.put m (f e.1) (g e)) m, PadWf x.2) ∧ KM.wf (l.foldl (fun m e => KM.put m (f e.1) (g e)) m) = true
  | [], _, _, hm, wm => ⟨hm, wm⟩
  | e :: r, _, hl, hm, wm =>
    wf_renamed r (fun x hx => hl x (List.mem_cons_of_mem _ hx)) ((hl e (List.mem_cons_self ..)).put hm) (KM.wf_put wm)
theorem Canonical.rebind {map : List Nat} (h : Canonical s) : Canonical (s.rebind map) := by
  have hr := wf_renamed (f := fun n => match firstIx (· == (physDie s (nameDie n)).getD 64) map 0 with
    | some l => l * 2 ^ 14 + n % 2 ^ 14
    | none => n) (g := fun e => e.2.renamed (match firstIx (· == (physDie s (nameDie e.1)).getD 64) map 0 with
    | some l => l * 2 ^ 14 + e.1 % 2 ^ 14
    | none => e.1)) s.others (m := []) (fun x hx => h.others.1 x hx) (fun _ hx => (List.not_mem_nil hx).elim) rfl
  have hd : Canonical { s with dieMap := map } := h.same
  exact hd.withOthers h.cell.renamed hr.1 hr.2
theorem PadWf.confine {p n : Nat} (h : PadWf c) : PadWf (s.confine p n c) := h
/-- A restored cell's scratchpad is written anew from its record, whatever the cell held. -/
theorem Canonical.restoreCell {p : Nat} {b : List Byte} {c : Cell} (h : Canonical s) : Canonical (s.restoreCell p b c) := by
  unfold State.restoreCell
  refine Canonical.within (Canonical.putCell h ?_) fun _ h => ?_
  · unfold PadWf
    dsimp only
    refine Memory.wf_writeNat ?_
    rfl
  · exact h.modFocus fun _ hc => hc
theorem Canonical.grantAccess {p : Nat} (h : Canonical s) : Canonical (s.grantAccess p) := h
theorem Canonical.settlePart {p : Nat} {q : Part} (h : Canonical s) : Canonical (s.settlePart p q) :=
  Canonical.foldl (fun _ _ h => h.wakeIsland.wakeIsland) (h.withParts (KM.wf_put h.wf_parts))
theorem Canonical.restorePart {p : Nat} {q : Part} {k : SavedPart} {cells : List (List Byte × Cell)} (h : Canonical s) :
    Canonical (s.restorePart p q k cells) := by
  have h1 := Canonical.foldl (l := cells) (f := fun s e => (s.restoreCell p e.1 e.2).reselect (recName e.1) 8)
    (fun _ _ h => h.restoreCell.reselect) h
  unfold State.restorePart
  dsimp only
  have h2 (t : State) : Canonical t → Canonical ((q.logDies t).foldl (fun s t => Machine.setUnit s t {}) t) :=
    Canonical.foldl fun _ _ h => h.setUnit
  exact (Canonical.putResidue (p := BitVec.ofNat 6 p) (k := k) (h2 _ h1.grantAccess)).same
theorem Canonical.mismatch {port : Port} {p : Nat} (h : Canonical s) : Canonical (s.mismatch port p) := h.respond
theorem Canonical.restoreAt {port : Port} {r : BitVec 512} {sites : List Nat} (h : Canonical s) : Canonical (s.restoreAt port r sites) := by
  unfold State.restoreAt
  dsimp only
  split
  · exact h.endReq
  · split
    · exact h.mismatch
    · split
      · exact h.endReq
      · split
        · exact h.endReq
        · split
          · exact h.mismatch
          · split
            · split
              · exact h.mismatch
              · split
                · exact h.endReq
                · split
                  · exact h.endReq
                  · exact (((((Canonical.foldl (fun _ _ h => h.setTables) h).rebind).settlePart).restorePart).endReq).fresh
            · split
              · exact h.mismatch
              · split
                · exact h.endReq
                · split
                  · exact h.endReq
                  · exact h.rebind.settlePart.restorePart.endReq.fresh

/-! ### The host ports (`Machine/Host`) -/

theorem Canonical.takeHasp {q : Port} (h : Canonical s) : Canonical (s.takeHasp q) := by
  unfold State.takeHasp
  split <;> exact h
theorem Canonical.acquire {q : Port} (h : Canonical s) : Canonical (s.acquire q) := by
  unfold State.acquire
  split
  · exact h
  · split
    · exact h
    · exact h.takeHasp
theorem Canonical.writeEntries (h : Canonical s) : Canonical s.writeEntries := Canonical.fresh h
theorem Canonical.giveUp {q : Port} (h : Canonical s) : Canonical (s.giveUp q) := by
  unfold State.giveUp
  split
  · exact h.writeEntries
  · exact h
theorem Canonical.execHaspLinkDown (h : Canonical s) : AnswerWf (execHaspLinkDown s) := by
  unfold Machine.execHaspLinkDown
  split
  · exact h.giveUp
  · exact h
theorem Canonical.execManagementClearHasp (h : Canonical s) : AnswerWf (execManagementClearHasp s) := by
  unfold Machine.execManagementClearHasp
  split
  · exact h.giveUp
  · exact h
theorem Canonical.takeImage {q : Port} {r : BitVec 512} {next : Bool} (h : Canonical s) : Canonical (s.takeImage q r next) := h
theorem Canonical.launchTables {dies : List Nat} (h : Canonical s) : Canonical (s.launchTables dies) :=
    (Canonical.foldl (fun _ _ h => h.setTables) h).fresh
theorem Canonical.doLaunch {q : Port} {r : BitVec 512} (h : Canonical s) : Canonical (s.doLaunch q r) := by
  have hl (x : Part) : Canonical (State.launchTables { s with parts := KM.put s.parts (recPart r) x } (s.liveOf ((recSites r).getD []))) :=
    (h.withParts (KM.wf_put h.wf_parts)).launchTables
  unfold State.doLaunch
  dsimp only
  split
  · exact h.endReq
  · split
    · exact h.endReq
    · exact Canonical.takeImage (Canonical.powerDies (Canonical.grantAccess (Canonical.modCells (hl _) fun c hc => hc)))
theorem Canonical.doNext {q : Port} {r : BitVec 512} (h : Canonical s) : Canonical (s.doNext q r) := by
  unfold State.doNext
  dsimp only
  split
  · exact h.endReq
  · split
    · exact h.endReq
    · exact h.modPart.takeImage
theorem Canonical.doRound {q : Port} {r : BitVec 512} (h : Canonical s) : Canonical (s.doRound q r) := by
  unfold State.doRound
  dsimp only
  split
  · exact h.endReq
  · exact h.modPart.endReq
theorem Canonical.postpone {q : Port} {r : BitVec 512} (h : Canonical s) : Canonical (s.postpone q r) := h.modPort
theorem Canonical.doPreempt {q : Port} {r : BitVec 512} (h : Canonical s) : Canonical (s.doPreempt q r) := by
  unfold State.doPreempt
  dsimp only
  split
  · exact h.endReq
  · split
    · exact h.endReq
    · split
      · exact h.endReq
      · split
        · exact h.beginPreempt.modPort
        · exact h.postpone
theorem Canonical.doRelease {q : Port} {r : BitVec 512} (h : Canonical s) : Canonical (s.doRelease q r) := by
  unfold State.doRelease
  dsimp only
  split
  · exact h.endReq
  · split
    · exact h.postpone
    · exact h.discardLoad.dropPart.endReq
theorem Canonical.doPower {q : Port} {r : BitVec 512} (h : Canonical s) : Canonical (s.doPower q r) := by
  unfold State.doPower
  dsimp only
  split
  · exact h.endReq
  · exact h.modPart.powerDies.endReq
theorem Canonical.doGateway {q : Port} {r : BitVec 512} (h : Canonical s) : Canonical (s.doGateway q r) := by
  unfold State.doGateway
  dsimp only
  split
  · exact h.endReq
  · exact Canonical.endReq h
theorem Canonical.serve {q : Port} {r : BitVec 512} (h : Canonical s) : Canonical (s.serve q r) := by
  unfold State.serve
  split
  · exact h.doLaunch
  · exact h.doNext
  · exact h.doRound
  · exact h.doPreempt
  · exact h.restoreAt
  · exact h.doRelease
  · exact h.doPower
  · exact h.doGateway
  · exact h.endReq
theorem Canonical.hostError {q : Port} (h : Canonical s) : Canonical (s.hostError q) := h.modPort
theorem Canonical.ring {q : Port} (h : Canonical s) : Canonical (s.ring q) := by
  unfold State.ring
  dsimp only
  split
  · exact h.hostError
  · split
    · exact h.endReq
    · split
      · exact h.endReq
      · split
        · exact h.endReq
        · exact h.modPort.serve
theorem Canonical.request {q : Port} {op : Nat} (h : Canonical s) : AnswerWf (s.request q op) := by
  unfold State.request
  split
  · split
    · exact h.serve
    · split
      · exact h.ring
      · exact h
  · split
    · exact h.ring
    · exact h
theorem Canonical.resumeTimers {p : Nat} {x : Preempt} (h : Canonical s) : Canonical (s.resumeTimers p x) := by
  unfold State.resumeTimers
  refine Canonical.foldl (fun _ _ h => h.modCell fun _ hc => ?_) h
  exact hc
theorem Canonical.execControllerWatchdog (h : Canonical s) : AnswerWf (execControllerWatchdog s) := by
  unfold Machine.execControllerWatchdog
  refine Canonical.foldl (fun _ _ h => ?_) (Canonical.foldl (fun _ _ h => ?_) (Canonical.foldl (fun _ _ h => h.endReq) h))
  · split
    · split
      · refine Canonical.endReq ?_
        split
        · exact h.resumeTimers.modPart
        · exact h.modPart
      · exact h
    · exact h
  · split
    · exact h.endReq
    · exact h
theorem Canonical.token {q : Port} {d : V256} {whole : Bool} (h : Canonical s) : Canonical (s.token q d whole) := by
  unfold State.token
  dsimp only
  split
  · exact h.hostError
  · split
    · exact h.hostError
    · split
      · exact h.modPort.injectAt
      · exact h.modPort
theorem Canonical.raiseIsland (h : Canonical s) : ∀ {x : HostAt}, Canonical (s.raiseIsland x)
  | .retained .. => h.raiseToRun
  | .at_ .. | .refused | .denied .. | .gated => h
theorem Canonical.refuseHost {q : Port} {l : List (Nat × HostAt)} (h : Canonical s) : Canonical (s.refuseHost q l) :=
    Canonical.foldl (fun _ _ h => h.same) h.hostError
theorem Canonical.hostPut {x : HostRun} (h : Canonical s) : Canonical (s.hostPut x) := by
  unfold State.hostPut
  split
  · exact h.within fun _ h => h.padStore
  · exact h.moduleWrite
theorem Canonical.hostGet {x : HostRun} (h : Canonical s) : Canonical (s.hostGet x).1 := by
  unfold State.hostGet
  split
  · exact Canonical.globalRead (h.modCell fun _ hc => hc.awake)
  · exact h
theorem Canonical.execBar2Write {q : Port} {off : BitVec 36} {bytes : List Byte} (h : Canonical s) :
    AnswerWf (execBar2Write q off bytes s) := by
  unfold Machine.execBar2Write
  split
  · exact h.hostError
  · split
    · exact h.refuseHost
    · split
      · exact h.hostError.modPort
      · exact Canonical.foldl (fun _ _ h => h.hostPut) (Canonical.foldl (fun _ _ h => h.raiseIsland) h)
theorem Canonical.execBar2Read {q : Port} {off : BitVec 36} {n : Nat} (h : Canonical s) : AnswerWf (execBar2Read q off n s) := by
  unfold Machine.execBar2Read
  dsimp only
  split
  · exact h.hostError.modPort
  · split
    · exact h.refuseHost.modPort
    · split
      · exact h.modPort.modPort
      · split
        · refine Canonical.modPort (fst_foldl (fun _ _ h => ?_) (Canonical.foldl (fun _ _ h => h.raiseIsland) h))
          exact h.hostGet
        · refine Canonical.modPort (Canonical.hostError (fst_foldl (fun _ _ h => ?_) (Canonical.foldl (fun _ _ h => h.raiseIsland) h)))
          exact h.hostGet
theorem Canonical.writeHasp {q : Port} {off : Nat} {bytes : List Byte} (h : Canonical s) : Canonical (s.writeHasp q off bytes) := by
  unfold State.writeHasp
  dsimp only
  split
  · refine Canonical.giveUp ?_
    split
    · exact h.acquire
    · exact h
  · split
    · exact h.acquire
    · exact h
theorem Canonical.writeToken {q : Port} {off : Nat} {bytes : List Byte} (h : Canonical s) : Canonical (s.writeToken q off bytes) := h.token
theorem Canonical.execHostRegisterWrite {q : Port} {off : BitVec 16} {bytes : List Byte} (h : Canonical s) :
    AnswerWf (execHostRegisterWrite q off bytes s) := by
  unfold Machine.execHostRegisterWrite
  dsimp only
  split
  · refine Canonical.ring ?_
    split
    · refine Canonical.modPort ?_
      split
      · refine Canonical.writeToken ?_
        split
        · refine Canonical.modPort ?_
          split
          · refine Canonical.modPort ?_
            split
            · exact h.writeHasp
            · exact h
          · split
            · exact h.writeHasp
            · exact h
        · split
          · refine Canonical.modPort ?_
            split
            · exact h.writeHasp
            · exact h
          · split
            · exact h.writeHasp
            · exact h
      · split
        · refine Canonical.modPort ?_
          split
          · refine Canonical.modPort ?_
            split
            · exact h.writeHasp
            · exact h
          · split
            · exact h.writeHasp
            · exact h
        · split
          · refine Canonical.modPort ?_
            split
            · exact h.writeHasp
            · exact h
          · split
            · exact h.writeHasp
            · exact h
    · split
      · refine Canonical.writeToken ?_
        split
        · refine Canonical.modPort ?_
          split
          · refine Canonical.modPort ?_
            split
            · exact h.writeHasp
            · exact h
          · split
            · exact h.writeHasp
            · exact h
        · split
          · refine Canonical.modPort ?_
            split
            · exact h.writeHasp
            · exact h
          · split
            · exact h.writeHasp
            · exact h
      · split
        · refine Canonical.modPort ?_
          split
          · refine Canonical.modPort ?_
            split
            · exact h.writeHasp
            · exact h
          · split
            · exact h.writeHasp
            · exact h
        · split
          · refine Canonical.modPort ?_
            split
            · exact h.writeHasp
            · exact h
          · split
            · exact h.writeHasp
            · exact h
  · split
    · refine Canonical.modPort ?_
      split
      · refine Canonical.writeToken ?_
        split
        · refine Canonical.modPort ?_
          split
          · refine Canonical.modPort ?_
            split
            · exact h.writeHasp
            · exact h
          · split
            · exact h.writeHasp
            · exact h
        · split
          · refine Canonical.modPort ?_
            split
            · exact h.writeHasp
            · exact h
          · split
            · exact h.writeHasp
            · exact h
      · split
        · refine Canonical.modPort ?_
          split
          · refine Canonical.modPort ?_
            split
            · exact h.writeHasp
            · exact h
          · split
            · exact h.writeHasp
            · exact h
        · split
          · refine Canonical.modPort ?_
            split
            · exact h.writeHasp
            · exact h
          · split
            · exact h.writeHasp
            · exact h
    · split
      · refine Canonical.writeToken ?_
        split
        · refine Canonical.modPort ?_
          split
          · refine Canonical.modPort ?_
            split
            · exact h.writeHasp
            · exact h
          · split
            · exact h.writeHasp
            · exact h
        · split
          · refine Canonical.modPort ?_
            split
            · exact h.writeHasp
            · exact h
          · split
            · exact h.writeHasp
            · exact h
      · split
        · refine Canonical.modPort ?_
          split
          · refine Canonical.modPort ?_
            split
            · exact h.writeHasp
            · exact h
          · split
            · exact h.writeHasp
            · exact h
        · split
          · refine Canonical.modPort ?_
            split
            · exact h.writeHasp
            · exact h
          · split
            · exact h.writeHasp
            · exact h
theorem Canonical.frameIn {p link : Nat} {q : Machine.Part} {ok : Bool} {f : LinkFrame} (h : Canonical s) :
    Canonical (s.frameIn p link q ok f) := by
  unfold State.frameIn
  split
  · split
    · exact h.sput
    · split
      · exact Canonical.overLink (h.modCell fun _ hc => hc.modRed)
      · exact h
  · split
    · exact h.sput
    · exact h
  · split
    · exact h.sput
    · exact h
theorem Canonical.linkIn {link : Nat} {remote : List LinkTag} {f : LinkFrame} (h : Canonical s) : Canonical (s.linkIn link remote f) := by
  unfold State.linkIn
  split
  · exact h
  · split
    · exact h
    · split
      · exact h.frameIn
      · exact h
theorem Canonical.execPanelGatewayExchange {link : BitVec 4} {remote : LinkInput} (h : Canonical s) :
    AnswerWf (execPanelGatewayExchange link remote s) := by
  unfold Machine.execPanelGatewayExchange
  refine Canonical.foldl (fun _ _ h => h.linkIn) (Canonical.foldl (fun _ _ h => ?_) h)
  split
  · exact h
  · split
    · exact h
    · exact h.reportTo1
theorem Canonical.execManagementRead {what : MgmtItem} (h : Canonical s) : AnswerWf (execManagementRead what s) := by
  unfold Machine.execManagementRead
  split <;> exact h
/-- Power-up keeps the memories that keep their contents, and lists no cell, partition or tumbler. -/
theorem Canonical.cold (h : Canonical s) : Canonical s.cold := by
  obtain ⟨-, -, hs, ht, hh, hv, hk, -⟩ := h
  exact ⟨rfl, fun _ hx => (List.not_mem_nil hx).elim, hs, ht, hh, hv, hk, rfl, rfl, rfl⟩
theorem Canonical.execPowerUp {failed : List DieSite} (h : Canonical s) : AnswerWf (execPowerUp failed s) := by
  have hcold (m : List W64) : Canonical ({ s with delta := m } : State).cold := Canonical.cold h.same
  exact Canonical.withCell (hcold (s.delta ++ s.condemn failed)) padWf_freshCell

/-! ### Scalars (`Machine/Scalar`) -/

theorem Canonical.scalarI {hd : Hdr} {d a : Spec} {b : BitVec 6} {x : BitVec 2} {f : W64 → W64 → W64} (h : Canonical s) :
    AnswerWf (scalarI hd d a b x f s) := h.issue fun _ h => h.produces
theorem Canonical.scalarR {hd : Hdr} {d a b : Spec} {f : W64 → W64 → W64} (h : Canonical s) : AnswerWf (scalarR hd d a b f s) :=
    h.issue fun _ h => h.produces
theorem Canonical.scalarU {hd : Hdr} {len : Nat} {d a : Spec} {bad : Bool} {f : W64 → W64} (h : Canonical s) :
    AnswerWf (scalarU hd len d a bad f s) := h.issue fun _ h => h.produces
theorem Canonical.execAndn {hd : Hdr} {d a b : Spec} {x : BitVec 2} (h : Canonical s) : AnswerWf (execAndn hd d a b x s) := h.scalarI
theorem Canonical.divides {hd : Hdr} {d a b : Spec} {f : W64 → W64 → W64} (h : Canonical s) : AnswerWf (divides hd d a b f s) := by
  unfold Machine.divides
  refine h.eligible fun _ h => h.issue fun _ h => ?_
  split
  · exact trivial
  · exact h.popAll.outstanding
theorem Canonical.execMin {hd : Hdr} {d a b : Spec} (h : Canonical s) : AnswerWf (execMin hd d a b s) := h.scalarR
theorem Canonical.execMax {hd : Hdr} {d a b : Spec} (h : Canonical s) : AnswerWf (execMax hd d a b s) := h.scalarR
theorem Canonical.execMinu {hd : Hdr} {d a b : Spec} (h : Canonical s) : AnswerWf (execMinu hd d a b s) := h.scalarR
theorem Canonical.execMaxu {hd : Hdr} {d a b : Spec} (h : Canonical s) : AnswerWf (execMaxu hd d a b s) := h.scalarR
theorem Canonical.execAddi {hd : Hdr} {d a : Spec} {x : BitVec 2} {imm : W32} (h : Canonical s) : AnswerWf (execAddi hd d a x imm s) :=
    h.scalarU
theorem Canonical.execAndi {hd : Hdr} {d a : Spec} {x : BitVec 2} {imm : W32} (h : Canonical s) : AnswerWf (execAndi hd d a x imm s) :=
    h.scalarU
theorem Canonical.execOri {hd : Hdr} {d a : Spec} {x : BitVec 2} {imm : W32} (h : Canonical s) : AnswerWf (execOri hd d a x imm s) :=
    h.scalarU

/-! ### Schedule (`Machine/Schedule`) -/

theorem Canonical.raiseDeferred {t : TIdx} {a : W64} (h : Canonical s) : Canonical (s.raiseDeferred t a) := h.fault
theorem Canonical.issuing {t : TIdx} (h : Canonical s) : Canonical (s.issuing t) := by
  unfold State.issuing
  exact h.withCell h.cell
theorem Canonical.lands {k : Nat} {o : LongRes} {stale : BitVec 4} (h : Canonical s) : Canonical (s.lands k o stale) := Canonical.fresh
    (h.modFocus fun _ hc => hc.modTh.writeLate.modTh)
theorem Canonical.perhaps {f : BitVec 4 → State → State} (h : Canonical s) (hf : ∀ a0 s, Canonical s → Canonical (f a0 s)) :
    Canonical (s.perhaps f) := by
  unfold State.perhaps
  split
  · exact h.fresh
  · exact hf _ _ h.fresh
theorem Canonical.unitLands (h : Canonical s) : Canonical s.unitLands := by
  unfold State.unitLands
  split
  · exact h
  · split
    · split
      · exact h.perhaps fun _ _ h => h.unitDo.modMe
      · exact h
    · exact h
theorem Canonical.during (h : Canonical s) : Canonical s.during :=
    (Canonical.foldr (fun _ _ h => h.perhaps fun _ _ h => h.lands) h).unitLands
theorem PadWf.cycle {cands : List (TIdx × Option Need)} (h : PadWf c) : PadWf (c.cycle cands) := h
theorem Canonical.idleCycle (h : Canonical s) : Canonical s.idleCycle := h.modFocus fun _ hc => hc
theorem Canonical.pass (h : Canonical s) : Canonical s.pass := Canonical.turnTumblers h
theorem Canonical.nextCell (h : Canonical s) : Canonical s.nextCell := by
  unfold State.nextCell
  split
  · exact h
  · exact h.fresh.focus

/-! ### Every instruction and event -/

/-- What an instruction or an event does keeps the canonical form. -/
theorem Canonical.exec (h : Canonical s) (i : Instr) : AnswerWf (Machine.exec i s) := by
  cases i with
  | nop | br => exact h.issue fun _ h => h
  | call => exact h.issue fun _ h => h.linkReturn
  | jmp => exact h.issue fun _ h => h.jumpsTo fun _ h => h
  | callr => exact h.issue fun _ h => h.jumpsTo fun _ h => h.linkReturn
  | ret => exact h.issue fun _ h => h.jumpsTo fun _ h => h
  | loop => exact h.execLoop
  | stop => exact h.issue fun _ h => h
  | bcast => exact h.execBcast
  | fetchb => exact h.execFetchb
  | joinm | joinmF => exact h.joins
  | yield => exact h.issue fun _ h => h.modMe
  | hret => exact h.issue fun _ h => h
  | trap => exact h.execTrap
  | brk => exact h.issue fun _ h => h.unbound fun _ h => trivial
  | tctlResume => exact h.execTctlResume
  | tctlKill | tctlReset => exact h.controls fun _ _ h => h.kills
  | sysrd => exact h.issue fun _ h => h.putsOnly
  | syswr => exact h.execSyswr
  | fpcWrite => exact h.execFpcWrite
  | add | sub | mul => exact h.scalarI
  | mulh => exact h.scalarR
  | div | rem => exact h.divides
  | and | or | xor => exact h.scalarI
  | andn => exact h.execAndn
  | shl => exact h.scalarI
  | shr => exact h.issue fun _ h => h.produces
  | min => exact h.execMin
  | max => exact h.execMax
  | minu => exact h.execMinu
  | maxu => exact h.execMaxu
  | bitc | ext => exact h.scalarU
  | mov => exact h.issue fun _ h => h.produces
  | cmp | fcmp | plog | pset | psetBit | psetAll => exact h.issue fun _ h => h.putsPred
  | prd => exact h.issue fun _ h => h.produces
  | ld | lds => exact h.issue fun _ h => h.loadAt
  | st => exact h.issue fun _ h => h.storeAt
  | ldv => exact h.issue fun _ h => h.loadAt
  | stv => exact h.issue fun _ h => h.storeAt
  | ldvBc => exact h.issue fun _ h => h.loadAt
  | aop => exact h.issue fun _ h => h.aopAt
  | waita => exact h.issue fun _ h => h.waitAt
  | vadd | vsub | vmul => exact h.arith
  | vfma | vminmax | vun | vred => exact h.vector
  | vcmp => exact h.execVcmp
  | vsel | vshuf | vbc => exact h.vector
  | vlog => exact h.issue fun _ h => h.produces
  | vsh => exact h.vector
  | vlane => exact h.issue fun _ h => h.produces
  | vscale => exact h.vector
  | vrint | cvt => exact h.issue fun _ h => h.producesSeeded
  | qblk => exact h.execQblk
  | dqblk => exact h.execDqblk
  | vspec => exact h.execVspec
  | pfx => exact h.execPfx
  | setfmt | setfmtF => exact h.issue fun _ h => h.modMe
  | mlease => exact h.execMlease
  | mleaseTry => exact h.execMleaseTry
  | mrel => exact h.execMrel
  | mzero => exact h.execMzero
  | mma => exact h.execMma
  | mmr => exact h.execMmr
  | mstS => exact h.execMstS
  | mstR => exact h.execMstR
  | mstL => exact h.execMstL
  | cbload => exact h.execCbload
  | mred => exact h.execMred
  | sbind => exact h.execSbind
  | sctlUnbind => exact h.execSctlUnbind
  | sctlDrain => exact h.execSctlDrain
  | sctlRewind => exact h.execSctlRewind
  | cget | cput => exact h.copies
  | wopen => exact h.engineIssue fun _ h => h.withSrc fun _ _ h => h.wopenAt
  | wopenC => exact h.engineIssue fun _ h => h.modFocus fun _ hc => hc.modWm
  | binit => exact h.execBinit
  | barr => exact h.execBarr
  | barrE => exact h.execBarrE
  | barrP => exact h.engineIssue fun _ h => h.onBar fun _ _ h => h.putsOnly
  | bwait => exact h.execBwait
  | send => exact h.execSend
  | ratom => exact h.issue fun _ h => h.ratomBody
  | clmask => exact h.execClmask
  | lrel => exact h.issue fun _ h => h.lrelAt
  | lrelR => exact h.issue fun _ h => h.withSrc fun _ _ h => h.lrelAt
  | rdcon | rdconE => exact h.issue fun _ h => h.untimed fun _ h => h.unbound fun _ h => h.rdconAt
  | timeTnow | timeTgvt => exact h.issue fun _ h => h.unbound fun _ h => h.putRes
  | timeTdefer => exact h.issue fun _ h => h.unbound fun _ h => h.tdeferAt
  | fence => exact h.execFence
  | movi => exact h.issue fun _ h => h.produces
  | addi => exact h.execAddi
  | andi => exact h.execAndi
  | ori => exact h.execOri
  | bfx => exact h.scalarU
  | bfi => exact h.issue fun _ h => h.produces
  | ldL => exact h.issue fun _ h => h.loadAt
  | stL => exact h.issue fun _ h => h.storeAt
  | mmaL => exact h.execMmaL
  | mmrL => exact h.execMmrL
  | sbindL => exact h.engineIssue fun _ h => h.bindAt
  | cgetL | cputL => exact h.copies
  | sendL => exact h.issue fun _ h => h.sends fun _ h => h.sendAt
  | ratomL => exact h.issue fun _ h => h.ratomBody
  | rdconL => exact h.issue fun _ h => h.untimed fun _ h => h.unbound fun _ h => h.rdconLAt
  | longLatencyWriteback => exact h.execLongLatencyWriteback
  | leadFault => exact h.execLeadFault
  | bcastDelivery => exact h.execBcastDelivery
  | joinmComplete => exact h.execJoinmComplete
  | messageArrival => exact h.execMessageArrival
  | spillQueueBind => exact h.execSpillQueueBind
  | ingressToSpill => exact h.execIngressToSpill
  | latchedEventEntry => exact h.execLatchedEventEntry
  | depositComplete => exact h.within fun _ h => h.modTh
  | routerForward => exact h.execRouterForward
  | nameTableAgeing | rotationNotice => exact h.mapTables
  | egressInject => exact h.execEgressInject
  | acknowledgement => exact h.execAcknowledgement
  | remoteAtomicPerform => exact h.execRemoteAtomicPerform
  | atomicResponse => exact h.execAtomicResponse
  | torusExchangeArrival => exact h.execTorusExchangeArrival
  | matrixExecute => exact h.execMatrixExecute
  | leaseGrant => exact h.execLeaseGrant
  | reductionOutputDrain => exact h.execReductionOutputDrain
  | contributionArrival => exact h.execContributionArrival
  | slotTimeout => exact h.execSlotTimeout
  | creditReturn => exact h.execCreditReturn
  | resultDelivery => exact h.execResultDelivery
  | copyTransfer => exact h.execCopyTransfer
  | copyCompletionWrite => exact h.execCopyCompletionWrite
  | copyError => exact h.execCopyError
  | engineArrivalFire => exact h.execEngineArrivalFire
  | streamRefill => exact h.execStreamRefill
  | streamWriteOut => exact h.execStreamWriteOut
  | pageWalkComplete => exact h.execPageWalkComplete
  | shootdown => exact h.execShootdown
  | shootdownAcknowledge => exact h
  | circuitSourceRead => exact h.execCircuitSourceRead
  | circuitLand => exact h.execCircuitLand
  | circuitCredit => exact h.execCircuitCredit
  | blockSend => exact h.execBlockSend
  | lightFrameLanding => exact h.execLightFrameLanding
  | releaseReport => exact h.execReleaseReport
  | releaseCombine => exact h.execReleaseCombine
  | sourceCountReceipt => exact h.execSourceCountReceipt
  | ringRetune => exact h.execRingRetune
  | roundEndToken => exact h.execRoundEndToken
  | heldSwapApply => exact h.execHeldSwapApply
  | bankClear => exact h.execBankClear
  | startCommand => exact h.execStartCommand
  | completionWaveStart => exact h.execCompletionWaveStart
  | completionWaveAnswer => exact h.execCompletionWaveAnswer
  | completionWaveResult => exact h.execCompletionWaveResult
  | timedMessageBind => exact h.execTimedMessageBind
  | timedQueueEntry => exact h.execTimedQueueEntry
  | antiMessageArrival => exact h.execAntiMessageArrival
  | gvtInterval => exact h.execGvtInterval
  | gvtRequest => exact h.execGvtRequest
  | gvtStart => exact h.execGvtStart
  | gvtPassResult => exact h.execGvtPassResult
  | gvtCommit => exact h.execGvtCommit
  | causalStamp => exact h.execCausalStamp
  | causalArrival => exact h.execCausalArrival
  | causalRelease => exact h.execCausalRelease
  | causalApplied => exact h.execCausalApplied
  | causalQuery => exact h.execCausalQuery
  | causalNotice => exact h.execCausalNotice
  | holdTimeout => exact h.execHoldTimeout
  | tumblerInterval => exact h.execTumblerInterval
  | rotationAbandon => exact h.execRotationAbandon
  | rotationMoveDone => exact h.execRotationMoveDone
  | drowsyEntry => exact h.execDrowsyEntry
  | drowsyWake => exact h.execDrowsyWake
  | islandStateChange => exact h.execIslandStateChange
  | powerMeasure => exact h.modPart
  | throttleStep => exact h.execThrottleStep
  | pad => exact h.execPad
  | span => exact h.execSpan
  | select => exact h.execSelect
  | field => exact h.execField
  | burst => exact h.execBurst
  | sealRec => exact h.execSealRec
  | globalKeyring => exact h.execGlobalKeyring
  | globalTree => exact h.execGlobalTree
  | globalBucket => exact h.execGlobalBucket
  | globalCircuit => exact h.execGlobalCircuit
  | globalStreamPlan => exact h.execGlobalStreamPlan
  | imageEnd => exact h.execImageEnd
  | haspAcq => exact h.acquire
  | haspRel => exact h.giveUp
  | haspLinkDown => exact h.execHaspLinkDown
  | launch | next | round | preempt => exact h.request
  | preemptDrainBound => exact h.execPreemptDrainBound
  | restore | release | power | gateway => exact h.request
  | hostToken => exact h.token
  | bar2Write => exact h.execBar2Write
  | bar2Read => exact h.execBar2Read
  | hostRegisterWrite => exact h.execHostRegisterWrite
  | powerUp => exact h.execPowerUp
  | deltaRecordAppend => exact h
  | managementRead => exact h.execManagementRead
  | managementClearHasp => exact h.execManagementClearHasp
  | managementFirmwareUpdate => exact h
  | controllerWatchdog => exact h.execControllerWatchdog
  | dzihamRequest => exact h.execDzihamRequest
  | panelGatewayExchange => exact h.execPanelGatewayExchange
  | causalQueryAnswer => exact h.execCausalQueryAnswer
  | causalAcknowledgement => exact h.execCausalAcknowledgement
  | weightCacheInvalidate => exact h
  | pageTableUpdate => exact h.execPageTableUpdate

/-! ### One step -/

theorem Canonical.attempt (h : Canonical s) : AnswerWf s.attempt := by
  unfold State.attempt
  split
  · exact h.raiseDeferred
  · split
    · exact h.during.exec _
    · exact h.eligible fun _ h => h.illegal
theorem Canonical.issueCycle (h : Canonical s) : AnswerWf s.issueCycle := by
  unfold State.issueCycle
  dsimp only
  split
  · exact Canonical.attempt (Canonical.issuing (Canonical.modFocus (h.modFocus fun _ hc => hc.cycle) fun _ hc => hc.awake))
  · exact Canonical.idleCycle (h.modFocus fun _ hc => hc.cycle)
theorem Canonical.engineTurn (h : Canonical s) : AnswerWf s.engineTurn := by
  unfold State.engineTurn
  dsimp only
  split
  · exact h.fresh.exec _
  · exact h
/-- One step of the panel: an event of the agenda, an issue cycle or an event of the part. -/
theorem Canonical.step (h : Canonical s) : AnswerWf (Machine.step s) := by
  unfold Machine.step
  split
  · exact Canonical.exec h.pass.fresh.same _
  · exact Canonical.issueCycle (Canonical.nextCell h.pass.same)
  · exact Canonical.engineTurn h.pass.same

end Sys2Proof.Stated

open Sys2Proof Sys2Proof.Machine Sys2Proof.Stated in
/-- Settles O58: every instruction and event keeps the form (`Canonical.exec`), and so does the passing of time around it. -/
theorem canonicalFormIsKept : Obligations.CanonicalFormIsKept := by
  unfold Obligations.CanonicalFormIsKept
  intro s t h e
  have ht := h.step
  rwa [e] at ht

/-! SUPPORT. What the load image does to the cells of its span (R37 to R45): a cell read after writes to listed cells, the commands of an
image, one word of a write at a cell. -/

namespace Sys2Proof.Machine

/-! ### A cell after a write to cells -/

/-- A word is read as written, whatever else the map lists. -/
theorem Sp.get_set_rising {w : Nat} {m : Sparse w} {a : Nat} {x : BitVec w} (h : Rising m) : Sp.get (Sp.set m a x) a = x := by
  unfold Sp.get Sp.set
  split
  · next hx => simp [KM.get_del_same m h, hx]
  · simp [KM.get_put_same]
theorem getCell_putCell_same {s : State} {n : Nat} {c : Cell} : getCell (putCell s n c) n = c := by
  unfold putCell
  split
  · next hn => simp [getCell, hn]
  · next hn => simp [getCell, hn, KM.get_put_same]
theorem getCell_putCell_other {s : State} {n m : Nat} {c : Cell} (h : KM.wf s.others = true) (hm : n ≠ m) :
    getCell (putCell s n c) m = getCell s m := by
  have hf (o : KMap Cell) (d : Cell) : freshCell { s with cell := d, others := o } m = freshCell s m := rfl
  unfold putCell
  split
  · next hn =>
    have hc : s.cur ≠ m := fun e => hm (hn.symm.trans e)
    simp only [getCell, if_neg hc]
    exact congrArg _ (hf s.others c)
  · by_cases hc : s.cur = m
    · simp [getCell, hc]
    · simp only [getCell, if_neg hc, KM.get_put_other hm s.others (KM.wf_iff.mp h)]
      exact congrArg _ (hf _ s.cell)
theorem putCell_wf_others {s : State} {n : Nat} {c : Cell} (h : KM.wf s.others = true) : KM.wf (putCell s n c).others = true := by
  unfold putCell
  split
  · exact h
  · exact KM.wf_put h
@[simp] theorem putCell_images (s : State) (n : Nat) (c : Cell) : (putCell s n c).images = s.images := by
  unfold putCell
  split <;> rfl
/-- Some cells take a change, each once; the others stay. -/
theorem getCell_foldl_modCell (f : Cell → Cell) (m : Nat) : ∀ (l : List Nat) (s : State), l.Nodup → KM.wf s.others = true →
    getCell (l.foldl (fun s n => modCell s n f) s) m = if m ∈ l then f (getCell s m) else getCell s m
  | [], _, _, _ => by simp
  | n :: r, s, hl, h => by
    obtain ⟨hn, hr⟩ := List.nodup_cons.mp hl
    rw [List.foldl_cons, getCell_foldl_modCell f m r (modCell s n f) hr (putCell_wf_others h), modCell]
    by_cases e : n = m
    · subst e
      simp [hn, getCell_putCell_same]
    · rw [getCell_putCell_other h e]
      simp [Ne.symm e]
theorem images_foldl_modCell (f : Cell → Cell) : ∀ (l : List Nat) (s : State), (l.foldl (fun s n => modCell s n f) s).images = s.images
  | [], _ => rfl
  | n :: r, s => by rw [List.foldl_cons, images_foldl_modCell f r, modCell, putCell_images]
theorem State.selected_nodup (s : State) (i : Image) : (s.selected i).Nodup :=
  (List.nodup_range.map (add_right_injective _)).filter _

/-! ### Ports -/

@[simp] theorem State.modPort_port (s : State) (q : Port) (f : PortSt → PortSt) : (s.modPort q f).port q = f (s.port q) := by
  cases q <;> rfl
@[simp] theorem State.modPort_images (s : State) (q : Port) (f : PortSt → PortSt) : (s.modPort q f).images = s.images := by
  cases q <;> rfl
@[simp] theorem State.modPort_cell (s : State) (q : Port) (f : PortSt → PortSt) : (s.modPort q f).cell = s.cell := by
  cases q <;> rfl
@[simp] theorem State.modPort_others (s : State) (q : Port) (f : PortSt → PortSt) : (s.modPort q f).others = s.others := by
  cases q <;> rfl

/-! ### Commands of the image in hand (R42, R44) -/

section
variable {s : State} {i : Image} {r : List Image} {ws : List W32} {f : Image → State → Except ImgErr (Image × State)}

theorem State.writeCommand_free (hi : s.images = i :: r) (hh : (s.selected i).any s.holdsWrites = false) :
    s.writeCommand ws f = s.command ws f := by
  simp [State.writeCommand, State.image, hi, hh]
theorem State.command_ok {j : Image} {t : State} (hi : s.images = i :: r) (ha : s.imageReady i = true) (hw : i.rest.take ws.length = ws)
    (hf : f i s = .ok (j, t)) : s.command ws f = t.modImage fun _ => { j with idx := i.idx + ws.length } := by
  simp [State.command, State.image, hi, ha, hw, hf]
theorem State.command_error {e : ImgErr} (hi : s.images = i :: r) (ha : s.imageReady i = true) (hw : i.rest.take ws.length = ws)
    (hf : f i s = .error e) : s.command ws f = s.imageOver i e.1 e.2 := by
  simp [State.command, State.image, hi, ha, hw, hf]
/-- A command that is a write: it goes on with the image `j`, or ends the load. -/
theorem State.command_map {j : Image} {e : Except ImgErr State} (hi : s.images = i :: r) (ha : s.imageReady i = true)
    (hw : i.rest.take ws.length = ws) : (f i s = e.map fun t => (j, t)) →
    s.command ws f = match e with
      | .ok t => t.modImage fun _ => { j with idx := i.idx + ws.length }
      | .error e => s.imageOver i e.1 e.2 := by
  intro hf
  cases e with
  | ok t => exact State.command_ok hi ha hw hf
  | error e => exact State.command_error hi ha hw hf
theorem State.modImage_images (hi : s.images = i :: r) (g : Image → Image) : (s.modImage g).images = g i :: r := by
  simp [State.modImage, hi]

end

theorem getCell_modImage (s : State) (g : Image → Image) (m : Nat) : getCell (s.modImage g) m = getCell s m := rfl

/-- The report of a failed image (R382, R44). -/
theorem Report.word256_image (code part round word : Nat) (hc : code < 256) (hp : part < 64) :
    ({ code := code, part := part, round := round, word := word } : Report).word256 =
      BitVec.ofNat 256 (code + 2 ^ 8 * part + 2 ^ 16 * (round % 2 ^ 16) + 2 ^ 32 * (word % 2 ^ 32)) := by
  simp [Report.word256, Nat.mod_eq_of_lt hc, Nat.mod_eq_of_lt hp]

/-! ### One word of a write at a cell (R38, R41, R45) -/

@[simp] theorem Plane.setIdle_active (p : Plane) (b : Bank) (x : IdleState) : ({ p.setIdle b with idle := x } : Plane).active = p.active := by
  unfold Plane.setIdle Plane.active
  cases p.act <;> rfl
@[simp] theorem Plane.setIdle_idleBank (p : Plane) (b : Bank) (x : IdleState) : ({ p.setIdle b with idle := x } : Plane).idleBank = b := by
  unfold Plane.setIdle Plane.idleBank
  cases p.act <;> rfl
@[simp] theorem Plane.setActive_active (p : Plane) (b : Bank) : (p.setActive b).active = b := by
  unfold Plane.setActive Plane.active
  cases p.act <;> rfl
@[simp] theorem Plane.setActive_idleBank (p : Plane) (b : Bank) : (p.setActive b).idleBank = p.idleBank := by
  unfold Plane.setActive Plane.idleBank
  cases p.act <;> rfl

section
variable {c : Cell} {st : Nat} {k : KeptWrite}

theorem Cell.imageWrite_idle :
    c.imageWrite 0 st k = { c with plane := { c.plane.setIdle (c.plane.idleBank.put st k) with idle := .loading } } := by
  simp [Cell.imageWrite]
theorem Cell.imageWrite_active (h : st < 3 ∨ c.plane.inRound = false) :
    c.imageWrite 1 st k = { c with plane := c.plane.setActive (c.plane.active.put st k) } := by
  have hs : ¬(st = 3 ∧ c.plane.inRound = true) := by
    rintro ⟨rfl, e⟩
    simp [e] at h
  simp only [Cell.imageWrite, if_neg hs]
  rfl
theorem Cell.imageWrite_staged (h : c.plane.inRound = true) :
    c.imageWrite 1 3 k =
      { c with plane := { c.plane with shadow := Sp.set c.plane.shadow k.off (k.merge (Sp.get c.plane.shadow k.off)), cstage := true } } := by
  simp [Cell.imageWrite, h]
theorem Cell.imageWrite_kept (h : c.plane.inRound = true) (hk : k.pad = true ∨ cfgDefined k.off = true) :
    c.imageWrite 2 st k = { c with plane := { c.plane with kept := c.plane.kept ++ [k] } } := by
  have hu : ¬(!k.pad && !cfgDefined k.off) = true := by
    rcases hk with e | e <;> simp [e]
  simp only [Cell.imageWrite, if_neg hu, h]
  rfl
theorem Cell.imageWrite_quiet (h : c.plane.inRound = false) (hk : k.pad = true ∨ cfgDefined k.off = true) :
    c.imageWrite 2 st k = c.applyKept k := by
  have hu : ¬(!k.pad && !cfgDefined k.off) = true := by
    rcases hk with e | e <;> simp [e]
  simp only [Cell.imageWrite, if_neg hu, h]
  rfl
theorem Cell.imageWrite_undefined (hp : k.pad = false) (hk : cfgDefined k.off = false) : c.imageWrite 2 st k = c := by
  simp [Cell.imageWrite, hp, hk]
/-- With nothing asleep in it, a cell's store changes the bytes alone. -/
theorem Cell.store_eq (a n v : Nat) (h : c.sleepers = []) : c.store a n v = c.modPad (·.write a n v) := by
  have hs : (c.modPad (·.write a n v)).sleepers = [] := h
  unfold Cell.store
  simp only [hs, List.foldl_nil]

end

end Sys2Proof.Machine

namespace Sys2Proof.Stated

open Machine

theorem imageWritesCells : Sys2Proof.Stated.ImageWritesCells := by
  intro c k
  refine ⟨fun st => ?_, fun st h => ?_, fun h hw => ?_, fun st h hk => Cell.imageWrite_kept h hk, fun st h hp hk => ?_,
    fun st h hp hs => ?_, fun st hp hk => Cell.imageWrite_undefined hp hk⟩
  · rw [Cell.imageWrite_idle]
    exact ⟨rfl, Plane.setIdle_active .., Plane.setIdle_idleBank ..⟩
  · rw [Cell.imageWrite_active h]
    exact ⟨Plane.setActive_active .., Plane.setActive_idleBank ..⟩
  · rw [Cell.imageWrite_staged h]
    exact ⟨rfl, rfl, Sp.get_set_rising (KM.wf_iff.mp hw)⟩
  · rw [Cell.imageWrite_quiet h (.inr hk)]
    simp [Cell.applyKept, hp]
  · rw [Cell.imageWrite_quiet h (.inl hp)]
    simp only [Cell.applyKept, hp, if_true, Cell.store_eq _ _ _ hs]
    exact ⟨rfl, rfl⟩

/-! ### A write command (R9, R43, R44) -/

section
variable {s : State} {i : Image} {r : List Image} {bank st : Nat} {ks : List KeptWrite}

/-- No cell of the span is in a round where the write is one to the bank in force. -/
def NotBusy (s : State) (i : Image) (bank st : Nat) : Prop :=
  ¬(bank = 1 ∧ st < 3 ∧ ((s.selected i).any fun n => (getCell s n).plane.inRound) = true)

theorem cfgFail_ge {f : Nat} : ∀ (ks : List KeptWrite) (m : Sparse 32) (n : Nat), cfgFail m n ks = some f → n ≤ f
  | [], _, _, h => nomatch h
  | k :: r, m, n, h => by
    unfold cfgFail at h
    split at h
    · exact Nat.le_of_eq (Option.some.inj h)
    · exact Nat.le_of_succ_le (cfgFail_ge r _ _ h)
theorem hdrFail_ge {f : Nat} {b : Bank} : ∀ (ks : List KeptWrite) (n : Nat), hdrFail b n ks = some f → n ≤ f
  | [], _, h => nomatch h
  | k :: r, n, h => by
    unfold hdrFail at h
    split at h
    · exact Nat.le_of_succ_le (hdrFail_ge r _ h)
    · exact Nat.le_of_eq (Option.some.inj h)
/-- No word before the first of a write is refused. -/
theorem refusedWord_ge {m f : Nat} (h : refusedWord s i bank st ks m = some f) : i.idx + 1 ≤ f := by
  unfold refusedWord at h
  split at h
  · exact cfgFail_ge _ _ _ h
  · split at h
    · exact hdrFail_ge _ _ h
    · cases h
/-- The words that the cells of the span refuse, as the model gathers them. -/
theorem fails_eq_filterMap_refusedWord :
    (if bank = 2 ∧ st = 1 then (s.selected i).filterMap fun n => cfgFail (getCell s n).staged (i.idx + 1) ks
      else if bank = 1 ∧ st = 1 then (s.selected i).filterMap fun n => hdrFail (getCell s n).plane.active (i.idx + 1) ks else []) =
    (s.selected i).filterMap (refusedWord s i bank st ks) := by
  unfold refusedWord
  split
  · rfl
  · split
    · rfl
    · simp
theorem writeCells_eq (hb : NotBusy s i bank st) :
    s.writeCells i bank st ks = match (s.selected i).filterMap (refusedWord s i bank st ks) with
      | f :: r => .error (malformed, r.foldl Nat.min f)
      | [] => .ok ((s.selected i).foldl (fun s n => modCell s n fun c => ks.foldl (fun c k => c.imageWrite bank st k) c) s) := by
  unfold NotBusy at hb
  simp only [State.writeCells, if_neg hb, fails_eq_filterMap_refusedWord] <;> rfl
theorem writeCells_taken (hb : NotBusy s i bank st) (h : ∀ m ∈ s.selected i, refusedWord s i bank st ks m = none) :
    s.writeCells i bank st ks =
      .ok ((s.selected i).foldl (fun s n => modCell s n fun c => ks.foldl (fun c k => c.imageWrite bank st k) c) s) := by
  rw [writeCells_eq hb, List.filterMap_eq_nil_iff.mpr h]
theorem foldl_min_eq {f : Nat} : ∀ (l : List Nat) {a : Nat}, f ∈ a :: l → (∀ x ∈ a :: l, f ≤ x) → l.foldl Nat.min a = f
  | [], a, hm, _ => (List.mem_singleton.mp hm).symm
  | b :: l, a, hm, hl => by
    have ha := hl a (by simp)
    have hb := hl b (by simp)
    refine foldl_min_eq l ?_ fun x hx => ?_
    · rcases List.mem_cons.mp hm with rfl | hm
      · exact List.mem_cons.mpr (.inl (Nat.min_eq_left hb).symm)
      · rcases List.mem_cons.mp hm with rfl | hm
        · exact List.mem_cons.mpr (.inl (Nat.min_eq_right ha).symm)
        · exact List.mem_cons_of_mem _ hm
    · rcases List.mem_cons.mp hx with rfl | hx
      · exact Nat.le_min.mpr ⟨ha, hb⟩
      · exact hl x (List.mem_cons_of_mem _ (List.mem_cons_of_mem _ hx))
theorem writeCells_refused {m f : Nat} (hb : NotBusy s i bank st) (hm : m ∈ s.selected i) (hr : refusedWord s i bank st ks m = some f)
    (hl : ∀ m' ∈ s.selected i, ∀ f', refusedWord s i bank st ks m' = some f' → f ≤ f') :
    s.writeCells i bank st ks = .error (malformed, f) := by
  have hf : f ∈ (s.selected i).filterMap (refusedWord s i bank st ks) := List.mem_filterMap.mpr ⟨m, hm, hr⟩
  have hle : ∀ x ∈ (s.selected i).filterMap (refusedWord s i bank st ks), f ≤ x := fun x hx => by
    obtain ⟨m', hm', hx⟩ := List.mem_filterMap.mp hx
    exact hl m' hm' x hx
  rw [writeCells_eq hb]
  split
  · next g l e =>
    rw [e] at hf hle
    rw [foldl_min_eq l hf hle]
  · next e =>
    rw [e] at hf
    cases hf

/-- A write that every cell of the span takes: what it leaves of the image, of the cells of the span and of the others. -/
theorem write_reaches {j : Image} {n : Nat} (hi : s.images = i :: r) (hw : KM.wf s.others = true) :
    let t := ((s.selected i).foldl (fun s n => modCell s n fun c => ks.foldl (fun c k => c.imageWrite bank st k) c) s).modImage
      fun _ => { j with idx := n }
    t.images = { j with idx := n } :: r ∧
      (∀ m ∈ s.selected i, getCell t m = ks.foldl (fun c k => c.imageWrite bank st k) (getCell s m)) ∧
      ∀ m, m ∉ s.selected i → getCell t m = getCell s m := by
  have hc (m : Nat) := getCell_foldl_modCell (fun c => ks.foldl (fun c k => c.imageWrite bank st k) c) m (s.selected i) s (s.selected_nodup i) hw
  refine ⟨State.modImage_images ((images_foldl_modCell _ _ s).trans hi) _, fun m hm => ?_, fun m hm => ?_⟩
  · rw [getCell_modImage, hc, if_pos hm]
  · rw [getCell_modImage, hc, if_neg hm]
/-- An image that ends with MALFORMED (R44, R382). -/
theorem endsMalformed_of {f : Nat} {x : Instr} (hi : s.images = i :: r) (h : exec x s = .next (s.imageOver i malformed f)) :
    EndsMalformed s i r f x := by
  refine ⟨_, h, ?_⟩
  have hp := i.part.isLt
  simp only [State.imageOver, malformed, State.respond, Nat.one_ne_zero, false_and, if_false, State.modPort_images, State.modPort_port,
    State.modPort_cell, State.modPort_others, hi, List.tail_cons, Report.word256_image _ _ _ _ (by decide : 1 < 256) hp, true_and]
  exact ⟨rfl, rfl⟩

end

/-! ### FIELD and BURST (R42) -/

theorem structSize_le {bank st n : Nat} (h : structSize bank st = some n) : n ≤ 8192 := by
  unfold structSize at h
  split at h
  · obtain ⟨_, e⟩ := List.getElem?_eq_some_iff.mp h
    have : n ∈ ([1024, 2, 128, 128] : List Nat) := e ▸ List.getElem_mem _
    simp at this
    omega
  · split at h
    · obtain ⟨_, e⟩ := List.getElem?_eq_some_iff.mp h
      have : n ∈ ([8192, 64] : List Nat) := e ▸ List.getElem_mem _
      simp at this
      omega
    · cases h
/-- The fields of FIELD's command word (Table 02.3). -/
theorem fieldWord_bits {off lsb width : Nat} {w : W32} (hw : w = BitVec.ofNat 32 (3 * 2 ^ 28 + 2 ^ 21 * (width - 1) + 2 ^ 16 * lsb + off))
    (h1 : 1 ≤ width) (hl : lsb + width ≤ 32) (ho : off < 8192) :
    cmdOf w = 3 ∧ bits w.toNat 0 16 = off ∧ bits w.toNat 16 5 = lsb ∧ bits w.toNat 21 5 + 1 = width ∧ bits w.toNat 26 2 = 0 := by
  have hn : w.toNat = 3 * 2 ^ 28 + 2 ^ 21 * (width - 1) + 2 ^ 16 * lsb + off := by
    rw [hw, BitVec.toNat_ofNat, Nat.mod_eq_of_lt]
    omega
  unfold cmdOf bits
  rw [hn]
  omega
/-- The fields of BURST's command word (Table 02.3). -/
theorem burstWord_bits {n : Nat} {w : W32} (hw : w = BitVec.ofNat 32 (4 * 2 ^ 28 + n)) (hn : n < 2 ^ 16) :
    cmdOf w = 4 ∧ bits w.toNat 0 16 = n ∧ bits w.toNat 16 12 = 0 := by
  have e : w.toNat = 4 * 2 ^ 28 + n := by
    rw [hw, BitVec.toNat_ofNat, Nat.mod_eq_of_lt]
    omega
  unfold cmdOf bits
  rw [e]
  omega

section
variable {s : State} {i : Image} {r : List Image} {bank : BitVec 2} {st : BitVec 4} {at_ n : Nat} (hi : s.images = i :: r)
  (ha : s.imageReady i = true) (hc : i.cursor = some (bank, st, at_)) (hz : structSize bank.toNat st.toNat = some n)
  (hh : (s.selected i).any s.holdsWrites = false) (hb : NotBusy s i bank.toNat st.toNat)
include hi ha hc hz hh hb

/-- FIELD is the write of its one word: what the cells say of the write decides. -/
theorem exec_field {off lsb width : Nat} {w v : W32}
    (hw : w = BitVec.ofNat 32 (3 * 2 ^ 28 + 2 ^ 21 * (width - 1) + 2 ^ 16 * lsb + off)) (h1 : 1 ≤ width) (hl : lsb + width ≤ 32)
    (ho : off < n) (hv : v.toNat < 2 ^ width) (hr : i.rest.take 2 = [w, v]) :
    exec (.field w v) s = .next
      (match s.writeCells i bank.toNat st.toNat [⟨bank.toNat == 2 && st.toNat == 0, off, lsb, width, v⟩] with
        | .ok t => t.modImage fun _ => { i with idx := i.idx + 2 }
        | .error e => s.imageOver i e.1 e.2) := by
  obtain ⟨hcmd, hoff, hlsb, hwid, hres⟩ := fieldWord_bits hw h1 hl (Nat.lt_of_lt_of_le ho (structSize_le hz))
  unfold NotBusy at hb
  show Host.Outcome.next _ = _
  rw [if_neg (by rw [hcmd]; decide), State.writeCommand_free hi hh]
  refine congrArg _ (State.command_map (ws := [w, v]) hi ha hr ?_)
  simp only [hc, hoff, hlsb, hwid, hres, hz, if_neg hb, Option.getD_some, if_neg (Nat.not_le.mpr ho), if_neg (Nat.not_le.mpr hv),
    if_neg (show ¬(0 ≠ 0 ∨ 32 < lsb + width) by omega)]
omit hb in
/-- BURST is the write of its words from the cursor on. -/
theorem exec_burst {w : W32} {ws : List W32} (hw : w = BitVec.ofNat 32 (4 * 2 ^ 28 + ws.length)) (hne : ws ≠ []) (hlen : ws.length < 2 ^ 16)
    (ho : at_ + ws.length ≤ n) (hr : i.rest.take (1 + ws.length) = w :: ws) :
    exec (.burst w ws) s = .next
      (match s.writeCells i bank.toNat st.toNat
          ((List.range ws.length).map fun j => ⟨bank.toNat == 2 && st.toNat == 0, at_ + j, 0, 32, ws.getD j 0⟩) with
        | .ok t => t.modImage fun _ => { i with cursor := some (bank, st, at_ + ws.length), idx := i.idx + (1 + ws.length) }
        | .error e => s.imageOver i e.1 e.2) := by
  obtain ⟨hcmd, hcount, hres⟩ := burstWord_bits hw hlen
  have hpos : ws.length ≠ 0 := fun e => hne (List.length_eq_zero_iff.mp e)
  have hr' : i.rest.take (w :: ws).length = w :: ws := by rw [List.length_cons, Nat.add_comm]; exact hr
  show Host.Outcome.next _ = _
  simp only [hcount]
  rw [if_neg (by simp [hcmd]), State.writeCommand_free hi hh]
  rw [State.command_map (j := { i with cursor := some (bank, st, at_ + ws.length) }) (e := s.writeCells i bank.toNat st.toNat
    ((List.range ws.length).map fun j => ⟨bank.toNat == 2 && st.toNat == 0, at_ + j, 0, 32, ws.getD j 0⟩)) hi ha hr' ?_]
  · rw [List.length_cons, Nat.add_comm 1]
  · simp only [hc, hres, hz, Option.getD_some, if_neg (Nat.not_lt.mpr ho), if_neg (show ¬(0 ≠ 0 ∨ ws.length = 0) by omega)]

end

theorem imageWordsReachCells : Sys2Proof.Stated.ImageWordsReachCells := by
  intro s i r bank st at_ n hi ha hc hz hh hwf hround
  have hb : NotBusy s i bank.toNat st.toNat := by
    rintro ⟨h1, h3, hany⟩
    obtain ⟨m, hm, hin⟩ := List.any_eq_true.mp hany
    rw [hround (BitVec.eq_of_toNat_eq h1) h3 m hm] at hin
    cases hin
  refine ⟨fun off lsb width w v k hk hw h1 hl ho hv hr => ?_, fun w ws ks hks hw hne hlen ho hr => ?_⟩
  · have he := exec_field hi ha hc hz hh hb hw h1 hl ho hv hr
    rw [← hk] at he
    refine ⟨fun hn => ?_, fun m hm hf => endsMalformed_of hi ?_⟩
    · rw [writeCells_taken hb hn] at he
      exact ⟨_, he, write_reaches (ks := [k]) hi hwf⟩
    · rw [writeCells_refused hb hm hf] at he
      · exact he
      · exact fun _ _ _ hf' => refusedWord_ge hf'
  · have he := exec_burst hi ha hc hz hh hw hne hlen ho hr
    rw [← hks] at he
    refine ⟨fun hn => ?_, fun m f hm hf hmin => endsMalformed_of hi ?_⟩
    · rw [writeCells_taken hb hn] at he
      exact ⟨_, he, write_reaches (j := { i with cursor := some (bank, st, at_ + ws.length) }) (ks := ks) hi hwf⟩
    · rw [writeCells_refused hb hm hf hmin] at he
      exact he

end Sys2Proof.Stated

/-- Settles O44: one word at a cell (`imageWritesCells`), and the commands at the cells of the span (`imageWordsReachCells`). -/
theorem imageWordsReachCells : Obligations.ImageWordsReachCells :=
  ⟨Sys2Proof.Stated.imageWritesCells, Sys2Proof.Stated.imageWordsReachCells⟩

/-! SUPPORT. The host ports (R377 to R379, R383): numbers as bytes, a write of bytes to a register of BAR0, what a token and an access
through BAR2 do. -/

namespace Sys2Proof.Machine

/-! ### Numbers as bytes -/

theorem natOf_lt : ∀ l : List Byte, natOf l < 256 ^ l.length
  | [] => by decide
  | b :: r => by
    have h := natOf_lt r
    have hb := b.isLt
    show b.toNat + 256 * natOf r < 256 ^ (r.length + 1)
    rw [Nat.pow_succ]
    omega
theorem natOf_byte : ∀ (l : List Byte) (i : Nat), natOf l / 256 ^ i % 256 = (l.getD i 0).toNat
  | [], i => by
    show 0 / 256 ^ i % 256 = _
    simp
  | b :: r, 0 => by
    have hb := b.isLt
    show (b.toNat + 256 * natOf r) / 256 ^ 0 % 256 = b.toNat
    omega
  | b :: r, i + 1 => by
    have hb := b.isLt
    have e : (b.toNat + 256 * natOf r) / 256 = natOf r := by omega
    show (b.toNat + 256 * natOf r) / 256 ^ (i + 1) % 256 = (r.getD i 0).toNat
    rw [Nat.pow_succ', ← Nat.div_div_eq_div_mul, e, natOf_byte r i]
@[simp] theorem bytesOf_length (n v : Nat) : (bytesOf n v).length = n := by simp [bytesOf]
theorem getD_bytesOf {n i : Nat} (v : Nat) (h : i < n) : (bytesOf n v).getD i 0 = BitVec.ofNat 8 (v / 256 ^ i) := by
  simp [bytesOf, List.getD_eq_getElem?_getD, h]
theorem bytesOf_succ (n v : Nat) : bytesOf (n + 1) v = BitVec.ofNat 8 v :: bytesOf n (v / 256) := by
  simp [bytesOf, List.range_succ_eq_map, Nat.pow_succ', Nat.div_div_eq_div_mul]
theorem natOf_bytesOf : ∀ n v : Nat, natOf (bytesOf n v) = v % 256 ^ n
  | 0, v => (Nat.mod_one v).symm
  | n + 1, v => by
    rw [bytesOf_succ, Nat.pow_succ', Nat.mod_mul]
    show (BitVec.ofNat 8 v).toNat + 256 * natOf (bytesOf n (v / 256)) = _
    rw [natOf_bytesOf n, BitVec.toNat_ofNat]
theorem toNat_lt_pow_256 {n : Nat} (r : BitVec (8 * n)) : r.toNat < 256 ^ n := r.isLt.trans_eq (Nat.pow_mul 2 8 n)
theorem toNat_ofNat_of_lt_256 {n v : Nat} (h : v < 256 ^ n) : (BitVec.ofNat (8 * n) v).toNat = v := by
  rw [BitVec.toNat_ofNat, Nat.pow_mul]
  exact Nat.mod_eq_of_lt h
theorem extractLsb'_byte_toNat {w : Nat} (r : BitVec w) (i : Nat) : (r.extractLsb' (8 * i) 8).toNat = r.toNat / 256 ^ i % 256 := by
  rw [BitVec.extractLsb'_toNat, Nat.shiftRight_eq_div_pow, Nat.pow_mul]

/-! ### A write of bytes to a register (R377) -/

section
variable {old base size off : Nat} {l : List Byte}

theorem touchesReg_of_lt (h : off < base + size) (h' : base < off + l.length) : touchesReg base size off l = true := by
  simp [touchesReg, h, h']
theorem touchesReg_of_le (h : base + size ≤ off ∨ off + l.length ≤ base) : touchesReg base size off l = false := by
  rcases h with h | h <;> simp [touchesReg, Nat.not_lt.mpr h]
/-- Some byte of what is written lies in a register that the write touches. -/
theorem exists_byte_of_touchesReg (hs : 0 < size) (hl : l ≠ []) (h : touchesReg base size off l = true) :
    ∃ i < l.length, base ≤ off + i ∧ off + i < base + size := by
  have hl := List.length_pos_iff.mpr hl
  simp only [touchesReg, Bool.and_eq_true, decide_eq_true_eq] at h
  exact ⟨base - off, by omega, by omega, by omega⟩
theorem regWrite_lt : regWrite old base size off l < 256 ^ size := by
  unfold regWrite
  refine Nat.lt_of_lt_of_eq (natOf_lt _) ?_
  rw [List.length_map, List.length_range]
theorem regWrite_byte {i : Nat} (h : i < size) : regWrite old base size off l / 256 ^ i % 256 =
    if off ≤ base + i ∧ base + i < off + l.length then (l.getD (base + i - off) 0).toNat else old / 256 ^ i % 256 := by
  unfold regWrite
  rw [natOf_byte, List.getD_eq_getElem?_getD, List.getElem?_map, List.getElem?_range h]
  simp only [Option.map_some, Option.getD_some]
  split
  · rfl
  · rw [BitVec.toNat_ofNat]
/-- A register written whole has the value written. -/
theorem regWrite_whole (v : Nat) : regWrite old base size base (bytesOf size v) = v % 256 ^ size := by
  rw [← natOf_bytesOf]
  unfold regWrite
  congr 1
  refine List.map_congr_left fun i hi => ?_
  have hi := List.mem_range.mp hi
  rw [if_pos (by rw [bytesOf_length]; omega), Nat.add_sub_cancel_left, getD_bytesOf v hi]
theorem bitOf_regWrite_zero (hs : 0 < size) (h : base < off ∨ off + l.length ≤ base) : bitOf (regWrite 0 base size off l) 0 = false := by
  have e := regWrite_byte (old := 0) (base := base) (off := off) (l := l) hs
  rw [if_neg (by omega)] at e
  have : regWrite 0 base size off l % 2 = 0 := by omega
  simp [bitOf, this]

end

/-! ### BAR0 (Table 17.1) -/

section
variable {q : Port} {s : State} {off : BitVec 16} {l : List Byte}

/-- A write that touches none of HASP and GO does what it does to STATUS, WINSEL, TOKEN and LAUNCH. -/
theorem exec_hostRegisterWrite (h : touchesReg 0x100 8 off.toNat l = false) (hg : 0x108 < off.toNat ∨ off.toNat + l.length ≤ 0x108) :
    exec (.hostRegisterWrite q off l) s = .next (
      let k := off.toNat
      let s := if touchesReg 0x110 8 k l then s.modPort q (·.writeStatus k l) else s
      let s := if touchesReg 0x118 8 k l then s.modPort q (·.writeWinsel k l) else s
      let s := if touchesReg 0x200 32 k l then s.writeToken q k l else s
      if touchesReg 0x1000 64 k l then s.modPort q (·.writeLaunch k l) else s) := by
  show Host.Outcome.next _ = _
  simp only [h, bitOf_regWrite_zero (by decide : 0 < 8) hg, Bool.false_eq_true, if_false]

end

/-- STATUS written whole: bit 8 clears DONE, bits 32 to 47 are HERR. -/
theorem PortSt.writeStatus_whole (x : PortSt) (v : W64) :
    x.writeStatus 0x110 (bytesOf 8 v.toNat) = { x with done := x.done && !v.getLsbD 8, herr := v.extractLsb' 32 16 } := by
  unfold PortSt.writeStatus
  have hv : v.toNat % 256 ^ 8 = v.toNat := Nat.mod_eq_of_lt v.isLt
  have hb : bitOf v.toNat 8 = v.getLsbD 8 := by
    simp only [bitOf, BitVec.getLsbD, Nat.testBit_eq_decide_div_mod_eq, Bool.beq_eq_decide_eq]
  have he : BitVec.ofNat 16 (v.toNat / 2 ^ 32) = v.extractLsb' 32 16 := by
    apply BitVec.eq_of_toNat_eq
    rw [BitVec.extractLsb'_toNat, Nat.shiftRight_eq_div_pow, BitVec.toNat_ofNat]
  rw [regWrite_whole, regWrite_whole, hv, hb, he]
/-- Bytes 4 and 5 of STATUS are HERR, and leave DONE. -/
theorem PortSt.writeStatus_herr (x : PortSt) (v : BitVec 16) : x.writeStatus 0x114 (bytesOf 2 v.toNat) = { x with herr := v } := by
  have hv := v.isLt
  have h1 : bitOf (regWrite 0 0x110 8 0x114 (bytesOf 2 v.toNat)) 8 = false := by
    have e := regWrite_byte (old := 0) (base := 0x110) (off := 0x114) (l := bytesOf 2 v.toNat) (show 1 < 8 by decide)
    rw [if_neg (by omega)] at e
    have : regWrite 0 0x110 8 0x114 (bytesOf 2 v.toNat) / 2 ^ 8 % 2 = 0 := by omega
    rw [bitOf, this]
    rfl
  have h2 : BitVec.ofNat 16 (regWrite (2 ^ 32 * x.herr.toNat) 0x110 8 0x114 (bytesOf 2 v.toNat) / 2 ^ 32) = v := by
    have e4 := regWrite_byte (old := 2 ^ 32 * x.herr.toNat) (base := 0x110) (off := 0x114) (l := bytesOf 2 v.toNat) (show 4 < 8 by decide)
    have e5 := regWrite_byte (old := 2 ^ 32 * x.herr.toNat) (base := 0x110) (off := 0x114) (l := bytesOf 2 v.toNat) (show 5 < 8 by decide)
    rw [if_pos (by rw [bytesOf_length]; omega), getD_bytesOf _ (by decide), BitVec.toNat_ofNat] at e4 e5
    apply BitVec.eq_of_toNat_eq
    rw [BitVec.toNat_ofNat]
    omega
  unfold PortSt.writeStatus
  rw [h1, h2]
  simp
/-- WINSEL written whole. -/
theorem PortSt.writeWinsel_whole (x : PortSt) (v : W64) :
    x.writeWinsel 0x118 (bytesOf 8 v.toNat) = { x with winPart := v.extractLsb' 0 6, winBase := v.extractLsb' 6 9 } := by
  have hv : v.toNat % 256 ^ 8 = v.toNat := Nat.mod_eq_of_lt v.isLt
  unfold PortSt.writeWinsel
  simp only [regWrite_whole, hv]
  congr 1
  apply BitVec.eq_of_toNat_eq
  rw [BitVec.extractLsb'_toNat, Nat.shiftRight_eq_div_pow, BitVec.toNat_ofNat]
/-- A byte of LAUNCH after a write: the byte written there, or the old one. -/
theorem PortSt.writeLaunch_byte (x : PortSt) (off : Nat) (l : List Byte) {i : Nat} (hi : i < 64) :
    (x.writeLaunch (0x1000 + off) l).launch.extractLsb' (8 * i) 8 =
      if off ≤ i ∧ i < off + l.length then l.getD (i - off) 0 else x.launch.extractLsb' (8 * i) 8 := by
  apply BitVec.eq_of_toNat_eq
  simp only [PortSt.writeLaunch]
  rw [extractLsb'_byte_toNat, toNat_ofNat_of_lt_256 (n := 64) regWrite_lt, regWrite_byte hi]
  by_cases h : off ≤ i ∧ i < off + l.length
  · rw [if_pos h, if_pos (by omega), Nat.add_sub_add_left]
  · rw [if_neg h, if_neg (by omega), extractLsb'_byte_toNat]
theorem State.modPort_writeLaunch {s : State} {q : Port} {k : Nat} {l : List Byte} : (s.modPort q (·.writeLaunch k l)) =
    s.modPort q fun x => { x with launch := ((s.port q).writeLaunch k l).launch } := by
  cases q <;> simp only [State.modPort, State.port, PortSt.writeLaunch]
/-- A write to TOKEN that is none of 32 bytes is discarded and counted (R383). -/
theorem State.token_short {s : State} {q : Port} {d : V256} : s.token q d false = s.hostError q := by
  simp only [State.token]
  split <;> rfl

/-! ### A read of BAR0 (R8) -/

section
variable {q : Port} {s : State}

theorem find?_holding (off : Nat) (x : Nat × Nat × Nat) (r : List (Nat × Nat × Nat)) :
    (x :: r).find? (fun r => decide (r.1 ≤ off ∧ off < r.1 + r.2.1)) =
      if x.1 ≤ off ∧ off < x.1 + x.2.1 then some x else r.find? fun r => decide (r.1 ≤ off ∧ off < r.1 + r.2.1) := by
  rw [List.find?_cons]
  split <;> simp_all
/-- Which register a byte of BAR0 is of. -/
theorem bar0Byte_eq (off : Nat) : s.bar0Byte q off =
    if 0x100 ≤ off ∧ off < 0x100 + 8 then BitVec.ofNat 8 (4 * ownerCode s.hasp / 256 ^ (off - 0x100))
    else if 0x110 ≤ off ∧ off < 0x110 + 8 then BitVec.ofNat 8 (s.statusWord q / 256 ^ (off - 0x110))
    else if 0x118 ≤ off ∧ off < 0x118 + 8 then BitVec.ofNat 8 ((s.port q).winsel / 256 ^ (off - 0x118))
    else if 0x400 ≤ off ∧ off < 0x400 + 32 then BitVec.ofNat 8 ((s.port q).report.toNat / 256 ^ (off - 0x400))
    else if 0x1000 ≤ off ∧ off < 0x1000 + 64 then BitVec.ofNat 8 ((s.port q).launch.toNat / 256 ^ (off - 0x1000))
    else 0 := by
  split_ifs <;> simp only [State.bar0Byte, State.bar0Regs, find?_holding, List.find?_nil, *, and_self, if_true, if_false]
/-- A read of a register, all of its bytes: its value. -/
theorem natOf_bar0Read {base size v : Nat} (hv : v < 256 ^ size) (h : ∀ i < size, s.bar0Byte q (base + i) = BitVec.ofNat 8 (v / 256 ^ i)) :
    natOf (s.bar0Read q base size) = v := by
  have e : s.bar0Read q base size = bytesOf size v := List.map_congr_left fun i hi => h i (List.mem_range.mp hi)
  rw [e, natOf_bytesOf, Nat.mod_eq_of_lt hv]
theorem bar0Read_hasp : natOf (s.bar0Read q 0x100 8) = 4 * ownerCode s.hasp := by
  have h : ownerCode s.hasp ≤ 2 := by
    unfold ownerCode
    split <;> decide
  refine natOf_bar0Read (Nat.lt_of_le_of_lt (Nat.mul_le_mul_left 4 h) (by decide)) fun i hi => ?_
  rw [bar0Byte_eq, if_pos (by omega), Nat.add_sub_cancel_left]
theorem bar0Read_status : natOf (s.bar0Read q 0x110 8) = s.statusWord q := by
  have hb (b : Bool) : bit b ≤ 1 := by cases b <;> decide
  have hlt : s.statusWord q < 256 ^ 8 := by
    have h1 := (s.port q).code.isLt
    have h2 := (s.port q).herr.isLt
    have h3 := hb (s.port q).done
    have h4 := hb (s.port q).busy
    have h5 := hb s.gradeLow
    simp only [State.statusWord]
    omega
  refine natOf_bar0Read hlt fun i hi => ?_
  rw [bar0Byte_eq, if_neg (by omega), if_pos (by omega), Nat.add_sub_cancel_left]
theorem bar0Read_winsel : natOf (s.bar0Read q 0x118 8) = (s.port q).winsel := by
  have hlt : (s.port q).winsel < 256 ^ 8 := by
    have h1 := (s.port q).winPart.isLt
    have h2 := (s.port q).winBase.isLt
    simp only [PortSt.winsel]
    omega
  refine natOf_bar0Read hlt fun i hi => ?_
  rw [bar0Byte_eq, if_neg (by omega), if_neg (by omega), if_pos (by omega), Nat.add_sub_cancel_left]
theorem bar0Read_report : natOf (s.bar0Read q 0x400 32) = (s.port q).report.toNat := by
  refine natOf_bar0Read (toNat_lt_pow_256 (n := 32) _) fun i hi => ?_
  rw [bar0Byte_eq, if_neg (by omega), if_neg (by omega), if_neg (by omega), if_pos (by omega), Nat.add_sub_cancel_left]
theorem bar0Read_launch : natOf (s.bar0Read q 0x1000 64) = (s.port q).launch.toNat := by
  refine natOf_bar0Read (toNat_lt_pow_256 (n := 64) _) fun i hi => ?_
  rw [bar0Byte_eq, if_neg (by omega), if_neg (by omega), if_neg (by omega), if_neg (by omega), if_pos (by omega), Nat.add_sub_cancel_left]

end

/-! ### Host tokens (R383) -/

section
variable {q : Port} {s : State} {y : Part} {d : V256} (hy : part s (s.port q).winPart.toNat = some y)
include hy

theorem State.token_discarded {whole : Bool} (h : whole = false ∨ y.inRound = false ∨ y.preempt ≠ none ∨ d.extractLsb' 20 12 ≠ 0 ∨
    s.holds (s.port q).winPart.toNat (d.extractLsb' 0 20).toNat = false) : s.token q d whole = s.hostError q := by
  have hc : (!whole || d.extractLsb' 20 12 != 0 || !s.holds (s.port q).winPart.toNat (d.extractLsb' 0 20).toNat || !y.inRound) = true := by
    simp only [Bool.or_eq_true, Bool.not_eq_true', bne_iff_ne]
    rcases h with h | h | h | h | h
    · exact .inl (.inl (.inl h))
    · exact .inr h
    · refine .inr ?_
      simp [Part.inRound, Option.isNone_eq_false_iff.mpr (Option.isSome_iff_ne_none.mpr h)]
    · exact .inl (.inl (.inr h))
    · exact .inl (.inr h)
  simp only [State.token, hy, hc, if_true]
theorem State.token_taken {z : Pos} (h : d.extractLsb' 20 12 = 0) (hn : s.holds (s.port q).winPart.toNat (d.extractLsb' 0 20).toNat = true)
    (hr : y.inRound = true) (hz : curPos s (d.extractLsb' 0 20).toNat = some z) :
    s.token q d true = (s.modPort q fun x => { x with tokens := x.tokens + 1 }).injectAt (routerOf z) (tokenPkt q (s.port q).tokens d) 0 := by
  have hz' : curPos (s.modPort q fun x => { x with tokens := x.tokens + 1 }) (d.extractLsb' 0 20).toNat = some z := by
    rw [← hz]
    cases q <;> rfl
  have hc : ¬(!true || d.extractLsb' 20 12 != 0 || !s.holds (s.port q).winPart.toNat (d.extractLsb' 0 20).toNat || !y.inRound) = true := by
    rw [h, hn, hr]
    decide
  simp only [State.token, hy, if_neg hc, hz']

end

theorem tokenPkt_pay (q : Port) (n : BitVec 16) (d : V256) : (tokenPkt q n d).pay = [BitVec.ofNat 256 (d.toNat / 2 ^ 64)] := by
  have hd := d.isLt
  refine congrArg (· :: []) (BitVec.eq_of_toNat_eq ?_)
  rw [BitVec.toNat_setWidth, BitVec.extractLsb'_toNat, Nat.shiftRight_eq_div_pow, BitVec.toNat_ofNat]
  omega

/-! ### Accesses through BAR2 (R377, R379) -/

theorem PortSt.mem_window {x : PortSt} {off n va : Nat} :
    va ∈ x.window off n ↔ ∃ i < n, (x.winBase.toNat * 2 ^ 36 + off + i) % 2 ^ 45 = va := by
  simp only [PortSt.window, List.mem_map, List.mem_range]

section
variable {q : Port} {s : State} {y : Part} (hy : part s (s.port q).winPart.toNat = some y)
include hy

theorem State.hostAccess_eq {off n : Nat} {wr : Bool} (hn : n ≠ 0) (ho : off + n ≤ 2 ^ 36) :
    s.hostAccess q off n wr = some ((s.port q).winPart.toNat, y,
      ((s.port q).window off n).map fun va => (va, s.hostAt q (s.port q).winPart.toNat y va wr)) := by
  simp only [State.hostAccess, hy, if_neg (show ¬(n = 0 ∨ 2 ^ 36 < off + n) by omega)]
theorem State.hostAccess_byte {off : BitVec 36} {wr : Bool} {h : HostAt}
    (hh : s.hostAt q (s.port q).winPart.toNat y (((s.port q).winBase.toNat * 2 ^ 36 + off.toNat) % 2 ^ 45) wr = h) :
    s.hostAccess q off.toNat 1 wr =
      some ((s.port q).winPart.toNat, y, [(((s.port q).winBase.toNat * 2 ^ 36 + off.toNat) % 2 ^ 45, h)]) := by
  rw [State.hostAccess_eq hy (by decide) (Nat.succ_le_of_lt off.isLt), ← hh]
  simp only [PortSt.window, List.range_one, List.map_cons, List.map_nil, Nat.add_zero]

end

section
variable {q : Port} {s : State} {l : List (Nat × HostAt)}

/-- A refusal that no target's table makes is counted by the port alone. -/
theorem State.refuseHost_port (h : ∀ e ∈ l, ∀ k, e.2 ≠ .denied k) : s.refuseHost q l = s.hostError q := by
  simp only [State.refuseHost]
  rw [List.filterMap_eq_nil_iff.mpr fun e he => ?_]
  · rfl
  · split
    · next k hk => exact absurd hk (h e he k)
    · rfl
theorem State.refuseHost_table {va k : Nat} : s.refuseHost q [(va, .denied k)] =
    ({ s with refused := Sp.set s.refused k (satInc (Sp.get s.refused k)) } : State).modPort q fun x => { x with herr := satInc x.herr } := by
  cases q <;> rfl

end

/-! ### A byte of scratchpad -/

theorem Memory.writeNat_one (m : Memory) (a : Nat) (b : Byte) : Memory.writeNat m a 1 (natOf [b]) = Sp.set m a b := by
  show Sp.set m a (BitVec.ofNat 8 (b.toNat + 256 * 0)) = _
  simp
theorem bytesOf_readNat_one (m : Memory) (a : Nat) : bytesOf 1 (Memory.readNat m a 1) = [Sp.get m a] := by
  show [BitVec.ofNat 8 (((Sp.get m a).toNat + 256 * 0) / 1)] = _
  simp
theorem modCell_cur (s : State) (f : Cell → Cell) : modCell s s.cur f = { s with cell := f s.cell } := by
  simp [modCell, putCell, getCell]
theorem focus_cur (s : State) : focus s s.cur = s := if_pos rfl
theorem within_cur {s : State} {f : State → State} (h : (f s).cur = s.cur) : within s s.cur f = f s := by
  unfold within
  rw [focus_cur, ← h, focus_cur]
theorem State.padStore_awake {s : State} (a n v : Nat) (h : s.cell.sleepers = []) :
    s.padStore a n v = { s with cell := (s.cell.modPad (·.write a n v)).awake } := by
  rw [← Cell.store_eq a n v h]
  unfold State.padStore
  rw [h]
  rfl

section
variable {q : Port} {s : State} {y : Part} {off : BitVec 36} (hy : part s (s.port q).winPart.toNat = some y)
include hy

omit hy in
theorem State.hostPlaces_byte {va : Nat} {t : Target} {x : HostAt} {wr : Bool}
    (h : s.hostAt q (s.port q).winPart.toNat y va wr = .at_ t) : s.hostPlaces q y [(va, x)] wr = [t] := by
  simp only [State.hostPlaces, List.filterMap_cons, List.filterMap_nil, h]
/-- A byte of scratchpad in the window that the port may write is written at its place. -/
theorem exec_bar2Write_pad {b : Byte} {n o : Nat}
    (h : s.hostAt q (s.port q).winPart.toNat y (((s.port q).winBase.toNat * 2 ^ 36 + off.toNat) % 2 ^ 45) true = .at_ (.pad n o)) :
    exec (.bar2Write q off [b]) s = .next (within s n (·.padStore o 1 (natOf [b]))) := by
  show execBar2Write q off [b] s = _
  simp only [execBar2Write, List.length_singleton, State.hostAccess_byte hy h, List.foldl_cons, List.foldl_nil, State.raiseIsland,
    State.hostPlaces_byte h]
  rfl
/-- A byte of scratchpad in the window that the port may read is read at its place. -/
theorem exec_bar2Read_pad {n o : Nat}
    (h : s.hostAt q (s.port q).winPart.toNat y (((s.port q).winBase.toNat * 2 ^ 36 + off.toNat) % 2 ^ 45) false = .at_ (.pad n o))
    (hb : (getCell (modCell s n Cell.awake) n).badRead o 1 = none) :
    exec (.bar2Read q off 1) s = .next (((modCell (modCell s n Cell.awake) n (·.touched o 1)).modPort q fun x =>
      { x with reads := x.reads ++ [some (bytesOf 1 ((getCell (modCell s n Cell.awake) n).bytes o 1))] })) := by
  have hg : s.hostGet ⟨.pad n o, .pad n o, [0]⟩ = (modCell (modCell s n Cell.awake) n (·.touched o 1),
      some (bytesOf 1 ((getCell (modCell s n Cell.awake) n).bytes o 1))) := by
    simp only [State.hostGet, State.globalRead, List.length_singleton, hb]
    rfl
  show execBar2Read q off 1 s = _
  simp only [execBar2Read, State.hostAccess_byte hy h, List.foldl_cons, List.foldl_nil, State.raiseIsland,
    State.hostPlaces_byte h, List.map_cons, List.map_nil, hostRuns, hg]
  rfl
omit hy in
/-- An access that faults, or that a table refuses, changes only the counts of what is refused. -/
theorem exec_bar2Write_stops {bs : List Byte} {l : List (Nat × HostAt)}
    (ha : s.hostAccess q off.toNat bs.length true = some ((s.port q).winPart.toNat, y, l)) (hs : l.any (·.2.stops) = true) :
    exec (.bar2Write q off bs) s = .next (s.refuseHost q l) := by
  show execBar2Write q off bs s = _
  simp only [execBar2Write, ha, hs, if_true]

end

end Sys2Proof.Machine

namespace Sys2Proof.Stated

open Machine

theorem hostRegisters : Sys2Proof.Stated.HostRegisters := by
  intro q s
  refine ⟨fun v => ?_, fun v => ?_, fun v => ?_, fun off l hl ho => ?_, fun l hl hs => ?_, fun off l hl ho => ?_, ?_,
    bar0Read_status, bar0Read_winsel, bar0Read_report, bar0Read_launch, fun off h1 h2 h3 h4 => ?_⟩
  · rw [exec_hostRegisterWrite (touchesReg_of_le (.inl (by decide))) (.inl (by decide))]
    simp only [show (0x110 : BitVec 16).toNat = 0x110 from rfl, touchesReg, bytesOf_length, PortSt.writeStatus_whole]
    rfl
  · rw [exec_hostRegisterWrite (touchesReg_of_le (.inl (by decide))) (.inl (by decide))]
    simp only [show (0x114 : BitVec 16).toNat = 0x114 from rfl, touchesReg, bytesOf_length, PortSt.writeStatus_herr]
    rfl
  · rw [exec_hostRegisterWrite (touchesReg_of_le (.inl (by decide))) (.inl (by decide))]
    simp only [show (0x118 : BitVec 16).toNat = 0x118 from rfl, touchesReg, bytesOf_length, PortSt.writeWinsel_whole]
    rfl
  · have hpos := List.length_pos_iff.mpr hl
    have hn : (BitVec.ofNat 16 (0x1000 + off)).toNat = 0x1000 + off := by
      rw [BitVec.toNat_ofNat]
      omega
    have hno {base size : Nat} (h : base + size ≤ 0x1000) : touchesReg base size (0x1000 + off) l = false :=
      touchesReg_of_le (.inl (Nat.le_add_right_of_le h))
    have hyes : touchesReg 0x1000 64 (0x1000 + off) l = true := touchesReg_of_lt (by omega) (by omega)
    refine ⟨((s.port q).writeLaunch (0x1000 + off) l).launch, ?_, fun i hi => PortSt.writeLaunch_byte _ off l hi⟩
    rw [exec_hostRegisterWrite (touchesReg_of_le (.inl (by omega))) (.inl (by omega))]
    simp only [hn, hno (base := 0x110) (size := 8) (by decide), hno (base := 0x118) (size := 8) (by decide),
      hno (base := 0x200) (size := 32) (by decide), hyes]
    exact congrArg _ State.modPort_writeLaunch
  · have hpos := List.length_pos_iff.mpr hl
    have hlen : (l.length == 32) = false := beq_eq_false_iff_ne.mpr hs.ne
    have hno {base size : Nat} (h : base + size ≤ 0x200) : touchesReg base size 0x200 l = false := touchesReg_of_le (.inl h)
    have hno' : touchesReg 0x1000 64 0x200 l = false := touchesReg_of_le (.inr (by omega))
    have hyes : touchesReg 0x200 32 0x200 l = true := touchesReg_of_lt (by decide) (by omega)
    rw [exec_hostRegisterWrite (touchesReg_of_le (.inl (by decide))) (.inl (by decide))]
    simp only [show (0x200 : BitVec 16).toNat = 0x200 from rfl, hno (base := 0x110) (size := 8) (by decide),
      hno (base := 0x118) (size := 8) (by decide), hno', hyes, State.writeToken, hlen, Bool.and_false, State.token_short]
    rfl
  · have hq {base size : Nat} (hs : 0 < size)
        (hb : ∀ i < l.length, ¬(base ≤ off.toNat + i ∧ off.toNat + i < base + size)) : touchesReg base size off.toNat l = false := by
      refine Bool.eq_false_iff.mpr fun e => ?_
      obtain ⟨i, hi, h⟩ := exists_byte_of_touchesReg hs hl e
      exact hb i hi h
    have hg : 0x108 < off.toNat ∨ off.toNat + l.length ≤ 0x108 := by
      have := ho (0x108 - off.toNat)
      omega
    rw [exec_hostRegisterWrite (hq (by decide) fun i hi => by have := ho i hi; omega) hg]
    simp only [hq (base := 0x110) (size := 8) (by decide) fun i hi => by have := ho i hi; omega,
      hq (base := 0x118) (size := 8) (by decide) fun i hi => by have := ho i hi; omega,
      hq (base := 0x200) (size := 32) (by decide) fun i hi => by have := ho i hi; omega,
      hq (base := 0x1000) (size := 64) (by decide) fun i hi => by have := ho i hi; omega, Bool.false_eq_true, if_false]
  · rw [bar0Read_hasp]
    rfl
  · rw [bar0Byte_eq, if_neg h1, if_neg (by omega), if_neg (by omega), if_neg h3, if_neg h4]

theorem hostAccess : Sys2Proof.Stated.HostAccess := by
  intro q s y hy
  refine ⟨fun d z h hn hr hz => ?_, fun d whole h => ?_, fun off b n o h hc hs => ?_, fun off bs hne ho hr hd => ?_, fun off b k h => ?_,
    fun off n o h hc hb => ?_⟩
  · refine ⟨_, tokenPkt q (s.port q).tokens d, congrArg Host.Outcome.next (State.token_taken hy h hn hr hz), ?_, rfl, rfl, rfl, rfl,
      ?_, rfl, tokenPkt_pay .., ?_, ?_⟩
    · cases q <;> rfl
    · cases q <;> rfl
    · cases q <;> rfl
    · cases q <;> rfl
  · exact congrArg Host.Outcome.next (State.token_discarded hy h)
  · subst hc
    have hp := State.padStore_awake o 1 (natOf [b]) hs
    refine ⟨_, (exec_bar2Write_pad hy h).trans (congrArg Host.Outcome.next ((within_cur ?_).trans hp)), ?_, rfl, rfl, rfl, rfl⟩
    · rw [hp]
    · exact Memory.writeNat_one ..
  · have hpos := List.length_pos_iff.mpr hne
    have ha := State.hostAccess_eq hy (wr := true) hpos.ne' ho
    obtain ⟨i, hi, hr⟩ := hr
    have hs : (((s.port q).window off.toNat bs.length).map fun va =>
        (va, s.hostAt q (s.port q).winPart.toNat y va true)).any (·.2.stops) = true :=
      List.any_eq_true.mpr ⟨_, List.mem_map.mpr ⟨_, PortSt.mem_window.mpr ⟨i, hi, rfl⟩, rfl⟩, by rw [hr]; rfl⟩
    rw [exec_bar2Write_stops ha hs, State.refuseHost_port fun e he k => ?_]
    · rfl
    · obtain ⟨va, hva, rfl⟩ := List.mem_map.mp he
      obtain ⟨j, hj, rfl⟩ := PortSt.mem_window.mp hva
      exact hd j hj k
  · rw [exec_bar2Write_stops (State.hostAccess_byte hy h) rfl, State.refuseHost_table]
  · subst hc
    have hg : getCell (modCell s s.cur Cell.awake) s.cur = s.cell.awake := by
      rw [modCell_cur]
      exact if_pos rfl
    have he := exec_bar2Read_pad hy h (by rw [hg]; exact hb)
    rw [hg, show s.cell.awake.bytes o 1 = Memory.readNat s.cell.pad.mem o 1 from rfl, bytesOf_readNat_one, modCell_cur,
      modCell_cur] at he
    refine ⟨_, he, ?_, ?_, ?_⟩
    · cases q <;> rfl
    · cases q <;> rfl
    · cases q <;> rfl

end Sys2Proof.Stated

/-- Settles O49: the registers (`hostRegisters`), and tokens and window accesses (`hostAccess`). -/
theorem hostRegistersAndAccess : Obligations.HostRegistersAndAccess :=
  ⟨Sys2Proof.Stated.hostRegisters, Sys2Proof.Stated.hostAccess⟩

/-! SUPPORT. How the routers forward a packet of a cell (R25, R26, R245, R260): the way that the five rules give, and one hop within a die. -/

namespace Sys2Proof.Machine

/-! ### Requests at a router (R26) -/

/-- A request is no control packet. -/
theorem Pkt.isControl_of_request {p : Pkt} (h : p.isReply = false) : p.isControl = false :=
  decide_eq_false (by have := of_decide_eq_false h; omega)

section
variable {s : State} {f : Flight}

/-- Routers learn from replies only (R25). -/
theorem State.learnAt_request {p : Pkt} (h : p.isReply = false) (pos port : Nat) : s.learnAt pos p port = s := by
  simp [State.learnAt, h]
theorem State.unreleased_of_plain (h : f.p.causal = none) : s.unreleased f = false := by simp [State.unreleased, h]
/-- Rule 1 looks no name up, or finds no entry. -/
theorem State.ruleOne_none (h : f.p.nolrn = true ∨ tableHit s f.pos f.p.dest = none) : s.ruleOne f = none := by
  rcases h with h | h <;> simp [State.ruleOne, h]
theorem State.ruleOne_some {e : NameEnt} (hr : f.p.isReply = false) (hl : f.p.nolrn = false)
    (h : tableHit s f.pos f.p.dest = some e) : s.ruleOne f = some e := by
  simp [State.ruleOne, hl, Pkt.isControl_of_request hr, h]
/-- A packet that rule 1 does not send goes by its place. -/
theorem State.way_byPlace (hc : f.p.causal = none) (h : s.ruleOne f = none) : s.way f = s.byPlace f := by
  simp [State.way, State.unreleased_of_plain hc, h]
/-- An entry's port is taken unless it is the local one, or R245 bars it. -/
theorem State.way_byEntry {e : NameEnt} (hc : f.p.causal = none) (h : s.ruleOne f = some e) (h4 : f.turned = true → e.port ≠ 4)
    (h0 : e.port ≠ 0) : s.way f = .port e.port.toNat := by
  have h4' : ¬(e.port = 4 ∧ f.turned = true) := fun ⟨hport, hturn⟩ => h4 hturn hport
  simp only [State.way, State.unreleased_of_plain hc, h, if_neg h4', if_neg h0, Bool.false_eq_true, if_false]
/-- No hop leads by the local port. -/
theorem port_ne_zero_of_hopFrom {pos r : Nat} {port : BitVec 3} (h : hopFrom pos port.toNat = some r) : port ≠ 0 := by
  rintro rfl
  cases h

section
variable {q : Pos} (hr : f.p.isReply = false) (hd : physDie s (nameDie f.p.dest.toNat) = some (posOf f.pos).die)
  (hq : curPos s f.p.dest.toNat = some q)
include hr hd hq

/-- At the router of its place (R26, rule 5). -/
theorem State.byPlace_there (h : routerOf q = f.pos) : s.byPlace f = .place := by
  simp [State.byPlace, hd, hq, Pkt.isControl_of_request hr, h]
/-- On its die, on the way to its place: dimension order, unless R245 bars the turn. -/
theorem State.byPlace_on (h : routerOf q ≠ f.pos)
    (ht : ¬(towards (posOf f.pos).col (posOf f.pos).row q.col q.row = 4 ∧ f.turned = true)) :
    s.byPlace f = .port (towards (posOf f.pos).col (posOf f.pos).row q.col q.row) := by
  simp [State.byPlace, hd, hq, Pkt.isControl_of_request hr, h, ht]

end

/-- X first, then Y, from one place to another. -/
theorem towards_of_ne {x y tx ty : Nat} (h : x ≠ tx ∨ y ≠ ty) :
    towards x y tx ty = if x < tx then 2 else if tx < x then 4 else if y < ty then 3 else 1 := by
  unfold towards
  split_ifs <;> omega
/-- It moves north or south exactly where the columns agree. -/
theorem towards_turns {x y tx ty : Nat} (h : x ≠ tx ∨ y ≠ ty) :
    (towards x y tx ty == 1 || towards x y tx ty == 3) = decide (x = tx) := by
  rw [towards_of_ne h]
  split_ifs <;> simp <;> omega
theorem towards_eq_west {x y tx ty : Nat} : towards x y tx ty = 4 ↔ tx < x := by
  unfold towards
  split_ifs <;> simp <;> omega

/-- A request moves one hop within its die where no tumbler holds it. -/
theorem State.hop_in_die {k port r : Nat} (hr : f.p.isReply = false) (hh : hopFrom f.pos port = some r)
    (hdie : r / 16384 = f.pos / 16384) (ho : s.enters f (posOf r) = false ∨ s.boundaryShut f = false) :
    s.hop k f port = s.setFlight k { f with pos := r, turned := f.turned || port == 1 || port == 3, held := false } := by
  have hs : (s.enters f (posOf r) && s.boundaryShut f) = false := by rcases ho with h | h <;> simp [h]
  simp [State.hop, hh, hdie, hs, State.learnAt_request hr]

end

/-! ### One event of a router -/

section
variable {s : State} {k : Nat} {f : Flight} (hf : s.mnet[k]? = some f) (hm : f.phase = .moving) (hr : f.p.isReply = false)
include hf hm hr

/-- A request that its router sends on by place. -/
theorem exec_routerForward_hop {port : Nat} (h1 : s.ruleOne f = none) (hw : s.way f = .port port) :
    exec (.routerForward k) s = .next (s.hop k f port) := by
  show execRouterForward k s = _
  simp [execRouterForward, hf, hm, State.learnAt_request hr, h1, hw]
/-- A request at the router of its place. -/
theorem exec_routerForward_place (h1 : s.ruleOne f = none) (hw : s.way f = .place) :
    exec (.routerForward k) s = .next (s.atPlace k f) := by
  show execRouterForward k s = _
  simp [execRouterForward, hf, hm, State.learnAt_request hr, h1, hw]
/-- A request that an entry sends on: the entry's age is reset. -/
theorem exec_routerForward_entry {e : NameEnt} {port : Nat} (h1 : s.ruleOne f = some e) (hw : s.way f = .port port) :
    exec (.routerForward k) s = .next ((s.hitAge f.pos f.p.dest).hop k f port) := by
  show execRouterForward k s = _
  simp [execRouterForward, hf, hm, State.learnAt_request hr, h1, hw]

end

/-- After a hit the entries of the name have age 0 (R25). -/
theorem age_of_hitAge {s : State} {pos : Nat} {n : Name} {x : NameEnt} (h : x ∈ nameTable (s.hitAge pos n) pos) (hx : x.name = n) :
    x.age = 0 := by
  rw [nameTable, State.hitAge, KM.get_put_same] at h
  obtain ⟨e, -, rfl⟩ := List.mem_map.mp h
  split
  · rfl
  · next hn =>
    rw [if_neg hn] at hx
    exact absurd (beq_iff_eq.mpr hx) hn

end Sys2Proof.Machine

namespace Sys2Proof.Stated

open Machine

theorem routersForward : Sys2Proof.Stated.RoutersForward := by
  intro k f s hf hm hr hc
  refine ⟨fun q hl hd hq => ?_, fun e r hl ht hturn hh hdie ho => ?_⟩
  · have h1 := State.ruleOne_none hl
    have hway := State.way_byPlace hc h1
    refine ⟨fun hthere hname hlater => ?_, fun r hon hh hdie hne hturn ho => ?_⟩
    · rw [exec_routerForward_place hf hm hr h1 (hway.trans (State.byPlace_there hr hd hq hthere))]
      simp [State.atPlace, hname, State.arriveAt, hlater, State.setFlight]
    · have hwest : ¬(towards (posOf f.pos).col (posOf f.pos).row q.col q.row = 4 ∧ f.turned = true) := by
        rw [towards_eq_west]
        exact fun h => absurd (hturn h.2) (by omega)
      rw [← towards_of_ne hne] at hh
      rw [exec_routerForward_hop hf hm hr h1 (hway.trans (State.byPlace_on hr hd hq hon hwest)), State.hop_in_die hr hh hdie ho,
        Bool.or_assoc, towards_turns hne]
      rfl
  · have h1 := State.ruleOne_some hr hl ht
    have hway := State.way_byEntry hc h1 hturn (port_ne_zero_of_hopFrom hh)
    have hport (n : BitVec 3) : (e.port.toNat == n.toNat) = (e.port == n) := by
      rw [Bool.eq_iff_iff, beq_iff_eq, beq_iff_eq, BitVec.toNat_inj]
    refine ⟨_, exec_routerForward_entry hf hm hr h1 hway, ?_⟩
    rw [State.hop_in_die (s := s.hitAge f.pos f.p.dest) hr hh hdie ho]
    refine ⟨?_, fun x hx => age_of_hitAge hx⟩
    rw [← hport 1, ← hport 3]
    rfl

theorem nameTablesAge : Sys2Proof.Stated.NameTablesAge := by
  refine ⟨fun die s => ?_, fun die u s => rfl⟩
  have hage (e : NameEnt) : (if e.age = 15 then e else { e with age := e.age + 1 }) =
      { e with age := if e.age = 15 then 15 else e.age + 1 } := by
    split
    · next h => rw [← h]
    · rfl
  show execNameTableAgeing die s = _
  simp only [execNameTableAgeing, State.mapTables, hage]

end Sys2Proof.Stated

/-- Settles O35: forwarding by the way that the rules of R26 give (`routersForward`), and the ageing of the tables (`nameTablesAge`). -/
theorem packetsTravel : Obligations.PacketsTravel :=
  ⟨Sys2Proof.Stated.routersForward, Sys2Proof.Stated.nameTablesAge⟩

namespace Sys2Proof.Stated

open Machine

/-- The panel before its first boot is in canonical form (R6, R209). -/
theorem canonical_reset : Canonical State.reset := by
  obtain ⟨hpad, hstore, htables, hhost⟩ := reset_memories_wf
  exact ⟨hpad, fun _ hx => absurd hx List.not_mem_nil, hstore, htables, hhost, fun _ hc => absurd hc List.not_mem_nil,
    fun _ hk => absurd hk List.not_mem_nil, rfl, rfl, rfl⟩
/-- Every thread starts with the register values of the manual (R78, R139, R140). -/
theorem reset_registers : ∀ t : TIdx, (State.reset.cell.th t).fmt = 0x2E00 ∧ (State.reset.cell.th t).mshape = 0x0BAE33 ∧
    (State.reset.cell.th t).pp = false ∧ (State.reset.cell.th t).link = 0 := by decide
/-- T0 is stopped, the other threads are free (R78). -/
theorem reset_threads : (State.reset.cell.th 0).st = .stopped ∧ ∀ t : TIdx, t ≠ 0 → (State.reset.cell.th t).st = .free := by decide

end Sys2Proof.Stated

open Sys2Proof Sys2Proof.Machine Sys2Proof.Stated in
/-- Settles O59: the fields of the reset state are their defaults, and every memory and table is empty (`canonical_reset`). -/
theorem resetState : Obligations.ResetState := by
  obtain ⟨ht0, hfree⟩ := reset_threads
  exact ⟨rfl, rfl, rfl, rfl, rfl, rfl, rfl, rfl, rfl, rfl, rfl, rfl, ht0, hfree, reset_registers, canonical_reset⟩

/-! SUPPORT. The controller beside its requests (R17, R19, R300, R385 to R387): the records of power-up, the ends that the watchdog gives,
the tags of a gateway. -/

namespace Sys2Proof.Machine

/-! ### Defect records and power-up (R17, R19, R385) -/

/-- The delta record of a die that the self-test condemns: KIND 0x3, DIE, and the generation in force. -/
def condemnedRecord (die : DieSite) (gen : W32) : W64 := BitVec.ofNat 64 (3 + 2 ^ 4 * die.toNat + 2 ^ 32 * gen.toNat)

section
variable (die : DieSite) (gen : W32)

theorem condemnedRecord_toNat : (condemnedRecord die gen).toNat = 3 + 2 ^ 4 * die.toNat + 2 ^ 32 * gen.toNat := by
  have hd := die.isLt
  have hg := gen.isLt
  rw [condemnedRecord, BitVec.toNat_ofNat]
  omega
theorem recKind_condemnedRecord : recKind (condemnedRecord die gen) = 3 := by
  rw [recKind, BitVec.extractLsb'_toNat, condemnedRecord_toNat, Nat.shiftRight_eq_div_pow]
  omega
theorem recDie_condemnedRecord : recDie (condemnedRecord die gen) = die.toNat := by
  have hd := die.isLt
  rw [recDie, BitVec.extractLsb'_toNat, condemnedRecord_toNat, Nat.shiftRight_eq_div_pow]
  omega
theorem recOk_condemnedRecord : recOk (condemnedRecord die gen) = true := by
  have hd := die.isLt
  have hz : (condemnedRecord die gen).extractLsb' 24 8 = 0 := by
    refine BitVec.eq_of_toNat_eq ?_
    rw [BitVec.extractLsb'_toNat, condemnedRecord_toNat, Nat.shiftRight_eq_div_pow]
    show _ = 0
    omega
  simp [recOk, recKind_condemnedRecord, hz]

end

/-- The map records every die that the self-test condemns, from before or from now on. -/
theorem exists_record_of_condemned (s : State) {failed : List DieSite} {d : DieSite} (hd : d ∈ failed) :
    ∃ r ∈ s.factory ++ (s.delta ++ s.condemn failed), recOk r = true ∧ recKind r = 3 ∧ recDie r = d.toNat := by
  by_cases h : ((s.factory ++ s.delta).any fun r => recOk r && recKind r == 3 && recDie r == d.toNat) = true
  · obtain ⟨r, hr, hp⟩ := List.any_eq_true.mp h
    simp only [Bool.and_eq_true, beq_iff_eq] at hp
    obtain ⟨⟨hok, hkind⟩, hdie⟩ := hp
    refine ⟨r, ?_, hok, hkind, hdie⟩
    rw [← List.append_assoc]
    exact List.mem_append_left _ hr
  · refine ⟨condemnedRecord d s.mapgen, ?_, recOk_condemnedRecord .., recKind_condemnedRecord .., recDie_condemnedRecord ..⟩
    have hc : d ∈ failed.eraseDups.filter fun d =>
        !(s.factory ++ s.delta).any fun r => recOk r && recKind r == 3 && recDie r == d.toNat :=
      List.mem_filter.mpr ⟨List.mem_eraseDups.mpr hd, by rw [Bool.not_eq_true] at h; rw [h]; rfl⟩
    exact List.mem_append_right _ (List.mem_append_right _ (List.mem_map.mpr ⟨d, hc, rfl⟩))
/-- The sites of the panel that some of them are not. -/
theorem mem_filter_not_contains {l : List Nat} {d : Nat} :
    (d ∈ (List.range 64).filter fun d => !l.contains d) ↔ d < 64 ∧ d ∉ l := by
  simp [List.mem_filter]
/-- A record is the generation over its low word (R17). -/
theorem insBits_generation (r : W64) (g : W32) : insBits r 32 32 g.toNat = g ++ r.extractLsb' 0 32 := by
  have hr := r.isLt
  have hg := g.isLt
  refine BitVec.eq_of_toNat_eq ?_
  rw [BitVec.toNat_append, BitVec.extractLsb'_toNat, ← Nat.shiftLeft_add_eq_or_of_lt (Nat.mod_lt _ (by decide)), Nat.shiftLeft_eq,
    insBits, BitVec.toNat_ofNat, Nat.shiftRight_zero]
  omega

/-! ### Requests that end (R382, R387) -/

@[simp] theorem State.respond_port (s : State) (q : Port) (r : Report) : (s.respond q r).port q =
    { s.port q with code := BitVec.ofNat 8 r.code, done := true, busy := false, pend := none, report := r.word256,
                    msix := (s.port q).msix ++ [0] } := State.modPort_port ..
@[simp] theorem State.respond_parts (s : State) (q : Port) (r : Report) : (s.respond q r).parts = s.parts := by
  cases q <;> rfl
@[simp] theorem State.respond_cell (s : State) (q : Port) (r : Report) : (s.respond q r).cell = s.cell := State.modPort_cell ..
@[simp] theorem State.respond_images (s : State) (q : Port) (r : Report) : (s.respond q r).images = s.images := State.modPort_images ..
/-- A request that ends leaves no request waiting where none waited. -/
theorem State.respond_pend {s : State} {q p : Port} {r : Report} (h : (s.port p).pend = none) : ((s.respond q r).port p).pend = none := by
  cases q with
  | a =>
    cases p with
    | a => rfl
    | b => exact h
  | b =>
    cases p with
    | a => exact h
    | b => rfl
/-- CODE stands in the low byte of REPORT. -/
theorem Report.word256_code (r : Report) : r.word256.extractLsb' 0 8 = BitVec.ofNat 8 r.code := by
  refine BitVec.eq_of_toNat_eq ?_
  rw [BitVec.extractLsb'_toNat, Report.word256, BitVec.toNat_ofNat, BitVec.toNat_ofNat, Nat.shiftRight_zero]
  omega
/-- A watchdog ends each request for an image, where no other request waits and nothing is pre-empted (R387). -/
theorem exec_controllerWatchdog {s : State} (ha : (s.port .a).pend = none) (hb : (s.port .b).pend = none)
    (hp : ∀ e ∈ s.parts, e.2.preempt = none) {i : Image} (hi : s.images = [i]) :
    exec .controllerWatchdog s = .next (({ s with images := [] } : State).endReq i.port i.part.toNat busyCode) := by
  have hpend (q p : Port) (r : Report) : ((({ s with images := [] } : State).respond q r).port p).pend = none := by
    refine State.respond_pend ?_
    cases p
    · exact ha
    · exact hb
  show execControllerWatchdog s = _
  simp only [execControllerWatchdog, hi, List.foldl_cons, List.foldl_nil, State.endReq, hpend, State.respond_parts]
  refine congrArg Host.Outcome.next (List.foldlRecOn (motive := fun t => t = _) _ _ rfl fun t ht e he => ?_)
  simp only [hp e he, ht]

/-! ### Gateways (R300, R380, R386) -/

/-- A tag that the panel behind a link has set is set as a bucket here: the same OP, NANP, ALL and WIDTH, and the same edges across the
link (R300). -/
def Globals.Alike (g : Globals) (b : Bucket) (link tag : Nat) (w : LinkTag) : Prop :=
  w.word.toNat % 2 ^ 21 = b.match_ tag ∧ ∀ u, u ∈ w.ups ↔ u ∈ (g.ups b.tree link).map fun n => (n.pname, BitVec.ofNat 3 n.lbl)

/-- The tag that is found is the one looked for. -/
theorem tag_of_find? {remote : List LinkTag} {tag : Nat} {w : LinkTag}
    (h : (remote.find? fun w => w.word.toNat % 2 ^ 12 == tag) = some w) : w.word.toNat % 2 ^ 12 = tag := by
  simpa using List.find?_some h

section
variable {g : Globals} {b : Bucket} {link tag : Nat} {remote : List LinkTag} (hb : KM.get g.bucks tag = some b)
include hb

/-- The two sides agree where the tag that is found behind the link is set alike. -/
theorem Globals.agrees_iff : g.agrees link tag remote = true ↔
    ∃ w, (remote.find? fun w => w.word.toNat % 2 ^ 12 == tag) = some w ∧ g.Alike b link tag w := by
  unfold Globals.agrees
  rw [hb]
  cases remote.find? fun w => w.word.toNat % 2 ^ 12 == tag with
  | none => simp
  | some w =>
    simp only [Option.some.injEq, exists_eq_left', Globals.Alike, Bool.and_eq_true, beq_iff_eq, List.all_eq_true,
      List.contains_iff_mem, and_assoc]
    exact and_congr_right fun _ => ⟨fun h u => ⟨h.2 u, h.1 u⟩, fun h => ⟨fun u => (h u).mpr, fun u => (h u).mp⟩⟩
theorem Globals.agrees_of_alike (hex : ∃ w ∈ remote, w.word.toNat % 2 ^ 12 = tag)
    (h : ∀ w ∈ remote, w.word.toNat % 2 ^ 12 = tag → g.Alike b link tag w) : g.agrees link tag remote = true := by
  obtain ⟨v, hv, ht⟩ := hex
  obtain ⟨w, hw⟩ := Option.isSome_iff_exists.mp (List.find?_isSome.mpr ⟨v, hv, beq_iff_eq.mpr ht⟩ :
    (remote.find? fun w => w.word.toNat % 2 ^ 12 == tag).isSome = true)
  exact (Globals.agrees_iff hb).mpr ⟨w, hw, h w (List.mem_of_find?_eq_some hw) (tag_of_find? hw)⟩
theorem Globals.agrees_of_none_alike (h : ∀ w ∈ remote, w.word.toNat % 2 ^ 12 = tag → ¬g.Alike b link tag w) :
    g.agrees link tag remote = false := by
  refine Bool.eq_false_iff.mpr fun e => ?_
  obtain ⟨w, hw, ha⟩ := (Globals.agrees_iff hb).mp e
  exact h w (List.mem_of_find?_eq_some hw) (tag_of_find? hw) ha

end

/-- A frame that a link without a gateway brings is dropped and counted. -/
theorem State.linkIn_no_gateway {s : State} (h : s.gateways = []) (link : Nat) (remote : List LinkTag) (f : LinkFrame) :
    s.linkIn link remote f =
      { s with crossing := Sp.set s.crossing (256 + link) (satInc (Sp.get s.crossing (256 + link))) } := by
  simp [State.linkIn, h, countDie]

theorem exec_panelGatewayExchange_no_gateway {s : State} (h : s.gateways = []) (link : BitVec 4) (remote : List LinkTag) (f : LinkFrame) :
    exec (.panelGatewayExchange link ⟨remote, [f]⟩) s = .next (s.linkIn link.toNat remote f) := by
  show execPanelGatewayExchange link ⟨remote, [f]⟩ s = _
  simp [execPanelGatewayExchange, h]

section
variable {s : State} {g : Gateway} {x : Part} {link : BitVec 4} {tag : Nat} (hg : s.gateways = [g]) (hl : g.link = link.toNat)
  (hx : part s g.part.toNat = some x) (ht : g.tags = [tag])
include hg hl hx ht

/-- An exchange over the link of the one gateway, of one tag. -/
theorem exec_panelGatewayExchange (remote : LinkInput) : exec (.panelGatewayExchange link remote) s =
    .next (remote.frames.foldl (fun s f => s.linkIn link.toNat remote.tags f)
      (if x.globals.agrees link.toNat tag remote.tags then s
       else s.reportTo1 x.port { code := outOfRange, part := g.part.toNat, round := s.roundOf g.part.toNat })) := by
  show execPanelGatewayExchange link remote s = _
  simp [execPanelGatewayExchange, hg, hl, hx, ht]
/-- A contribution of that tag for a node of the partition, on whose tag both sides agree. -/
theorem State.linkIn_contrib {remote : List LinkTag} {t : BitVec 12} {c n : Name} {lbl : BitVec 3} {k : LinkPart} (htag : tag = t.toNat)
    (ha : (link.toNat, g.part.toNat, true) ∈ s.linkAccess) (hok : x.globals.agrees link.toNat tag remote = true)
    (hc : x.farChild link.toNat tag n lbl.toNat = true) :
    s.linkIn link.toNat remote (.contrib t c n lbl k) = s.sput (.contrib g.part n lbl.toNat (linkContribution tag k)) := by
  subst htag
  have hany : (s.linkAccess.any fun a => a.1 == link.toNat && a.2.1 == g.part.toNat && a.2.2) = true :=
    List.any_eq_true.mpr ⟨_, ha, by simp⟩
  simp [State.linkIn, hg, hl, ht, frameTag, hany, hx, State.frameIn, hok, hc]

end

end Sys2Proof.Machine

namespace Sys2Proof.Stated

open Machine

/-- A request that ends (R382): the port that it leaves, of a state whose port was that of `s`. -/
theorem ended_endReq {s s' : State} {q : Port} (h : s'.port q = s.port q) (p code : Nat) : Ended s (s'.endReq q p code) q code := by
  rw [Ended, State.endReq, State.respond_port, h]
  exact ⟨rfl, rfl, rfl, rfl, Report.word256_code _⟩

end Sys2Proof.Stated

open Sys2Proof Sys2Proof.Machine Sys2Proof.Stated in
/-- Settles O50: the records of power-up (`exists_record_of_condemned`), the end that the watchdog gives (`exec_controllerWatchdog`), and the
tags of a gateway (`Globals.agrees_of_alike`, `Globals.agrees_of_none_alike`). -/
theorem management : Obligations.Management := by
  intro s
  refine ⟨fun failed => ?_, fun r => ?_, fun m hm => ?_, fun v => rfl, fun i hi ha hb hp => ?_, fun link f hg => ?_,
    fun link remote g x tag b hg hl hx ht hb => ⟨fun hno => ?_, fun hex hall => ⟨?_, fun c n lbl k ha hc => ?_⟩⟩⟩
  · refine ⟨_, rfl, rfl, rfl, rfl, rfl, rfl, fun d hd => exists_record_of_condemned s hd, rfl, rfl, rfl, rfl,
      fun d => mem_filter_not_contains, List.pairwise_lt_range.filter _, fun d hd => ?_, rfl, rfl⟩
    refine List.mem_filter.mpr ⟨List.mem_range.mpr d.isLt, ?_⟩
    have hany : (failed.any (·.toNat == d.toNat)) = true := List.any_eq_true.mpr ⟨d, hd, beq_self_eq_true _⟩
    rw [State.deadDie, hany, Bool.or_true, Bool.true_or]
  · show execDeltaRecordAppend r s = _
    rw [execDeltaRecordAppend, insBits_generation]
  · have hany : (s.mgmtAccess.any (·.1 == 128)) = true := by
      obtain ⟨a, ha, h128⟩ := hm
      exact List.any_eq_true.mpr ⟨a, ha, beq_iff_eq.mpr h128⟩
    exact congrArg Host.Outcome.next (if_pos hany)
  · exact ⟨_, exec_controllerWatchdog ha hb hp hi, State.respond_images .., ended_endReq (by cases i.port <;> rfl) .., State.respond_parts ..,
      State.respond_cell ..⟩
  · rw [exec_panelGatewayExchange_no_gateway hg, State.linkIn_no_gateway hg]
  · refine ⟨_, exec_panelGatewayExchange hg hl hx ht ⟨remote, []⟩, ?_⟩
    rw [Globals.agrees_of_none_alike hb hno, if_neg Bool.false_ne_true, List.foldl_nil, State.reportTo1, State.modPort_port]
    refine ⟨?_, rfl, ?_⟩
    · rw [Report.word256_image _ _ _ _ (by decide) g.part.isLt]
      rfl
    · cases x.port <;> rfl
  · rw [exec_panelGatewayExchange hg hl hx ht, Globals.agrees_of_alike hb hex hall]
    rfl
  · have hok := Globals.agrees_of_alike hb hex hall
    rw [exec_panelGatewayExchange hg hl hx ht, hok]
    exact congrArg Host.Outcome.next (State.linkIn_contrib hg hl hx ht rfl ha hok hc)

open Sys2Proof Sys2Proof.Machine in
/-- Refutes O38: what it says of a table update leaves out that the tables are in canonical form (R6, R209). Of kept tables that list
byte 0 twice, a write of zero takes the first listing away and uncovers the second, so that the entry reads as 2, not as the 0 written. -/
theorem not_translationAndStores : ¬Obligations.TranslationAndStores := by
  unfold Obligations.TranslationAndStores
  rintro ⟨-, -, -, -, -, -, hkept, -, -⟩
  let kept : SavedPart :=
    { num := 0, ctx := 0, part := { port := .a, dies := [] }, tabs := [(0, 1), (0, 2)], resid := [], sres := [], cres := [] }
  obtain ⟨t, ht, hread⟩ := hkept 0 0 0 { savedParts := [kept] } rfl rfl
  have hs : t.savedParts = [{ kept with tabs := Memory.writeNat kept.tabs 0 8 0 }] := by
    injection ht with ht
    rw [← ht]
    rfl
  have h0 := hread { kept with tabs := Memory.writeNat kept.tabs 0 8 0 } (hs ▸ List.mem_singleton_self _) rfl (by decide)
  exact absurd h0 (by decide)

/-! SUPPORT. The words of every instruction decode to it (R47 to R53). -/

namespace Sys2Proof.Laws
/-- Every instruction's words decode to it, by its own lemma; an event has no words and is not well-formed. -/
theorem roundTrip (i : Instr) : RoundTrip.Statement i := by
  cases i with
  | nop h => exact RoundTrip.nop h
  | br h o => exact RoundTrip.br h o
  | call h o => exact RoundTrip.call h o
  | jmp h a => exact RoundTrip.jmp h a
  | callr h a => exact RoundTrip.callr h a
  | ret h a => exact RoundTrip.ret h a
  | loop h a len x => exact RoundTrip.loop h a len x
  | stop h => exact RoundTrip.stop h
  | bcast h mask len off => exact RoundTrip.bcast h mask len off
  | fetchb h a => exact RoundTrip.fetchb h a
  | joinm h d a => exact RoundTrip.joinm h d a
  | joinmF h d a => exact RoundTrip.joinmF h d a
  | yield h => exact RoundTrip.yield h
  | hret h => exact RoundTrip.hret h
  | trap h a code => exact RoundTrip.trap h a code
  | brk h a code => exact RoundTrip.brk h a code
  | tctlResume h a => exact RoundTrip.tctlResume h a
  | tctlKill h a => exact RoundTrip.tctlKill h a
  | tctlReset h a => exact RoundTrip.tctlReset h a
  | sysrd h d n => exact RoundTrip.sysrd h d n
  | syswr h d n => exact RoundTrip.syswr h d n
  | fpcWrite h d => exact RoundTrip.fpcWrite h d
  | add h d a b x => exact RoundTrip.add h d a b x
  | sub h d a b x => exact RoundTrip.sub h d a b x
  | mul h d a b x => exact RoundTrip.mul h d a b x
  | mulh h d a b x => exact RoundTrip.mulh h d a b x
  | div h d a b x => exact RoundTrip.div h d a b x
  | rem h d a b x => exact RoundTrip.rem h d a b x
  | and h d a b x => exact RoundTrip.and h d a b x
  | or h d a b x => exact RoundTrip.or h d a b x
  | xor h d a b x => exact RoundTrip.xor h d a b x
  | andn h d a b x => exact RoundTrip.andn h d a b x
  | shl h d a b x => exact RoundTrip.shl h d a b x
  | shr h d a b x => exact RoundTrip.shr h d a b x
  | min h d a b => exact RoundTrip.min h d a b
  | max h d a b => exact RoundTrip.max h d a b
  | minu h d a b => exact RoundTrip.minu h d a b
  | maxu h d a b => exact RoundTrip.maxu h d a b
  | bitc h d a x => exact RoundTrip.bitc h d a x
  | ext h d a sgn x => exact RoundTrip.ext h d a sgn x
  | mov h d a x => exact RoundTrip.mov h d a x
  | cmp h cond pd a b x => exact RoundTrip.cmp h cond pd a b x
  | fcmp h cond pd a b => exact RoundTrip.fcmp h cond pd a b
  | plog h pd na pa nb pb x => exact RoundTrip.plog h pd na pa nb pb x
  | pset h pd v => exact RoundTrip.pset h pd v
  | psetBit h pd a n => exact RoundTrip.psetBit h pd a n
  | psetAll h a => exact RoundTrip.psetAll h a
  | prd h d => exact RoundTrip.prd h d
  | ld h d a off x => exact RoundTrip.ld h d a off x
  | lds h d a off x => exact RoundTrip.lds h d a off x
  | st h d a off x => exact RoundTrip.st h d a off x
  | ldv h d a off => exact RoundTrip.ldv h d a off
  | stv h d a off => exact RoundTrip.stv h d a off
  | ldvBc h d a off => exact RoundTrip.ldvBc h d a off
  | aop h d a op => exact RoundTrip.aop h d a op
  | waita h d a b x => exact RoundTrip.waita h d a b x
  | vadd h d a b x => exact RoundTrip.vadd h d a b x
  | vsub h d a b x => exact RoundTrip.vsub h d a b x
  | vmul h d a b x => exact RoundTrip.vmul h d a b x
  | vfma h d a b x => exact RoundTrip.vfma h d a b x
  | vminmax h d a b x => exact RoundTrip.vminmax h d a b x
  | vun h d a x => exact RoundTrip.vun h d a x
  | vred h d a x => exact RoundTrip.vred h d a x
  | vcmp h pd m a b x => exact RoundTrip.vcmp h pd m a b x
  | vsel h d a b x => exact RoundTrip.vsel h d a b x
  | vshuf h d a b x => exact RoundTrip.vshuf h d a b x
  | vbc h d a b x => exact RoundTrip.vbc h d a b x
  | vlog h d a b x => exact RoundTrip.vlog h d a b x
  | vsh h d a b x => exact RoundTrip.vsh h d a b x
  | vlane h d a k x => exact RoundTrip.vlane h d a k x
  | vscale h d a b x => exact RoundTrip.vscale h d a b x
  | vrint h d a x => exact RoundTrip.vrint h d a x
  | cvt h d a t r x => exact RoundTrip.cvt h d a t r x
  | qblk h d a b x => exact RoundTrip.qblk h d a b x
  | dqblk h d a b x => exact RoundTrip.dqblk h d a b x
  | vspec h d a fn => exact RoundTrip.vspec h d a fn
  | pfx h fs fd sc rs => exact RoundTrip.pfx h fs fd sc rs
  | setfmt h sc ef rf rs => exact RoundTrip.setfmt h sc ef rf rs
  | setfmtF h ef rf => exact RoundTrip.setfmtF h ef rf
  | mlease h d m => exact RoundTrip.mlease h d m
  | mleaseTry h d m => exact RoundTrip.mleaseTry h d m
  | mrel h m => exact RoundTrip.mrel h m
  | mzero h m => exact RoundTrip.mzero h m
  | mma h t m a b x => exact RoundTrip.mma h t m a b x
  | mmr h t a b x => exact RoundTrip.mmr h t a b x
  | mstS h t a off => exact RoundTrip.mstS h t a off
  | mstR h d t => exact RoundTrip.mstR h d t
  | mstL h t a off => exact RoundTrip.mstL h t a off
  | cbload h a => exact RoundTrip.cbload h a
  | mred h t a x => exact RoundTrip.mred h t a x
  | sbind h d a => exact RoundTrip.sbind h d a
  | sctlUnbind h d => exact RoundTrip.sctlUnbind h d
  | sctlDrain h d => exact RoundTrip.sctlDrain h d
  | sctlRewind h d => exact RoundTrip.sctlRewind h d
  | cget h d a b x => exact RoundTrip.cget h d a b x
  | cput h d a b x => exact RoundTrip.cput h d a b x
  | wopen h a n => exact RoundTrip.wopen h a n
  | wopenC h n => exact RoundTrip.wopenC h n
  | binit h a i => exact RoundTrip.binit h a i
  | barr h d i => exact RoundTrip.barr h d i
  | barrE h i => exact RoundTrip.barrE h i
  | barrP h d i => exact RoundTrip.barrP h d i
  | bwait h d a i => exact RoundTrip.bwait h d a i
  | send h d a b x => exact RoundTrip.send h d a b x
  | ratom h d a cls x => exact RoundTrip.ratom h d a cls x
  | clmask h d a x => exact RoundTrip.clmask h d a x
  | lrel h n => exact RoundTrip.lrel h n
  | lrelR h a => exact RoundTrip.lrelR h a
  | rdcon h d a b => exact RoundTrip.rdcon h d a b
  | rdconE h d a => exact RoundTrip.rdconE h d a
  | timeTnow h d => exact RoundTrip.timeTnow h d
  | timeTgvt h d => exact RoundTrip.timeTgvt h d
  | timeTdefer h d a b => exact RoundTrip.timeTdefer h d a b
  | fence h kind x => exact RoundTrip.fence h kind x
  | movi h d x imm => exact RoundTrip.movi h d x imm
  | addi h d a x imm => exact RoundTrip.addi h d a x imm
  | andi h d a x imm => exact RoundTrip.andi h d a x imm
  | ori h d a x imm => exact RoundTrip.ori h d a x imm
  | bfx h d a x lsb wm1 => exact RoundTrip.bfx h d a x lsb wm1
  | bfi h d a lsb wm1 => exact RoundTrip.bfi h d a lsb wm1
  | ldL h d a sgn x imm => exact RoundTrip.ldL h d a sgn x imm
  | stL h d a x imm => exact RoundTrip.stL h d a x imm
  | mmaL h t a b x steps skip mbase => exact RoundTrip.mmaL h t a b x steps skip mbase
  | mmrL h t a b x steps => exact RoundTrip.mmrL h t a b x steps
  | sbindL h d doff start => exact RoundTrip.sbindL h d doff start
  | cgetL h d a b x rows gstr => exact RoundTrip.cgetL h d a b x rows gstr
  | cputL h d a b x rows gstr => exact RoundTrip.cputL h d a b x rows gstr
  | sendL h a b x name chan cls => exact RoundTrip.sendL h a b x name chan cls
  | ratomL h d a opc cls post => exact RoundTrip.ratomL h d a opc cls post
  | rdconL h d a x loff wm1 => exact RoundTrip.rdconL h d a x loff wm1
  | _ => exact fun hw => nomatch hw
end Sys2Proof.Laws

/-- Settles O51, by the round trip of each instruction (`roundTrip`). -/
theorem encodingsDecode : Obligations.EncodingsDecode := Sys2Proof.Laws.roundTrip

/-! SUPPORT. What decodes is well-formed, and its words are those read (R47, R50, R53): a word is its fields side by side, and each group of
opcodes gives every field a place. -/

namespace Sys2Proof

open Decode Encode

/-! ### Fields side by side (Tables 02.4 to 02.7) -/

theorem append_extract {w : Nat} (k m n : Nat) (x : BitVec w) : (x.extractLsb' (k + n) m ++ x.extractLsb' k n) = x.extractLsb' k (m + n) := by
  ext i hi
  simp only [BitVec.getElem_append, BitVec.getElem_extractLsb']
  split
  · rfl
  · congr 1; omega
theorem append_extract_all (m n : Nat) (x : BitVec (m + n)) : (x.extractLsb' n m ++ x.extractLsb' 0 n) = x := by
  have e := append_extract 0 m n x
  rw [Nat.zero_add] at e
  exact e.trans (BitVec.extractLsb'_eq_self ..)
@[simp] theorem join_z1_f1 {x : BitVec 2} (h : x.extractLsb' 1 1 = 0#1) :
    (0#1 ++ x.extractLsb' 0 1 : BitVec 2) = x := h ▸ append_extract_all 1 1 x
@[simp] theorem join_z2_f1_f3 {x : BitVec 6} (h : x.extractLsb' 4 2 = 0#2) :
    (0#2 ++ x.extractLsb' 3 1 ++ x.extractLsb' 0 3 : BitVec 6) = x := by
  rw [← h, append_extract 3 2 1, append_extract_all 3 3]
@[simp] theorem join_z2_f4 {x : BitVec 6} (h : x.extractLsb' 4 2 = 0#2) :
    (0#2 ++ x.extractLsb' 0 4 : BitVec 6) = x := h ▸ append_extract_all 2 4 x
@[simp] theorem join_z2_f4_f6_f20 {x : BitVec 32} (h : x.extractLsb' 30 2 = 0#2) :
    (0#2 ++ x.extractLsb' 26 4 ++ x.extractLsb' 20 6 ++ x.extractLsb' 0 20 : BitVec 32) = x := by
  rw [← h, append_extract 26 2 4, append_extract 20 6 6, append_extract_all 12 20]
@[simp] theorem join_z3_f3 {x : BitVec 6} (h : x.extractLsb' 3 3 = 0#3) :
    (0#3 ++ x.extractLsb' 0 3 : BitVec 6) = x := h ▸ append_extract_all 3 3 x
@[simp] theorem join_z4_f2 {x : BitVec 6} (h : x.extractLsb' 2 4 = 0#4) :
    (0#4 ++ x.extractLsb' 0 2 : BitVec 6) = x := h ▸ append_extract_all 4 2 x
@[simp] theorem join_z5_f1 {x : BitVec 6} (h : x.extractLsb' 1 5 = 0#5) :
    (0#5 ++ x.extractLsb' 0 1 : BitVec 6) = x := h ▸ append_extract_all 5 1 x
@[simp] theorem join_z5_f15_z3_f1_f8 {x : BitVec 32} (h1 : x.extractLsb' 27 5 = 0#5) (h2 : x.extractLsb' 9 3 = 0#3) :
    (0#5 ++ x.extractLsb' 12 15 ++ 0#3 ++ x.extractLsb' 8 1 ++ x.extractLsb' 0 8 : BitVec 32) = x := by
  rw [← h1, ← h2, append_extract 12 5 15, append_extract 9 20 3, append_extract 8 23 1, append_extract_all 24 8]
@[simp] theorem join_z13_f3_z1_f15 {x : BitVec 32} (h1 : x.extractLsb' 19 13 = 0#13) (h2 : x.extractLsb' 15 1 = 0#1) :
    (0#13 ++ x.extractLsb' 16 3 ++ 0#1 ++ x.extractLsb' 0 15 : BitVec 32) = x := by
  rw [← h1, ← h2, append_extract 16 13 3, append_extract 15 16 1, append_extract_all 17 15]
@[simp] theorem join_z20_f6_f6 {x : BitVec 32} (h : x.extractLsb' 12 20 = 0#20) :
    (0#20 ++ x.extractLsb' 6 6 ++ x.extractLsb' 0 6 : BitVec 32) = x := by
  rw [← h, append_extract 6 20 6, append_extract_all 26 6]
@[simp] theorem join_z23_f1_f4_f4 {x : BitVec 32} (h : x.extractLsb' 9 23 = 0#23) :
    (0#23 ++ x.extractLsb' 8 1 ++ x.extractLsb' 4 4 ++ x.extractLsb' 0 4 : BitVec 32) = x := by
  rw [← h, append_extract 8 23 1, append_extract 4 24 4, append_extract_all 28 4]
@[simp] theorem join_z24_f8 {x : BitVec 32} (h : x.extractLsb' 8 24 = 0#24) :
    (0#24 ++ x.extractLsb' 0 8 : BitVec 32) = x := h ▸ append_extract_all 24 8 x
@[simp] theorem join_f2_z4 {x : BitVec 6} (h : x.extractLsb' 0 4 = 0#4) :
    (x.extractLsb' 4 2 ++ 0#4 : BitVec 6) = x := h ▸ append_extract_all 2 4 x
@[simp] theorem join_f2_f4 (x : BitVec 6) : (x.extractLsb' 4 2 ++ x.extractLsb' 0 4 : BitVec 6) = x := append_extract_all 2 4 x
@[simp] theorem join_f3_f3 (x : BitVec 6) : (x.extractLsb' 3 3 ++ x.extractLsb' 0 3 : BitVec 6) = x := append_extract_all 3 3 x
@[simp] theorem join_f4_z2 {x : BitVec 6} (h : x.extractLsb' 0 2 = 0#2) :
    (x.extractLsb' 2 4 ++ 0#2 : BitVec 6) = x := h ▸ append_extract_all 4 2 x
@[simp] theorem join_f4_f2 (x : BitVec 6) : (x.extractLsb' 2 4 ++ x.extractLsb' 0 2 : BitVec 6) = x := append_extract_all 4 2 x
@[simp] theorem join_f16_z1_f15 {x : BitVec 32} (h : x.extractLsb' 15 1 = 0#1) :
    (x.extractLsb' 16 16 ++ 0#1 ++ x.extractLsb' 0 15 : BitVec 32) = x := by
  rw [← h, append_extract 15 16 1, append_extract_all 17 15]
@[simp] theorem join_f20_f12 (x : BitVec 32) : (x.extractLsb' 12 20 ++ x.extractLsb' 0 12 : BitVec 32) = x := append_extract_all 20 12 x
theorem word0_fields (w : W32) : word0 (hdr w) (op w) (fieldD w) (fieldA w) (fieldB w) (fieldX w) = w := by
  unfold word0 hdr op fieldD fieldA fieldB fieldX
  ext i hi
  simp only [BitVec.getElem_append, BitVec.getElem_extractLsb']
  interval_cases i <;> simp [BitVec.getLsbD_eq_getElem]
@[simp] theorem wordJ_fields (h : Hdr) (o : BitVec 7) (d a b : BitVec 6) : wordJ h o (d ++ a ++ b) = word0 h o d a b 0 := by
  unfold wordJ word0
  ext i hi
  simp only [BitVec.getElem_append]
  interval_cases i <;> simp
/-- The number of a system register stands where A and B do. -/
@[simp] theorem wordY_eq_word0_iff {h : Hdr} {o : BitVec 7} {d a b : BitVec 6} {n : BitVec 12} :
    wordY h o d n = word0 h o d a b 0#2 ↔ a ++ b = n := by
  constructor
  · intro e
    simpa [e] using number_wordY h o d n
  · rintro rfl
    unfold wordY word0
    ext i hi
    simp only [BitVec.getElem_append]
    interval_cases i <;> simp
theorem wordK_fields (w : W32) (h0 : fieldX w = 0) : wordK (hdr w) (op w) (w.extractLsb' 13 7) (w.extractLsb' 10 3) (w.extractLsb' 2 8) = w := by
  have e : w.extractLsb' 0 2 = 0#2 := h0
  unfold wordK hdr op
  rw [← e]
  ext i hi
  simp only [BitVec.getElem_append, BitVec.getElem_extractLsb']
  interval_cases i <;> simp [BitVec.getLsbD_eq_getElem]
theorem wordF_fields (w : W32) (ho : op w = 0x44) (h0 : w.extractLsb' 0 4 = 0#4) :
    wordF (hdr w) (w.extractLsb' 16 4) (w.extractLsb' 12 4) (w.extractLsb' 6 6) (w.extractLsb' 4 2) = w := by
  have e : w.extractLsb' 20 7 = 0x44#7 := ho
  unfold wordF hdr
  rw [← h0, ← e]
  ext i hi
  simp only [BitVec.getElem_append, BitVec.getElem_extractLsb']
  interval_cases i <;> simp [BitVec.getLsbD_eq_getElem]

@[simp] theorem wordK_word0 (h : Hdr) (o : BitVec 7) (d a b : BitVec 6) : wordK h o ((word0 h o d a b 0#2).extractLsb' 13 7)
    ((word0 h o d a b 0#2).extractLsb' 10 3) ((word0 h o d a b 0#2).extractLsb' 2 8) = word0 h o d a b 0#2 := by
  simpa using wordK_fields (word0 h o d a b 0) (fieldX_word0 ..)
@[simp] theorem wordF_word0 {h : Hdr} {d a b : BitVec 6} {x : BitVec 2} (h0 : (word0 h 0x44#7 d a b x).extractLsb' 0 4 = 0#4) :
    wordF h ((word0 h 0x44#7 d a b x).extractLsb' 16 4) ((word0 h 0x44#7 d a b x).extractLsb' 12 4)
      ((word0 h 0x44#7 d a b x).extractLsb' 6 6) ((word0 h 0x44#7 d a b x).extractLsb' 4 2) = word0 h 0x44#7 d a b x := by
  simpa using wordF_fields (word0 h 0x44#7 d a b x) (op_word0 ..) h0

/-! ### The groups of opcodes (Table 02.8) -/

/-- What is decoded, if anything is, is a well-formed instruction of these words. -/
def Laid (ws : List W32) (r : Except DecodeError Instr) : Prop := ∀ i, r = .ok i → WellFormed i ∧ encode i = ws

section
variable {ws : List W32} {r : Except DecodeError Instr}

@[simp] theorem laid_ok {i : Instr} : Laid ws (.ok i) ↔ wellFormed i = true ∧ encode i = ws := by simp [Laid]
@[simp] theorem laid_error {e : DecodeError} : Laid ws (.error e) := by simp [Laid]
@[simp] theorem laid_allowed {c : Prop} [Decidable c] : Laid ws (allowed c r) ↔ (c → Laid ws r) := by
  unfold allowed
  split <;> simp [*]
@[simp] theorem laid_unusedZero {c : Prop} [Decidable c] : Laid ws (unusedZero c r) ↔ (c → Laid ws r) := by
  unfold unusedZero
  split <;> simp [*]
theorem Laid.ite {c : Prop} [Decidable c] {r' : Except DecodeError Instr} (h : c → Laid ws r) (h' : ¬c → Laid ws r') :
    Laid ws (if c then r else r') := by
  split
  · next hc => exact h hc
  · next hc => exact h' hc

end

section
variable {n : Nat} {h : Hdr} {d a b : BitVec 6} {x : BitVec 2} {w v : W32} (hg : ¬(h.gn = true ∧ h.gp = 0))
include hg

theorem laid_decScalar : Laid [word0 h (BitVec.ofNat 7 n) d a b x] (decScalar n h d a b x) := by
  unfold decScalar
  (repeat' split) <;> simp_all +contextual [wellFormed, encode]
theorem laid_decMemory : Laid [word0 h (BitVec.ofNat 7 n) d a b x] (decMemory n h d a b x) := by
  unfold decMemory
  (repeat' split) <;> simp_all +contextual [wellFormed, encode]
theorem laid_decMatrix : Laid [word0 h (BitVec.ofNat 7 n) d a b x] (decMatrix n h d a b x) := by
  unfold decMatrix
  (repeat' split) <;> simp_all +contextual [wellFormed, encode]
theorem laid_decEngine : Laid [word0 h (BitVec.ofNat 7 n) d a b x] (decEngine n h d a b x) := by
  unfold decEngine
  (repeat' split) <;> simp_all +contextual [wellFormed, encode]
theorem laid_decLong : Laid [word0 h (BitVec.ofNat 7 n) d a b x, v] (decLong n h d a b x v) := by
  unfold decLong
  (repeat' split) <;> simp_all +contextual [wellFormed, encode]
theorem laid_decControl (hw : w = word0 h (BitVec.ofNat 7 n) d a b x) : Laid [w] (decControl n h d a b x w) := by
  unfold decControl
  (repeat' split) <;> simp_all +contextual [wellFormed, encode]
theorem laid_decVector (hw : w = word0 h (BitVec.ofNat 7 n) d a b x) : Laid [w] (decVector n h d a b x w) := by
  unfold decVector
  (repeat' split) <;> simp_all +contextual [wellFormed, encode]

end

/-- Past the long forms no opcode is assigned (R53). -/
theorem decLong_unassigned {n : Nat} {h : Hdr} {d a b : BitVec 6} {x : BitVec 2} {v : W32} (hn : 0x70 ≤ n) :
    decLong n h d a b x v = .error .unassigned := by
  unfold decLong
  split
  case h_17 => rfl
  all_goals omega
theorem isLongWord_word0 (h : Hdr) (o : BitVec 7) (d a b : BitVec 6) (x : BitVec 2) :
    isLongWord (word0 h o d a b x) = decide (0x60 ≤ o.toNat ∧ o.toNat < 0x70) := by
  simp only [isLongWord, op_word0, Bool.beq_eq_decide_eq, decide_eq_decide]
  omega
/-- Every word, by the group of its opcode. -/
theorem laid_decode (w v : W32) : Laid (if isLongWord w then [w, v] else [w]) (decode w v) := by
  rw [← word0_fields w, isLongWord_word0]
  generalize hdr w = h, op w = o, fieldD w = d, fieldA w = a, fieldB w = b, fieldX w = x
  obtain ⟨n, hn⟩ : ∃ n, o.toNat = n := ⟨_, rfl⟩
  obtain rfl : o = BitVec.ofNat 7 n := by rw [← hn, BitVec.ofNat_toNat, BitVec.setWidth_eq]
  simp only [decode, hdr_word0, op_word0, fieldD_word0, fieldA_word0, fieldB_word0, fieldX_word0, hn, decide_eq_true_eq]
  refine .ite (fun _ => laid_error) fun hg => ?_
  by_cases hl : 0x60 ≤ n
  · simp only [if_neg (show ¬n < 0x10 by omega), if_neg (show ¬n < 0x28 by omega), if_neg (show ¬n < 0x30 by omega),
      if_neg (show ¬n < 0x48 by omega), if_neg (show ¬n < 0x50 by omega), if_neg (show ¬n < 0x60 by omega)]
    by_cases hu : n < 0x70
    · rw [if_pos ⟨hl, hu⟩]
      exact laid_decLong hg
    · rw [decLong_unassigned (Nat.not_lt.mp hu)]
      exact laid_error
  · rw [if_neg fun e => hl e.1]
    exact .ite (fun _ => laid_decControl hg rfl) fun _ => .ite (fun _ => laid_decScalar hg) fun _ => .ite (fun _ => laid_decMemory hg)
      fun _ => .ite (fun _ => laid_decVector hg rfl) fun _ => .ite (fun _ => laid_decMatrix hg) fun _ =>
      .ite (fun _ => laid_decEngine hg) fun h => absurd (Nat.not_lt.mp h) hl

end Sys2Proof

/-- Settles O52: every word is decoded by the group of its opcode, which gives each of its fields a place (`laid_decode`). -/
theorem decodedIsWellFormed : Obligations.DecodedIsWellFormed := fun w0 w1 => Sys2Proof.laid_decode w0 w1

/-! SUPPORT. Where a thread goes when an instruction falls through (R46, R93), LOOP, NOP and YIELD, and the end of a block (R71). -/

namespace Sys2Proof.Machine

/-! ### The word that follows (R46, R93) -/

theorem Loop.endsAt_iff {l : Loop} {n : Nat} : l.endsAt n = true ↔ l.active = true ∧ l.stop.toNat = n := by simp [Loop.endsAt]
theorem Loop.endsAt_false {l : Loop} {n : Nat} (h : l.active = true → l.stop.toNat ≠ n) : l.endsAt n = false :=
  Bool.eq_false_iff.mpr fun e => h (Loop.endsAt_iff.mp e).1 (Loop.endsAt_iff.mp e).2
theorem Loop.dec_again {l : Loop} (h : 1 < l.count.toNat) : l.dec = { l with count := l.count - 1 } := if_pos h
theorem Loop.dec_closes {l : Loop} (h : l.count.toNat ≤ 1) : l.dec = { l with active := false, count := 0 } := if_neg (Nat.not_lt.mpr h)

section
variable {l0 l1 : Loop} {n : Nat}

theorem nextOuter_on (h : l0.endsAt n = false) (hn : n < 1023) : nextOuter l0 l1 n = .at_ (BitVec.ofNat 10 (n + 1)) l0 l1 := by
  simp [nextOuter, h, Nat.ne_of_lt hn]
theorem nextOuter_again (h : l0.endsAt n = true) (hc : 1 < l0.count.toNat) :
    nextOuter l0 l1 n = .at_ l0.start { l0 with count := l0.count - 1 } l1 := by
  simp [nextOuter, h, Loop.dec_again hc, (Loop.endsAt_iff.mp h).1]
theorem nextOuter_closes (h : l0.endsAt n = true) (hc : l0.count.toNat ≤ 1) (hn : n < 1023) :
    nextOuter l0 l1 n = .at_ (BitVec.ofNat 10 (n + 1)) { l0 with active := false, count := 0 } l1 := by
  simp [nextOuter, h, Loop.dec_closes hc, Nat.ne_of_lt hn]

end

section
variable {x : Thread} {n : Nat} (hb : x.inb = false)
include hb

theorem Thread.next_outer (h : x.lp1.endsAt n = false) : x.next n = nextOuter x.lp0 x.lp1 n := by simp [Thread.next, hb, h]
theorem Thread.next_inner_again (h : x.lp1.endsAt n = true) (hc : 1 < x.lp1.count.toNat) :
    x.next n = .at_ x.lp1.start x.lp0 { x.lp1 with count := x.lp1.count - 1 } := by
  simp [Thread.next, hb, h, Loop.dec_again hc, (Loop.endsAt_iff.mp h).1]
theorem Thread.next_inner_closes (h : x.lp1.endsAt n = true) (hc : x.lp1.count.toNat ≤ 1) :
    x.next n = nextOuter x.lp0 { x.lp1 with active := false, count := 0 } n := by
  simp [Thread.next, hb, h, Loop.dec_closes hc]

end

theorem Thread.next_blockEnd {x : Thread} {n : Nat} (hb : x.inb = true) (h : n = x.blkAt.toNat + x.blkLen.toNat) :
    x.next n = .blockEnd := by simp [Thread.next, hb, h]

/-! ### A body that is done, or that goes on past another (R46, R51, R66, R93) -/

/-- A thread that uses up its prefix and is then sent on. -/
theorem usePfx_modMe_settle {s : State} {f : Thread → Thread} {pc : BitVec 10} {l0 l1 : Loop} {w : Bool}
    (hf : f { s.me with pp := false } = ({ s.me with pp := false, pc := pc, lp0 := l0, lp1 := l1 } : Thread).marker w) :
    (s.usePfx.modMe f).settle s.cell.last = s.modMe fun x => ({ x with pp := false, pc := pc, lp0 := l0, lp1 := l1 } : Thread).marker w := by
  have e : s.usePfx.modMe f = s.modTh s.cell.last fun x => ({ x with pp := false, pc := pc, lp0 := l0, lp1 := l1 } : Thread).marker w := by
    rw [State.usePfx, modMe_modMe, modMe_eq_modTh]
    exact modTh_congr hf
  rw [e, settle_marked]
  rfl
/-- A body that goes on as if a body ending at a word had run. -/
theorem after_skip {s s' : State} {h : Hdr} {len last : Nat} {pc : BitVec 10} {l0 l1 : Loop} (ht : s'.cell.last = s.cell.last)
    (hn : s'.me.next last = .at_ pc l0 l1) :
    s.after h len (.skip last s') = s'.modMe fun x => ({ x with pp := false, pc := pc, lp0 := l0, lp1 := l1 } : Thread).marker h.w := by
  have hp : Thread.next { s'.me with pp := false } last = .at_ pc l0 l1 := hn
  simp only [State.after, ← ht]
  refine usePfx_modMe_settle ?_
  simp only [hp]

/-! ### Ends of threads (R71, R94, R95, R181) -/

section
variable (c : Cell) (t : TIdx)

/-- The leases of the thread end; the others stay (R181). -/
@[simp] theorem Cell.dropLeases_owner (i : Nat) (h : i < 4) :
    (c.dropLeases t).mx.owner[i] = if c.mx.owner[i] = some t then none else c.mx.owner[i] := by
  simp [Cell.dropLeases]
@[simp] theorem Cell.dropLeases_th (u : TIdx) : (c.dropLeases t).th u = c.th u := rfl
@[simp] theorem Cell.dropLeases_last : (c.dropLeases t).last = c.last := rfl
@[simp] theorem Cell.dropLeases_inbox : (c.dropLeases t).inbox = c.inbox := rfl
@[simp] theorem Cell.modTh_dropLeases (u : TIdx) (f : Thread → Thread) : (c.modTh u f).dropLeases t = (c.dropLeases t).modTh u f := rfl
@[simp] theorem Cell.dropLeases_pad : (c.dropLeases t).pad = c.pad := rfl
/-- A stop raises a lead fault at most (R87). -/
theorem Cell.stopFault_only : c.stopFault = { c with lead := c.stopFault.lead } := by
  unfold Cell.stopFault Cell.leadFault
  repeat' split
  all_goals rfl
/-- The end of a timed handler touches the timed state alone (R323). -/
theorem Cell.endTimed_only : c.endTimed t = { c with tim := (c.endTimed t).tim } := by
  unfold Cell.endTimed
  repeat' split
  all_goals rfl

end

/-- A thread that is finishing, with nothing outstanding and nothing to drain. -/
theorem settle_finish {s : State} {t : TIdx} {f : Finish} (hw : (s.cell.th t).wait = .finish f) (ho : (s.cell.th t).outs = [])
    (hd : s.cell.drainsFirst t f = false) : s.settle t = (s.finish t f).leadOn f := by simp [State.settle, hw, ho, hd]
theorem Cell.drainsFirst_other {c : Cell} {t : TIdx} {f : Finish} (hf : f ≠ .kill true) : c.drainsFirst t f = false := by
  rw [Cell.drainsFirst, beq_eq_false_iff_ne.mpr hf, Bool.false_and]
/-- The end of a thread with nothing outstanding, any but a RESET, comes at once. -/
theorem endWith_now {s : State} {t : TIdx} {f : Finish} (h : (s.cell.th t).outs = []) (hf : f ≠ .kill true) :
    s.endWith t f = ((s.modTh t (·.finishing f)).finish t f).leadOn f :=
  settle_finish (by simp [Thread.finishing]) (by simpa [Thread.finishing] using h) (Cell.drainsFirst_other hf)
/-- A thread that waits for its results to end. -/
theorem endWith_waits {s : State} {t : TIdx} {f : Finish} (h : (s.cell.th t).outs ≠ []) : s.endWith t f = s.modTh t (·.finishing f) := by
  simp [State.endWith, State.settle, Thread.finishing, h]
theorem fall_blockEnd {s : State} {t : TIdx} {len : Nat} {w : Bool}
    (h : (s.cell.th t).next ((s.cell.th t).pc.toNat + len - 1) = .blockEnd) : s.fall t len w = s.endWith t .blockEnd := by
  unfold State.fall State.endWith
  rw [modTh_congr (g := (·.finishing .blockEnd))]
  simp [Thread.fall, h]
/-- A thread whose block ends. -/
theorem finish_blockEnd {s : State} {t : TIdx} (hd : (s.cell.th t).deferred = none) (hp : (s.cell.th t).pp = false) :
    s.finish t .blockEnd = modFocus s fun c => (c.dropLeases t).modTh t fun x => { x with st := .stopped, wait := .none, inb := false } := by
  simp [State.finish, hd, hp]
/-- The block of a thread that has nothing outstanding and no prefix pending ends at once. -/
theorem endWith_blockEnd {s : State} {t : TIdx} (ho : (s.cell.th t).outs = []) (hd : (s.cell.th t).deferred = none)
    (hp : (s.cell.th t).pp = false) :
    s.endWith t .blockEnd = modFocus s fun c =>
      (c.dropLeases t).modTh t fun x => { x with st := .stopped, wait := .none, wmark := false, inb := false } := by
  rw [endWith_now ho (f := .blockEnd) (by decide), finish_blockEnd (by simpa [Thread.finishing] using hd) (by simpa [Thread.finishing] using hp)]
  simp [State.leadOn, modFocus, State.modTh, Thread.finishing]
theorem finish_stop {s : State} {t : TIdx} (hd : (s.cell.th t).deferred = none) :
    s.finish t .stop =
      modFocus s fun c => ((c.dropLeases t).modTh t fun x => { x with st := .stopped, wait := .none, inb := false }).stopFault := by
  simp [State.finish, hd]
theorem finish_hret {s : State} {t : TIdx} (hd : (s.cell.th t).deferred = none) :
    s.finish t .hret = modFocus s fun c => ((c.endTimed t).dropLeases t).modTh t fun x =>
      { x with st := .free, wait := .none, inh := false, tmd := false } := by
  simp [State.finish, hd]

end Sys2Proof.Machine

namespace Sys2Proof.Stated

open Machine

section
variable {s : State} {h : Hdr} {pc : BitVec 10} {l0 l1 : Loop}

/-- A body that changes its thread, and goes on from there. -/
theorem after_done_modMe {len : Nat} {f : Thread → Thread} (hn : (f s.me).next ((f s.me).pc.toNat + len - 1) = .at_ pc l0 l1) :
    s.after h len (.done (s.modMe f)) = s.modMe fun x => goes pc l0 l1 h.w (f x) := by
  rw [after_done (s := s) (s' := s.modMe f) rfl (by rw [modMe_me]; exact hn), modMe_modMe]
  rfl
/-- One that goes on past the body that ends at a word. -/
theorem after_skip_modMe {len last : Nat} {f : Thread → Thread} (hn : (f s.me).next last = .at_ pc l0 l1) :
    s.after h len (.skip last (s.modMe f)) = s.modMe fun x => goes pc l0 l1 h.w (f x) := by
  rw [after_skip (s := s) (s' := s.modMe f) rfl (by rw [modMe_me]; exact hn), modMe_modMe]
  rfl
theorem exec_nop (hp : Passes s h) (hf : Follows s 1 pc l0 l1) : exec (.nop h) s = .next (s.modMe (goes pc l0 l1 h.w)) := by
  obtain ⟨hg, hpp, -⟩ := hp
  show issue .. = _
  rw [issue_passes rfl (.inr hpp) hg, after_done rfl hf]
  rfl

theorem exec_yield (hp : Passes s h) (hf : Follows s 1 pc l0 l1) :
    exec (.yield h) s = .next (s.modMe fun x => goes pc l0 l1 h.w { x with yielded := true }) := by
  obtain ⟨hg, hpp, -⟩ := hp
  show issue .. = _
  rw [issue_passes rfl (.inr hpp) hg, after_done_modMe (f := fun x => { x with yielded := true }) hf]

end

/-! ### LOOP (R93) -/

section
variable {h : Hdr} {a : Spec} {len : BitVec 6} {s : State} (hp : Passes s h) (hb : s.me.inb = false) (hs : srcOk a = true)
  (ha : s.anyBound [a] = false) (hl : len ≠ 0) (hend : s.me.pc.toNat + len.toNat ≤ 1023)

/-- The level that a LOOP of this thread opens. -/
def opened (s : State) (a : Spec) (len : BitVec 6) : Loop :=
  ⟨true, s.me.pc + 1, s.me.pc + BitVec.ofNat 10 len.toNat, (lane s a).setWidth 32⟩

/-- The thread with that level, as LOOP.OUT opens it. -/
def opensOuter (s : State) (a : Spec) (len : BitVec 6) (t : Thread) : Thread :=
  { t with lp0 := opened s a len, lp1 := { t.lp1 with active := false } }
/-- As LOOP.IN opens it. -/
def opensInner (s : State) (a : Spec) (len : BitVec 6) (t : Thread) : Thread := { t with lp1 := opened s a len }
/-- A thread with neither level open. -/
def closesBoth (t : Thread) : Thread := { t with lp0 := { t.lp0 with active := false }, lp1 := { t.lp1 with active := false } }
/-- A thread with its inner level closed. -/
def closesInner (t : Thread) : Thread := { t with lp1 := { t.lp1 with active := false } }

include hend in
theorem opened_stop : (opened s a len).stop.toNat = s.me.pc.toNat + len.toNat := by
  show (s.me.pc + BitVec.ofNat 10 len.toNat).toNat = _
  rw [BitVec.toNat_add, BitVec.toNat_ofNat]
  omega

include hp hb hs ha hl hend

/-- LOOP reads its count, and opens its level or passes over its body. -/
theorem exec_loop {x : BitVec 1} (hx : x = 1 → s.me.lp0.active = true → s.me.pc.toNat + len.toNat ≤ s.me.lp0.stop.toNat) :
    exec (.loop h a len x) s = .next (s.after h 1 (
      if (lane s a).toNat % 2 ^ 32 = 0 then
        .skip (s.me.pc.toNat + len.toNat) (s.modMe fun t => if x = 0 then closesBoth t else closesInner t)
      else .done (s.modMe fun t => if x = 0 then opensOuter s a len t else opensInner s a len t))) := by
  obtain ⟨hg, hpp, hc⟩ := hp
  have hsrc : s.src0 a = lane s a := congrArg lane0 (src_reg (anyBound_false ha (List.mem_cons_self ..)) hc)
  have hn : ((lane s a).extractLsb' 0 32 = 0) ↔ (lane s a).toNat % 2 ^ 32 = 0 := by
    rw [← BitVec.toNat_inj, BitVec.extractLsb'_toNat, Nat.shiftRight_zero]
    rfl
  have hst : BitVec.ofNat 10 (s.me.pc.toNat + len.toNat) = s.me.pc + BitVec.ofNat 10 len.toNat := by
    rw [BitVec.ofNat_add, BitVec.ofNat_toNat, BitVec.setWidth_eq]
  have hill : (s.inBlock || !srcOk a || len == 0 || decide (1023 < s.loopEnd len) ||
      (x == 1 && s.me.lp0.active && decide (s.me.lp0.stop.toNat < s.loopEnd len))) = false := by
    have hl : (len == 0) = false := beq_eq_false_iff_ne.mpr hl
    simp only [State.inBlock, hb, hs, hl, Bool.and_false, Bool.not_true, Bool.false_or, Bool.or_eq_false_iff, decide_eq_false_iff_not,
      Nat.not_lt, Bool.and_eq_false_imp, Bool.and_eq_true, beq_iff_eq, and_imp]
    exact ⟨hend, hx⟩
  show issue .. = _
  rw [issue_passes hill (.inr hpp) hg]
  simp only [streamNeed_none ha (anyBound_nil s), popAll_same ha, hsrc, hn, State.loopEnd, hst]
  rfl

end

theorem loops : Sys2Proof.Stated.Loops := by
  intro h a len s hp hb hs ha hl hend
  have hl' : 0 < len.toNat := Nat.pos_of_ne_zero fun e => hl (BitVec.eq_of_toNat_eq e)
  have hlt : s.me.pc.toNat < 1023 := by omega
  have hstop := opened_stop (s := s) (a := a) hend
  have hpc : BitVec.ofNat 10 (s.me.pc.toNat + 1) = s.me.pc + 1 := by rw [BitVec.ofNat_add, BitVec.ofNat_toNat, BitVec.setWidth_eq]; rfl
  have hpast : BitVec.ofNat 10 (s.me.pc.toNat + len.toNat + 1) = s.me.pc + BitVec.ofNat 10 (len.toNat + 1) := by
    rw [Nat.add_assoc, BitVec.ofNat_add, BitVec.ofNat_toNat, BitVec.setWidth_eq]
  have hout {n : Nat} (e : (0 : BitVec 1) = 1) : s.me.lp0.active = true → n ≤ s.me.lp0.stop.toNat := absurd e (by decide)
  refine ⟨fun hn => ?_, fun hn h0 => ?_, fun hn hlt => ?_, fun hn h0 hlt => ?_, fun hn hact hstop0 => ⟨fun hc => ?_, fun hc hlt => ?_⟩⟩
  · rw [exec_loop hp hb hs ha hl hend hout, if_neg hn]
    have hlevel : (opened s a len).endsAt s.me.pc.toNat = false := Loop.endsAt_false fun _ => by omega
    refine congrArg _ (after_done_modMe (f := opensOuter s a len) (pc := s.me.pc + 1) (l0 := opened s a len)
      (l1 := { s.me.lp1 with active := false }) ?_)
    rw [← hpc]
    exact (Thread.next_outer (x := opensOuter s a len s.me) hb rfl).trans (nextOuter_on hlevel hlt)
  · rw [exec_loop hp hb hs ha hl hend fun _ => h0, if_neg hn]
    have hlevel : (opened s a len).endsAt s.me.pc.toNat = false := Loop.endsAt_false fun _ => by omega
    have hlevel0 : s.me.lp0.endsAt s.me.pc.toNat = false := Loop.endsAt_false fun e => by have := h0 e; omega
    refine congrArg _ (after_done_modMe (f := opensInner s a len) (pc := s.me.pc + 1) (l0 := s.me.lp0) (l1 := opened s a len) ?_)
    rw [← hpc]
    exact (Thread.next_outer (x := opensInner s a len s.me) hb hlevel).trans (nextOuter_on hlevel0 hlt)
  · rw [exec_loop hp hb hs ha hl hend hout, if_pos hn]
    refine congrArg _ (after_skip_modMe (f := closesBoth) (pc := s.me.pc + BitVec.ofNat 10 (len.toNat + 1))
      (l0 := { s.me.lp0 with active := false }) (l1 := { s.me.lp1 with active := false }) ?_)
    rw [← hpast]
    exact (Thread.next_outer (x := closesBoth s.me) hb rfl).trans (nextOuter_on rfl hlt)
  · rw [exec_loop hp hb hs ha hl hend fun _ e => Nat.le_of_lt (h0 e), if_pos hn]
    have hlevel0 : s.me.lp0.endsAt (s.me.pc.toNat + len.toNat) = false := Loop.endsAt_false fun e => (h0 e).ne'
    refine congrArg _ (after_skip_modMe (f := closesInner) (pc := s.me.pc + BitVec.ofNat 10 (len.toNat + 1)) (l0 := s.me.lp0)
      (l1 := { s.me.lp1 with active := false }) ?_)
    rw [← hpast]
    exact (Thread.next_outer (x := closesInner s.me) hb rfl).trans (nextOuter_on hlevel0 hlt)
  · rw [exec_loop hp hb hs ha hl hend fun _ _ => hstop0.le, if_pos hn]
    refine congrArg _ (after_skip_modMe (f := closesInner) (l0 := { s.me.lp0 with count := s.me.lp0.count - 1 })
      (l1 := { s.me.lp1 with active := false }) ?_)
    exact (Thread.next_outer (x := closesInner s.me) hb rfl).trans (nextOuter_again (Loop.endsAt_iff.mpr ⟨hact, hstop0.symm⟩) hc)
  · rw [exec_loop hp hb hs ha hl hend fun _ _ => hstop0.le, if_pos hn]
    refine congrArg _ (after_skip_modMe (f := closesInner) (pc := s.me.pc + BitVec.ofNat 10 (len.toNat + 1))
      (l0 := { s.me.lp0 with active := false, count := 0 }) (l1 := { s.me.lp1 with active := false }) ?_)
    rw [← hpast]
    exact (Thread.next_outer (x := closesInner s.me) hb rfl).trans (nextOuter_closes (Loop.endsAt_iff.mpr ⟨hact, hstop0.symm⟩) hc hlt)

/-! ### Falling through -/

theorem fallingThrough : Sys2Proof.Stated.FallingThrough := by
  intro h s hp
  have hpc : BitVec.ofNat 10 (s.me.pc.toNat + 1) = s.me.pc + 1 := by rw [BitVec.ofNat_add, BitVec.ofNat_toNat, BitVec.setWidth_eq]; rfl
  have hends {l : Loop} : l.endsAt s.me.pc.toNat = true ↔ l.active = true ∧ l.stop = s.me.pc := by rw [Loop.endsAt_iff, BitVec.toNat_inj]
  have hends' {l : Loop} (e : ¬(l.active = true ∧ l.stop = s.me.pc)) : l.endsAt s.me.pc.toNat = false :=
    Bool.eq_false_iff.mpr fun e' => e (hends.mp e')
  refine ⟨fun pc l0 l1 hf => ⟨exec_nop hp hf, exec_yield hp hf⟩, fun hb h0 h1 hlt => ?_, fun hb ha hs hc => ?_, fun l1 hb h1 h1' => ?_,
    fun hb hend ho hd => ?_⟩
  · refine exec_nop hp ?_
    unfold Follows
    exact (Thread.next_outer hb (hends' h1)).trans ((nextOuter_on (hends' h0) hlt).trans (by rw [hpc]; rfl))
  · exact exec_nop hp (Thread.next_inner_again hb (hends.mpr ⟨ha, hs⟩) hc)
  · have hnext : s.me.next s.me.pc.toNat = nextOuter s.me.lp0 l1 s.me.pc.toNat := by
      by_cases he : s.me.lp1.active = true ∧ s.me.lp1.stop = s.me.pc
      · obtain ⟨hc, rfl⟩ := h1' he.1 he.2
        exact Thread.next_inner_closes hb (hends.mpr he) hc
      · rw [h1 he]
        exact Thread.next_outer hb (hends' he)
    refine ⟨fun h0 hlt => exec_nop hp ?_, fun ha hs => ⟨fun hc => exec_nop hp ?_, fun hc hlt => exec_nop hp ?_⟩⟩
    · exact hnext.trans ((nextOuter_on (hends' h0) hlt).trans (by rw [hpc]; rfl))
    · exact hnext.trans (nextOuter_again (hends.mpr ⟨ha, hs⟩) hc)
    · exact hnext.trans ((nextOuter_closes (hends.mpr ⟨ha, hs⟩) hc hlt).trans (by rw [hpc]; rfl))
  · obtain ⟨hg, hpp, -⟩ := hp
    have hx : s.usePfx.cell.th s.cell.last = { s.me with pp := false } := by simp [State.usePfx, State.modMe, State.me]
    have hn : (s.usePfx.cell.th s.cell.last).next ((s.usePfx.cell.th s.cell.last).pc.toNat + 1 - 1) = .blockEnd := by
      rw [hx]
      exact Thread.next_blockEnd hb hend
    refine ⟨_, (issue_passes rfl (.inr hpp) hg).trans (congrArg _ ((fall_blockEnd hn).trans (endWith_blockEnd ?_ ?_ ?_))), ?_⟩
    · rw [hx]
      exact ho
    · rw [hx]
      exact hd
    · rw [hx]
    · simp [State.me, State.usePfx, State.modMe]

end Sys2Proof.Stated

/-- Settles O7: a LOOP opens its level or passes over its body, and a body that is done goes where `Thread.next` sends its thread. -/
theorem loopsAndFallingThrough : Obligations.LoopsAndFallingThrough := ⟨Sys2Proof.Stated.loops, Sys2Proof.Stated.fallingThrough⟩

/-! SUPPORT. What holds an instruction back (R47, R50, R52, R62), and what the operand specifiers name (Table 02.5). -/

namespace Sys2Proof.Machine

section
variable {lacks : State → Option Need} {run : State → Answer} {s : State} {n : Need}

theorem eligible_free (h : lacks s = none) : eligible lacks run s = run s := by simp [eligible, h]
theorem eligible_taken (h : lacks s = some n) : eligible lacks run s = .next (s.modMe fun x => { x with st := .parked, wait := .need n }) := by
  simp [eligible, h]

end

/-- The divider is at work while a thread has a result of it outstanding (R103). -/
theorem Cell.dividerNeed_eq (c : Cell) :
    c.dividerNeed = if ∃ t : TIdx, ∃ o ∈ (c.th t).outs, o.kind = .divider then some .divider else none := by
  simp only [Cell.dividerNeed, List.any_eq_true, beq_iff_eq]
  exact if_congr ⟨fun ⟨t, _, h⟩ => ⟨t, h⟩, fun ⟨t, h⟩ => ⟨t, List.mem_finRange t, h⟩⟩ rfl rfl
/-- What an exchange of a direction awaits (R179, R203). -/
theorem ringIssue_eq (h : Hdr) (len : Nat) (x : BitVec 2) (ill : State → Bool) (body : State → Ctl) (s : State) :
    ringIssue h len x ill body s =
      eligible (fun s => if s.cell.torusBusy x then some (.torus x) else s.cell.queueNeed)
        (issue h len true ill fun s => if s.me.tmd then .fault 0x06 0 else body s) s := by
  by_cases hb : s.cell.torusBusy x <;> simp [ringIssue, matrixIssue, eligible, Cell.torusNeed, hb]
theorem State.target_isNone (s : State) (o : BitVec 18) :
    (s.target o).isNone = !decide (0 ≤ (s.me.pc.toNat : Int) + o.toInt ∧ (s.me.pc.toNat : Int) + o.toInt ≤ 1023) := by
  unfold State.target
  dsimp only
  split
  case isTrue h => simp [h]
  case isFalse h => simp [h]
/-- Without a prefix pending, none is used up. -/
theorem State.usePfx_none {s : State} {f : Thread → Thread} (h : s.me.pp = false) : s.usePfx.modTh s.cell.last f = s.modTh s.cell.last f := by
  rw [State.usePfx, modMe_modTh_last, modMe_eq_modTh]
  exact modTh_congr (congrArg f (by show { s.me with pp := false } = s.me; rw [← h]))

@[simp] theorem bit_beq_zero (b : Bool) : (bit b == 0) = !b := by cases b <;> rfl

/-! ### Registers by their specifiers (Table 02.5) -/

section
variable {n : Nat}

theorem Cell.reg_g {c : Cell} {t : TIdx} (hn : n < 32) : c.reg t (BitVec.ofNat 6 n) = (c.th t).g.getD n 0 := by
  have hv : n % 64 = n := Nat.mod_eq_of_lt (by omega)
  simp [Cell.reg, Vector.getD, hv, hn]
theorem Cell.reg_q {c : Cell} {t : TIdx} (hn : n < 8) : c.reg t (BitVec.ofNat 6 (32 + n)) = (c.th t).q.getD n 0 := by
  have hv : (32 + n) % 64 = 32 + n := Nat.mod_eq_of_lt (by omega)
  have hlt : 32 + n < 40 := by omega
  simp [Cell.reg, Vector.getD, BitVec.toNat_ofNat, hv, hn, hlt]
theorem Cell.reg_link {c : Cell} {t u : TIdx} (hn : n < 4) (hu : (c.th t).link.toNat / 2 ^ (8 * n) % 8 = u.val) :
    c.reg t (BitVec.ofNat 6 (0x2A + n)) = (c.th u).g.getD ((c.th t).link.toNat / 2 ^ (8 * n + 3) % 32) 0 := by
  have hv : (BitVec.ofNat 6 (0x2A + n)).toNat = 42 + n := by rw [BitVec.toNat_ofNat]; omega
  have hd : (c.th t).link.toNat / 2 ^ (8 * n) / 8 = (c.th t).link.toNat / 2 ^ (8 * n + 3) := by
    rw [Nat.div_div_eq_div_mul, pow_add, show 2 ^ 3 = 8 from rfl]
  have hu' : (⟨(c.th t).link.toNat / 2 ^ (8 * n) % 8, Nat.mod_lt _ (by decide)⟩ : TIdx) = u := Fin.ext hu
  have hlt : (c.th t).link.toNat / 2 ^ (8 * n + 3) % 32 < 32 := Nat.mod_lt _ (by decide)
  obtain ⟨h32, h40, h41, h46⟩ : ¬42 + n < 40 ∧ 42 + n ≠ 40 ∧ 42 + n ≠ 41 ∧ 42 + n < 46 := by omega
  have h32' : ¬42 + n < 32 := by omega
  simp [Cell.reg, hv, h32, h32', h40, h41, h46, hu', hd, Vector.getD, hlt]

/-- A digit of a packed number. -/
theorem packNat_digit (w : Nat) : ∀ (l : List Nat) (j : Nat), packNat w l / 2 ^ (w * j) % 2 ^ w = (l.getD j 0) % 2 ^ w
  | [], _ => by simp [packNat]
  | x :: r, 0 => by simp [packNat]
  | x :: r, j + 1 => by
    have hw : 0 < 2 ^ w := Nat.two_pow_pos w
    rw [packNat, Nat.mul_add, Nat.mul_one, Nat.add_comm (w * j), pow_add, ← Nat.div_div_eq_div_mul, Nat.add_mul_div_left _ _ hw,
      Nat.div_eq_of_lt (Nat.mod_lt x hw), Nat.zero_add]
    exact packNat_digit w r j
theorem packNat_lt (w : Nat) : ∀ l : List Nat, packNat w l < 2 ^ (w * l.length)
  | [] => by simp [packNat]
  | x :: r => by
    have hx : x % 2 ^ w < 2 ^ w := Nat.mod_lt _ (Nat.two_pow_pos w)
    have hr : packNat w r + 1 ≤ 2 ^ (w * r.length) := packNat_lt w r
    calc x % 2 ^ w + 2 ^ w * packNat w r
      _ < 2 ^ w + 2 ^ w * packNat w r := Nat.add_lt_add_right hx _
      _ = 2 ^ w * (packNat w r + 1) := by ring
      _ ≤ 2 ^ w * 2 ^ (w * r.length) := Nat.mul_le_mul_left _ hr
      _ = 2 ^ (w * (r.length + 1)) := by rw [← pow_add]; congr 1; ring
theorem Sp.getMany_length {w : Nat} (m : Sparse w) : ∀ (a k : Nat), (Sp.getMany m a k).length = k
  | _, 0 => rfl
  | a, k + 1 => congrArg (· + 1) (Sp.getMany_length m (a + 1) k)
theorem Sp.getMany_getD {w : Nat} (m : Sparse w) : ∀ {k : Nat} (a j : Nat), j < k → (Sp.getMany m a k).getD j 0 = Sp.get m (a + j)
  | k + 1, a, 0, _ => rfl
  | k + 1, a, j + 1, h => by
    have := Sp.getMany_getD m (a + 1) j (Nat.lt_of_succ_lt_succ h)
    rw [Nat.add_right_comm] at this
    exact this
/-- An element of a constant register is its word (R41). -/
theorem el_constOf (m : Sparse 32) (n : Nat) {j : Nat} (hj : j < 8) : el (constOf m n) 32 j = (Sp.get m (8 * n + j)).toNat := by
  have hlt : packNat 32 ((Sp.getMany m (8 * n) 8).map (·.toNat)) < 2 ^ 256 := by
    have := packNat_lt 32 ((Sp.getMany m (8 * n) 8).map (·.toNat))
    rwa [List.length_map, Sp.getMany_length] at this
  have hget : ((Sp.getMany m (8 * n) 8).map (·.toNat)).getD j 0 = (Sp.get m (8 * n + j)).toNat := by
    rw [← Sp.getMany_getD m (8 * n) j hj, List.getD_eq_getElem?_getD, List.getD_eq_getElem?_getD, List.getElem?_map]
    exact Option.getD_map BitVec.toNat 0 _
  rw [el, constOf, pack, BitVec.toNat_ofNat, Nat.mod_eq_of_lt hlt, packNat_digit, hget]
  exact Nat.mod_eq_of_lt (BitVec.isLt _)
theorem Cell.reg_const {c : Cell} {t : TIdx} {j : Nat} (hn : n < 16) (hj : j < 8) :
    el (c.reg t (BitVec.ofNat 6 (0x30 + n))) 32 j = (Sp.get c.plane.active.consts (8 * n + j)).toNat := by
  have hv : (BitVec.ofNat 6 (0x30 + n)).toNat = 48 + n := by rw [BitVec.toNat_ofNat]; omega
  rw [← el_constOf _ _ hj]
  refine congrArg (fun v => el v 32 j) ?_
  obtain ⟨h32, h40, h40', h41, h46, h48⟩ : ¬48 + n < 32 ∧ ¬48 + n < 40 ∧ 48 + n ≠ 40 ∧ 48 + n ≠ 41 ∧ ¬48 + n < 46 ∧ ¬48 + n < 48 := by omega
  simp only [Cell.reg, hv, dif_neg h32, dif_neg h40, if_neg h40', if_neg h41, if_neg h46, if_neg h48, Nat.add_sub_cancel_left]
theorem Thread.putReg_g {x : Thread} {v : V256} (hn : n < 32) : x.putReg (BitVec.ofNat 6 n) v = { x with g := x.g.set n v hn } := by
  have hv : n % 64 = n := Nat.mod_eq_of_lt (by omega)
  simp [Thread.putReg, hv, hn]
theorem Thread.putReg_q {x : Thread} {v : V256} (hn : n < 8) : x.putReg (BitVec.ofNat 6 (32 + n)) v = { x with q := x.q.set n v hn } := by
  have hv : (BitVec.ofNat 6 (32 + n)).toNat = 32 + n := by rw [BitVec.toNat_ofNat]; omega
  have h40 : 32 + n < 40 := by omega
  simp [Thread.putReg, hv, h40]

end

/-- Zero takes no value. -/
theorem Thread.setReg_zero {x : Thread} {v : V256} : x.setReg 0x2E v = x := by
  have h : x.outs.map (·.keepBase 0x2E (x.ownReg 0x2E)) = x.outs :=
    (List.map_congr_left fun o _ => if_neg fun h => nomatch h.2.1).trans (List.map_id _)
  exact congrArg (fun l => ({ x with outs := l } : Thread)) h

/-! ### SYSWR and PFX at issue (R51, R107, R127) -/

section
variable {h : Hdr} {d : Spec} {n : BitVec 12} {s : State}

/-- What makes a SYSWR ILLEGAL, whether or not its guard passes. -/
def syswrIll (d : Spec) (n : BitVec 12) : Bool := !dstOk d || (!sysDefined n && !sysWritePriv n)

theorem execSyswr_priv (hi : syswrIll d n = false) (hp : s.me.pp = false) (hw : sysWritePriv n = true) :
    execSyswr h d n s = .next (s.fault s.cell.last (faultAt 0x04 s.me.pc 0)) :=
  if_pos (by rw [show (!dstOk d || _) = false from hi, hp, hw]; rfl)
theorem execSyswr_issue (hn : syswrIll d n = true ∨ s.me.pp = true ∨ sysWritePriv n = false) :
    execSyswr h d n s = issue h 1 false (fun _ => syswrIll d n)
      (fun s => match s.streamNeed [d] [] with
        | some k => .need k
        | none => .done ((s.popAll [d]).sysWrite n (s.src0 d))) s := by
  refine (if_neg ?_).trans rfl
  intro hc
  simp only [Bool.and_eq_true, Bool.not_eq_true'] at hc
  obtain ⟨⟨hi, hp⟩, hw⟩ := hc
  rcases hn with hn | hn | hn
  · exact nomatch hi.symm.trans hn
  · exact nomatch hp.symm.trans hn
  · exact nomatch hw.symm.trans hn

end

section
variable {h : Hdr} {fs fd : BitVec 4} {sc : Spec} {rs : BitVec 2} {s : State}

theorem execPfx_illegal (hi : scaleOk sc = false ∨ s.me.pp = true) : execPfx h fs fd sc rs s = .next s.illegal := by
  rcases hi with hi | hi <;> simp [execPfx, hi]
theorem execPfx_passes (hi : scaleOk sc = true) (hp : s.me.pp = false) (hg : s.me.guard h = true) :
    execPfx h fs fd sc rs s = .next ((s.modMe fun x => { x with pp := true, pfx := fs ++ fd ++ sc ++ rs ++ 0#4 }).fall s.cell.last 1 h.w) := by
  simp [execPfx, hi, hp, hg]
theorem execPfx_fails (hi : scaleOk sc = true) (hp : s.me.pp = false) (hg : s.me.guard h = false) :
    execPfx h fs fd sc rs s = .next (s.fall s.cell.last 1 h.w) := by
  simp [execPfx, hi, hp, hg]

end

end Sys2Proof.Machine

namespace Sys2Proof.Stated

open Machine Encode

/-! ### Guards (R47, R50, R51, R62) -/

/-- What an instruction whose unit is free does when its guard does not pass. -/
def HeldBack (i : Instr) (h : Hdr) (s : State) : Prop :=
  (excluded s i = true ∨ (s.me.pp = true ∧ takesPrefix i = false) → exec i s = .next s.illegal) ∧
  (excluded s i = false → (s.me.pp = true → takesPrefix i = true) →
    (writesFixed i = true → exec i s = .next (s.fault s.cell.last (faultAt 0x04 s.me.pc 0))) ∧
    (writesFixed i = false → exec i s = .next (s.usePfx.fall s.cell.last (encode i).length h.w)))

/-- A scalar form issues alone, and only its specifiers make it ILLEGAL. -/
def ChecksSpecs (i : Instr) (f : Form) (s : State) : Prop :=
  ∃ ill body, exec i s = issue f.h f.len false ill body s ∧ ill s = !okSpecs [f.d] f.srcs

section
variable {i : Instr} {h : Hdr} {len : Nat} {ill : State → Bool} {body : State → Ctl} {s : State}

/-- An instruction of the common shape. -/
theorem heldBack_issue (hx : exec i s = issue h len (takesPrefix i) ill body s) (he : ill s = excluded s i) (hl : (encode i).length = len)
    (hf : writesFixed i = false) (hg : s.me.guard h = false) : HeldBack i h s := by
  refine ⟨fun hi => ?_, fun hi hp => ⟨fun hf' => absurd (hf.symm.trans hf') nofun, fun _ => ?_⟩⟩
  · rw [hx]
    exact issue_illegal (he ▸ hi)
  · rw [hx, hl]
    refine issue_fails (he.trans hi) ?_ hg
    cases hpp : s.me.pp
    · exact .inr rfl
    · exact .inl (hp hpp)
theorem heldBack_syswr {d : Spec} {n : BitVec 12} (hg : s.me.guard h = false) : HeldBack (.syswr h d n) h s := by
  refine ⟨fun hi => ?_, fun hi hp => ⟨fun hw => execSyswr_priv hi (Bool.eq_false_iff.mpr fun e => nomatch hp e) hw, fun hw => ?_⟩⟩
  · exact (execSyswr_issue (hi.imp_right fun hp => .inl hp.1)).trans (issue_illegal (hi.imp_right fun hp => ⟨hp.1, rfl⟩))
  · exact (execSyswr_issue (.inr (.inr hw))).trans (issue_fails hi (.inr (Bool.eq_false_iff.mpr fun e => nomatch hp e)) hg)
theorem heldBack_pfx {fs fd : BitVec 4} {sc : Spec} {rs : BitVec 2} (hg : s.me.guard h = false) : HeldBack (.pfx h fs fd sc rs) h s := by
  refine ⟨fun hi => execPfx_illegal (hi.imp (by simp [excluded]) And.left), fun hi hp => ⟨nofun, fun _ => ?_⟩⟩
  have hpp : s.me.pp = false := Bool.eq_false_iff.mpr fun e => nomatch hp e
  refine (execPfx_fails (by simpa [excluded] using hi) hpp hg).trans ?_
  rw [State.fall, State.fall, State.usePfx_none hpp]
  rfl
/-- One of the matrix unit, whose queue has room. -/
theorem heldBack_matrix (hx : exec i s = matrixIssue h len (takesPrefix i) ill body s) (hu : s.cell.queueNeed = none)
    (he : ill s = excluded s i) (hl : (encode i).length = len) (hf : writesFixed i = false) (hg : s.me.guard h = false) : HeldBack i h s :=
  heldBack_issue (hx.trans (eligible_free hu)) he hl hf hg
/-- An exchange, whose direction is free too. -/
theorem heldBack_ring {x : BitVec 2} (hx : exec i s = ringIssue h len x ill body s) (hp : takesPrefix i = true)
    (hu : (if s.cell.torusBusy x then some (.torus x) else s.cell.queueNeed) = none)
    (he : ill s = excluded s i) (hl : (encode i).length = len) (hf : writesFixed i = false) (hg : s.me.guard h = false) : HeldBack i h s :=
  heldBack_issue (by rw [hx, ringIssue_eq, eligible_free hu, hp]) he hl hf hg
/-- A division, while the divider is free. -/
theorem heldBack_divides {d a b : Spec} {f : W64 → W64 → W64} (hx : exec i s = divides h d a b f s) (hp : takesPrefix i = false)
    (hu : (if ∃ t : TIdx, ∃ o ∈ (s.cell.th t).outs, o.kind = .divider then some Need.divider else none) = none)
    (he : (!okSpecs [d] [a, b]) = excluded s i) (hl : (encode i).length = 1) (hf : writesFixed i = false) (hg : s.me.guard h = false) :
    HeldBack i h s :=
  heldBack_issue (by rw [hx, divides, eligible_free ((Cell.dividerNeed_eq _).trans hu), hp]) he hl hf hg

end

/-- An instruction whose unit is taken waits for it, whatever its guard. -/
theorem exec_taken {i : Instr} {s : State} {n : Need} (hu : unitTaken s i = some n) : exec i s = .next (parked n s) := by
  cases i
  case div | rem => exact eligible_taken (lacks := fun s => s.cell.dividerNeed) ((Cell.dividerNeed_eq _).trans hu)
  case mlease | mleaseTry | mrel | mzero | mma | mmaL | mstS | mstR | mstL | cbload | mred =>
    exact eligible_taken (lacks := fun s => s.cell.queueNeed) hu
  case mmr | mmrL => exact (ringIssue_eq ..).trans (eligible_taken hu)
  all_goals nomatch hu
/-- One whose unit is free does what its guard leaves of it. -/
theorem heldBack (i : Instr) (w : W32) (ws : List W32) (s : State) (he : encode i = w :: ws) (hg : s.me.guard (Decode.hdr w) = false)
    (hu : unitTaken s i = none) : HeldBack i (Decode.hdr w) s := by
  cases i <;> cases he <;> simp only [hdr_word0, hdr_wordJ, hdr_wordK, hdr_wordY, hdr_wordF] at hg ⊢
  case br.refl | call.refl => exact heldBack_issue rfl (by simp [excluded, State.target_isNone]) rfl rfl hg
  case syswr.refl => exact heldBack_syswr hg
  case pfx.refl => exact heldBack_pfx hg
  case div.refl | rem.refl => exact heldBack_divides rfl rfl hu rfl rfl rfl hg
  case mlease.refl | mleaseTry.refl | mrel.refl | mzero.refl | mma.refl | mmaL.refl | mstS.refl | mstR.refl | mstL.refl | cbload.refl
    | mred.refl => exact heldBack_matrix rfl hu rfl rfl rfl hg
  case mmr.refl | mmrL.refl =>
    exact heldBack_ring rfl rfl hu rfl rfl rfl hg
  case ld.refl | st.refl | ldv.refl | stv.refl | ldvBc.refl | ldL.refl | stL.refl | waita.refl =>
    exact heldBack_issue rfl (by simp [excluded, memIll, okSpecs, Bool.or_assoc]) rfl rfl hg
  case bitc.refl | ext.refl | bfx.refl | vadd.refl | vsub.refl | vmul.refl | vfma.refl | vun.refl | vshuf.refl | vbc.refl =>
    exact heldBack_issue rfl (by simp [excluded, Bool.or_assoc]) rfl rfl hg
  case cget.refl | cput.refl | cgetL.refl | cputL.refl =>
    exact heldBack_issue rfl (by simp [excluded, Bool.or_assoc]) rfl rfl hg
  case shr.refl => exact heldBack_issue rfl (by simp [excluded]) rfl rfl hg
  case qblk.refl => exact heldBack_issue rfl (by simp [excluded, Bool.or_assoc]) rfl rfl hg
  all_goals exact heldBack_issue rfl rfl rfl rfl hg

theorem guardsHoldBack : Sys2Proof.Stated.GuardsHoldBack := fun i w ws s _ he hg =>
  ⟨fun _ hu => exec_taken hu, fun hu => heldBack i w ws s he hg hu⟩

/-! ### Specifiers (R48, R50, R52) -/

theorem exec_formI {i : Instr} {h : Hdr} {d a : Spec} {b : BitVec 6} {x : BitVec 2} {u : W64 → W64 → W64} {v : W64 → W64 → W64} {f : Form}
    {s : State} (hx : exec i s = scalarI h d a b x v s) (hf : formI h d a b x u = some f) : ChecksSpecs i f s := by
  unfold formI at hf
  split at hf
  · nomatch hf
  · next hx3 =>
    cases hf
    have hx3 : (x == 3) = false := beq_eq_false_iff_ne.mpr hx3
    exact ⟨_, _, hx, by rw [hx3, Bool.or_false]; rfl⟩

/-- A specifier that may be written may be read. -/
theorem dstOk_srcOk (d : Spec) : (!dstOk d || !srcOk d) = !dstOk d := by
  revert d
  decide
/-- Every scalar form checks its specifiers so. -/
theorem checksSpecs {i : Instr} {f : Form} {s : State} (hf : scalarForm i = some f) : ChecksSpecs i f s := by
  cases i <;> simp only [scalarForm, reduceCtorEq] at hf
  case add | sub | mul | and | or | xor | shl => exact exec_formI rfl hf
  case andn => exact exec_formI (v := fun u v => u &&& ~~~v) rfl hf
  case shr =>
    cases hf
    exact ⟨_, _, rfl, by simp⟩
  case mulh | min | max | minu | maxu =>
    cases hf
    exact ⟨_, _, rfl, rfl⟩
  case prd =>
    cases hf
    exact ⟨_, _, rfl, by simp [okSpecs]⟩
  case movi x _ =>
    split at hf
    · nomatch hf
    · next hx =>
      cases hf
      refine ⟨_, _, rfl, ?_⟩
      have hx3 : (x == 3) = false := beq_eq_false_iff_ne.mpr hx
      by_cases h2 : x = 2
      · simp [okSpecs, h2, dstOk_srcOk]
      · simp only [okSpecs, hx3, if_neg h2, List.all_cons, List.all_nil, Bool.and_true, Bool.or_false]
  case ext | mov | addi | andi | ori | bfx =>
    split at hf
    · nomatch hf
    · next hx =>
      cases hf
      refine ⟨_, _, rfl, ?_⟩
      simp_all [okSpecs]

theorem okSpecs_false {d : Spec} {l : List Spec} (h : (0x2A ≤ d.toNat ∧ d.toNat ≠ 0x2E) ∨ ∃ a ∈ l, a.toNat = 0x2F) : okSpecs [d] l = false := by
  rcases h with ⟨hl, hn⟩ | ⟨a, ha, hv⟩
  · have hd : dstOk d = false := by
      have h2E : (d == 0x2E) = false := beq_eq_false_iff_ne.mpr fun e => hn (congrArg BitVec.toNat e)
      rw [dstOk, h2E, decide_eq_false (Nat.not_lt.mpr hl), Bool.or_self]
    simp [okSpecs, hd]
  · have hs : srcOk a = false := by
      rw [show a = 0x2F from BitVec.eq_of_toNat_eq hv]
      rfl
    simp only [okSpecs, Bool.and_eq_false_iff, List.all_eq_false]
    exact .inr ⟨a, ha, by simp [hs]⟩

theorem specifiersAreChecked : Sys2Proof.Stated.SpecifiersAreChecked := by
  intro i f s hf hbad
  obtain ⟨ill, body, hx, hi⟩ := checksSpecs (s := s) hf
  rw [hx]
  refine issue_illegal ?_
  rcases hbad with hd | ha | hp
  · exact .inl (by rw [hi, okSpecs_false (.inl hd)]; rfl)
  · exact .inl (by rw [hi, okSpecs_false (.inr ha)]; rfl)
  · exact .inr ⟨hp, rfl⟩

/-! ### What each specifier names (Table 02.5) -/

theorem registersByName : Sys2Proof.Stated.RegistersByName := by
  intro c t v n
  refine ⟨fun hn => ⟨Cell.reg_g hn, ?_, fun m hm => ?_, ?_⟩, fun hn => ⟨Cell.reg_q hn, ?_, fun m hm => ?_, ?_⟩, rfl, rfl, rfl,
    Thread.setReg_zero, fun u hn hu => ?_, fun hn j hj => ?_⟩
  · simp [Thread.putReg_g hn, Vector.getD, hn]
  · simp [Thread.putReg_g hn, Vector.getD, Ne.symm hm]
  · simp [Thread.putReg_g hn]
  · simp [Thread.putReg_q hn, Vector.getD, hn]
  · simp [Thread.putReg_q hn, Vector.getD, Ne.symm hm]
  · simp [Thread.putReg_q hn]
  · exact Cell.reg_link hn hu
  · exact Cell.reg_const hn hj

end Sys2Proof.Stated

/-- Settles O56: the guard and the checks of every instruction (`guardsHoldBack`), the specifiers of the scalar forms
(`specifiersAreChecked`), and what each specifier names (`registersByName`). -/
theorem guardsAndSpecifiers : Obligations.GuardsAndSpecifiers :=
  ⟨Sys2Proof.Stated.guardsHoldBack, Sys2Proof.Stated.specifiersAreChecked, Sys2Proof.Stated.registersByName⟩

/-! SUPPORT. PFX and SETFMT (R51, R176, R177), SYSRD and SYSWR (R106 to R109, R126, R127, R368). -/

namespace Sys2Proof.Machine

/-! ### Fields of words -/

/-- The bits of a word with one field replaced. -/
theorem getLsbD_insBits {k : Nat} (v : BitVec k) (lo n x i : Nat) :
    (insBits v lo n x).getLsbD i =
      (decide (i < k) && if i < lo then v.getLsbD i else if i < lo + n then x.testBit (i - lo) else v.getLsbD i) := by
  have hlow : v.toNat % 2 ^ lo < 2 ^ lo := Nat.mod_lt _ (Nat.two_pow_pos lo)
  have hsum : v.toNat % 2 ^ lo + 2 ^ lo * (x % 2 ^ n) + 2 ^ (lo + n) * (v.toNat / 2 ^ (lo + n)) =
      2 ^ lo * (2 ^ n * (v.toNat / 2 ^ (lo + n)) + x % 2 ^ n) + v.toNat % 2 ^ lo := by rw [pow_add]; ring
  rw [insBits, BitVec.getLsbD_ofNat, hsum, Nat.testBit_two_pow_mul_add _ hlow]
  congr 1
  split
  case isTrue hi => rw [Nat.testBit_mod_two_pow, decide_eq_true hi, Bool.true_and]; rfl
  case isFalse hi =>
    rw [Nat.testBit_two_pow_mul_add _ (Nat.mod_lt _ (Nat.two_pow_pos n))]
    by_cases hn : i < lo + n
    · rw [if_pos hn, if_pos (by omega), Nat.testBit_mod_two_pow, decide_eq_true (by omega), Bool.true_and]
    · rw [if_neg hn, if_neg (by omega), Nat.testBit_div_two_pow, show i - lo - n + (lo + n) = i by omega]
      rfl

/-- Low bits cut out of a word. -/
theorem fieldOf_zero (v : W64) {w : Nat} (hw : w ≤ 64) : fieldOf v 0 w = v.setWidth w := (BitVec.setWidth_eq_extractLsb' hw).symm
/-- CLMASK keeps its low four bits zero (Table 04.3). -/
theorem clmask_field (v : W64) : fieldOf v 4 12 ++ 0#4 = v.setWidth 16 &&& 0xFFF0 := by
  refine BitVec.eq_of_getLsbD_eq fun i hi => ?_
  rw [fieldOf, BitVec.getLsbD_append, BitVec.getLsbD_and, BitVec.getLsbD_setWidth]
  by_cases h4 : i < 4
  · rw [if_pos h4, show BitVec.getLsbD (0xFFF0 : BitVec 16) i = false by interval_cases i <;> rfl, Bool.and_false, BitVec.getLsbD_zero]
  · have h4' : 4 ≤ i := Nat.le_of_not_lt h4
    rw [if_neg h4, show BitVec.getLsbD (0xFFF0 : BitVec 16) i = true by interval_cases i <;> rfl, BitVec.getLsbD_extractLsb']
    simp [hi, show i - 4 < 12 by omega, show 4 + (i - 4) = i by omega]
/-- END of a fault register is its bit 16 (Table 16.2). -/
theorem insBits_endd (v : BitVec 17) : insBits v 16 1 0 = v &&& 0xFFFF := by
  refine BitVec.eq_of_getLsbD_eq fun i hi => ?_
  rw [getLsbD_insBits, BitVec.getLsbD_and, decide_eq_true hi, Bool.true_and]
  by_cases h16 : i < 16
  · rw [if_pos h16, show BitVec.getLsbD (0xFFFF : BitVec 17) i = true by interval_cases i <;> rfl, Bool.and_true]
  · rw [show i = 16 by omega]
    simp
theorem append_toNat {m n : Nat} (x : BitVec m) (y : BitVec n) : (x ++ y).toNat = x.toNat * 2 ^ n + y.toNat := by
  rw [BitVec.toNat_append, ← Nat.shiftLeft_add_eq_or_of_lt y.isLt, Nat.shiftLeft_eq]

section
variable (rs : BitVec 2) (sc : BitVec 6) (rf ef : BitVec 4)

/-- The format register from its fields (Table 04.3). -/
theorem fmt_word : rs ++ sc ++ rf ++ ef = BitVec.ofNat 16 (2 ^ 14 * rs.toNat + 2 ^ 8 * sc.toNat + 2 ^ 4 * rf.toNat + ef.toNat) := by
  apply BitVec.eq_of_toNat_eq
  have := rs.isLt; have := sc.isLt; have := rf.isLt; have := ef.isLt
  simp only [append_toNat, BitVec.toNat_ofNat]
  omega
/-- SETFMT.F leaves its upper half. -/
theorem fmt_low (v : BitVec 16) :
    v.extractLsb' 8 8 ++ rf ++ ef = BitVec.ofNat 16 (v.toNat / 2 ^ 8 * 2 ^ 8 + 2 ^ 4 * rf.toNat + ef.toNat) := by
  apply BitVec.eq_of_toNat_eq
  have := v.isLt; have := rf.isLt; have := ef.isLt
  simp only [append_toNat, BitVec.toNat_ofNat, BitVec.extractLsb'_toNat, Nat.shiftRight_eq_div_pow]
  omega
/-- The prefix latch from its fields (Table 02.7). -/
theorem pfx_word : ef ++ rf ++ sc ++ rs ++ 0#4 =
    BitVec.ofNat 20 (2 ^ 16 * ef.toNat + 2 ^ 12 * rf.toNat + 2 ^ 6 * sc.toNat + 2 ^ 4 * rs.toNat) := by
  apply BitVec.eq_of_toNat_eq
  have := rs.isLt; have := sc.isLt; have := rf.isLt; have := ef.isLt
  simp only [append_toNat, BitVec.toNat_ofNat]
  omega

end

/-! ### SYSWR and the FPC (R107, R127, R368) -/

theorem Thread.sysWrite_next (x : Thread) (n : Nat) (v : W64) (k : Nat) : (x.sysWrite n v).next k = x.next k := by
  unfold Thread.sysWrite
  split <;> rfl

theorem Thread.sysWrite_pc (x : Thread) (n : Nat) (v : W64) : (x.sysWrite n v).pc = x.pc := by
  unfold Thread.sysWrite
  split <;> rfl
section
variable (c : Cell) (hlen vlen n : Nat) (v : W64)

theorem Cell.sysWrite_last : (c.sysWrite hlen vlen n v).last = c.last := by
  unfold Cell.sysWrite
  split <;> rfl
theorem Cell.sysWrite_th (t : TIdx) : (c.sysWrite hlen vlen n v).th t = c.th t := by
  unfold Cell.sysWrite
  split <;> rfl

end

theorem modFocus_sysWrite_me (s : State) (hlen vlen n : Nat) (v : W64) : (modFocus s (·.sysWrite hlen vlen n v)).me = s.me := by
  show (s.cell.sysWrite hlen vlen n v).th (s.cell.sysWrite hlen vlen n v).last = s.me
  rw [Cell.sysWrite_last, Cell.sysWrite_th]
  rfl

/-- The FPC of a faulted thread that is in no block (R368). -/
theorem Thread.writeFpc_faulted {x : Thread} {a : BitVec 10} (hst : x.st = .faulted) (hb : x.inb = false) :
    x.writeFpc a = { x with fpc := a, pp := false, fcause := x.fcause &&& 0xFFFF } := by
  rw [Thread.writeFpc, if_pos ⟨hst, .inl hb⟩, insBits_endd]
/-- That of a thread that is not faulted stays. -/
theorem Thread.writeFpc_others {x : Thread} {a : BitVec 10} (hst : x.st ≠ .faulted) : x.writeFpc a = x := if_neg fun e => hst e.1

/-- A change that leaves its thread as it was. -/
theorem State.modTh_same {s : State} {t : TIdx} {f : Thread → Thread} (h : f (s.cell.th t) = s.cell.th t) : s.modTh t f = s := by
  rw [modTh_congr (g := id) h]
  simp [State.modTh, Cell.modTh, Cell.setTh, Cell.th]
theorem modMe_id (s : State) : s.modMe id = s := State.modTh_same rfl
/-- A thread that its instruction changes goes on. -/
theorem fall_modMe {s : State} {f : Thread → Thread} {len : Nat} {w : Bool} {pc : BitVec 10} {l0 l1 : Loop}
    (hn : (f s.me).next ((f s.me).pc.toNat + len - 1) = .at_ pc l0 l1) :
    (s.modMe f).fall s.cell.last len w = s.modMe fun x => ({ f x with pc := pc, lp0 := l0, lp1 := l1 } : Thread).marker w := by
  rw [fall_at (pc := pc) (l0 := l0) (l1 := l1) (by rw [show (s.modMe f).cell.th s.cell.last = f s.me from modMe_me s f]; exact hn), modMe_modTh_last]
/-- A body that changes another thread. -/
theorem after_done_other {s : State} {h : Hdr} {len : Nat} {u : TIdx} {f : Thread → Thread} {pc : BitVec 10} {l0 l1 : Loop} (hu : u ≠ s.cell.last)
    (hn : s.me.next (s.me.pc.toNat + len - 1) = .at_ pc l0 l1) :
    s.after h len (.done (s.modTh u f)) =
      (s.modTh u f).modMe fun x => ({ x with pp := false, pc := pc, lp0 := l0, lp1 := l1 } : Thread).marker h.w :=
  after_done rfl (by rw [show (s.modTh u f).me = s.me from Cell.th_modTh_other _ _ hu]; exact hn)

section
variable {h : Hdr} {d : Spec} {n : BitVec 12} {s : State} (hd : dstOk d = true) (hb : s.anyBound [d] = false) (hp : s.me.pp = false)
  (hg : s.me.guard h = true) (hc : s.me.cuts = [])
include hd hb hp hg hc

/-- A SYSWR to a register with a field that is written. -/
theorem execSyswr_writes (hn : sysDefined n = true) (hw : sysWritePriv n = false) :
    execSyswr h d n s = .next (s.after h 1 (.done (s.sysWrite n (lane0 (s.cell.reg s.cell.last d))))) := by
  have hill : syswrIll d n = false := by simp [syswrIll, hd, hn]
  have hsrc : s.src0 d = lane0 (s.cell.reg s.cell.last d) := congrArg lane0 (src_reg (anyBound_false hb (List.mem_cons_self ..)) hc)
  rw [execSyswr_issue (.inr (.inr hw)), issue_passes hill (.inr hp) hg]
  simp only [streamNeed_none hb (anyBound_nil s), popAll_same hb, hsrc]
/-- A SYSWR to sys.FPC, of the thread that FTID selects. -/
theorem execFpcWrite_writes {u : TIdx} (hu : s.me.ftid.toNat = u.val) :
    execFpcWrite h d s = .next (s.after h 1 (if s.cell.last ≠ 0 ∧ u ≠ s.cell.last then .fault 0x04 0
      else .done (s.modTh u (·.writeFpc (fieldOf (lane0 (s.cell.reg s.cell.last d)) 0 10))))) := by
  have hsrc : s.src0 d = lane0 (s.cell.reg s.cell.last d) := congrArg lane0 (src_reg (anyBound_false hb (List.mem_cons_self ..)) hc)
  have hsel : (⟨s.me.ftid.toNat, s.me.ftid.isLt⟩ : TIdx) = u := Fin.ext hu
  rw [execFpcWrite, issue_passes (by rw [hd]; rfl) (.inr hp) hg]
  simp only [streamNeed_none hb (anyBound_nil s), popAll_same hb, hsrc, hsel]

end

end Sys2Proof.Machine

namespace Sys2Proof.Stated

open Machine

theorem formatsAreSet : Sys2Proof.Stated.FormatsAreSet := by
  intro h ef rf sc rs s pc l0 l1 hf hg
  have hsc (e : sc.toNat < 32 ∨ sc = 0x2E) : scaleOk sc = true := by
    rcases e with e | e
    · simp [scaleOk, isG, e]
    · simp [scaleOk, e]
  refine ⟨fun hp e => ⟨?_, ?_⟩, fun hp => ?_, fun hp => execPfx_illegal (.inr hp)⟩
  · refine (execPfx_passes (hsc e) hp hg).trans ?_
    rw [fall_modMe (f := fun x => { x with pp := true, pfx := ef ++ rf ++ sc ++ rs ++ 0#4 }) hf, pfx_word]
  · show issue .. = _
    rw [issue_passes (by rw [hsc e]; rfl) (.inr hp) hg, after_done_modMe (f := fun x => { x with fmt := rs ++ sc ++ rf ++ ef }) hf, fmt_word]
  · show issue .. = _
    rw [issue_passes rfl (.inr hp) hg, after_done_modMe (f := fun x => { x with fmt := x.fmt.extractLsb' 8 8 ++ rf ++ ef }) hf]
    simp only [fmt_low]

section
variable {h : Hdr} {d : Spec} {n : BitVec 12} {s : State} {pc : BitVec 10} {l0 l1 : Loop} (hf : Follows s 1 pc l0 l1)
  (hp : s.me.pp = false) (hd : dstOk d = true) (hb : s.anyBound [d] = false) (hg : s.me.guard h = true) (hc : s.me.cuts = [])
  (hn : sysDefined n = true) (hw : sysWritePriv n = false)
include hf hp hd hb hg hc hn hw

/-- A SYSWR to a register of the thread. -/
theorem exec_syswr_thread (hcell : ∀ (c : Cell) (hlen vlen : Nat) (v : W64), c.sysWrite hlen vlen n.toNat v = c) :
    exec (.syswr h d n) s = .next (s.modMe fun x => goes pc l0 l1 h.w (x.sysWrite n.toNat (lane s d))) := by
  refine (execSyswr_writes hd hb hp hg hc hn hw).trans ?_
  rw [State.sysWrite, show (fun c : Cell => c.sysWrite s.hlen s.vlen n.toNat _) = id from funext fun c => hcell c ..]
  exact congrArg _ (after_done_modMe (f := fun x => x.sysWrite n.toNat (lane s d))
    ((Thread.sysWrite_next ..).trans (by rw [Thread.sysWrite_pc]; exact hf)))
/-- A SYSWR to a register of the cell. -/
theorem exec_syswr_cell (hth : ∀ (x : Thread) (v : W64), x.sysWrite n.toNat v = x) :
    exec (.syswr h d n) s =
      .next ((modFocus s fun c => c.sysWrite s.hlen s.vlen n.toNat (lane s d)).modMe (goes pc l0 l1 h.w)) := by
  refine (execSyswr_writes hd hb hp hg hc hn hw).trans ?_
  rw [State.sysWrite, show (fun x : Thread => x.sysWrite n.toNat _) = id from funext fun x => hth x .., modMe_id]
  refine congrArg _ (after_done (Cell.sysWrite_last ..) ?_)
  rw [modFocus_sysWrite_me]
  exact hf

end

theorem systemRegisters : Sys2Proof.Stated.SystemRegisters := by
  intro h d s pc l0 l1 hf hp hd hb
  refine ⟨fun hg hc n hn => ?_, fun hg hc => ?_, fun n hw => ?_, fun n hn hw => ?_, fun hg hc u hu => ?_⟩
  · show issue .. = _
    rw [issue_passes (by rw [hd, hn]; rfl) (.inr hp) hg, putsOnly_plain hb]
    rw [after_done_modMe (f := fun x => x.setReg d (Res.over (.low (s.sysReg n)) (s.held d))) (by rw [setReg_next, Thread.setReg_pc]; exact hf)]
    rfl
  · have field {w : Nat} (hw : w ≤ 64) : (lane s d).setWidth w = fieldOf (lane s d) 0 w := (fieldOf_zero _ hw).symm
    rw [← clmask_field, field (by decide), field (by decide), field (by decide), field (by decide), field (by decide)]
    exact ⟨exec_syswr_thread hf hp hd hb hg hc rfl rfl fun _ _ _ _ => rfl, exec_syswr_thread hf hp hd hb hg hc rfl rfl fun _ _ _ _ => rfl,
      exec_syswr_thread hf hp hd hb hg hc rfl rfl fun _ _ _ _ => rfl, exec_syswr_thread hf hp hd hb hg hc rfl rfl fun _ _ _ _ => rfl,
      exec_syswr_thread hf hp hd hb hg hc rfl rfl fun _ _ _ _ => rfl, exec_syswr_cell hf hp hd hb hg hc rfl rfl fun _ _ => rfl,
      exec_syswr_cell hf hp hd hb hg hc rfl rfl fun _ _ => rfl, exec_syswr_cell hf hp hd hb hg hc rfl rfl fun _ _ => rfl⟩
  · exact execSyswr_priv (by simp [syswrIll, hd, hw]) hp hw
  · have hill : syswrIll d n = true := by simp [syswrIll, hn, hw]
    exact ⟨(execSyswr_issue (.inl hill)).trans (issue_illegal (.inl hill)), issue_illegal (.inl (by simp [hn]))⟩
  · have hx : exec (.fpcWrite h d) s = _ := execFpcWrite_writes hd hb hp hg hc hu
    rw [hx]
    refine ⟨fun h0 hul => ?_, fun h0 hu0 hst hib => ?_, fun h0 hu0 hst => ?_⟩
    · rw [if_pos ⟨h0, hul⟩]
      rfl
    · rw [if_neg fun e => e.1 h0, after_done_other (by rw [h0]; exact hu0) hf, fieldOf_zero _ (by decide)]
      exact congrArg (fun s' : State => Host.Outcome.next (s'.modMe (goes pc l0 l1 h.w))) (modTh_congr (Thread.writeFpc_faulted hst hib))
    · rw [if_neg fun e => e.1 h0, after_done_other (by rw [h0]; exact hu0) hf, State.modTh_same (f := (·.writeFpc _)) (Thread.writeFpc_others hst)]
      rfl

end Sys2Proof.Stated

/-- Settles O14: the format registers and the prefix latch (`formatsAreSet`), SYSRD, SYSWR and the FPC (`systemRegisters`). -/
theorem formatAndSystemRegisters : Obligations.FormatAndSystemRegisters := ⟨Sys2Proof.Stated.formatsAreSet, Sys2Proof.Stated.systemRegisters⟩

/-! SUPPORT. Threads that end (R94, R95, R181) and that the lead controls (R100, R368, R369, R371, Table 03.12). -/

namespace Sys2Proof.Machine

/-! ### What a stop and the end of a timed handler leave (R87, R323) -/

section
variable (c : Cell) (t : TIdx)

@[simp] theorem Cell.stopFault_th (u : TIdx) : c.stopFault.th u = c.th u := by rw [Cell.stopFault_only]; rfl
@[simp] theorem Cell.stopFault_last : c.stopFault.last = c.last := by rw [Cell.stopFault_only]
@[simp] theorem Cell.stopFault_mx : c.stopFault.mx = c.mx := by rw [Cell.stopFault_only]
@[simp] theorem Cell.stopFault_pad : c.stopFault.pad = c.pad := by rw [Cell.stopFault_only]
@[simp] theorem Cell.stopFault_inbox : c.stopFault.inbox = c.inbox := by rw [Cell.stopFault_only]
@[simp] theorem Cell.stopFault_eng : c.stopFault.eng = c.eng := by rw [Cell.stopFault_only]
@[simp] theorem Cell.stopFault_name : c.stopFault.name = c.name := by rw [Cell.stopFault_only]
@[simp] theorem Cell.endTimed_th (u : TIdx) : (c.endTimed t).th u = c.th u := by rw [Cell.endTimed_only]; rfl
@[simp] theorem Cell.endTimed_last : (c.endTimed t).last = c.last := by rw [Cell.endTimed_only]
@[simp] theorem Cell.endTimed_mx : (c.endTimed t).mx = c.mx := by rw [Cell.endTimed_only]
@[simp] theorem Cell.endTimed_pad : (c.endTimed t).pad = c.pad := by rw [Cell.endTimed_only]
@[simp] theorem Cell.endTimed_eng : (c.endTimed t).eng = c.eng := by rw [Cell.endTimed_only]
@[simp] theorem Cell.endTimed_name : (c.endTimed t).name = c.name := by rw [Cell.endTimed_only]
@[simp] theorem Cell.modTh_endTimed (u : TIdx) (f : Thread → Thread) : (c.modTh u f).endTimed t = (c.endTimed t).modTh u f := by
  unfold Cell.endTimed
  rw [Cell.modTh_tim]
  repeat' split
  all_goals rfl

end

/-! ### STOP and HRET (R94, R95) -/

section
variable {h : Hdr} {s : State} (hg : s.me.guard h = true) (hp : s.me.pp = false)
include hg hp

theorem exec_stop (hh : s.inHandler = false) : exec (.stop h) s = .next (s.usePfx.endWith s.cell.last .stop) :=
  issue_passes hh (.inr hp) hg
theorem exec_hret (hh : s.inHandler = true) : exec (.hret h) s = .next (s.usePfx.endWith s.cell.last .hret) :=
  issue_passes (by rw [hh]; rfl) (.inr hp) hg

end

/-- The issuing thread once its prefix is used up. -/
theorem usePfx_th (s : State) : s.usePfx.cell.th s.cell.last = { s.me with pp := false } := by
  simp [State.usePfx, State.modMe, State.me]
theorem endWith_stop {s : State} {t : TIdx} (ho : (s.cell.th t).outs = []) (hd : (s.cell.th t).deferred = none) :
    s.endWith t .stop = modFocus s fun c =>
      ((c.dropLeases t).modTh t fun x => { x with st := .stopped, wait := .none, wmark := false, inb := false }).stopFault := by
  rw [endWith_now ho (f := .stop) (by decide), finish_stop (by simpa [Thread.finishing] using hd)]
  simp [State.leadOn, modFocus, State.modTh, Thread.finishing]
theorem endWith_hret {s : State} {t : TIdx} (ho : (s.cell.th t).outs = []) (hd : (s.cell.th t).deferred = none) :
    s.endWith t .hret = modFocus s fun c =>
      ((c.endTimed t).dropLeases t).modTh t fun x => { x with st := .free, wait := .none, wmark := false, inh := false, tmd := false } := by
  rw [endWith_now ho (f := .hret) (by decide), finish_hret (by simpa [Thread.finishing] using hd)]
  simp [State.leadOn, modFocus, State.modTh, Thread.finishing]

end Sys2Proof.Machine

namespace Sys2Proof.Stated

open Machine

theorem threadsEnd : Sys2Proof.Stated.ThreadsEnd := by
  intro h s ⟨hg, hp, _⟩
  refine ⟨fun hh ho hd => ?_, fun hh ho hd => ?_, fun ho => ⟨fun hh => ?_, fun hh => ?_⟩⟩
  · refine ⟨_, (exec_stop hg hp hh).trans (congrArg _ (endWith_stop (by rw [usePfx_th]; exact ho) (by rw [usePfx_th]; exact hd))), ?_⟩
    simp +contextual [State.me, State.usePfx, State.modMe, Cell.th_modTh_other, eq_comm]
  · refine ⟨_, (exec_hret hg hp hh).trans (congrArg _ (endWith_hret (by rw [usePfx_th]; exact ho) (by rw [usePfx_th]; exact hd))), ?_⟩
    simp +contextual [State.me, State.usePfx, State.modMe, Cell.th_modTh_other, eq_comm]
  · rw [exec_stop hg hp hh, endWith_waits (by rw [usePfx_th]; exact ho)]
    rw [State.usePfx, modMe_modTh_last]
    rfl
  · rw [exec_hret hg hp hh, endWith_waits (by rw [usePfx_th]; exact ho)]
    rw [State.usePfx, modMe_modTh_last]
    rfl

end Sys2Proof.Stated

/-! ### Exceptions of micro-threads (R367 to R369) -/

namespace Sys2Proof.Machine

/-- A thread of the cell in hand, and which one issues, stay as they are. -/
def State.Keeps (s s' : State) (w : TIdx) : Prop := s'.cell.last = s.cell.last ∧ s'.cell.th w = s.cell.th w

theorem State.modTh_keeps (s : State) {u w : TIdx} (f : Thread → Thread) (h : u ≠ w) : s.Keeps (s.modTh u f) w :=
  ⟨rfl, Cell.th_modTh_other s.cell f h⟩
theorem State.Keeps.trans {s s' s'' : State} {w : TIdx} (h : s.Keeps s' w) (h' : s'.Keeps s'' w) : s.Keeps s'' w :=
  ⟨h'.1.trans h.1, h'.2.trans h.2⟩
theorem Cell.received_th (c : Cell) (p : Pkt) (w : TIdx) : (c.received p).th w = c.th w := by
  unfold Cell.received
  split <;> rfl
theorem Cell.received_last (c : Cell) (p : Pkt) : (c.received p).last = c.last := by
  unfold Cell.received
  split <;> rfl
theorem State.inject_cell (s : State) (p : Pkt) (vc : BitVec 2) : (s.inject p vc).cell = s.cell := by
  unfold State.inject
  split <;> rfl
/-- An arrival touches no thread but the one that it binds. -/
theorem State.dispose_keeps {s : State} {p : Pkt} {d : Disposal} {w : TIdx} (hd : ∀ t, d = .bind t → t ≠ w) : s.Keeps (s.dispose p d) w := by
  cases d with
  | discard => exact ⟨Cell.received_last .., Cell.received_th ..⟩
  | bind t => exact ⟨Cell.received_last .., (Cell.th_modTh_other _ _ (hd t rfl)).trans (Cell.received_th ..)⟩
  | spill => exact ⟨rfl, rfl⟩
  | refuse =>
    constructor
    · rw [State.dispose, State.inject_cell]
      exact Cell.received_last ..
    · rw [State.dispose, State.inject_cell]
      exact Cell.received_th ..
  | stay => exact ⟨rfl, rfl⟩
/-- What binds is a free micro-thread (R76). -/
theorem Cell.disposal_bind {c : Cell} {p : Pkt} {t : TIdx} (h : c.disposal p = .bind t) : t ≠ 0 ∧ (c.th t).st = .free := by
  have hb : c.bindable p.chan.toNat = some t := by
    unfold Cell.disposal at h
    dsimp only at h
    split_ifs at h with _ _ _ _ hb
    simp only [Bool.and_eq_true, Option.isSome_iff_exists] at hb
    obtain ⟨_, u, hu⟩ := hb
    rw [hu] at h
    cases h
    exact hu
  have hm : t ∈ micro := List.mem_of_find?_eq_some hb
  have hf := List.find?_some hb
  simp only [Bool.and_eq_true, beq_iff_eq] at hf
  exact ⟨fun h0 => by subst h0; exact absurd hm (by decide), hf.1.2⟩
/-- An event touches no thread but a free one. -/
theorem State.raise_keeps {s : State} {ch : BitVec 6} {v : V256} {w : TIdx} (hw : w = 0 ∨ (s.cell.th w).st ≠ .free) : s.Keeps (s.raise ch v) w := by
  unfold State.raise
  dsimp only
  have ha : s.Keeps (modFocus s Cell.awake) w := ⟨rfl, rfl⟩
  refine ha.trans ?_
  split
  · exact State.dispose_keeps nofun
  split
  · refine State.dispose_keeps fun t ht htw => ?_
    obtain ⟨h0, hf⟩ := Cell.disposal_bind ht
    exact hw.elim (fun e => h0 (htw.trans e)) fun e => e (by rw [← htw]; exact hf)
  split
  · exact State.dispose_keeps nofun
  · exact ⟨rfl, rfl⟩
/-- A thread writes its record, and FLT counts it. -/
def State.recording (s : State) (u : TIdx) (r : FaultRec) : State :=
  modFocus s fun c => { c.modTh u (·.faulted r) with flt := satInc c.flt }
theorem State.recording_th (s : State) (u : TIdx) (r : FaultRec) : (s.recording u r).cell.th u = (s.cell.th u).faulted r :=
  Cell.th_modTh_same s.cell u (·.faulted r)
theorem State.recording_keeps (s : State) {u w : TIdx} (r : FaultRec) (h : u ≠ w) : s.Keeps (s.recording u r) w :=
  ⟨rfl, Cell.th_modTh_other s.cell (·.faulted r) h⟩
/-- A micro-thread takes an exception that is neither held nor the lead's (R367, R369). -/
theorem State.enterFault_micro {s : State} {u : TIdx} {r : FaultRec} (hu : u ≠ 0) (hb : s.cell.bcastAwaits u = false)
    (hh : s.cell.holdsFault u = false) (hr : r.cause = 0x01) :
    s.Keeps (s.enterFault u r) 0 ∧ (s.enterFault u r).cell.th u = (s.cell.th u).faulted r := by
  have hnot : ¬(u = 0 ∨ r.cause = 0x07 ∨ (r.cause = 0x09 ∧ (s.recording u r).debug = true)) := by
    rw [hr]
    rintro (h | h | ⟨h, _⟩)
    · exact hu h
    · exact absurd h (by decide)
    · exact absurd h (by decide)
  have hx : s.enterFault u r = modFocus ((s.recording u r).raise 62 (r.event u)) (·.stopFault) := by
    rw [State.enterFault, hb, if_neg Bool.false_ne_true]
    show (s.recording u r).reportFault u r = _
    rw [State.reportFault, if_neg (show ¬(s.recording u r).cell.holdsFault u = true from fun e => nomatch hh.symm.trans e), if_neg hnot]
  have h0 := (s.recording_keeps r hu).trans ((s.recording u r).raise_keeps (ch := 62) (v := r.event u) (.inl rfl))
  have h1 := (s.recording u r).raise_keeps (ch := 62) (v := r.event u) (w := u) (.inr (by rw [State.recording_th]; nofun))
  rw [hx]
  exact ⟨⟨(Cell.stopFault_last _).trans h0.1, (Cell.stopFault_th _ _).trans h0.2⟩,
    (Cell.stopFault_th _ _).trans (h1.2.trans (State.recording_th ..))⟩

/-! ### TCTL (R100, R368, R371) -/

/-- FCAUSE of ILLEGAL (Table 16.2). -/
theorem faultAt_word (b : BitVec 10) (v : W64) : (faultAt 0x01 b v).word = 0x8001 := by
  show BitVec.ofBool false ++ 1#1 ++ BitVec.ofBool false ++ (0 : BitVec 6) ++ (0x01 : BitVec 8) = 0x8001
  rfl
/-- A thread with VALID cleared, at its FPC. -/
def Thread.returned (x : Thread) : Thread := { x with fcause := insBits x.fcause 15 1 0, pc := x.fpc }
/-- VALID of a fault register is its bit 15 (Table 16.2). -/
theorem insBits_valid (v : BitVec 17) : insBits v 15 1 0 = v &&& ~~~0x8000 := by
  refine BitVec.eq_of_getLsbD_eq fun i hi => ?_
  rw [getLsbD_insBits, BitVec.getLsbD_and, decide_eq_true hi, Bool.true_and]
  by_cases h15 : i = 15
  · subst h15
    simp
  · rw [show BitVec.getLsbD (~~~0x8000 : BitVec 17) i = true by interval_cases i <;> simp_all, Bool.and_true]
    split_ifs
    · rfl
    · omega
    · rfl
theorem and_low16 {v : BitVec 17} (h : v.getLsbD 16 = false) : v &&& 0xFFFF = v := by
  refine BitVec.eq_of_getLsbD_eq fun i hi => ?_
  by_cases h16 : i < 16
  · rw [BitVec.getLsbD_and, show BitVec.getLsbD (0xFFFF : BitVec 17) i = true by interval_cases i <;> rfl, Bool.and_true]
  · rw [show i = 16 by omega, BitVec.getLsbD_and, h, Bool.false_and]

section
variable {s : State} {u : TIdx}

theorem resume_runs (he : (s.cell.th u).fcause.getLsbD 16 = false)
    (hb : (s.cell.th u).inb = true → (s.cell.th u).blockHolds (s.cell.th u).fpc.toNat = true) :
    s.resume u = s.modTh u fun x => { x.returned with st := .running, wait := .none } := by
  have hc : ((s.cell.th u).inb && ((s.cell.th u).fcause.getLsbD 16 || !(s.cell.th u).blockHolds (s.cell.th u).fpc.toNat)) = false := by
    rw [he, Bool.false_or]
    cases hi : (s.cell.th u).inb
    · rfl
    · rw [hb hi]
      rfl
  rw [State.resume, hc, he, if_neg Bool.false_ne_true, if_neg Bool.false_ne_true]
  exact modTh_congr rfl
theorem resume_blockEnd (he : (s.cell.th u).fcause.getLsbD 16 = true) (hb : (s.cell.th u).inb = true) :
    s.resume u = (s.modTh u Thread.returned).endWith u .blockEnd := by
  have hc : ((s.cell.th u).inb && ((s.cell.th u).fcause.getLsbD 16 || !(s.cell.th u).blockHolds (s.cell.th u).fpc.toNat)) = true := by
    rw [hb, he]
    rfl
  exact (if_pos hc).trans (congrArg (State.endWith · u .blockEnd) (modTh_congr rfl))
theorem resume_past (he : (s.cell.th u).fcause.getLsbD 16 = true) (hb : (s.cell.th u).inb = false) :
    s.resume u = (s.modTh u Thread.returned).fault u (faultAt 0x01 1023 0) := by
  have hc : ¬((s.cell.th u).inb && ((s.cell.th u).fcause.getLsbD 16 || !(s.cell.th u).blockHolds (s.cell.th u).fpc.toNat)) = true := by
    rw [hb]
    exact Bool.false_ne_true
  exact (if_neg hc).trans ((if_pos he).trans (congrArg (State.fault · u (faultAt 0x01 1023 0)) (modTh_congr rfl)))

/-- A prefix pending at the end of a block is ILLEGAL at its last word (R52). -/
theorem finish_blockEnd_pfx (hd : (s.cell.th u).deferred = none) (hp : (s.cell.th u).pp = true) :
    s.finish u .blockEnd = s.enterFault u (faultAt 0x01 ((s.cell.th u).blkAt + (s.cell.th u).blkLen.setWidth 10) 0) := by
  simp [State.finish, hd, hp]
theorem endWith_blockEnd_pfx (ho : (s.cell.th u).outs = []) (hd : (s.cell.th u).deferred = none) (hp : (s.cell.th u).pp = true) :
    s.endWith u .blockEnd = (s.modTh u (·.finishing .blockEnd)).enterFault u
      (faultAt 0x01 ((s.cell.th u).blkAt + (s.cell.th u).blkLen.setWidth 10) 0) := by
  rw [endWith_now ho (f := .blockEnd) (by decide), finish_blockEnd_pfx (by simpa [Thread.finishing] using hd) (by simpa [Thread.finishing] using hp)]
  simp [State.leadOn, Thread.finishing]

end

end Sys2Proof.Machine

namespace Sys2Proof.Stated

open Machine

/-- What TCTL.RESUME does to a thread. -/
def resumes (t : TIdx) (s : State) : Ctl := .done (if (s.cell.th t).st = .faulted ∧ s.cell.heldFault t = false then s.resume t else s)
theorem resumes_faulted {s : State} {u : TIdx} (hst : (s.cell.th u).st = .faulted) (hh : s.cell.heldFault u = false) :
    resumes u s = .done (s.resume u) := congrArg _ (if_pos ⟨hst, hh⟩)
theorem resumes_other {s : State} {u : TIdx} (hn : (s.cell.th u).st ≠ .faulted ∨ s.cell.heldFault u = true) : resumes u s = .done s :=
  congrArg _ (if_neg fun e => hn.elim (· e.1) fun e' => Bool.noConfusion (e'.symm.trans e.2))

section
variable {h : Hdr} {a : Spec} {s : State} {u : TIdx} {f : TIdx → State → Ctl} (hp : Passes s h) (h0 : s.cell.last = 0) (hs : srcOk a = true)
  (ha : s.anyBound [a] = false) (hu : (lane s a).toNat % 8 = u.val) (hu0 : u ≠ 0)
include hp h0 hs ha hu hu0

/-- The lead's operation on a micro-thread. -/
theorem controls_passes : controls h a f s = .next (s.after h 1 (f u s)) := by
  obtain ⟨hg, hpp, hc⟩ := hp
  have hsrc : s.src0 a = lane s a := congrArg lane0 (src_reg (anyBound_false ha (List.mem_cons_self ..)) hc)
  have hsel : (⟨(lane s a).toNat % 8, Nat.mod_lt _ (by decide)⟩ : TIdx) = u := Fin.ext hu
  rw [controls, issue_passes (by rw [State.isLead, h0, hs]; rfl) (.inr hpp) hg]
  simp only [streamNeed_none ha (anyBound_nil s), popAll_same ha, hsrc, hsel, if_neg hu0]

/-- An operation of the lead that is done goes on. -/
theorem controls_done {s' : State} {pc : BitVec 10} {l0 l1 : Loop} (hf : Follows s 1 pc l0 l1) (hb : f u s = .done s') (hk : s.Keeps s' 0) :
    controls h a f s = .next (s'.modMe (goes pc l0 l1 h.w)) := by
  have hme : s'.me = s.me := by rw [State.me, State.me, hk.1, h0, hk.2]
  rw [controls_passes hp h0 hs ha hu hu0, hb, after_done hk.1 (by rw [hme]; exact hf)]
  rfl
/-- One that is done at once, or that resumes the thread. -/
theorem controls_same {pc : BitVec 10} {l0 l1 : Loop} (hf : Follows s 1 pc l0 l1) (hb : f u s = .done s) :
    controls h a f s = .next (s.modMe (goes pc l0 l1 h.w)) :=
  controls_done hp h0 hs ha hu hu0 hf hb ⟨rfl, rfl⟩

/-- What the lead leaves of another thread that it controls, and its own pc. -/
theorem controls_other {s' : State} {pc : BitVec 10} {l0 l1 : Loop} (hf : Follows s 1 pc l0 l1) (hb : f u s = .done s') (hk : s.Keeps s' 0) :
    ∃ t, controls h a f s = .next t ∧ t.me.pc = pc ∧ t.cell.th u = s'.cell.th u ∧ t.cell.mx = s'.cell.mx ∧ t.cell.eng = s'.cell.eng := by
  have hl : s'.cell.last ≠ u := by rw [hk.1, h0]; exact hu0.symm
  refine ⟨_, controls_done hp h0 hs ha hu hu0 hf hb hk, ?_, Cell.th_modTh_other _ _ hl, rfl, rfl⟩
  rw [modMe_me]
  simp [goes]

variable {pc : BitVec 10} {l0 l1 : Loop} (hf : Follows s 1 pc l0 l1) (hst : (s.cell.th u).st = .faulted) (hh : s.cell.heldFault u = false)
include hf hst hh

theorem exec_resume (hk : s.Keeps (s.resume u) 0) : exec (.tctlResume h a) s = .next ((s.resume u).modMe (goes pc l0 l1 h.w)) :=
  controls_done (f := resumes) hp h0 hs ha hu hu0 hf (resumes_faulted hst hh) hk
theorem exec_resume_other (hk : s.Keeps (s.resume u) 0) :
    ∃ t, exec (.tctlResume h a) s = .next t ∧ t.me.pc = pc ∧ t.cell.th u = (s.resume u).cell.th u := by
  obtain ⟨t, hx, hpc, hth, -, -⟩ := controls_other (f := resumes) hp h0 hs ha hu hu0 hf (resumes_faulted hst hh) hk
  exact ⟨t, hx, hpc, hth⟩

variable (he : (s.cell.th u).fcause.getLsbD 16 = true) (ho : (s.cell.th u).outs = []) (hd : (s.cell.th u).deferred = none)
include he ho hd

/-- A faulted thread with END set, in a block: its block ends. -/
theorem exec_resume_blockEnd (hpp : (s.cell.th u).pp = false) (hb : (s.cell.th u).inb = true) :
    ∃ t, exec (.tctlResume h a) s = .next t ∧ t.me.pc = pc ∧ (t.cell.th u).g = (s.cell.th u).g ∧ (t.cell.th u).st = .stopped ∧
      (t.cell.th u).inb = false ∧ (t.cell.th u).fcause = (s.cell.th u).fcause &&& ~~~0x8000 := by
  have hend := (resume_blockEnd he hb).trans (endWith_blockEnd (s := s.modTh u Thread.returned) (by simpa [Thread.returned] using ho)
    (by simpa [Thread.returned] using hd) (by simpa [Thread.returned] using hpp))
  have hk : s.Keeps (s.resume u) 0 := by
    rw [hend]
    exact ⟨rfl, by simp [Cell.th_modTh_other _ _ hu0]⟩
  obtain ⟨t, hx, hpc, hth⟩ := exec_resume_other hp h0 hs ha hu hu0 hf hst hh hk
  refine ⟨t, hx, hpc, ?_⟩
  rw [hth, hend]
  simp [Thread.returned, insBits_valid]

variable (hw : s.me.wait = .none) (hhf : s.cell.holdsFault u = false)
include hw hhf

omit he ho hd in
/-- One that raises ILLEGAL as it resumes. -/
theorem exec_resume_illegal {f : Finish} {b : BitVec 10}
    (hend : s.resume u = (s.modTh u fun x => x.returned.finishing f).enterFault u (faultAt 0x01 b 0)) :
    ∃ t, exec (.tctlResume h a) s = .next t ∧ t.me.pc = pc ∧
      t.cell.th u = (((s.cell.th u).returned.finishing f).faulted (faultAt 0x01 b 0)) := by
  have hm := s.modTh_keeps (fun x => x.returned.finishing f) hu0
  have hbc : (s.modTh u fun x => x.returned.finishing f).cell.bcastAwaits u = false := by
    have : (s.cell.th 0).wait = .none := by rwa [State.me, h0] at hw
    rw [Cell.bcastAwaits, hm.2, this]
  obtain ⟨hk, hth⟩ := State.enterFault_micro (r := faultAt 0x01 b 0) hu0 hbc hhf rfl
  obtain ⟨t, hx, hpc, ht⟩ := exec_resume_other hp h0 hs ha hu hu0 hf hst hh (by rw [hend]; exact hm.trans hk)
  exact ⟨t, hx, hpc, by rw [ht, hend, hth]; exact congrArg (Thread.faulted · _) (Cell.th_modTh_same ..)⟩
omit hd in
/-- Outside a block, past word 1023 (R371). -/
theorem exec_resume_past (hb : (s.cell.th u).inb = false) :
    ∃ t, exec (.tctlResume h a) s = .next t ∧ t.me.pc = pc ∧ (t.cell.th u).g = (s.cell.th u).g ∧ (t.cell.th u).st = .faulted ∧
      (t.cell.th u).fcause = 0x8001 ∧ (t.cell.th u).fpc = 1023 := by
  have hend := (resume_past he hb).trans (fault_now (by simpa [Thread.returned] using ho))
  obtain ⟨t, hx, hpc, hth⟩ := exec_resume_illegal hp h0 hs ha hu hu0 hf hst hh hw hhf (b := 1023) (f := .fault (faultAt 0x01 1023 0))
    (by rw [hend]; simp [State.modTh])
  exact ⟨t, hx, hpc, by rw [hth]; exact ⟨rfl, rfl, faultAt_word .., rfl⟩⟩
/-- In a block, with a prefix pending, at the block's last word (R52). -/
theorem exec_resume_pfx (hpp : (s.cell.th u).pp = true) (hb : (s.cell.th u).inb = true) :
    ∃ t, exec (.tctlResume h a) s = .next t ∧ t.me.pc = pc ∧ (t.cell.th u).st = .faulted ∧ (t.cell.th u).fcause = 0x8001 ∧
      (t.cell.th u).fpc = (s.cell.th u).blkAt + (s.cell.th u).blkLen.setWidth 10 ∧ (t.cell.th u).pp = true := by
  have hend := (resume_blockEnd he hb).trans (endWith_blockEnd_pfx (s := s.modTh u Thread.returned) (by simpa [Thread.returned] using ho)
    (by simpa [Thread.returned] using hd) (by simpa [Thread.returned] using hpp))
  obtain ⟨t, hx, hpc, hth⟩ := exec_resume_illegal hp h0 hs ha hu hu0 hf hst hh hw hhf (f := .blockEnd)
    (b := (s.cell.th u).blkAt + (s.cell.th u).blkLen.setWidth 10) (by rw [hend]; simp [State.modTh, Thread.returned])
  exact ⟨t, hx, hpc, by rw [hth]; exact ⟨rfl, faultAt_word .., rfl, hpp⟩⟩

end

end Sys2Proof.Stated

/-! ### KILL and RESET (Table 03.12) -/

namespace Sys2Proof.Machine

/-- The result stays outstanding when a thread's lease requests are withdrawn. -/
def Cell.staysOut (c : Cell) (t : TIdx) (o : LongRes) : Bool :=
  match o.kind with
  | .matrix i => !((c.mx.leaseQ.filter (·.t == t)).map (·.id) ++ (c.mx.queue.filter (·.isLeaseOf t)).map (·.id)).contains i
  | _ => true
theorem Cell.staysOut_other {c : Cell} {t : TIdx} {o : LongRes} (h : ∀ i, o.kind ≠ .matrix i) : c.staysOut t o = true := by
  unfold Cell.staysOut
  split
  · next i hi => exact absurd hi (h i)
  · rfl
theorem Cell.staysOut_lease {c : Cell} {t : TIdx} {o : LongRes} {i : Nat} (hk : o.kind = .matrix i)
    (h : (∃ r ∈ c.mx.leaseQ, r.id = i ∧ r.t = t) ∨ ∃ e ∈ c.mx.queue, e.id = i ∧ e.isLeaseOf t = true) : c.staysOut t o = false := by
  rw [Cell.staysOut, hk]
  simp only [Bool.not_eq_false', List.contains_iff_mem, List.mem_append, List.mem_map, List.mem_filter, beq_iff_eq]
  rcases h with ⟨r, hr, hi, ht⟩ | ⟨e, he, hi, ht⟩
  · exact .inl ⟨r, ⟨hr, ht⟩, hi⟩
  · exact .inr ⟨e, ⟨he, ht⟩, hi⟩
/-- A request for leases of a thread. -/
theorem MEntry.isLeaseOf_iff {e : MEntry} {t : TIdx} : e.isLeaseOf t = true ↔ e.t = t ∧ ∃ m d, e.op = .lease m d := by
  rw [MEntry.isLeaseOf, Bool.and_eq_true, beq_iff_eq]
  refine and_congr_right fun _ => ?_
  split
  · next m d h => exact ⟨fun _ => ⟨m, d, h⟩, fun _ => rfl⟩
  · next h => exact ⟨nofun, fun ⟨m, d, e⟩ => absurd e (h m d)⟩

section
variable (c : Cell) (t : TIdx)

@[simp] theorem Cell.withdraw_leaseQ : (c.withdraw t).mx.leaseQ = c.mx.leaseQ.filter (·.t != t) := rfl
@[simp] theorem Cell.withdraw_queue : (c.withdraw t).mx.queue = c.mx.queue.filter fun e => !e.isLeaseOf t := rfl
@[simp] theorem Cell.withdraw_owner : (c.withdraw t).mx.owner = c.mx.owner := rfl
@[simp] theorem Cell.withdraw_last : (c.withdraw t).last = c.last := rfl
@[simp] theorem Cell.withdraw_eng : (c.withdraw t).eng = c.eng := rfl
@[simp] theorem Cell.withdraw_name : (c.withdraw t).name = c.name := rfl
theorem Cell.withdraw_th_same : (c.withdraw t).th t = { c.th t with outs := (c.th t).outs.filter (c.staysOut t) } := Cell.th_modTh_same ..
theorem Cell.withdraw_th_other {u : TIdx} (h : t ≠ u) : (c.withdraw t).th u = c.th u := Cell.th_modTh_other _ _ h

end

/-- The state in which a killed thread waits for what it has outstanding. -/
def State.killing (s : State) (t : TIdx) (clear : Bool) : State :=
  modFocus s fun c => ((c.modTh t Thread.deposited).withdraw t).modTh t (·.finishing (.kill clear))

section
variable {s : State} {t : TIdx} {clear : Bool}

theorem kills_held (h : s.cell.heldFault t = true) : kills clear t s = .done s := if_pos h
theorem kills_free (h : s.cell.heldFault t = false) (hf : (s.cell.th t).st = .free) : kills false t s = .done s :=
  (if_neg fun e => Bool.noConfusion (h.symm.trans e)).trans (if_pos ⟨hf, rfl⟩)
variable (h : s.cell.heldFault t = false) (hf : ¬((s.cell.th t).st = .free ∧ clear = false))
include h hf

theorem kills_now (ho : ((s.killing t clear).cell.th t).outs = []) (hd : (s.killing t clear).cell.drainsFirst t (.kill clear) = false) :
    kills clear t s = .done ((s.killing t clear).finish t (.kill clear)) :=
  (if_neg fun e => Bool.noConfusion (h.symm.trans e)).trans ((if_neg hf).trans (if_pos (by
    show (((s.killing t clear).cell.th t).outs.isEmpty && !(s.killing t clear).cell.drainsFirst t (.kill clear)) = true
    rw [ho, hd]
    rfl)))
theorem kills_waits (hw : ((s.killing t clear).cell.th t).outs ≠ [] ∨ (s.killing t clear).cell.drainsFirst t (.kill clear) = true) :
    kills clear t s = .hold .parked (.kill t) (s.killing t clear) :=
  (if_neg fun e => Bool.noConfusion (h.symm.trans e)).trans ((if_neg hf).trans (if_neg fun e => by
    have e : (((s.killing t clear).cell.th t).outs.isEmpty && !(s.killing t clear).cell.drainsFirst t (.kill clear)) = true := e
    simp only [Bool.and_eq_true, List.isEmpty_iff, Bool.not_eq_true'] at e
    exact hw.elim (· e.1) fun hd => Bool.noConfusion (hd.symm.trans e.2)))

end

/-- A cell whose thread is killed, its streams cut and its registers cleared with RESET. -/
def Cell.killed (c : Cell) (t : TIdx) (clear : Bool) : Cell :=
  let c := ((c.endTimed t).dropLeases t).modTh t Thread.killed
  if clear then (c.unbindAll t).modTh t (·.cleared t c.name) else c
section
variable (c : Cell) (t : TIdx)

@[simp] theorem Cell.dropLeases_leaseQ : (c.dropLeases t).mx.leaseQ = c.mx.leaseQ := rfl
@[simp] theorem Cell.dropLeases_queue : (c.dropLeases t).mx.queue = c.mx.queue := rfl
@[simp] theorem Cell.dropLeases_eng : (c.dropLeases t).eng = c.eng := rfl
@[simp] theorem Cell.dropLeases_name : (c.dropLeases t).name = c.name := rfl
@[simp] theorem Cell.unbindAll_th (u : TIdx) : (c.unbindAll t).th u = c.th u := rfl
@[simp] theorem Cell.unbindAll_last : (c.unbindAll t).last = c.last := rfl
@[simp] theorem Cell.unbindAll_name : (c.unbindAll t).name = c.name := rfl
@[simp] theorem Cell.unbindAll_mx : (c.unbindAll t).mx = c.mx := rfl
theorem Cell.modTh_same {c : Cell} {t : TIdx} {f : Thread → Thread} (h : f (c.th t) = c.th t) : c.modTh t f = c := by
  rw [Cell.modTh, h]
  simp [Cell.setTh, Cell.th]

variable (clear : Bool)

@[simp] theorem Cell.killed_last : (c.killed t clear).last = c.last := by
  cases clear <;> simp [Cell.killed]
@[simp] theorem Cell.killed_mx : (c.killed t clear).mx = (c.dropLeases t).mx := by
  cases clear <;> simp [Cell.killed, Cell.dropLeases]
theorem Cell.killed_th_other {u : TIdx} (h : t ≠ u) : (c.killed t clear).th u = c.th u := by
  cases clear <;> simp [Cell.killed, Cell.th_modTh_other _ _ h]
theorem Cell.killed_th : (c.killed t false).th t = (c.th t).killed := by simp [Cell.killed]
theorem Cell.killed_th_clear : (c.killed t true).th t = (c.th t).killed.cleared t c.name := by
  simp [Cell.killed]
theorem Cell.killed_strm (n : Fin 4) :
    (c.killed t true).eng.strm[n] = if c.eng.strm[n].bound = true ∧ c.eng.strm[n].own = t then c.eng.strm[n].unbound else c.eng.strm[n] := by
  simp [Cell.killed, Cell.unbindAll]

end

/-- A kill that no lead waits for. -/
theorem finish_kill_cell {s : State} {t : TIdx} {clear : Bool} (h : (s.cell.th 0).wait = .none) (ht : t ≠ 0) :
    (s.finish t (.kill clear)).cell = (s.cell.killed t clear).stopFault := by
  have hm : (s.cell.killed t clear).modTh 0 (fun z => if z.wait = .kill t then z.fall 1 z.wmark else z) = s.cell.killed t clear :=
    Cell.modTh_same (if_neg (by rw [Cell.killed_th_other _ _ _ ht, h]; nofun))
  exact congrArg Cell.stopFault hm
/-- What keeps a RESET from its end: a write stream with packets still to be written (R238). -/
theorem Cell.drainsFirst_iff {c : Cell} {t : TIdx} : c.drainsFirst t (.kill true) = true ↔
    ∃ n : Fin 4, c.eng.strm[n].bound = true ∧ c.eng.strm[n].own = t ∧ c.eng.strm[n].isWrite = true ∧
      c.eng.strm[n].buf ≠ [] ∧ c.eng.strm[n].err = false := by
  simp only [Cell.drainsFirst, beq_self_eq_true, Bool.true_and, List.any_eq_true, Vector.mem_toList_iff, Vector.mem_iff_getElem,
    Bool.and_eq_true, beq_iff_eq, Bool.not_eq_true', List.isEmpty_eq_false_iff]
  constructor
  · rintro ⟨x, ⟨i, hi, rfl⟩, ⟨⟨⟨⟨hb, ho⟩, hw⟩, hn⟩, he⟩⟩
    exact ⟨⟨i, hi⟩, hb, ho, hw, hn, he⟩
  · rintro ⟨n, hb, ho, hw, hn, he⟩
    exact ⟨_, ⟨n.val, n.isLt, rfl⟩, ⟨⟨⟨⟨hb, ho⟩, hw⟩, hn⟩, he⟩⟩

section
variable {s : State} {t : TIdx} {clear : Bool}

@[simp] theorem killing_last : (s.killing t clear).cell.last = s.cell.last := rfl
theorem killing_th_other {u : TIdx} (h : t ≠ u) : (s.killing t clear).cell.th u = s.cell.th u := by
  simp [State.killing, Cell.th_modTh_other _ _ h, Cell.withdraw_th_other _ _ h]
theorem killing_th (hd : (s.cell.th t).deposited = s.cell.th t) :
    (s.killing t clear).cell.th t =
      ({ s.cell.th t with outs := (s.cell.th t).outs.filter (s.cell.staysOut t) } : Thread).finishing (.kill clear) := by
  show (((s.cell.modTh t Thread.deposited).withdraw t).modTh t _).th t = _
  rw [Cell.modTh_same hd, Cell.th_modTh_same, Cell.withdraw_th_same]
theorem killing_queue : (s.killing t clear).cell.mx.queue = s.cell.mx.queue.filter fun e => !e.isLeaseOf t := rfl

end

end Sys2Proof.Machine

namespace Sys2Proof.Stated

open Machine

theorem deposited_of {x : Thread} (h : NoDeposit x) : x.deposited = x := by
  unfold Thread.deposited
  split
  · next p pc prio timed len hw => exact absurd hw (h p pc prio timed len)
  · rfl
theorem undrained_iff {s : State} {u : TIdx} : Undrained s u ↔ s.cell.drainsFirst u (.kill true) = true := Cell.drainsFirst_iff.symm

section
variable {s : State} {u : TIdx} {clear : Bool}

/-- Nothing but requests for leases is outstanding: with these withdrawn, nothing is. -/
theorem killing_outs_nil (hd : NoDeposit (s.cell.th u)) (hl : OnlyLeases s u) : ((s.killing u clear).cell.th u).outs = [] := by
  rw [killing_th (deposited_of hd)]
  refine List.filter_eq_nil_iff.mpr fun o ho => ?_
  obtain ⟨i, hk, hreq⟩ := hl o ho
  rw [Cell.staysOut_lease hk (hreq.imp_right fun ⟨e, he, hi, hlease⟩ => ⟨e, he, hi, MEntry.isLeaseOf_iff.mpr hlease⟩)]
  exact Bool.false_ne_true
/-- A result that is no request for leases stays outstanding. -/
theorem killing_outs_cons (hd : NoDeposit (s.cell.th u)) (ho : ∃ o ∈ (s.cell.th u).outs, ∀ i, o.kind ≠ .matrix i) :
    ((s.killing u clear).cell.th u).outs ≠ [] := by
  rw [killing_th (deposited_of hd)]
  obtain ⟨o, ho, hk⟩ := ho
  exact List.ne_nil_of_mem (List.mem_filter.mpr ⟨ho, Cell.staysOut_other hk⟩)
theorem withdrawn_of {t : State} (hl : t.cell.mx.leaseQ = (s.killing u clear).cell.mx.leaseQ)
    (hq : t.cell.mx.queue = (s.killing u clear).cell.mx.queue) : Withdrawn s t u := by
  refine ⟨hl, fun e => ?_⟩
  rw [hq, killing_queue, List.mem_filter, Bool.not_eq_true', Bool.eq_false_iff, Ne, MEntry.isLeaseOf_iff]

end

section
variable {h : Hdr} {a : Spec} {s : State} {u : TIdx} {clear : Bool} (hp : Passes s h) (h0 : s.cell.last = 0) (hs : srcOk a = true)
  (ha : s.anyBound [a] = false) (hu : (lane s a).toNat % 8 = u.val) (hu0 : u ≠ 0) {pc : BitVec 10} {l0 l1 : Loop} (hf : Follows s 1 pc l0 l1)
  (hh : s.cell.heldFault u = false) (hw : s.me.wait = .none) (hd : NoDeposit (s.cell.th u)) (hfree : ¬((s.cell.th u).st = .free ∧ clear = false))
include hp h0 hs ha hu hu0 hf hh hw hd hfree

/-- A kill with only requests for leases outstanding and nothing to drain ends the thread at once. -/
theorem controls_kills_now (hl : OnlyLeases s u) (hdr : s.cell.drainsFirst u (.kill clear) = false) :
    ∃ t, controls h a (kills clear) s = .next t ∧ t.me.pc = pc ∧ t.cell.th u = ((s.killing u clear).cell.killed u clear).th u ∧
      t.cell.mx = ((s.killing u clear).cell.dropLeases u).mx ∧ t.cell.eng = ((s.killing u clear).cell.killed u clear).eng ∧
      Withdrawn s t u := by
  have hw0 : ((s.killing u clear).cell.th 0).wait = .none := by
    rw [killing_th_other hu0, ← h0]
    exact hw
  have hc := finish_kill_cell (clear := clear) hw0 hu0
  have hk : s.Keeps ((s.killing u clear).finish u (.kill clear)) 0 := by
    constructor
    · rw [hc]
      simp
    · rw [hc, Cell.stopFault_th, Cell.killed_th_other _ _ _ hu0, killing_th_other hu0]
  obtain ⟨t, hx, hpc, hth, hmx, heng⟩ := controls_other hp h0 hs ha hu hu0 hf (kills_now hh hfree (killing_outs_nil hd hl) hdr) hk
  rw [hc] at hth hmx heng
  simp only [Cell.stopFault_th, Cell.stopFault_mx, Cell.stopFault_eng, Cell.killed_mx] at hth hmx heng
  exact ⟨t, hx, hpc, hth, hmx, heng, withdrawn_of (clear := clear) (by rw [hmx]; rfl) (by rw [hmx]; rfl)⟩
omit hf hw in
/-- One that must wait parks the lead. -/
theorem controls_kills_waits (hwait : (∃ o ∈ (s.cell.th u).outs, ∀ i, o.kind ≠ .matrix i) ∨ s.cell.drainsFirst u (.kill clear) = true) :
    ∃ t, controls h a (kills clear) s = .next t ∧ Withdrawn s t u ∧ Awaited s t h u clear := by
  have hk := kills_waits hh hfree (hwait.imp_left (killing_outs_cons (clear := clear) hd))
  have hme : (s.killing u clear).me = s.me := by rw [State.me, State.me, killing_last, h0, killing_th_other hu0]
  refine ⟨_, (controls_passes hp h0 hs ha hu hu0).trans (congrArg (fun c => Host.Outcome.next (s.after h 1 c)) hk),
    withdrawn_of (clear := clear) rfl rfl, ?_⟩
  have hl : (s.killing u clear).cell.last ≠ u := by
    rw [killing_last, h0]
    exact hu0.symm
  have hth : ((s.after h 1 (.hold .parked (.kill u) (s.killing u clear))).cell.th u) = (s.killing u clear).cell.th u := by
    show ((s.killing u clear).usePfx.modMe _).cell.th u = _
    rw [State.usePfx, modMe_modMe]
    exact Cell.th_modTh_other _ _ hl
  refine ⟨?_, ?_⟩
  · simp [State.after, State.usePfx, hme]
  · rw [hth, killing_th (deposited_of hd)]
    exact ⟨rfl, rfl, rfl⟩

end

theorem threadControl : Sys2Proof.Stated.ThreadControl := by
  intro h a s pc l0 l1 u hp hf h0 hs ha hu hu0
  refine ⟨fun ⟨r, hr, hru, hrh⟩ i hi => ?_, fun hh => ⟨fun hst he hb => ?_, fun hst he ho hd hpp hw hhf => ?_,
    fun hst he ho hd hpp hw hhf hb => exec_resume_pfx hp h0 hs ha hu hu0 hf hst hh he ho hd hw hhf hpp hb, fun hst => ?_, fun hst => ?_,
    fun hw hst hd hl => ?_, fun hw hd hl hun => ?_, fun hw hd => ⟨fun hst ho => ?_, fun hwait => ?_⟩⟩⟩
  · have hheld : s.cell.heldFault u = true := by simp [Cell.heldFault, hr, hru, hrh]
    simp only [List.mem_cons, List.not_mem_nil, or_false] at hi
    rcases hi with rfl | rfl | rfl
    · exact controls_same (f := resumes) hp h0 hs ha hu hu0 hf (resumes_other (.inr hheld))
    · exact controls_same hp h0 hs ha hu hu0 hf (kills_held hheld)
    · exact controls_same hp h0 hs ha hu hu0 hf (kills_held hheld)
  · have hres := resume_runs he fun e => decide_eq_true (hb e)
    rw [exec_resume hp h0 hs ha hu hu0 hf hst hh (by rw [hres]; exact s.modTh_keeps _ hu0), hres]
    have heq : insBits (s.cell.th u).fcause 15 1 0 = (s.cell.th u).fcause &&& 0xFFFF &&& ~~~0x8000 := by rw [insBits_valid, and_low16 he]
    refine congrArg (fun s' : State => Host.Outcome.next (s'.modMe (goes pc l0 l1 h.w))) (modTh_congr ?_)
    rw [Thread.returned, heq]
  · cases hb : (s.cell.th u).inb with
    | true =>
      obtain ⟨t, hx, hpc, hg, hrest⟩ := exec_resume_blockEnd hp h0 hs ha hu hu0 hf hst hh he ho hd hpp hb
      exact ⟨t, hx, hpc, hg, fun _ => hrest, nofun⟩
    | false =>
      obtain ⟨t, hx, hpc, hg, hrest⟩ := exec_resume_past hp h0 hs ha hu hu0 hf hst hh he ho hw hhf hb
      exact ⟨t, hx, hpc, hg, nofun, fun _ => hrest⟩
  · exact controls_same (f := resumes) hp h0 hs ha hu hu0 hf (resumes_other (.inl hst))
  · exact controls_same hp h0 hs ha hu hu0 hf (kills_free hh hst)
  · obtain ⟨t, hx, hpc, hth, hmx, -, hwd⟩ := controls_kills_now (clear := false) hp h0 hs ha hu hu0 hf hh hw hd (fun e => hst e.1) hl
      (Cell.drainsFirst_other (by decide))
    rw [Cell.killed_th, killing_th (deposited_of hd)] at hth
    refine ⟨t, hx, hwd, ?_⟩
    rw [hth, hmx]
    refine ⟨rfl, rfl, rfl, rfl, rfl, ?_, hpc, fun i => Cell.dropLeases_owner _ _ _ i.isLt⟩
    exact (getLsbD_insBits ..).trans rfl
  · have hdr : s.cell.drainsFirst u (.kill true) = false := Bool.eq_false_iff.mpr fun e => hun (undrained_iff.mpr e)
    obtain ⟨t, hx, hpc, hth, -, heng, hwd⟩ := controls_kills_now (clear := true) hp h0 hs ha hu hu0 hf hh hw hd (fun e => nomatch e.2) hl hdr
    rw [Cell.killed_th_clear, killing_th (deposited_of hd)] at hth
    refine ⟨t, hx, hwd, ?_⟩
    rw [hth, heng]
    exact ⟨rfl, rfl, rfl, rfl, rfl, rfl, rfl, rfl, rfl, rfl, rfl, rfl, rfl, rfl, fun n => Cell.killed_strm _ _ n, hpc⟩
  · exact controls_kills_waits hp h0 hs ha hu hu0 hh hd (fun e => hst e.1) (.inl ho)
  · exact controls_kills_waits hp h0 hs ha hu hu0 hh hd (fun e => nomatch e.2) (hwait.imp_right undrained_iff.mp)

end Sys2Proof.Stated

/-- Settles O8: the ends of a thread (`threadsEnd`), and RESUME, KILL and RESET of another one (`threadControl`). -/
theorem threadsEndAndAreControlled : Obligations.ThreadsEndAndAreControlled := ⟨Sys2Proof.Stated.threadsEnd, Sys2Proof.Stated.threadControl⟩

/-! SUPPORT. The instruction that an issue cycle runs (R46, R62, R63, R71). -/

namespace Sys2Proof.Machine

/-! ### Fetch (R46, R71) -/

/-- A well-formed instruction has one word, or the two of a long form, and these decode to it. -/
theorem words_of_wellFormed {i : Instr} (hi : WellFormed i) :
    (∃ w, encode i = [w] ∧ isLongWord w = false ∧ decode w 0 = .ok i) ∨
      ∃ w v, encode i = [w, v] ∧ isLongWord w = true ∧ decode w v = .ok i := by
  have h := encodingsDecode i hi []
  rw [List.append_nil] at h
  match he : encode i with
  | [] => rw [he] at h; nomatch h
  | [w] =>
    rw [he, decodeWords] at h
    cases hl : isLongWord w with
    | true => rw [hl] at h; nomatch h
    | false =>
      rw [hl, if_neg Bool.false_ne_true] at h
      cases hd : decode w 0 with
      | error _ => rw [hd] at h; nomatch h
      | ok j => rw [hd] at h; cases h; exact .inl ⟨w, rfl, hl, hd⟩
  | w :: v :: r =>
    rw [he, decodeWords] at h
    cases hd : decode w v with
    | error _ => rw [hd] at h; nomatch h
    | ok j =>
      cases hl : isLongWord w with
      | true => rw [hd, hl] at h; cases h; exact .inr ⟨w, v, rfl, hl, hd⟩
      | false => rw [hd, hl] at h; nomatch h

section
variable {c : Cell} {t : TIdx}

/-- The words at a thread's pc are those of an instruction: it is fetched. -/
theorem Cell.fetch_encode {i : Instr} (hi : WellFormed i)
    (h : ∀ k, k < (encode i).length → c.codeWord t ((c.th t).pc.toNat + k) = (encode i)[k]?) : c.fetch t = some i := by
  rcases words_of_wellFormed hi with ⟨w, he, hl, hd⟩ | ⟨w, v, he, hl, hd⟩
  · rw [he] at h
    have h0 : c.codeWord t (c.th t).pc.toNat = some w := h 0 (Nat.zero_lt_succ _)
    simp only [Cell.fetch, h0, hl, Bool.false_eq_true, if_false, hd]
    rfl
  · rw [he] at h
    have h0 : c.codeWord t (c.th t).pc.toNat = some w := h 0 (Nat.zero_lt_succ _)
    have h1 : c.codeWord t ((c.th t).pc.toNat + 1) = some v := h 1 (Nat.lt_succ_self _)
    simp only [Cell.fetch, h0, hl, if_true, h1, hd]
    rfl
/-- A word that is no instruction is none. -/
theorem Cell.fetch_none {w : W32} (h : c.codeWord t (c.th t).pc.toNat = some w) (hl : isLongWord w = false) (hd : ∀ i, decode w 0 ≠ .ok i) :
    c.fetch t = none := by
  simp only [Cell.fetch, h, hl, Bool.false_eq_true, if_false]
  cases hx : decode w 0 with
  | error _ => rfl
  | ok i => exact absurd hx (hd i)

end

/-! ### A cycle, and the thread that issues (R62, R63) -/

/-- A thread as an issue cycle leaves it: its state, what it waits for and its counts apart. -/
def Thread.Cycled (x y : Thread) : Prop :=
  ∃ (b : Bool) (st : TState) (w : Wait) (n : Nat) (l : List Cut), y = { x with yielded := b, st := st, wait := w, starve := n, cuts := l }

theorem Cell.cycle_th (c : Cell) (l : List (TIdx × Option Need)) (t : TIdx) : (c.th t).Cycled ((c.cycle l).th t) := by
  unfold Cell.cycle Cell.th
  simp only [Fin.getElem_fin, Vector.getElem_ofFn, Fin.eta]
  split
  · exact ⟨_, _, _, _, _, rfl⟩
  · exact ⟨_, _, _, _, _, rfl⟩
  · exact ⟨_, _, _, _, _, rfl⟩
theorem Thread.Cycled.trans {x y z : Thread} (h : x.Cycled y) (h' : y.Cycled z) : x.Cycled z := by
  obtain ⟨_, _, _, _, _, rfl⟩ := h
  obtain ⟨_, _, _, _, _, rfl⟩ := h'
  exact ⟨_, _, _, _, _, rfl⟩
/-- A thread as it issues. -/
def Thread.issuing (x : Thread) : Thread := { x with st := .running, wait := .none, starve := 0, cuts := [] }
theorem issuing_th_same (s : State) (t : TIdx) :
    (s.issuing t).cell.th t = (s.cell.th t).issuing := Cell.th_modTh_same s.cell t Thread.issuing
theorem issuing_th_other (s : State) {t u : TIdx} (h : t ≠ u) : (s.issuing t).cell.th u = s.cell.th u :=
  Cell.th_modTh_other s.cell Thread.issuing h
theorem issuing_th (s : State) (t u : TIdx) : (s.cell.th u).Cycled ((s.issuing t).cell.th u) := by
  by_cases h : t = u
  · subst h
    rw [issuing_th_same]
    exact ⟨_, _, _, _, _, rfl⟩
  · rw [issuing_th_other s h]
    exact ⟨_, _, _, _, _, rfl⟩

/-- A cell whose threads are as an issue cycle leaves them, and whose units are untouched. -/
structure Cell.Cycled (c c' : Cell) : Prop where
  plane : c'.plane = c.plane
  mx : c'.mx = c.mx
  eng : c'.eng = c.eng
  th : ∀ t, (c.th t).Cycled (c'.th t)

/-- The code word that a thread reads in a plane. -/
def Thread.codeAt (x : Thread) (p : Plane) (a : Nat) : Option W32 :=
  if x.inb then
    if h : x.blkAt.toNat ≤ a ∧ a ≤ x.blkAt.toNat + x.blkLen.toNat then
      some (x.blk[a - x.blkAt.toNat]'(by have := x.blkLen.isLt; omega))
    else none
  else if a < 1024 then some (Sp.get p.active.code a) else none
theorem Cell.codeWord_eq (c : Cell) (t : TIdx) (a : Nat) : c.codeWord t a = (c.th t).codeAt c.plane a := rfl

namespace Cell.Cycled
variable {c c' : Cell} (h : c.Cycled c')
include h

theorem codeWord (t : TIdx) (a : Nat) : c'.codeWord t a = c.codeWord t a := by
  obtain ⟨_, _, _, _, _, ht⟩ := h.th t
  rw [Cell.codeWord_eq, Cell.codeWord_eq, ht, h.plane]
  rfl
theorem pc (t : TIdx) : (c'.th t).pc = (c.th t).pc := by
  obtain ⟨_, _, _, _, _, ht⟩ := h.th t
  rw [ht]
theorem outs (t : TIdx) : (c'.th t).outs = (c.th t).outs := by
  obtain ⟨_, _, _, _, _, ht⟩ := h.th t
  rw [ht]
theorem fetch (t : TIdx) : c'.fetch t = c.fetch t := by simp only [Cell.fetch, h.pc, h.codeWord]
theorem nextNeed (t : TIdx) : c'.nextNeed t = c.nextNeed t := by
  have hw : c'.wordNeed = c.wordNeed := by
    unfold Cell.wordNeed Cell.dividerNeed Cell.torusNeed Cell.torusBusy Cell.queueNeed
    simp only [h.outs, h.mx]
  rw [Cell.nextNeed, Cell.nextNeed, hw, h.pc, h.codeWord]

end Cell.Cycled

theorem issuing_cycled (s : State) (t : TIdx) : s.cell.Cycled (s.issuing t).cell := ⟨rfl, rfl, rfl, issuing_th s t⟩

/-- The choice is among the eligible threads (R63). -/
theorem Cell.choice_mem {c : Cell} {l : List TIdx} {t : TIdx} (h : c.choice l = some t) : t ∈ l := by
  unfold Cell.choice at h
  dsimp only at h
  split at h
  · have := List.find?_some h
    simp only [Bool.and_eq_true, List.contains_iff_mem] at this
    exact this.1
  · have := List.find?_some h
    simp only [Bool.and_eq_true, List.contains_iff_mem, List.mem_filter] at this
    exact this.1.1
/-- A thread that lacks nothing would not park for its word's unit. -/
theorem nextNeed_of_dryNeed {s : State} {t : TIdx} (hd : (s.cell.th t).deferred = none) (hf : s.cell.fetch t = none) (h : s.dryNeed t = none) :
    s.cell.nextNeed t = none := by
  have hme : (s.issuing t).me.deferred = none := by rw [State.me]; exact (congrArg Thread.deferred (issuing_th_same s t)).trans hd
  have hfe : (s.issuing t).cell.fetch (s.issuing t).cell.last = none := ((issuing_cycled s t).fetch t).trans hf
  cases hn : s.cell.nextNeed t with
  | none => rfl
  | some n =>
    have hne : (s.issuing t).cell.nextNeed t = some n := ((issuing_cycled s t).nextNeed t).trans hn
    rw [State.dryNeed, State.attempt, hme, hfe] at h
    simp only [eligible_taken (lacks := fun s => s.cell.nextNeed s.cell.last) (s := s.issuing t) hne] at h
    rw [show ((s.issuing t).modMe _).cell.th t = _ from Cell.th_modTh_same (s.issuing t).cell t _] at h
    nomatch h
/-- The eligible threads lack nothing. -/
theorem mem_eligible {s : State} {t : TIdx} (h : t ∈ (s.candidates.filter fun c => c.2.isNone).map (·.1)) : s.dryNeed t = none := by
  simp only [List.mem_map, List.mem_filter, State.candidates] at h
  obtain ⟨_, ⟨⟨u, _, rfl⟩, hn⟩, rfl⟩ := h
  exact Option.isNone_iff_eq_none.mp hn

/-! ### Steps -/

theorem nextCell_alone {s : State} (h : s.others = []) : s.nextCell = s := if_pos (by rw [h]; rfl)
/-- An issue cycle in which a thread issues. -/
theorem issueCycle_issues {s : State} {t : TIdx} (h : s.cell.choice ((s.candidates.filter fun c => c.2.isNone).map (·.1)) = some t) :
    s.issueCycle = ((modFocus (modFocus s (·.cycle s.candidates)) Cell.awake).issuing t).attempt := by
  simp only [State.issueCycle, h]
theorem step_issue {s u : State} (ha : s.agenda = []) (ht : s.turn = .issue) (ho : s.others = []) (hu : u = { s.pass with turn := .engines }) :
    step s = u.issueCycle := by
  have hn : ({ s.pass with turn := .engines } : State).nextCell = { s.pass with turn := .engines } := nextCell_alone ((pass_others s).trans ho)
  simp only [step, ha, ht, hn, hu]
theorem step_agenda {s : State} {e : Instr} {r : List Instr} (h : s.agenda = e :: r) : step s = exec e { fresh s.pass with agenda := r } := by
  simp only [step, h]
theorem step_engines {s u : State} {e : Instr} (ha : s.agenda = []) (ht : s.turn = .engines) (hu : u = { s.pass with turn := .issue })
    (he : u.enabled[choose u u.enabled.length]? = some e) : step s = exec e (fresh u) := by
  subst hu
  simp only [step, ha, ht, State.engineTurn, he]

section
variable {s : State} (hd : s.me.deferred = none)
include hd

theorem attempt_runs {i : Instr} (h : s.cell.fetch s.cell.last = some i) : s.attempt = exec i s.during := by
  simp only [State.attempt, hd, h]
theorem attempt_illegal (h : s.cell.fetch s.cell.last = none) (hn : s.cell.nextNeed s.cell.last = none) : s.attempt = .next s.illegal := by
  simp only [State.attempt, hd, h]
  exact eligible_free hn

end

/-- No late result is in: the instruction finds what it reads as it is (R67). -/
theorem during_nothing {s : State} (ho : ∀ o ∈ s.me.outs, o.ready = false) (hq : ∀ e ∈ s.cell.mx.queue.head?, e.t ≠ s.cell.last) : s.during = s := by
  have hl : s.landable = [] := by
    refine List.filterMap_eq_nil_iff.mpr fun o hmem => ?_
    rw [ho o.1 (List.fst_mem_of_mem_zipIdx hmem)]
    rfl
  have hu : s.unitLands = s := by
    unfold State.unitLands
    split
    · rfl
    · next e r he =>
      have het : (e.t == s.cell.last) = false := beq_eq_false_iff_ne.mpr (hq e (by rw [he]; rfl))
      split
      · rw [het, Bool.false_and]
        rfl
      · rfl
  rw [State.during, hl, List.foldr_nil, hu]

end Sys2Proof.Machine

open Sys2Proof Sys2Proof.Machine Sys2Proof.Stated in
/-- Settles O54: the issue cycle runs what is fetched at the chosen thread's pc (`attempt_runs`, `Cell.fetch_encode`), whose words the cycle
itself leaves as they are (`Cell.Cycled`). -/
theorem stepsRunDecoded : Obligations.StepsRunDecoded := by
  intro s
  refine ⟨fun t u v ha ht ho hu hch hd hv => ?_, fun e r h => step_agenda h, fun u e ha ht hu he => step_engines ha ht hu he⟩
  have huc : u.cell = s.cell := by rw [hu]; exact pass_cell s
  have hstep : step s = v.attempt := by rw [step_issue ha ht ho hu, issueCycle_issues hch, hv]
  have hcyc : s.cell.Cycled (modFocus (modFocus u (·.cycle u.candidates)) Cell.awake).cell :=
    huc ▸ ⟨rfl, rfl, rfl, fun w => Cell.cycle_th ..⟩
  have hth : v.me = ((modFocus (modFocus u (·.cycle u.candidates)) Cell.awake).cell.th t).issuing := by
    rw [hv]
    exact issuing_th_same _ t
  have hvc : s.cell.Cycled v.cell := by
    rw [hv]
    exact ⟨hcyc.plane, hcyc.mx, hcyc.eng, fun w => (hcyc.th w).trans (issuing_th _ t w)⟩
  have hlast : v.cell.last = t := by rw [hv]; rfl
  obtain ⟨_, _, _, _, _, hfields⟩ := hcyc.th t
  have hvd : v.me.deferred = none := by rw [hth, hfields]; exact hd
  refine ⟨by rw [hth]; rfl, hlast, by rw [hth, hfields]; rfl, by rw [hth, hfields]; rfl, fun i hi hw => ?_, fun w hw hl hdec => ?_⟩
  · have hrun : step s = exec i v.during := hstep.trans (attempt_runs hvd (by rw [hlast, hvc.fetch]; exact Cell.fetch_encode hi hw))
    refine ⟨hrun, fun hout hq => ?_⟩
    have hvo : v.me.outs = (s.cell.th t).outs := by rw [State.me, hlast, hvc.outs]
    rw [hrun, during_nothing (by rw [hvo]; exact hout) (by rw [hvc.mx, hlast]; exact hq)]
  · have hf : s.cell.fetch t = none := Cell.fetch_none hw hl hdec
    have hdry : u.dryNeed t = none := mem_eligible (Cell.choice_mem hch)
    have hn : s.cell.nextNeed t = none := huc ▸ nextNeed_of_dryNeed (s := u) (by rw [huc]; exact hd) (by rw [huc]; exact hf) hdry
    exact hstep.trans (attempt_illegal hvd (by rw [hlast, hvc.fetch]; exact hf) (by rw [hlast, hvc.nextNeed]; exact hn))

/-! SUPPORT. The commands of a load image that reach no structure (R38, R42, R44, R382): how an image ends, PAD, SPAN, SELECT, SEAL and END, and
the listed cells of a partition after a change of all of them. -/

namespace Sys2Proof.Machine

/-! ### The listed cells of a partition -/

theorem KM.keys_nodup {α : Type} : ∀ {m : KMap α}, Rising m → (m.map (·.1)).Nodup
  | [], _ => List.nodup_nil
  | (k, x) :: r, ⟨hk, hr⟩ => List.nodup_cons.mpr ⟨fun hm => by
      obtain ⟨e, he, h⟩ := List.mem_map.mp hm
      exact absurd (hk e he) (by rw [h]; exact lt_irrefl k), KM.keys_nodup hr⟩
theorem partCells_nodup {s : State} (h : KM.wf s.others = true) (p : Nat) : (partCells s p).Nodup :=
  (KM.keys_nodup (KM.wf_iff.mp (KM.wf_put h))).filter _
/-- A change of some cells is one of the cell in hand and of the others, and of nothing else. -/
theorem foldl_modCell_eq (f : Cell → Cell) : ∀ (l : List Nat) (s : State), ∃ c o,
    l.foldl (fun s n => modCell s n f) s = { s with cell := c, others := o }
  | [], s => ⟨s.cell, s.others, rfl⟩
  | n :: l, s => by
    obtain ⟨c, o, h⟩ := foldl_modCell_eq f l (modCell s n f)
    refine ⟨c, o, ?_⟩
    rw [List.foldl_cons, h, modCell, putCell]
    split <;> rfl
theorem State.modCells_eq (s : State) (p : Nat) (f : Cell → Cell) : ∃ c o, s.modCells p f = { s with cell := c, others := o } :=
  foldl_modCell_eq f (partCells s p) s
theorem foldl_modCell_wf (f : Cell → Cell) : ∀ (l : List Nat) (s : State), KM.wf s.others = true →
    KM.wf (l.foldl (fun s n => modCell s n f) s).others = true
  | [], _, h => h
  | n :: l, s, h => foldl_modCell_wf f l (modCell s n f) (putCell_wf_others h)
theorem State.modCells_wf {s : State} (h : KM.wf s.others = true) (p : Nat) (f : Cell → Cell) : KM.wf (s.modCells p f).others = true :=
  foldl_modCell_wf f _ s h
theorem getCell_modCells {s : State} (h : KM.wf s.others = true) (p : Nat) (f : Cell → Cell) (m : Nat) :
    getCell (s.modCells p f) m = if m ∈ partCells s p then f (getCell s m) else getCell s m :=
  getCell_foldl_modCell f m _ s (partCells_nodup h p) h
theorem part_modPart {s : State} {p : Nat} {q : Part} (f : Part → Part) (h : part s p = some q) : part (modPart s p f) p = some (f q) := by
  unfold part at h
  simp [modPart, h, part, KM.get_put_same]
theorem modPart_eq {s : State} {p : Nat} {q : Part} (f : Part → Part) (h : part s p = some q) :
    modPart s p f = { s with parts := KM.put s.parts p (f q) } := by
  unfold part at h
  simp [modPart, h]
/-- A change of a partition changes the table of them only. -/
theorem exists_modPart_eq (s : State) (p : Nat) (f : Part → Part) : ∃ ps, modPart s p f = { s with parts := ps } := by
  unfold modPart
  split
  · exact ⟨s.parts, rfl⟩
  · exact ⟨_, rfl⟩

/-! ### How an image ends (R44, R382) -/

@[simp] theorem State.respond_others (s : State) (q : Port) (r : Report) : (s.respond q r).others = s.others := State.modPort_others ..

section
variable {s : State} {i : Image} {r : List Image}

/-- An image that ends with a failure: what the port shows, and what stays. -/
theorem State.imageOver_fails {code : Nat} (hi : s.images = i :: r) (h0 : code ≠ 0) (hc : code < 256) (word : Nat) :
    (s.imageOver i code word).images = r ∧ (s.imageOver i code word).cell = s.cell ∧ (s.imageOver i code word).others = s.others ∧
      (s.imageOver i code word).parts = s.parts ∧
      (s.imageOver i code word).port i.port = { s.port i.port with
        code := BitVec.ofNat 8 code, done := true, busy := false, pend := none, msix := (s.port i.port).msix ++ [0]
        report := BitVec.ofNat 256 (code + 2 ^ 8 * i.part.toNat + 2 ^ 16 * (s.roundOf i.part.toNat % 2 ^ 16) +
          2 ^ 32 * (word % 2 ^ 32)) } := by
  have h : s.imageOver i code word = ({ s with images := s.images.tail } : State).respond i.port
      { code := code, part := i.part.toNat, round := s.roundOf i.part.toNat, word := word } := by
    simp only [State.imageOver, h0, false_and, if_false]
    rfl
  rw [h]
  refine ⟨by simp [hi], by simp, by simp, by simp, ?_⟩
  rw [State.respond_port, Report.word256_image code _ _ _ hc i.part.isLt]
  cases i.port <;> rfl

theorem State.modImage_eq (hi : s.images = i :: r) (g : Image → Image) : s.modImage g = { s with images := g i :: r } := by
  rw [State.modImage, hi]
/-- The state in which an image that ends well reports (R382): the image gone, and the load of a LAUNCH due to start. -/
def State.afterImage (s : State) (i : Image) : State :=
  if i.next = false then ({ s with images := s.images.tail } : State).launched i.part.toNat else { s with images := s.images.tail }
theorem State.imageOver_well (s : State) (i : Image) (word : Nat) : s.imageOver i 0 word = (s.afterImage i).respond i.port
    { code := 0, part := i.part.toNat, round := (s.afterImage i).roundOf i.part.toNat, word := word } := by
  simp only [State.imageOver, State.afterImage, true_and]
theorem State.launched_images (s : State) (p : Nat) : (s.launched p).images = s.images := by
  obtain ⟨ps, h⟩ := exists_modPart_eq (s.modCells p fun c => { c with plane := { c.plane with loaded := c.plane.idle != .empty } }) p fun q =>
    { q with loaded := true, startAct := some .swap }
  rw [State.launched, h]
  obtain ⟨c, o, h⟩ := s.modCells_eq p fun c => { c with plane := { c.plane with loaded := c.plane.idle != .empty } }
  rw [h]
theorem State.launched_part {p : Nat} {q : Part} (h : part s p = some q) :
    part (s.launched p) p = some { q with loaded := true, startAct := some .swap } := by
  refine part_modPart _ ?_
  obtain ⟨c, o, hc⟩ := s.modCells_eq p fun c => { c with plane := { c.plane with loaded := c.plane.idle != .empty } }
  rw [hc]
  exact h
theorem State.afterImage_images (hi : s.images = i :: r) : (s.afterImage i).images = r := by
  unfold State.afterImage
  split
  · rw [State.launched_images]
    simp [hi]
  · simp [hi]
theorem State.afterImage_part {q : Part} (h : part s i.part.toNat = some q) : ∃ y, part (s.afterImage i) i.part.toNat = some y ∧
    y.loadOk = q.loadOk ∧ y.endGlobals = q.endGlobals ∧ (i.next = false → y.loaded = true ∧ y.startAct = some .swap) := by
  unfold State.afterImage
  split
  · exact ⟨_, State.launched_part h, rfl, rfl, fun _ => ⟨rfl, rfl⟩⟩
  · next hn => exact ⟨q, h, rfl, rfl, fun h => absurd h hn⟩
/-- The plane of a cell is read from the cells of the state only: a cell that the state does not list has none. -/
theorem getCell_plane_congr {t : State} (hn : t.cur = s.cur) (hc : t.cell = s.cell) (ho : t.others = s.others) (m : Nat) :
    (getCell t m).plane = (getCell s m).plane := by
  unfold getCell
  rw [hn, hc, ho]
  split
  · rfl
  · cases KM.get s.others m <;> rfl
theorem getCell_modPart_plane (s : State) (p : Nat) (f : Part → Part) (m : Nat) :
    (getCell (modPart s p f) m).plane = (getCell s m).plane := by
  obtain ⟨ps, h⟩ := exists_modPart_eq s p f
  rw [h]
  exact getCell_plane_congr (s := s) (t := { s with parts := ps }) rfl rfl rfl m
theorem getCell_respond_plane (s : State) (q : Port) (x : Report) (m : Nat) : (getCell (s.respond q x) m).plane = (getCell s m).plane :=
  getCell_plane_congr (by cases q <;> rfl) (by simp) (by simp) m
/-- An END of the image is no matter of a launch. -/
theorem State.afterImage_ended (h : KM.wf s.others = true) (i : Image) (m : Nat) :
    (getCell (s.afterImage i) m).plane.ended = (getCell s m).plane.ended := by
  unfold State.afterImage
  split
  · rw [State.launched, getCell_modPart_plane, getCell_modCells (s := { s with images := s.images.tail }) h]
    split <;> rfl
  · rfl

end

/-! ### The commands (Table 02.3) -/

theorem cmdOf_eq (w : W32) : cmdOf w = w.toNat / 2 ^ 28 := by
  have := w.isLt
  unfold cmdOf bits
  omega
theorem W32.toNat_of_lt {w : W32} {n : Nat} (h : w = BitVec.ofNat 32 n) (hn : n < 2 ^ 32) : w.toNat = n := by
  rw [h, BitVec.toNat_ofNat, Nat.mod_eq_of_lt hn]
theorem take_one_of_head {α : Type} {l : List α} {a : α} (h : l.head? = some a) : l.take 1 = [a] := by
  cases l with
  | nil => cases h
  | cons b l => simpa using h

section
variable {s : State} {i : Image} {r : List Image} (hi : s.images = i :: r) (ha : s.imageReady i = true)
include hi ha

theorem execPad_zero (h : i.rest.head? = some 0) : execPad 0 s = .next { s with images := { i with idx := i.idx + 1 } :: r } := by
  have hc : s.command [0] (padAt 0) = s.modImage fun _ => { i with idx := i.idx + 1 } :=
    State.command_ok hi ha (take_one_of_head h) rfl
  have hs : execPad 0 s = .next (s.command [0] (padAt 0)) := by
    unfold execPad
    simp only [State.image, hi, List.head?_cons]
    rw [if_pos (.inl rfl)]
  rw [hs, hc, State.modImage_eq hi]
theorem execPad_reserved {w : W32} (h : i.rest.head? = some w) (h7 : 7 ≤ w.toNat / 2 ^ 28) (h14 : w.toNat / 2 ^ 28 ≤ 14) :
    execPad w s = .next (s.imageOver i malformed i.idx) := by
  have hcmd := cmdOf_eq w
  have hc : s.command [w] (padAt w) = s.imageOver i malformed i.idx :=
    State.command_error (e := (malformed, i.idx)) hi ha (take_one_of_head h) (if_neg (by omega))
  have hs : execPad w s = .next (s.command [w] (padAt w)) := by
    unfold execPad
    simp only [State.image, hi, List.head?_cons]
    rw [if_pos (.inr (.inl (decide_eq_true (by omega))))]
  rw [hs, hc]
theorem execSpan_ok {a b : Name} {w v : W32} (hw : w = BitVec.ofNat 32 (2 ^ 28 + a.toNat)) (hv : v = BitVec.ofNat 32 b.toNat)
    (h : i.rest.take 2 = [w, v]) (hab : a.toNat ≤ b.toNat) :
    execSpan w v s = .next { s with images := { i with first := a, last := b, idx := i.idx + 2 } :: r } := by
  have hal := a.isLt
  have hbl := b.isLt
  have hwn := W32.toNat_of_lt hw (by omega)
  have hvn := W32.toNat_of_lt hv (by omega)
  have hwa : w.extractLsb' 0 20 = a := by
    refine BitVec.eq_of_toNat_eq ?_
    rw [BitVec.extractLsb'_toNat, hwn]
    omega
  have hvb : v.extractLsb' 0 20 = b := by
    refine BitVec.eq_of_toNat_eq ?_
    rw [BitVec.extractLsb'_toNat, hvn]
    omega
  have hcmd := cmdOf_eq w
  unfold execSpan
  rw [if_neg (by omega)]
  refine congrArg _ ((State.command_ok (ws := [w, v]) (t := s) (j := { i with first := a, last := b }) hi ha h ?_).trans ?_)
  · unfold bits
    rw [if_neg (by omega), if_neg (by omega), hwa, hvb]
  · exact State.modImage_eq hi _
omit hi ha in
/-- The fields of SELECT's word (Table 02.3). -/
theorem selectWord_bits {bank : BitVec 2} {st : BitVec 4} {off : BitVec 16} {w : W32}
    (hw : w = BitVec.ofNat 32 (2 * 2 ^ 28 + 2 ^ 20 * bank.toNat + 2 ^ 16 * st.toNat + off.toNat)) :
    cmdOf w = 2 ∧ bits w.toNat 0 16 = off.toNat ∧ w.extractLsb' 16 4 = st ∧ w.extractLsb' 20 2 = bank ∧ bits w.toNat 22 6 = 0 := by
  have hb := bank.isLt
  have hs := st.isLt
  have ho := off.isLt
  have hn := W32.toNat_of_lt hw (by omega)
  refine ⟨by rw [cmdOf_eq]; omega, by unfold bits; omega, BitVec.eq_of_toNat_eq ?_, BitVec.eq_of_toNat_eq ?_, by unfold bits; omega⟩
  · rw [BitVec.extractLsb'_toNat, hn, Nat.shiftRight_eq_div_pow]
    omega
  · rw [BitVec.extractLsb'_toNat, hn, Nat.shiftRight_eq_div_pow]
    omega
omit hi ha in
theorem bits_eq_extractLsb' (w : W32) (lo n : Nat) : bits w.toNat lo n = (w.extractLsb' lo n).toNat := by
  rw [BitVec.extractLsb'_toNat, Nat.shiftRight_eq_div_pow]
  rfl
/-- SELECT sets the cursor, or its offset is beyond the structure. -/
theorem execSelect_eq {bank : BitVec 2} {st : BitVec 4} {off : BitVec 16} {w : W32} {n : Nat}
    (hw : w = BitVec.ofNat 32 (2 * 2 ^ 28 + 2 ^ 20 * bank.toNat + 2 ^ 16 * st.toNat + off.toNat)) (h : i.rest.head? = some w)
    (hn : structSize bank.toNat st.toNat = some n) :
    execSelect w s = .next (if n ≤ off.toNat then s.imageOver i outOfRange i.idx
      else { s with images := { i with cursor := some (bank, st, off.toNat), idx := i.idx + 1 } :: r }) := by
  obtain ⟨hcmd, hoff, hst, hbank, hres⟩ := selectWord_bits hw
  unfold execSelect
  rw [if_neg (by omega)]
  simp only [bits_eq_extractLsb' w 20 2, bits_eq_extractLsb' w 16 4, hst, hbank, hoff, hres]
  congr 1
  by_cases hle : n ≤ off.toNat
  · rw [if_pos hle]
    refine State.command_error (ws := [w]) (e := (outOfRange, i.idx)) hi ha (take_one_of_head h) ?_
    simp [hn, hle]
  · rw [if_neg hle]
    refine (State.command_ok (ws := [w]) (t := s) (j := { i with cursor := some (bank, st, off.toNat) }) hi ha (take_one_of_head h) ?_).trans
      (State.modImage_eq hi _)
    simp [hn, hle]

/-- SEAL at the cells of the span, or of none of them (R38, R44). -/
theorem execSealRec_eq (h : i.rest.head? = some 0x50000000) (hh : (s.selected i).any s.holdsWrites = false) :
    execSealRec 0x50000000 s = .next
      (if (s.selected i).any fun n => (getCell s n).plane.idle != .ready && !(getCell s n).plane.idleBank.sealable
        then s.imageOver i malformed i.idx
        else ((s.selected i).foldl (fun s n => modCell s n fun c => { c with plane := c.plane.seal }) s).modImage
          fun _ => { i with idx := i.idx + 1 }) := by
  unfold execSealRec
  rw [if_neg (by decide), State.writeCommand_free hi hh]
  congr 1
  by_cases hf : ((s.selected i).any fun n => (getCell s n).plane.idle != .ready && !(getCell s n).plane.idleBank.sealable) = true
  · rw [if_pos hf]
    refine State.command_error (ws := [0x50000000]) (e := (malformed, i.idx)) hi ha (take_one_of_head h) ?_
    dsimp only
    rw [if_neg (by decide), if_pos hf]
  · rw [if_neg hf]
    refine State.command_ok (ws := [0x50000000]) (j := i) hi ha (take_one_of_head h) ?_
    dsimp only
    rw [if_neg (by decide), if_neg hf]

omit hi ha in
theorem isEmpty_of_head {α : Type} {l : List α} {a : α} (h : l.head? = some a) : l.isEmpty = false := by
  cases l with
  | nil => cases h
  | cons => rfl
/-- A cell at the END of a load that passes the checks: a READY bank may be swapped in (R44). -/
def Cell.loadEnded (c : Cell) : Cell := { c with plane := { c.plane with ended := c.plane.idle == .ready } }
/-- The partition then. -/
def Part.loadEnded (q : Part) (nextTimed timed : Bool) : Part :=
  { q with loadOk := true, endGlobals := some (q.nextGlobals.getD {}), nextTimed := nextTimed, timed := timed }
/-- What a load that passes the checks leaves before its image ends. -/
def State.loadEnded (s : State) (p : Nat) (nextTimed timed : Bool) : State := modPart (s.modCells p Cell.loadEnded) p (·.loadEnded nextTimed timed)
/-- END: the checks, and the image ends. -/
theorem execImageEnd_eq {q : Part} (h : i.rest.head? = some 0xF0000000) (hq : part s i.part.toNat = some q) : ∃ a b,
    execImageEnd 0xF0000000 s = .next (if s.endFits i.part.toNat q (q.nextGlobals.getD {})
      then (s.loadEnded i.part.toNat a b).imageOver i 0 0 else s.imageOver i outOfRange i.idx) := by
  refine ⟨((partCells s i.part.toNat).map (getCell s)).any fun c => c.plane.idleBank.timed,
    ((partCells s i.part.toNat).map (getCell s)).any fun c => c.plane.loaded && c.plane.active.timed, ?_⟩
  unfold execImageEnd
  simp only [State.image, hi, List.head?_cons, ha, isEmpty_of_head h, h, hq]
  rfl
omit ha in
theorem State.loadEnded_images (p : Nat) (a b : Bool) : (s.loadEnded p a b).images = i :: r := by
  obtain ⟨ps, h⟩ := exists_modPart_eq (s.modCells p Cell.loadEnded) p (·.loadEnded a b)
  obtain ⟨c, o, hc⟩ := s.modCells_eq p Cell.loadEnded
  rw [State.loadEnded, h, hc]
  exact hi
omit hi ha in
theorem State.loadEnded_part {p : Nat} {q : Part} (hq : part s p = some q) (a b : Bool) :
    part (s.loadEnded p a b) p = some (q.loadEnded a b) := by
  obtain ⟨c, o, hc⟩ := s.modCells_eq p Cell.loadEnded
  refine part_modPart (·.loadEnded a b) ?_
  rw [hc]
  exact hq
omit hi ha in
theorem State.loadEnded_wf (h : KM.wf s.others = true) (p : Nat) (a b : Bool) : KM.wf (s.loadEnded p a b).others = true := by
  obtain ⟨ps, hp⟩ := exists_modPart_eq (s.modCells p Cell.loadEnded) p (·.loadEnded a b)
  rw [State.loadEnded, hp]
  exact State.modCells_wf h p Cell.loadEnded
omit hi ha in
theorem State.loadEnded_ended (h : KM.wf s.others = true) {p m : Nat} (hm : m ∈ partCells s p) (a b : Bool) :
    (getCell (s.loadEnded p a b) m).plane.ended = ((getCell s m).plane.idle == .ready) := by
  rw [State.loadEnded, getCell_modPart_plane, getCell_modCells h, if_pos hm]
  rfl

end

end Sys2Proof.Machine

namespace Sys2Proof.Stated
open Machine

/-! ### What the commands do (R38, R42, R44, R382) -/

theorem imageCommands : ImageCommands := by
  intro s i r hi ha
  refine ⟨execPad_zero hi ha, fun w h h7 h14 => ?_, fun a b w v hw hv h hab => execSpan_ok hi ha hw hv h hab,
    fun bank st off w n hw h hn => ⟨fun hlt => ?_, fun hle => ?_⟩⟩
  · obtain ⟨himg, _, _, _, hport⟩ := State.imageOver_fails hi (code := malformed) (by decide) (by decide) i.idx
    refine ⟨_, execPad_reserved hi ha h h7 h14, himg, ?_⟩
    rw [hport]
    exact ⟨rfl, rfl, rfl, rfl, rfl⟩
  · exact (execSelect_eq hi ha hw h hn).trans (congrArg _ (if_neg (Nat.not_le.mpr hlt)))
  · obtain ⟨himg, _, _, _, hport⟩ := State.imageOver_fails hi (code := outOfRange) (by decide) (by decide) i.idx
    refine ⟨_, (execSelect_eq hi ha hw h hn).trans (congrArg _ (if_pos hle)), himg, ?_⟩
    rw [hport]
    rfl

/-- The idle bank of a sealed plane is READY; the banks are as they were. -/
theorem seal_plane (p : Plane) : p.seal.idle = .ready ∧ p.seal.idleBank = p.idleBank ∧ p.seal.active = p.active := ⟨rfl, rfl, rfl⟩

section
variable {s : State} {i : Image} {r : List Image} (hi : s.images = i :: r) (ha : s.imageReady i = true)
include hi ha

theorem sealRec_seals (h : i.rest.head? = some 0x50000000) (hh : (s.selected i).any s.holdsWrites = false) (hw : KM.wf s.others = true)
    (hok : ∀ m ∈ s.selected i, (getCell s m).plane.idle = .ready ∨ (getCell s m).plane.idleBank.sealable = true) :
    ∃ t, exec (.sealRec 0x50000000) s = .next t ∧ t.images = { i with idx := i.idx + 1 } :: r ∧
      (∀ m ∈ s.selected i, (getCell t m).plane.idle = .ready ∧ (getCell t m).plane.idleBank = (getCell s m).plane.idleBank ∧
        (getCell t m).plane.active = (getCell s m).plane.active) ∧
      ∀ m, m ∉ s.selected i → getCell t m = getCell s m := by
  have hg (m : Nat) := getCell_foldl_modCell (fun c => { c with plane := c.plane.seal }) m (s.selected i) s (s.selected_nodup i) hw
  have hnone : ¬((s.selected i).any fun n => (getCell s n).plane.idle != .ready && !(getCell s n).plane.idleBank.sealable) = true := by
    intro hany
    obtain ⟨m, hm, hb⟩ := List.any_eq_true.mp hany
    obtain ⟨hn, hs⟩ := Bool.and_eq_true_iff.mp hb
    rcases hok m hm with h | h
    · rw [h] at hn
      cases hn
    · rw [h] at hs
      cases hs
  refine ⟨_, (execSealRec_eq hi ha h hh).trans (congrArg _ (if_neg hnone)),
    State.modImage_images ((images_foldl_modCell _ _ s).trans hi) _, fun m hm => ?_, fun m hm => ?_⟩
  · rw [getCell_modImage, hg, if_pos hm]
    exact seal_plane _
  · rw [getCell_modImage, hg, if_neg hm]
theorem sealRec_fails (h : i.rest.head? = some 0x50000000) (hh : (s.selected i).any s.holdsWrites = false) {m : Nat}
    (hm : m ∈ s.selected i) (hr : (getCell s m).plane.idle ≠ .ready) (hs : (getCell s m).plane.idleBank.sealable = false) :
    ∃ t, exec (.sealRec 0x50000000) s = .next t ∧ t.images = r ∧ (t.port i.port).code = 1 ∧ t.cell = s.cell ∧ t.others = s.others := by
  have hany : ((s.selected i).any fun n => (getCell s n).plane.idle != .ready && !(getCell s n).plane.idleBank.sealable) = true :=
    List.any_eq_true.mpr ⟨m, hm, by simp [hr, hs]⟩
  obtain ⟨himg, hcell, hothers, _, hport⟩ := State.imageOver_fails hi (code := malformed) (by decide) (by decide) i.idx
  refine ⟨_, (execSealRec_eq hi ha h hh).trans (congrArg _ (if_pos hany)), himg, ?_, hcell, hothers⟩
  rw [hport]
  rfl
theorem imageEnd_succeeds {q : Part} (h : i.rest.head? = some 0xF0000000) (hq : part s i.part.toNat = some q)
    (hf : s.endFits i.part.toNat q (q.nextGlobals.getD {}) = true) :
    ∃ (t : State) (y : Part), exec (.imageEnd 0xF0000000) s = .next t ∧ t.images = r ∧ (t.port i.port).code = 0 ∧
      (t.port i.port).done = true ∧ (t.port i.port).busy = false ∧ part t i.part.toNat = some y ∧ y.loadOk = true ∧
      y.endGlobals = some (q.nextGlobals.getD {}) ∧ (i.next = false → y.loaded = true ∧ y.startAct = some .swap) ∧
      (KM.wf s.others = true → ∀ m ∈ partCells s i.part.toNat, (getCell t m).plane.ended = ((getCell s m).plane.idle == .ready)) := by
  obtain ⟨a, b, he⟩ := execImageEnd_eq hi ha h hq
  rw [if_pos hf, State.imageOver_well] at he
  have himg := State.afterImage_images (State.loadEnded_images hi i.part.toNat a b)
  obtain ⟨y, hpart, hok, hglob, hlaunch⟩ := State.afterImage_part (i := i) (State.loadEnded_part hq a b)
  refine ⟨_, y, he, (State.respond_images ..).trans himg, ?_, ?_, ?_, ?_, hok, hglob, hlaunch, fun hw m hm => ?_⟩
  · rw [State.respond_port]
    rfl
  · rw [State.respond_port]
  · rw [State.respond_port]
  · rw [part, State.respond_parts]
    exact hpart
  · rw [getCell_respond_plane, State.afterImage_ended (State.loadEnded_wf hw _ a b), State.loadEnded_ended hw hm]
theorem imageEnd_fails {q : Part} (h : i.rest.head? = some 0xF0000000) (hq : part s i.part.toNat = some q)
    (hf : s.endFits i.part.toNat q (q.nextGlobals.getD {}) = false) :
    ∃ t, exec (.imageEnd 0xF0000000) s = .next t ∧ t.images = r ∧ (t.port i.port).code = 2 ∧
      (t.port i.port).report = BitVec.ofNat 256 (2 + 2 ^ 8 * i.part.toNat + 2 ^ 16 * (s.roundOf i.part.toNat % 2 ^ 16) +
        2 ^ 32 * (i.idx % 2 ^ 32)) ∧
      part t i.part.toNat = some q ∧ t.cell = s.cell := by
  obtain ⟨a, b, he⟩ := execImageEnd_eq hi ha h hq
  rw [hf, if_neg Bool.false_ne_true] at he
  obtain ⟨himg, hcell, _, hparts, hport⟩ := State.imageOver_fails hi (code := outOfRange) (by decide) (by decide) i.idx
  refine ⟨_, he, himg, ?_, ?_, ?_, hcell⟩
  · rw [hport]
    rfl
  · rw [hport]
    rfl
  · rw [part, hparts]
    exact hq

end

theorem imageSealAndEnd : ImageSealAndEnd := by
  intro s i r hi ha
  exact ⟨fun h hh hw => ⟨sealRec_seals hi ha h hh hw, fun m hm hr hs => sealRec_fails hi ha h hh hm hr hs⟩,
    fun q h hq => ⟨imageEnd_succeeds hi ha h hq, imageEnd_fails hi ha h hq⟩⟩

end Sys2Proof.Stated

/-- Settles O45: PAD, SPAN and SELECT (`imageCommands`), SEAL and END (`imageSealAndEnd`). -/
theorem imageCommands : Obligations.ImageCommands :=
  ⟨Sys2Proof.Stated.imageCommands, Sys2Proof.Stated.imageSealAndEnd⟩

/-! SUPPORT. The records of GLOBAL (R42; Tables 10.6, 11.1, 11.2, 12.1, 12.2): a record parsed from the words of its layout, and the command that
enters one. -/

namespace Sys2Proof.Machine

/-! ### Fields of a word -/

theorem bit_lt (b : Bool) : bit b < 2 := by cases b <;> decide
theorem bitOf_eq {v i : Nat} {b : Bool} (h : v / 2 ^ i % 2 = bit b) : bitOf v i = b := by
  unfold bitOf
  rw [h]
  cases b <;> rfl
theorem W32.toNat_ofNat_of_lt {n : Nat} (h : n < 2 ^ 32) : (BitVec.ofNat 32 n).toNat = n := W32.toNat_of_lt rfl h
theorem extractLsb'_zero_of_toNat {n : Nat} {v : W32} {x : BitVec n} (h : v.toNat % 2 ^ n = x.toNat) : v.extractLsb' 0 n = x := by
  refine BitVec.eq_of_toNat_eq ?_
  rw [BitVec.extractLsb'_toNat, Nat.shiftRight_zero, h]
/-- A doubleword is its two words. -/
theorem append_words (x : W64) : BitVec.ofNat 32 (x.toNat / 2 ^ 32) ++ BitVec.ofNat 32 (x.toNat % 2 ^ 32) = x := by
  have h := x.isLt
  refine BitVec.eq_of_toNat_eq ?_
  rw [append_toNat, BitVec.toNat_ofNat, BitVec.toNat_ofNat]
  omega

/-! ### A record from its words -/

/-- A tile record's words (Table 11.1). -/
def tileLayout (t : Nat × Nat × Nat × Bool × W64) : List Nat :=
  [t.1 + 2 ^ 6 * t.2.1 + 2 ^ 10 * t.2.2.1 + 2 ^ 14 * bit t.2.2.2.1, t.2.2.2.2.toNat % 2 ^ 32, t.2.2.2.2.toNat / 2 ^ 32]
theorem tileLayout_bits {a b c v : Nat} {d : Bool} (ha : a < 64) (hb : b < 16) (hc : c < 16)
    (hv : v = a + 2 ^ 6 * b + 2 ^ 10 * c + 2 ^ 14 * bit d) :
    v < 2 ^ 32 ∧ bits v 15 17 = 0 ∧ bits v 0 6 = a ∧ bits v 6 4 = b ∧ bits v 10 4 = c ∧ bitOf v 14 = d := by
  have hd := bit_lt d
  unfold bits
  exact ⟨by omega, by omega, by omega, by omega, by omega, bitOf_eq (by omega)⟩
theorem tileRecords_layout : ∀ (l : List (Nat × Nat × Nat × Bool × W64)) (at_ : Nat),
    (∀ t ∈ l, t.1 < 64 ∧ t.2.1 < 16 ∧ t.2.2.1 < 16) → tileRecords l.length at_ ((l.flatMap tileLayout).map (BitVec.ofNat 32)) = .ok l
  | [], _, _ => rfl
  | (a, b, c, d, x) :: l, at_, h => by
    obtain ⟨ha, hb, hc⟩ := h (a, b, c, d, x) (by simp)
    obtain ⟨hv, hres, h0, h6, h10, h14⟩ := tileLayout_bits (d := d) ha hb hc rfl
    have ih := tileRecords_layout l (at_ + 3) fun t ht => h t (List.mem_cons_of_mem _ ht)
    simp only [List.length_cons, List.flatMap_cons, tileLayout, List.cons_append, List.nil_append, List.map_cons, tileRecords,
      W32.toNat_ofNat_of_lt hv, hres, h0, h6, h10, h14, append_words]
    rw [if_neg (by decide), ih]
    rfl
/-- A node record's words (Table 12.1). -/
def nodeLayout (n : TreeNode) : List Nat :=
  [n.name.toNat + 2 ^ 20 * n.lbl, n.pname.toNat + 2 ^ 20 * bit n.loc + 2 ^ 21 * n.plink + 2 ^ 25 * bit n.xp]
theorem nodeLayout_name {name : Name} {lbl v : Nat} (hl : lbl < 6) (hv : v = name.toNat + 2 ^ 20 * lbl) :
    v < 2 ^ 32 ∧ bits v 23 9 = 0 ∧ bits v 20 3 = lbl ∧ (BitVec.ofNat 32 v).extractLsb' 0 20 = name := by
  have hn := name.isLt
  have hlt : v < 2 ^ 32 := by omega
  have hv' := W32.toNat_ofNat_of_lt hlt
  unfold bits
  exact ⟨hlt, by omega, by omega, extractLsb'_zero_of_toNat (by omega)⟩
theorem nodeLayout_parent {pname : Name} {plink v : Nat} {loc xp : Bool} (hp : plink < 16)
    (hv : v = pname.toNat + 2 ^ 20 * bit loc + 2 ^ 21 * plink + 2 ^ 25 * bit xp) :
    v < 2 ^ 32 ∧ bits v 26 6 = 0 ∧ bits v 21 4 = plink ∧ (BitVec.ofNat 32 v).extractLsb' 0 20 = pname ∧ bitOf v 20 = loc ∧
      bitOf v 25 = xp := by
  have hn := pname.isLt
  have hloc := bit_lt loc
  have hxp := bit_lt xp
  have hlt : v < 2 ^ 32 := by omega
  have hv' := W32.toNat_ofNat_of_lt hlt
  unfold bits
  exact ⟨hlt, by omega, by omega, extractLsb'_zero_of_toNat (by omega), bitOf_eq (by omega), bitOf_eq (by omega)⟩
theorem nodeRecords_layout : ∀ (l : List TreeNode) (at_ : Nat), (∀ n ∈ l, n.lbl < 6 ∧ n.plink < 16) →
    nodeRecords l.length at_ ((l.flatMap nodeLayout).map (BitVec.ofNat 32)) = .ok l
  | [], _, _ => rfl
  | ⟨name, lbl, pname, loc, plink, xp⟩ :: l, at_, h => by
    obtain ⟨hl, hp⟩ := h ⟨name, lbl, pname, loc, plink, xp⟩ (by simp)
    dsimp only at hl hp
    obtain ⟨ha, hares, h20, hname⟩ := nodeLayout_name (name := name) hl rfl
    obtain ⟨hb, hbres, h21, hpname, hloc, hxp⟩ := nodeLayout_parent (pname := pname) (loc := loc) (xp := xp) hp rfl
    have ih := nodeRecords_layout l (at_ + 2) fun n hn => h n (List.mem_cons_of_mem _ hn)
    simp only [List.length_cons, List.flatMap_cons, nodeLayout, List.cons_append, List.nil_append, List.map_cons, nodeRecords,
      W32.toNat_ofNat_of_lt ha, W32.toNat_ofNat_of_lt hb, hares, h20, hname, hbres, h21, hpname, hloc, hxp]
    rw [if_neg (by omega), if_neg (by decide), ih]
    rfl
theorem length_flatMap_tileLayout (l : List (Nat × Nat × Nat × Bool × W64)) : (l.flatMap tileLayout).length = 3 * l.length := by
  simp [List.length_flatMap, tileLayout, Nat.mul_comm]
theorem length_flatMap_nodeLayout (l : List TreeNode) : (l.flatMap nodeLayout).length = 2 * l.length := by
  simp [List.length_flatMap, nodeLayout, Nat.mul_comm]

section
variable {g : Globals} {at_ : Nat}

/-- A keyring record (Table 11.1). -/
theorem keyRecord_words {key : BitVec 8} {k : KeyEnt} (hsidx : k.sidx < 64) (hwl : k.wl < 32) (hslot : 1 ≤ k.nslot ∧ k.nslot ≤ 4)
    (hblk : 1 ≤ k.blk ∧ k.blk ≤ 256) (htree : 1 ≤ k.tree ∧ k.tree < 256) (htiles : 1 ≤ k.tiles.length ∧ k.tiles.length ≤ 16384)
    (ht : ∀ t ∈ k.tiles, t.1 < 64 ∧ t.2.1 < 16 ∧ t.2.2.1 < 16) :
    keyRecord at_ ((k.words key.toNat).map (BitVec.ofNat 32)) g = .ok ((k.words key.toNat).length,
      { g with keys := KM.put g.keys key.toNat k, twice := g.twice || (KM.get g.keys key.toNat).isSome }) := by
  obtain ⟨skind, sidx, wl, nslot, blk, tree, tiles⟩ := k
  dsimp only at hsidx hwl hslot hblk htree htiles ht
  have hkey := key.isLt
  have hkind := bit_lt skind
  have htl := tileRecords_layout tiles (at_ + 2) ht
  have hw : (KeyEnt.mk skind sidx wl nslot blk tree tiles).words key.toNat =
      (key.toNat + 2 ^ 9 * bit skind + 2 ^ 10 * sidx + 2 ^ 16 * wl + 2 ^ 21 * (nslot - 1) + 2 ^ 23 * (blk - 1)) ::
        (tree + 2 ^ 8 * (tiles.length - 1)) :: tiles.flatMap tileLayout := rfl
  obtain ⟨a, ha⟩ : ∃ a, a = key.toNat + 2 ^ 9 * bit skind + 2 ^ 10 * sidx + 2 ^ 16 * wl + 2 ^ 21 * (nslot - 1) + 2 ^ 23 * (blk - 1) :=
    ⟨_, rfl⟩
  obtain ⟨b, hb⟩ : ∃ b, b = tree + 2 ^ 8 * (tiles.length - 1) := ⟨_, rfl⟩
  have h8 : bitOf a 8 = false := bitOf_eq (b := false) (show a / 2 ^ 8 % 2 = 0 by omega)
  have h31 : bitOf a 31 = false := bitOf_eq (b := false) (show a / 2 ^ 31 % 2 = 0 by omega)
  have h9 : bitOf a 9 = skind := bitOf_eq (by omega)
  have hbits : bits a 0 8 = key.toNat ∧ bits a 10 6 = sidx ∧ bits a 16 5 = wl ∧ bits a 21 2 + 1 = nslot ∧ bits a 23 8 + 1 = blk := by
    unfold bits
    omega
  obtain ⟨h0, h10, h16, h21, h23⟩ := hbits
  have hbits : bits b 22 10 = 0 ∧ bits b 0 8 = tree ∧ bits b 8 14 + 1 = tiles.length := by
    unfold bits
    omega
  obtain ⟨hb22, hb0, hb8⟩ := hbits
  have hl : ((tiles.flatMap tileLayout).map (BitVec.ofNat 32)).length = 3 * tiles.length := by
    rw [List.length_map, length_flatMap_tileLayout]
  have hlen : (a :: b :: tiles.flatMap tileLayout).length = 2 + 3 * tiles.length := by
    rw [List.length_cons, List.length_cons, length_flatMap_tileLayout]
    omega
  rw [hw, ← ha, ← hb, hlen]
  simp only [List.map_cons, keyRecord, W32.toNat_ofNat_of_lt (show a < 2 ^ 32 by omega), W32.toNat_ofNat_of_lt (show b < 2 ^ 32 by omega),
    h8, h31, h9, h0, h10, h16, h21, h23, hb22, hb0, hb8, hl, htl]
  rw [if_neg (by simp), if_neg (by decide), if_neg (by omega)]
  rfl
/-- A tree record (Table 12.1). -/
theorem treeRecord_words {key : BitVec 8} {l : List TreeNode} (hkey : key ≠ 0) (hl : 1 ≤ l.length ∧ l.length ≤ 16384)
    (hn : ∀ n ∈ l, n.lbl < 6 ∧ n.plink < 16) :
    treeRecord at_ ((treeWords key.toNat l).map (BitVec.ofNat 32)) g = .ok ((treeWords key.toNat l).length,
      { g with trees := KM.put g.trees key.toNat l, twice := g.twice || (KM.get g.trees key.toNat).isSome }) := by
  have hk := key.isLt
  have hk0 : key.toNat ≠ 0 := fun h => hkey (BitVec.eq_of_toNat_eq h)
  have hnl := nodeRecords_layout l (at_ + 1) hn
  have hw : treeWords key.toNat l = (key.toNat + 2 ^ 8 * (l.length - 1)) :: l.flatMap nodeLayout := rfl
  obtain ⟨a, ha⟩ : ∃ a, a = key.toNat + 2 ^ 8 * (l.length - 1) := ⟨_, rfl⟩
  have hbits : bits a 22 10 = 0 ∧ bits a 0 8 = key.toNat ∧ bits a 8 14 + 1 = l.length := by
    unfold bits
    omega
  obtain ⟨h22, h0, h8⟩ := hbits
  have hlen : ((l.flatMap nodeLayout).map (BitVec.ofNat 32)).length = 2 * l.length := by
    rw [List.length_map, length_flatMap_nodeLayout]
  have hlen' : (a :: l.flatMap nodeLayout).length = 1 + 2 * l.length := by
    rw [List.length_cons, length_flatMap_nodeLayout, Nat.add_comm]
  rw [hw, ← ha, hlen']
  simp only [List.map_cons, treeRecord, W32.toNat_ofNat_of_lt (show a < 2 ^ 32 by omega), h22, h0, h8, hlen, hnl]
  rw [if_neg (by omega), if_neg hk0]
  rfl
/-- A bucket record (Table 12.2). -/
theorem bucketRecord_words {tag : BitVec 12} {b : Bucket} (h0 : tag ≠ 0) (h1 : tag ≠ 4095) (hop : b.op ≤ 8)
    (hwidth : 1 ≤ b.width ∧ b.width ≤ 8) (htok : b.tok = 0 ∨ 8 ≤ b.tok ∧ b.tok < 32) (htree : 1 ≤ b.tree ∧ b.tree < 256)
    (hbase : b.rbase < 1024) :
    bucketRecord at_ ((b.words tag.toNat).map (BitVec.ofNat 32)) g = .ok (2,
      { g with bucks := KM.put g.bucks tag.toNat b, twice := g.twice || (KM.get g.bucks tag.toNat).isSome }) := by
  obtain ⟨op, sup, all, width, tok, tree, rbase⟩ := b
  dsimp only at hop hwidth htok htree hbase
  have ht := tag.isLt
  have ht0 : tag.toNat ≠ 0 := fun h => h0 (BitVec.eq_of_toNat_eq h)
  have ht1 : tag.toNat ≠ 4095 := fun h => h1 (BitVec.eq_of_toNat_eq h)
  have hsup := bit_lt sup
  have hall := bit_lt all
  obtain ⟨a, ha⟩ : ∃ a, a = tag.toNat + 2 ^ 12 * op + 2 ^ 16 * bit sup + 2 ^ 17 * bit all + 2 ^ 18 * (width - 1) + 2 ^ 21 * tok := ⟨_, rfl⟩
  obtain ⟨c, hc⟩ : ∃ c, c = tree + 2 ^ 8 * rbase := ⟨_, rfl⟩
  have hw : (Bucket.mk op sup all width tok tree rbase).words tag.toNat = [a, c] := by rw [ha, hc]; rfl
  have h16 : bitOf a 16 = sup := bitOf_eq (by omega)
  have h17 : bitOf a 17 = all := bitOf_eq (by omega)
  have hbits : bits a 0 12 = tag.toNat ∧ bits a 12 4 = op ∧ bits a 18 3 + 1 = width ∧ bits a 21 5 = tok ∧ bits a 26 6 = 0 := by
    unfold bits
    omega
  obtain ⟨ha0, ha12, ha18, ha21, ha26⟩ := hbits
  have hbits : bits c 0 8 = tree ∧ bits c 8 10 = rbase ∧ bits c 18 14 = 0 := by
    unfold bits
    omega
  obtain ⟨hc0, hc8, hc18⟩ := hbits
  rw [hw]
  simp only [List.map_cons, bucketRecord, W32.toNat_ofNat_of_lt (show a < 2 ^ 32 by omega), W32.toNat_ofNat_of_lt (show c < 2 ^ 32 by omega),
    h16, h17, ha0, ha12, ha18, ha21, ha26, hc0, hc8, hc18]
  rw [if_neg (by omega), if_neg (by decide), if_neg (by omega)]
  rfl
/-- A circuit record (Table 10.6). -/
theorem circuitRecord_words {s : State} {p : Nat} {id : BitVec 8} {x : Circuit} (hnone : KM.get g.circs id.toNat = none)
    (hs : isName s x.sname.toNat = true) (hsp : dieInPart s x.sname.toNat p = true) (hd : isName s x.dname.toNat = true)
    (hdp : dieInPart s x.dname.toNat p = true) (hsc : (g.circs.filter fun c => c.2.sname == x.sname).length < 4)
    (hdc : (g.circs.filter fun c => c.2.dname == x.dname).length < 4) (hsb : x.sbase % 32 = 0) (hdb : x.dbase % 32 = 0)
    (hsize : 1 ≤ x.size ∧ x.size ≤ 256) (hse : x.sbase + 32 * x.size ≤ 0x8000) (hde : x.dbase + 32 * x.size ≤ 0x8000)
    (hpe : 8 * x.pidx + 16 ≤ 0x8000) (hle : 8 * x.lidx + 16 ≤ 0x8000) :
    circuitRecord s p at_ ((x.words id.toNat).map (BitVec.ofNat 32)) g = .ok (4, { g with circs := KM.put g.circs id.toNat x }) := by
  obtain ⟨sname, dname, sbase, dbase, size, pidx, lidx⟩ := x
  dsimp only at hs hsp hd hdp hsc hdc hsb hdb hsize hse hde hpe hle
  have hid := id.isLt
  have hsn := sname.isLt
  have hdn := dname.isLt
  obtain ⟨a, ha⟩ : ∃ a, a = sname.toNat + 2 ^ 20 * id.toNat := ⟨_, rfl⟩
  obtain ⟨b, hb⟩ : ∃ b, b = sbase + 2 ^ 16 * dbase := ⟨_, rfl⟩
  obtain ⟨c, hc⟩ : ∃ c, c = (size - 1) + 2 ^ 8 * pidx + 2 ^ 20 * lidx := ⟨_, rfl⟩
  have hw : (Circuit.mk sname dname sbase dbase size pidx lidx).words id.toNat = [a, dname.toNat, b, c] := by rw [ha, hb, hc]; rfl
  have hat := W32.toNat_ofNat_of_lt (show a < 2 ^ 32 by omega)
  have hnt := W32.toNat_ofNat_of_lt (show dname.toNat < 2 ^ 32 by omega)
  have hbt := W32.toNat_ofNat_of_lt (show b < 2 ^ 32 by omega)
  have hct := W32.toNat_ofNat_of_lt (show c < 2 ^ 32 by omega)
  have hsx : (BitVec.ofNat 32 a).extractLsb' 0 20 = sname := extractLsb'_zero_of_toNat (by omega)
  have hdx : (BitVec.ofNat 32 dname.toNat).extractLsb' 0 20 = dname := extractLsb'_zero_of_toNat (by omega)
  have h15 : bitOf b 15 = false := bitOf_eq (b := false) (show b / 2 ^ 15 % 2 = 0 by omega)
  have h31 : bitOf b 31 = false := bitOf_eq (b := false) (show b / 2 ^ 31 % 2 = 0 by omega)
  have hbits : bits a 20 8 = id.toNat ∧ bits a 28 4 = 0 ∧ bits dname.toNat 20 12 = 0 ∧ bits b 0 15 = sbase ∧ bits b 16 15 = dbase := by
    unfold bits
    omega
  obtain ⟨ha20, ha28, hn20, hb0, hb16⟩ := hbits
  have hbits : bits c 0 8 + 1 = size ∧ bits c 8 12 = pidx ∧ bits c 20 12 = lidx := by
    unfold bits
    omega
  obtain ⟨hc0, hc8, hc20⟩ := hbits
  have hbey : (Circuit.mk sname dname sbase dbase size pidx lidx).beyond = false := by
    have hpad : Config.padBytes = 0x8000 := rfl
    simp only [Circuit.beyond, hpad, Bool.or_eq_false_iff, decide_eq_false_iff_not]
    omega
  rw [hw]
  simp only [List.map_cons, circuitRecord, hat, hnt, hbt, hct, hsx, hdx, h15, h31, ha20, ha28, hn20, hb0, hb16, hc0, hc8, hc20, hnone, hs, hsp,
    hd, hdp, hsb, hdb, hbey]
  rw [if_neg (by decide), if_neg (by simpa using hsc), if_neg (by decide), if_neg (by simpa using hdc), if_neg (by decide), if_neg (by decide)]
/-- A stream plan record (Table 11.2). -/
theorem planRecord_words {key : BitVec 8} {x : Plan} (hn : x.nblk < 2 ^ 32) (ha : x.gaddr < 2 ^ 48) (hs : x.gstr < 2 ^ 32) :
    planRecord at_ ((x.words key.toNat).map (BitVec.ofNat 32)) g = .ok (5, { g with plans := KM.put g.plans key.toNat x }) := by
  obtain ⟨nblk, gaddr, gstr⟩ := x
  dsimp only at hn ha hs
  have hk := key.isLt
  have hbits : bits key.toNat 8 24 = 0 ∧ bits key.toNat 0 8 = key.toNat ∧ bits (gaddr / 2 ^ 32) 16 16 = 0 ∧
      gaddr % 2 ^ 32 + 2 ^ 32 * bits (gaddr / 2 ^ 32) 0 16 = gaddr := by
    unfold bits
    omega
  obtain ⟨h8, h0, h16, haddr⟩ := hbits
  simp only [Plan.words, List.map_cons, planRecord, W32.toNat_ofNat_of_lt (show key.toNat < 2 ^ 32 by omega), W32.toNat_ofNat_of_lt hn,
    W32.toNat_ofNat_of_lt (show gaddr % 2 ^ 32 < 2 ^ 32 by omega), W32.toNat_ofNat_of_lt (show gaddr / 2 ^ 32 < 2 ^ 32 by omega),
    W32.toNat_ofNat_of_lt hs, h8, h0, h16, haddr]
  rw [if_neg (by decide), if_neg (by decide)]

end

/-! ### The command that enters a record (R42) -/

theorem records_nil (one : RecParser) (n at_ : Nat) (g : Globals) : records one n at_ [] g = .ok g := by
  cases n <;> rfl
/-- A payload that is one record. -/
theorem records_one {one : RecParser} {at_ : Nat} {ws : List W32} {g h : Globals} (hne : ws ≠ []) (ho : one at_ ws g = .ok (ws.length, h)) :
    records one ws.length at_ ws g = .ok h := by
  obtain ⟨a, l, rfl⟩ := List.exists_cons_of_ne_nil hne
  have hd : (a :: l).drop (l.length + 1) = [] := List.drop_length (l := a :: l)
  rw [List.length_cons] at ho
  simp only [List.length_cons, records, List.isEmpty_cons, Bool.false_eq_true, if_false, ho, hd, records_nil]
/-- The fields of GLOBAL's command word (Table 02.3). -/
theorem globalWord_bits {target n : Nat} {w : W32} (hw : w = BitVec.ofNat 32 (6 * 2 ^ 28 + 2 ^ 16 * target + n)) (ht : target < 16)
    (hn : n < 2 ^ 16) : cmdOf w = 6 ∧ bits w.toNat 0 16 = n ∧ bits w.toNat 16 4 = target ∧ bits w.toNat 20 8 = 0 := by
  have e := W32.toNat_of_lt hw (by omega)
  rw [cmdOf_eq]
  unfold bits
  omega

section
variable {s : State} {i : Image} {r : List Image} {q : Part} {h : Globals} {target : Nat} {one : State → Nat → RecParser} {w : W32}
  {ws : List W32} (hi : s.images = i :: r) (ha : s.imageReady i = true) (hq : part s i.part.toNat = some q)
  (ht : target ≤ 4) (hw : w = BitVec.ofNat 32 (6 * 2 ^ 28 + 2 ^ 16 * target + ws.length)) (hlen : ws.length < 2 ^ 16) (hne : ws ≠ [])
  (hr : i.rest.take (1 + ws.length) = w :: ws) (hone : one s i.part.toNat (i.idx + 1) ws (q.nextGlobals.getD {}) = .ok (ws.length, h))
include hi ha hq ht hw hlen hne hr hone

/-- A command with one record enters it. -/
theorem globalCommand_enters : s.globalCommand target one w ws =
    (modPart s i.part.toNat fun q => { q with nextGlobals := some h }).modImage fun _ => { i with idx := i.idx + (1 + ws.length) } := by
  obtain ⟨hcmd, hcount, htarget, hres⟩ := globalWord_bits hw (by omega) hlen
  unfold State.globalCommand
  dsimp only
  rw [if_neg (by rw [hcmd, hcount]; simp), Nat.add_comm 1]
  rw [Nat.add_comm] at hr
  refine State.command_ok (ws := w :: ws) (j := i) hi ha hr ?_
  rw [if_neg (by omega), if_neg (by omega)]
  simp only [hq, records_one hne hone]
/-- The structures of the load, and the image, after it. -/
theorem globalCommand_globals : ∃ y : Part, part (s.globalCommand target one w ws) i.part.toNat = some y ∧ y.nextGlobals = some h ∧
    (s.globalCommand target one w ws).images = { i with idx := i.idx + (1 + ws.length) } :: r := by
  rw [globalCommand_enters hi ha hq ht hw hlen hne hr hone]
  refine ⟨{ q with nextGlobals := some h }, part_modPart _ hq, rfl, ?_⟩
  obtain ⟨ps, hp⟩ := exists_modPart_eq s i.part.toNat fun q => { q with nextGlobals := some h }
  rw [hp]
  exact State.modImage_images (s := { s with parts := ps }) hi _
/-- The event of the command's target. -/
theorem exec_enters {x : Instr} (hx : exec x s = .next (if targets target w then s.globalCommand target one w ws else s)) :
    ∃ (t : State) (y : Part), exec x s = .next t ∧ part t i.part.toNat = some y ∧ y.nextGlobals = some h ∧
      t.images = { i with idx := i.idx + (1 + ws.length) } :: r := by
  obtain ⟨_, _, htarget, _⟩ := globalWord_bits hw (by omega) hlen
  have htg : targets target w = true := by simp [targets, htarget]
  obtain ⟨y, hp, hy, himg⟩ := globalCommand_globals hi ha hq ht hw hlen hne hr hone
  exact ⟨_, y, hx.trans (congrArg _ (if_pos htg)), hp, hy, himg⟩

end

end Sys2Proof.Machine

namespace Sys2Proof.Stated
open Machine

section
variable {s : State} {i : Image} {r : List Image} {q : Part} {w : W32} {ws : List W32} (hi : s.images = i :: r) (ha : s.imageReady i = true)
  (hq : part s i.part.toNat = some q)
include hi ha hq

theorem keyring_enters {key : BitVec 8} {k : KeyEnt} (hsidx : k.sidx < 64) (hwl : k.wl < 32) (hslot : 1 ≤ k.nslot ∧ k.nslot ≤ 4)
    (hblk : 1 ≤ k.blk ∧ k.blk ≤ 256) (htree : 1 ≤ k.tree ∧ k.tree < 256) (htiles : 1 ≤ k.tiles.length ∧ k.tiles.length ≤ 16384)
    (ht : ∀ t ∈ k.tiles, t.1 < 64 ∧ t.2.1 < 16 ∧ t.2.2.1 < 16) (hws : ws = (k.words key.toNat).map (BitVec.ofNat 32))
    (hw : w = BitVec.ofNat 32 (6 * 2 ^ 28 + ws.length)) (hlen : ws.length < 2 ^ 16) (hr : i.rest.take (1 + ws.length) = w :: ws) :
    ∃ (t : State) (y : Part) (h : Globals), exec (.globalKeyring w ws) s = .next t ∧ part t i.part.toNat = some y ∧
      y.nextGlobals = some h ∧ h.keys = KM.put (q.nextGlobals.getD {}).keys key.toNat k ∧ h.trees = (q.nextGlobals.getD {}).trees ∧
      h.bucks = (q.nextGlobals.getD {}).bucks ∧ h.circs = (q.nextGlobals.getD {}).circs ∧ h.plans = (q.nextGlobals.getD {}).plans ∧
      t.images = { i with idx := i.idx + (1 + ws.length) } :: r := by
  have hone := keyRecord_words (g := q.nextGlobals.getD {}) (at_ := i.idx + 1) (key := key) hsidx hwl hslot hblk htree htiles ht
  rw [← List.length_map (f := BitVec.ofNat 32), ← hws] at hone
  have hne : ws ≠ [] := by rw [hws]; exact List.cons_ne_nil _ _
  obtain ⟨t, y, hx, hp, hy, himg⟩ := exec_enters (target := 0) (one := fun _ _ => keyRecord) (x := .globalKeyring w ws) hi ha hq
    (by decide) hw hlen hne hr hone rfl
  exact ⟨t, y, _, hx, hp, hy, rfl, rfl, rfl, rfl, rfl, himg⟩
theorem tree_enters {key : BitVec 8} {l : List TreeNode} (hkey : key ≠ 0) (hl : 1 ≤ l.length ∧ l.length ≤ 16384)
    (hn : ∀ n ∈ l, n.lbl < 6 ∧ n.plink < 16) (hws : ws = (treeWords key.toNat l).map (BitVec.ofNat 32))
    (hw : w = BitVec.ofNat 32 (6 * 2 ^ 28 + 2 ^ 16 + ws.length)) (hlen : ws.length < 2 ^ 16) (hr : i.rest.take (1 + ws.length) = w :: ws) :
    ∃ (t : State) (y : Part) (h : Globals), exec (.globalTree w ws) s = .next t ∧ part t i.part.toNat = some y ∧
      y.nextGlobals = some h ∧ h.trees = KM.put (q.nextGlobals.getD {}).trees key.toNat l ∧ h.keys = (q.nextGlobals.getD {}).keys ∧
      h.bucks = (q.nextGlobals.getD {}).bucks ∧ h.circs = (q.nextGlobals.getD {}).circs ∧ h.plans = (q.nextGlobals.getD {}).plans := by
  have hone := treeRecord_words (g := q.nextGlobals.getD {}) (at_ := i.idx + 1) hkey hl hn
  rw [← List.length_map (f := BitVec.ofNat 32), ← hws] at hone
  have hne : ws ≠ [] := by rw [hws]; exact List.cons_ne_nil _ _
  obtain ⟨t, y, hx, hp, hy, _⟩ := exec_enters (target := 1) (one := fun _ _ => treeRecord) (x := .globalTree w ws) hi ha hq
    (by decide) hw hlen hne hr hone rfl
  exact ⟨t, y, _, hx, hp, hy, rfl, rfl, rfl, rfl, rfl⟩
theorem bucket_enters {tag : BitVec 12} {b : Bucket} (h0 : tag ≠ 0) (h1 : tag ≠ 4095) (hop : b.op ≤ 8) (hwidth : 1 ≤ b.width ∧ b.width ≤ 8)
    (htok : b.tok = 0 ∨ 8 ≤ b.tok ∧ b.tok < 32) (htree : 1 ≤ b.tree ∧ b.tree < 256) (hbase : b.rbase < 1024)
    (hws : ws = (b.words tag.toNat).map (BitVec.ofNat 32)) (hw : w = BitVec.ofNat 32 (6 * 2 ^ 28 + 2 * 2 ^ 16 + 2))
    (hr : i.rest.take 3 = w :: ws) :
    ∃ (t : State) (y : Part) (h : Globals), exec (.globalBucket w ws) s = .next t ∧ part t i.part.toNat = some y ∧
      y.nextGlobals = some h ∧ h.bucks = KM.put (q.nextGlobals.getD {}).bucks tag.toNat b ∧ h.keys = (q.nextGlobals.getD {}).keys ∧
      h.trees = (q.nextGlobals.getD {}).trees ∧ h.circs = (q.nextGlobals.getD {}).circs ∧ h.plans = (q.nextGlobals.getD {}).plans := by
  have hl : ws.length = 2 := by rw [hws]; rfl
  have hone := bucketRecord_words (g := q.nextGlobals.getD {}) (at_ := i.idx + 1) h0 h1 hop hwidth htok htree hbase
  rw [← hl, ← hws] at hone
  have hne : ws ≠ [] := by rw [hws]; exact List.cons_ne_nil _ _
  obtain ⟨t, y, hx, hp, hy, _⟩ := exec_enters (target := 2) (one := fun _ _ => bucketRecord) (x := .globalBucket w ws) hi ha hq
    (by decide) (by rw [hl]; exact hw) (by omega) hne (by rw [hl]; exact hr) hone rfl
  exact ⟨t, y, _, hx, hp, hy, rfl, rfl, rfl, rfl, rfl⟩
theorem circuit_enters {id : BitVec 8} {x : Circuit} (hnone : KM.get (q.nextGlobals.getD {}).circs id.toNat = none)
    (hs : isName s x.sname.toNat = true) (hsp : dieInPart s x.sname.toNat i.part.toNat = true) (hd : isName s x.dname.toNat = true)
    (hdp : dieInPart s x.dname.toNat i.part.toNat = true)
    (hsc : ((q.nextGlobals.getD {}).circs.filter fun c => c.2.sname == x.sname).length < 4)
    (hdc : ((q.nextGlobals.getD {}).circs.filter fun c => c.2.dname == x.dname).length < 4) (hsb : x.sbase % 32 = 0) (hdb : x.dbase % 32 = 0)
    (hsize : 1 ≤ x.size ∧ x.size ≤ 256) (hse : x.sbase + 32 * x.size ≤ 0x8000) (hde : x.dbase + 32 * x.size ≤ 0x8000)
    (hpe : 8 * x.pidx + 16 ≤ 0x8000) (hle : 8 * x.lidx + 16 ≤ 0x8000) (hws : ws = (x.words id.toNat).map (BitVec.ofNat 32))
    (hw : w = BitVec.ofNat 32 (6 * 2 ^ 28 + 3 * 2 ^ 16 + 4)) (hr : i.rest.take 5 = w :: ws) :
    ∃ (t : State) (y : Part) (h : Globals), exec (.globalCircuit w ws) s = .next t ∧ part t i.part.toNat = some y ∧
      y.nextGlobals = some h ∧ h.circs = KM.put (q.nextGlobals.getD {}).circs id.toNat x ∧ h.keys = (q.nextGlobals.getD {}).keys ∧
      h.trees = (q.nextGlobals.getD {}).trees ∧ h.bucks = (q.nextGlobals.getD {}).bucks ∧ h.plans = (q.nextGlobals.getD {}).plans := by
  have hl : ws.length = 4 := by rw [hws]; rfl
  have hone := circuitRecord_words (at_ := i.idx + 1) hnone hs hsp hd hdp hsc hdc hsb hdb hsize hse hde hpe hle
  rw [← hl, ← hws] at hone
  have hne : ws ≠ [] := by rw [hws]; exact List.cons_ne_nil _ _
  obtain ⟨t, y, hx, hp, hy, _⟩ := exec_enters (target := 3) (one := circuitRecord) (x := .globalCircuit w ws) hi ha hq
    (by decide) (by rw [hl]; exact hw) (by omega) hne (by rw [hl]; exact hr) hone rfl
  exact ⟨t, y, _, hx, hp, hy, rfl, rfl, rfl, rfl, rfl⟩
theorem streamPlan_enters {key : BitVec 8} {x : Plan} (hn : x.nblk < 2 ^ 32) (hga : x.gaddr < 2 ^ 48) (hgs : x.gstr < 2 ^ 32)
    (hws : ws = (x.words key.toNat).map (BitVec.ofNat 32)) (hw : w = BitVec.ofNat 32 (6 * 2 ^ 28 + 4 * 2 ^ 16 + 5))
    (hr : i.rest.take 6 = w :: ws) :
    ∃ (t : State) (y : Part) (h : Globals), exec (.globalStreamPlan w ws) s = .next t ∧ part t i.part.toNat = some y ∧
      y.nextGlobals = some h ∧ h.plans = KM.put (q.nextGlobals.getD {}).plans key.toNat x ∧ h.keys = (q.nextGlobals.getD {}).keys ∧
      h.trees = (q.nextGlobals.getD {}).trees ∧ h.bucks = (q.nextGlobals.getD {}).bucks ∧ h.circs = (q.nextGlobals.getD {}).circs := by
  have hl : ws.length = 5 := by rw [hws]; rfl
  have hone := planRecord_words (g := q.nextGlobals.getD {}) (at_ := i.idx + 1) (key := key) hn hga hgs
  rw [← hl, ← hws] at hone
  have hne : ws ≠ [] := by rw [hws]; exact List.cons_ne_nil _ _
  obtain ⟨t, y, hx, hp, hy, _⟩ := exec_enters (target := 4) (one := fun _ _ => planRecord) (x := .globalStreamPlan w ws) hi ha hq
    (by decide) (by rw [hl]; exact hw) (by omega) hne (by rw [hl]; exact hr) hone rfl
  exact ⟨t, y, _, hx, hp, hy, rfl, rfl, rfl, rfl, rfl⟩

end

end Sys2Proof.Stated

/-- Settles O46: each record is parsed from the words of its layout (`keyRecord_words` to `planRecord_words`), and a command with one record
enters it (`exec_enters`). -/
theorem globalRecords : Obligations.GlobalRecords := by
  intro s i r q g hi ha hq hg
  subst hg
  exact ⟨fun key k w ws hsidx hwl hs1 hs4 hb1 hb2 ht1 ht2 hl1 hl2 ht hws hw hlen hr =>
      Sys2Proof.Stated.keyring_enters hi ha hq hsidx hwl ⟨hs1, hs4⟩ ⟨hb1, hb2⟩ ⟨ht1, ht2⟩ ⟨hl1, hl2⟩ ht hws hw hlen hr,
    fun key l w ws hkey hl1 hl2 hn hws hw hlen hr => Sys2Proof.Stated.tree_enters hi ha hq hkey ⟨hl1, hl2⟩ hn hws hw hlen hr,
    fun tag b w ws h0 h1 hop hw1 hw8 htok ht1 ht2 hbase hws hw hr =>
      Sys2Proof.Stated.bucket_enters hi ha hq h0 h1 hop ⟨hw1, hw8⟩ htok ⟨ht1, ht2⟩ hbase hws hw hr,
    fun id x w ws hnone hs hsp hd hdp hsc hdc hsb hdb hs1 hs2 hse hde hpe hle hws hw hr =>
      Sys2Proof.Stated.circuit_enters hi ha hq hnone hs hsp hd hdp hsc hdc hsb hdb ⟨hs1, hs2⟩ hse hde hpe hle hws hw hr,
    fun key x w ws hn hga hgs hws hw hr => Sys2Proof.Stated.streamPlan_enters hi ha hq hn hga hgs hws hw hr⟩

/-! SUPPORT. Rounds at a cell (R39, R45, R59, R102, R382): what a round start and a SWAP leave in a cell, what the token changes beside it, and what
the end of a round reports. -/

namespace Sys2Proof.Machine

/-! ### What a round start and a SWAP set (R59, R102) -/

section
variable (c : Cell) (t : TIdx)

theorem Cell.newRound_th : c.newRound.th t = (c.th t).atStart t c.plane.active := by
  simp [Cell.newRound, Cell.th]
theorem Cell.swapClears_th : c.swapClears.th t = (c.th t).swapped t c.name := by
  simp [Cell.swapClears, Cell.th]
theorem Thread.atStart_micro {t : TIdx} (x : Thread) (b : Bank) (h : t ≠ 0) : (x.atStart t b).st = .free := if_neg h
theorem Cell.newRound_active : c.newRound.plane.active = c.plane.active := rfl
theorem Cell.newRound_owner (i : Fin 4) : c.newRound.mx.owner[i] = none := by simp [Cell.newRound]

end

/-- Staged constants are no matter of the rest of a plane. -/
theorem Plane.takeStaged_keeps (p : Plane) : p.takeStaged.act = p.act ∧ p.takeStaged.cfg = p.cfg ∧ p.takeStaged.round = p.round := by
  unfold Plane.takeStaged Plane.setActive
  split
  · split <;> exact ⟨rfl, rfl, rfl⟩
  · exact ⟨rfl, rfl, rfl⟩
/-- The bank that was idle is in force after the exchange. -/
theorem Plane.exchange_active (p : Plane) : p.exchange.active = p.idleBank := by
  unfold Plane.exchange Plane.active Plane.idleBank
  cases p.act <;> rfl

/-! ### Kept writes (R45) -/

/-- A cell has another's plane but for its configuration words, and its name. -/
def Cell.SamePlane (c d : Cell) : Prop := (∃ m, d.plane = { c.plane with cfg := m }) ∧ d.name = c.name
theorem Cell.SamePlane.refl (c : Cell) : c.SamePlane c := ⟨⟨_, rfl⟩, rfl⟩
theorem Cell.SamePlane.of_eq {c d : Cell} (hp : d.plane = c.plane) (hn : d.name = c.name) : c.SamePlane d := ⟨⟨_, hp⟩, hn⟩
theorem Cell.SamePlane.trans {c d e : Cell} (h : c.SamePlane d) (h' : d.SamePlane e) : c.SamePlane e := by
  obtain ⟨⟨m, hp⟩, hn⟩ := h
  obtain ⟨⟨m', hp'⟩, hn'⟩ := h'
  exact ⟨⟨m', by rw [hp', hp]⟩, hn'.trans hn⟩
theorem Cell.SamePlane.foldl {α : Type} {f : Cell → α → Cell} (hf : ∀ (c : Cell) a, c.SamePlane (f c a)) : ∀ (l : List α) (c : Cell),
    c.SamePlane (l.foldl f c)
  | [], c => .refl c
  | a :: l, c => (hf c a).trans (Cell.SamePlane.foldl hf l (f c a))
theorem Cell.write_samePlane (c : Cell) (t : TIdx) (d : Spec) (v : V256) : c.SamePlane (c.write t d v) := by
  unfold Cell.write
  split <;> exact .of_eq rfl rfl
theorem Cell.wakeOne_samePlane (lo n : Nat) (c : Cell) (t : TIdx) : c.SamePlane (c.wakeOne lo n t) := by
  unfold Cell.wakeOne
  split
  · split
    · dsimp only
      split
      · exact .of_eq rfl rfl
      · split
        · exact Cell.SamePlane.trans (d := c.touched _ 8) (.of_eq rfl rfl) (Cell.SamePlane.trans (Cell.write_samePlane ..) (.of_eq rfl rfl))
        · exact .of_eq rfl rfl
    · exact .refl c
  · exact .refl c
theorem Cell.store_samePlane (c : Cell) (a n v : Nat) : c.SamePlane (c.store a n v) :=
  Cell.SamePlane.trans (d := c.modPad (·.write a n v)) (.of_eq rfl rfl) (.foldl (Cell.wakeOne_samePlane a n) _ _)
theorem Cell.applyKept_samePlane (c : Cell) (k : KeptWrite) : c.SamePlane (c.applyKept k) := by
  unfold Cell.applyKept
  split
  · exact c.store_samePlane ..
  · exact ⟨⟨_, rfl⟩, rfl⟩

/-- A cell as SWAP exchanges its banks: bindings ended, kept writes applied. -/
def Cell.beforeExchange (c : Cell) : Cell :=
  c.plane.kept.foldl Cell.applyKept { c.endBindings with plane := { c.plane with kept := [] } }
theorem Cell.beforeExchange_samePlane (c : Cell) : ({ c with plane := { c.plane with kept := [] } } : Cell).SamePlane c.beforeExchange :=
  Cell.SamePlane.trans (d := { c.endBindings with plane := { c.plane with kept := [] } }) (.of_eq rfl rfl)
    (.foldl Cell.applyKept_samePlane _ _)
theorem Cell.doSwap_eq (c : Cell) : c.doSwap =
    (({ c.beforeExchange with plane := c.beforeExchange.plane.exchange } : Cell).swapClears).newRound := rfl
/-- The plane after a SWAP (R38, R39, R45). -/
theorem Cell.doSwap_plane (c : Cell) : ∃ m, c.doSwap.plane = { c.plane.exchange with
    kept := [], cfg := m, live := m, inRound := true, shadow := c.plane.exchange.active.consts, cstage := false } := by
  obtain ⟨⟨m, hp⟩, _⟩ := c.beforeExchange_samePlane
  refine ⟨m, ?_⟩
  show { c.beforeExchange.plane.exchange with
    live := c.beforeExchange.plane.exchange.cfg, inRound := true, shadow := c.beforeExchange.plane.exchange.active.consts, cstage := false } = _
  rw [hp]
  rfl
theorem Cell.doSwap_active (c : Cell) : c.doSwap.plane.active = c.plane.idleBank := by
  obtain ⟨m, h⟩ := c.doSwap_plane
  rw [h]
  exact c.plane.exchange_active
/-- A thread after a SWAP: cleared (R102), and started (R59). -/
theorem Cell.doSwap_th (c : Cell) (t : TIdx) : ∃ x : Thread, c.doSwap.th t = (x.swapped t c.name).atStart t c.plane.idleBank := by
  obtain ⟨_, hn⟩ := c.beforeExchange_samePlane
  refine ⟨c.beforeExchange.th t, ?_⟩
  have ha : ((({ c.beforeExchange with plane := c.beforeExchange.plane.exchange } : Cell).swapClears).newRound).plane.active =
      c.plane.idleBank := c.doSwap_active
  rw [Cell.newRound_active] at ha
  rw [Cell.doSwap_eq, Cell.newRound_th, Cell.swapClears_th, ha]
  show (Thread.swapped _ t c.beforeExchange.name).atStart t _ = _
  rw [hn]
  rfl
theorem Cell.doSwap_tile (c : Cell) (i : Fin 4) : c.doSwap.tile i = [] := by
  show (Vector.replicate 4 [])[i] = _
  simp
theorem Cell.doRepeat_plane (c : Cell) : c.doRepeat.plane = { c.plane.takeStaged with
    round := c.plane.round + 1, live := c.plane.cfg, inRound := true, shadow := c.plane.takeStaged.active.consts, cstage := false } := by
  obtain ⟨_, hcfg, _⟩ := c.plane.takeStaged_keeps
  rw [← hcfg]
  rfl
theorem Cell.doRepeat_th (c : Cell) (t : TIdx) : c.doRepeat.th t = (c.th t).atStart t c.doRepeat.plane.active :=
  Cell.newRound_th _ t

theorem Cell.doRepeat_owner (c : Cell) (i : Fin 4) : c.doRepeat.mx.owner[i] = none := Cell.newRound_owner _ i
theorem Cell.doRepeat_tiles (c : Cell) : c.doRepeat.mx.tiles = c.mx.tiles := rfl
theorem Cell.doRepeat_pad (c : Cell) : c.doRepeat.pad = c.pad := rfl

/-! ### What the token changes beside the cell -/

/-- What the passage of the token keeps: the ports, and of the partition the token, the count of rounds and the port that launched it. -/
def State.KeepsRound (p : Nat) (s t : State) : Prop :=
  t.portA = s.portA ∧ t.portB = s.portB ∧
    ∀ q, part s p = some q → ∃ r, part t p = some r ∧ r.token = q.token ∧ r.roundNo = q.roundNo ∧ r.port = q.port
theorem State.KeepsRound.of_parts {p : Nat} {s t : State} (ha : t.portA = s.portA) (hb : t.portB = s.portB) (hp : t.parts = s.parts) :
    s.KeepsRound p t := ⟨ha, hb, fun q h => ⟨q, by unfold part at h ⊢; rw [hp, h], rfl, rfl, rfl⟩⟩
theorem State.KeepsRound.trans {p : Nat} {s t u : State} (h : s.KeepsRound p t) (h' : t.KeepsRound p u) : s.KeepsRound p u := by
  obtain ⟨ha, hb, hp⟩ := h
  obtain ⟨ha', hb', hp'⟩ := h'
  refine ⟨ha'.trans ha, hb'.trans hb, fun q hq => ?_⟩
  obtain ⟨r, hr, ht, hn, ho⟩ := hp q hq
  obtain ⟨r', hr', ht', hn', ho'⟩ := hp' r hr
  exact ⟨r', hr', ht'.trans ht, hn'.trans hn, ho'.trans ho⟩

theorem State.settleIsland_eq (s : State) (die : Nat) (east : Bool) : ∃ i, s.settleIsland die east = { s with islands := i } := by
  unfold State.settleIsland
  dsimp only
  split
  · exact ⟨_, rfl⟩
  · exact ⟨s.islands, rfl⟩
/-- A change of a cell's spine changes spines and islands only. -/
theorem State.reselect_eq (s : State) (n old : Nat) : ∃ sp i, s.reselect n old = { s with spines := sp, islands := i } := by
  unfold State.reselect
  split
  · exact ⟨s.spines, s.islands, rfl⟩
  · dsimp only
    split
    · exact ⟨s.spines, s.islands, rfl⟩
    · obtain ⟨i, h⟩ := State.settleIsland_eq (({ s with spines := _ } : State).settleIsland _ false) _ true
      obtain ⟨j, h'⟩ := State.settleIsland_eq ({ s with spines := _ } : State) _ false
      exact ⟨_, i, by rw [h, h']⟩
/-- A change of the landing slots of the cell in hand, of its engines and of the S plane only. -/
def State.SlotsOnly (s t : State) : Prop := ∃ l e m, t = { s with cell := { s.cell with land := l, eng := e }, snet := m }
theorem State.SlotsOnly.refl (s : State) : s.SlotsOnly s := ⟨_, _, _, rfl⟩
theorem State.SlotsOnly.trans {s t u : State} (h : s.SlotsOnly t) (h' : t.SlotsOnly u) : s.SlotsOnly u := by
  obtain ⟨l, e, m, rfl⟩ := h
  obtain ⟨l', e', m', rfl⟩ := h'
  exact ⟨l', e', m', rfl⟩
theorem State.SlotsOnly.foldl {α : Type} {f : State → α → State} (hf : ∀ (s : State) a, s.SlotsOnly (f s a)) : ∀ (l : List α) (s : State),
    s.SlotsOnly (l.foldl f s)
  | [], s => .refl s
  | a :: l, s => (hf s a).trans (State.SlotsOnly.foldl hf l (f s a))
theorem State.armSlots_slotsOnly (s : State) : s.SlotsOnly s.armSlots := by
  unfold State.armSlots
  refine State.SlotsOnly.trans (State.SlotsOnly.trans (t := modFocus s fun c => { c with land := Vector.replicate 8 {} }) ⟨_, _, _, rfl⟩
    (.foldl (fun u n => ?_) slots _)) (.foldl (fun u key => ?_) _ _)
  · split
    · exact ⟨_, _, _, rfl⟩
    · exact .refl u
  · split
    · exact ⟨_, _, _, rfl⟩
    · exact .refl u
theorem State.reselect_keepsRound (s : State) (n old p : Nat) : s.KeepsRound p (s.reselect n old) := by
  obtain ⟨_, _, h⟩ := s.reselect_eq n old
  rw [h]
  exact .of_parts rfl rfl rfl
theorem State.reselect_cell (s : State) (n old : Nat) : (s.reselect n old).cell = s.cell := by
  obtain ⟨_, _, h⟩ := s.reselect_eq n old
  rw [h]

theorem foldl_setUnit_eq : ∀ (l : List Nat) (s : State), ∃ c,
    l.foldl (fun s t => setUnit s t (unitOf s t).swapped) s = { s with causal := c }
  | [], s => ⟨s.causal, rfl⟩
  | t :: l, s => by
    obtain ⟨c, h⟩ := foldl_setUnit_eq l (setUnit s t (unitOf s t).swapped)
    exact ⟨c, h⟩
theorem modPart_keepsRound {s : State} {p : Nat} {f : Part → Part}
    (hf : ∀ q, (f q).token = q.token ∧ (f q).roundNo = q.roundNo ∧ (f q).port = q.port) : s.KeepsRound p (modPart s p f) := by
  obtain ⟨ps, h⟩ := exists_modPart_eq s p f
  refine ⟨by rw [h], by rw [h], fun q hq => ⟨f q, part_modPart f hq, ?_⟩⟩
  obtain ⟨ht, hn, hp⟩ := hf q
  exact ⟨ht, hn, hp⟩
theorem modPart_cell (s : State) (p : Nat) (f : Part → Part) : (modPart s p f).cell = s.cell := by
  obtain ⟨ps, h⟩ := exists_modPart_eq s p f
  rw [h]
theorem modPart_cur (s : State) (p : Nat) (f : Part → Part) : (modPart s p f).cur = s.cur := by
  obtain ⟨ps, h⟩ := exists_modPart_eq s p f
  rw [h]
/-- The structures of a new load take over: no cell changes, and the round goes on. -/
theorem State.installLoad_frame (s : State) (p : Nat) :
    (s.installLoad p).cur = s.cur ∧ (s.installLoad p).cell = s.cell ∧ s.KeepsRound p (s.installLoad p) := by
  unfold State.installLoad
  split
  · exact ⟨rfl, rfl, .of_parts rfl rfl rfl⟩
  · split
    · exact ⟨rfl, rfl, .of_parts rfl rfl rfl⟩
    · dsimp only
      generalize hm : modPart s p _ = u
      obtain ⟨c, h⟩ := foldl_setUnit_eq _ { u with rings := _, cacks := _ }
      rw [h]
      refine ⟨?_, ?_, State.KeepsRound.trans (t := u) ?_ (.of_parts rfl rfl rfl)⟩
      · rw [← hm]
        exact modPart_cur ..
      · rw [← hm]
        exact modPart_cell ..
      · rw [← hm]
        exact modPart_keepsRound fun q => ⟨rfl, rfl, rfl⟩

/-! ### The token at the cell in hand (Table 02.2) -/

section
variable {s : State} {n : Nat} (hn : s.cur = n)
include hn

theorem getCell_cur : getCell s n = s.cell := if_pos hn
theorem modCell_in_hand (f : Cell → Cell) : modCell s n f = { s with cell := f s.cell } := by
  rw [← hn, modCell_cur]
omit hn in
/-- A round start at the cell in hand: the slots are armed, and spines follow. -/
theorem roundStart_slots {u : State} (hu : u.cur = n) (f : Cell → Cell) (old p : Nat) :
    (∃ l e, ((within u n fun s => (modFocus s f).armSlots).reselect n old).cell = { f u.cell with land := l, eng := e }) ∧
      u.KeepsRound p ((within u n fun s => (modFocus s f).armSlots).reselect n old) := by
  have ha := (modFocus u f).armSlots_slotsOnly
  obtain ⟨l, e, m, h⟩ := ha
  have hw : within u n (fun s => (modFocus s f).armSlots) = (modFocus u f).armSlots := by
    rw [← hu]
    exact within_cur (by rw [h]; rfl)
  refine ⟨⟨l, e, ?_⟩, ?_⟩
  · rw [State.reselect_cell, hw, h]
    rfl
  · refine State.KeepsRound.trans ?_ (State.reselect_keepsRound ..)
    rw [hw, h]
    exact .of_parts rfl rfl rfl
theorem swapCell_slots (p : Nat) : (∃ l e, (s.swapCell p n).cell = { s.cell.doSwap with land := l, eng := e }) ∧
    s.KeepsRound p (s.swapCell p n) := by
  obtain ⟨hcur, hcell, hkeeps⟩ := s.installLoad_frame p
  obtain ⟨⟨l, e, h⟩, hk⟩ := roundStart_slots (hcur.trans hn) Cell.doSwap (getCell s n).spine p
  rw [hcell] at h
  exact ⟨⟨l, e, h⟩, hkeeps.trans hk⟩
theorem modCell_keepsRound (f : Cell → Cell) (p : Nat) : s.KeepsRound p (modCell s n f) := by
  rw [modCell_in_hand hn]
  exact .of_parts rfl rfl rfl

end

/-- The token without the cell that it passes. -/
def State.tokenLeft (s : State) (p n : Nat) : State := s.modToken p fun k => { k with left := k.left.filter (· != n) }
theorem State.tokenLeft_cell (s : State) (p n : Nat) : (s.tokenLeft p n).cell = s.cell := modPart_cell ..
theorem State.tokenLeft_cur (s : State) (p n : Nat) : (s.tokenLeft p n).cur = s.cur := modPart_cur ..

section
variable {s : State} {n p : Nat} {k : Token} (hn : s.cur = n)
include hn

theorem passCell_plane : (getCell (s.tokenLeft p n) n).plane = s.cell.plane := by
  rw [getCell_cur ((State.tokenLeft_cur ..).trans hn), State.tokenLeft_cell]
/-- What the token does at the cell in hand, by its action. -/
theorem passCell_of_repeat (hk : k.act = .repeat_) : s.passCell p n k = if s.cell.plane.loaded
    then (within (s.tokenLeft p n) n fun s => (modFocus s Cell.doRepeat).armSlots).reselect n (getCell (s.tokenLeft p n) n).spine
    else modCell (s.tokenLeft p n) n (·.passedBy false) := by
  rw [← passCell_plane hn (p := p)]
  unfold State.passCell
  simp only [hk]
  rfl
theorem passCell_of_pause (hk : k.act = .pause) : s.passCell p n k = if s.cell.plane.loaded
    then modCell (s.tokenLeft p n) n Cell.doPause else s.tokenLeft p n := by
  rw [← passCell_plane hn (p := p)]
  unfold State.passCell
  simp only [hk]
  rfl
theorem passCell_of_swap (hk : k.act = .swap) : s.passCell p n k = if s.cell.plane.wantsSwap = false
    then modCell ((s.tokenLeft p n).installLoad p) n (·.passedBy true)
    else if s.cell.plane.canSwap then (s.tokenLeft p n).swapCell p n
    else (s.tokenLeft p n).modToken p fun k => { k with held := n :: k.held } := by
  rw [← passCell_plane hn (p := p)]
  unfold State.passCell
  simp only [hk, Bool.not_eq_true']
  rfl

theorem passCell_repeat (hk : k.act = .repeat_) (hl : s.cell.plane.loaded = true) :
    (∃ l e, (s.passCell p n k).cell = { s.cell.doRepeat with land := l, eng := e }) ∧
      (s.tokenLeft p n).KeepsRound p (s.passCell p n k) := by
  have hu : (s.tokenLeft p n).cur = n := (State.tokenLeft_cur ..).trans hn
  obtain ⟨⟨l, e, hc⟩, hr⟩ := roundStart_slots hu Cell.doRepeat (getCell (s.tokenLeft p n) n).spine p
  rw [State.tokenLeft_cell] at hc
  rw [passCell_of_repeat hn hk, if_pos hl]
  exact ⟨⟨l, e, hc⟩, hr⟩
theorem passCell_repeat_empty (hk : k.act = .repeat_) (hl : s.cell.plane.loaded = false) :
    (s.passCell p n k).cell = s.cell.passedBy false ∧ (s.tokenLeft p n).KeepsRound p (s.passCell p n k) := by
  have hu : (s.tokenLeft p n).cur = n := (State.tokenLeft_cur ..).trans hn
  rw [passCell_of_repeat hn hk, hl, if_neg Bool.false_ne_true]
  refine ⟨?_, modCell_keepsRound hu _ p⟩
  rw [modCell_in_hand hu, State.tokenLeft_cell]
theorem passCell_pause (hk : k.act = .pause) :
    (s.passCell p n k).cell = (if s.cell.plane.loaded then s.cell.doPause else s.cell) ∧
      (s.tokenLeft p n).KeepsRound p (s.passCell p n k) := by
  have hu : (s.tokenLeft p n).cur = n := (State.tokenLeft_cur ..).trans hn
  rw [passCell_of_pause hn hk]
  split
  · refine ⟨?_, modCell_keepsRound hu _ p⟩
    rw [modCell_in_hand hu, State.tokenLeft_cell]
  · exact ⟨State.tokenLeft_cell .., .of_parts rfl rfl rfl⟩
theorem passCell_swap (hk : k.act = .swap) (hs : s.cell.plane.canSwap = true) :
    (∃ l e, (s.passCell p n k).cell = { s.cell.doSwap with land := l, eng := e }) ∧
      (s.tokenLeft p n).KeepsRound p (s.passCell p n k) := by
  have hu : (s.tokenLeft p n).cur = n := (State.tokenLeft_cur ..).trans hn
  have hw : s.cell.plane.wantsSwap ≠ false := by
    obtain ⟨hr, _⟩ := Bool.and_eq_true_iff.mp hs
    simp [Plane.wantsSwap, hr]
  obtain ⟨⟨l, e, hc⟩, hr⟩ := swapCell_slots hu p
  rw [State.tokenLeft_cell] at hc
  rw [passCell_of_swap hn hk, if_neg hw, if_pos hs]
  exact ⟨⟨l, e, hc⟩, hr⟩
theorem passCell_swap_empty (hk : k.act = .swap) (hw : s.cell.plane.wantsSwap = false) :
    (s.passCell p n k).cell = s.cell.passedBy true ∧ (s.tokenLeft p n).KeepsRound p (s.passCell p n k) := by
  have hu : (s.tokenLeft p n).cur = n := (State.tokenLeft_cur ..).trans hn
  obtain ⟨hcur, hcell, hkeeps⟩ := (s.tokenLeft p n).installLoad_frame p
  rw [passCell_of_swap hn hk, if_pos hw]
  refine ⟨?_, hkeeps.trans (modCell_keepsRound (hcur.trans hu) _ p)⟩
  rw [modCell_in_hand (hcur.trans hu), hcell, State.tokenLeft_cell]
theorem passCell_held (hk : k.act = .swap) (hw : s.cell.plane.wantsSwap = true) (hs : s.cell.plane.canSwap = false) :
    s.passCell p n k = (s.tokenLeft p n).modToken p fun k => { k with held := n :: k.held } := by
  rw [passCell_of_swap hn hk, hw, hs]
  rfl

end

/-! ### The token's end (R322, R382) -/

section
variable {s : State} {p : Nat}

theorem State.tokenDone_cell (s : State) (p : Nat) : (s.tokenDone p).cell = s.cell := by
  unfold State.tokenDone
  split
  · rfl
  · split
    · rfl
    · dsimp only
      split
      · rfl
      · split
        · rw [State.reportTo1, State.modPort_cell, modPart_cell]
        · exact modPart_cell ..
/-- A token that has cells to pass, or that a cell holds, goes on. -/
theorem State.tokenDone_goesOn {q : Part} {k : Token} (hq : part s p = some q) (hk : q.token = some k) (h : k.left ≠ [] ∨ k.held ≠ []) :
    s.tokenDone p = s := by
  unfold State.tokenDone
  simp only [hq, hk]
  refine if_pos ?_
  rcases h with h | h
  · simp [h]
  · simp [h]
@[simp] theorem State.modPort_parts (s : State) (q : Port) (f : PortSt → PortSt) : (s.modPort q f).parts = s.parts := by
  cases q <;> rfl
theorem State.port_congr {s t : State} (ha : t.portA = s.portA) (hb : t.portB = s.portB) (q : Port) : t.port q = s.port q := by
  cases q
  · exact ha
  · exact hb
/-- The round end is reported once the token has passed every cell. -/
theorem State.tokenDone_reports {q : Part} {k : Token} (hq : part s p = some q) (hk : q.token = some k) (hl : k.left = []) (hh : k.held = [])
    (he : k.ends = true) : ∃ r : Part, part (s.tokenDone p) p = some r ∧ r.token = none ∧ r.paused = (k.act == .pause) ∧
      r.roundNo = (if k.act = .swap then 0 else q.roundNo + 1) ∧
      (s.tokenDone p).port q.port = { s.port q.port with
        report := ({ code := 0, part := p, round := (q.roundNo + 1).toNat } : Report).word256, msix := (s.port q.port).msix ++ [1] } := by
  unfold State.tokenDone
  simp only [hq, hk]
  rw [if_neg (by simp [hl, hh]), if_pos he, modPart_eq _ hq]
  refine ⟨_, (congrArg (KM.get · p) (State.modPort_parts ..)).trans (KM.get_put_same _), rfl, rfl, by simp only [he, if_true], ?_⟩
  rw [State.reportTo1, State.modPort_port]
  cases q.port <;> rfl
theorem State.tokenAt_token {n : Nat} {k : Token} (h : s.tokenAt p n = some k) : ∃ q, part s p = some q ∧ q.token = some k := by
  unfold State.tokenAt at h
  split at h
  · cases h
  · next k' hk' =>
    obtain ⟨q, hq, hk⟩ := Option.bind_eq_some_iff.mp hk'
    obtain ⟨_, e⟩ := Option.ite_none_right_eq_some.mp h
    exact ⟨q, hq, hk.trans e⟩
theorem State.modToken_part {k : Token} {q : Part} (f : Token → Token) (hq : part s p = some q) (hk : q.token = some k) :
    part (s.modToken p f) p = some { q with token := some (f k) } := by
  refine (part_modPart _ hq).trans ?_
  rw [hk]
  rfl
theorem State.tokenLeft_part {n : Nat} {k : Token} {q : Part} (hq : part s p = some q) (hk : q.token = some k) :
    part (s.tokenLeft p n) p = some { q with token := some { k with left := k.left.filter (· != n) } } := State.modToken_part _ hq hk
theorem State.tokenLeft_ports (s : State) (p n : Nat) : (s.tokenLeft p n).portA = s.portA ∧ (s.tokenLeft p n).portB = s.portB := by
  obtain ⟨ps, h⟩ := exists_modPart_eq s p fun q => { q with token := q.token.map fun k => { k with left := k.left.filter (· != n) } }
  rw [State.tokenLeft, State.modToken, h]
  exact ⟨rfl, rfl⟩
theorem execRoundEndToken_eq {c : Name} {k : Token} (hp : partOfName s c.toNat = some p) (ht : s.tokenAt p c.toNat = some k) :
    execRoundEndToken c s = .next ((s.passCell p c.toNat k).tokenDone p) := by
  unfold execRoundEndToken
  simp only [hp, Option.getD_some, ht]

end

end Sys2Proof.Machine

namespace Sys2Proof.Stated
open Machine

/-! ### The token passes a cell (Table 02.2) -/

section
variable {c : Name} {s : State} {p : Nat} {k : Token} (hc : s.cur = c.toNat) (hp : partOfName s c.toNat = some p)
  (ht : s.tokenAt p c.toNat = some k)
include hc hp ht

/-- REPEAT. -/
theorem token_repeats (hk : k.act = .repeat_) (hl : s.cell.plane.loaded = true) :
    ∃ t, exec (.roundEndToken c) s = .next t ∧ t.cell.plane.round = s.cell.plane.round + 1 ∧ t.cell.plane.act = s.cell.plane.act ∧
      t.cell.plane.inRound = true ∧ t.cell.plane.live = s.cell.plane.cfg ∧ (t.cell.th 0).st = .running ∧
      (t.cell.th 0).pc = t.cell.plane.active.entry ∧ (t.cell.th 0).lvl = t.cell.plane.active.lprio ∧
      (∀ u : TIdx, u ≠ 0 → (t.cell.th u).st = .free) ∧
      (∀ u : TIdx, (t.cell.th u).g = (s.cell.th u).g ∧ (t.cell.th u).q = (s.cell.th u).q ∧ (t.cell.th u).p = 0 ∧ (t.cell.th u).pp = false) ∧
      t.cell.mx.tiles = s.cell.mx.tiles ∧ (∀ i : Fin 4, t.cell.mx.owner[i] = none) ∧ t.cell.pad = s.cell.pad := by
  obtain ⟨⟨l, e, hcell⟩, _⟩ := passCell_repeat (p := p) hc hk hl
  obtain ⟨hact, _, _⟩ := s.cell.plane.takeStaged_keeps
  have hpl := s.cell.doRepeat_plane
  have hth := s.cell.doRepeat_th
  refine ⟨_, execRoundEndToken_eq hp ht, ?_⟩
  rw [State.tokenDone_cell, hcell]
  refine ⟨by rw [hpl], ?_, by rw [hpl], by rw [hpl], ?_, ?_, ?_, fun u hu => ?_, fun u => ?_, s.cell.doRepeat_tiles,
    s.cell.doRepeat_owner, s.cell.doRepeat_pad⟩
  · rw [hpl]
    exact hact
  · exact congrArg Thread.st (hth 0)
  · exact congrArg Thread.pc (hth 0)
  · exact congrArg Thread.lvl (hth 0)
  · exact (congrArg Thread.st (hth u)).trans (Thread.atStart_micro _ _ hu)
  · show (s.cell.doRepeat.th u).g = _ ∧ (s.cell.doRepeat.th u).q = _ ∧ (s.cell.doRepeat.th u).p = _ ∧ (s.cell.doRepeat.th u).pp = _
    rw [hth u]
    exact ⟨rfl, rfl, rfl, rfl⟩
/-- SWAP at a cell that can apply it. -/
theorem token_swaps (hk : k.act = .swap) (hs : s.cell.plane.canSwap = true) :
    ∃ t, exec (.roundEndToken c) s = .next t ∧ t.cell.plane.round = 0 ∧ t.cell.plane.act = !s.cell.plane.act ∧
      t.cell.plane.idle = .empty ∧ t.cell.plane.loaded = true ∧ t.cell.plane.inRound = true ∧ t.cell.plane.kept = [] ∧
      t.cell.plane.active.code = s.cell.plane.idleBank.code ∧ (t.cell.th 0).st = .running ∧
      (t.cell.th 0).pc = s.cell.plane.idleBank.entry ∧ (t.cell.th 0).lvl = s.cell.plane.idleBank.lprio ∧
      (∀ u : TIdx, u ≠ 0 → (t.cell.th u).st = .free) ∧
      (∀ u : TIdx, (t.cell.th u).g = Vector.replicate 32 0 ∧ (t.cell.th u).q = Vector.replicate 8 0 ∧ (t.cell.th u).p = 0 ∧
        (t.cell.th u).y0 = 0 ∧ (t.cell.th u).y1 = 0 ∧ (t.cell.th u).mshape = 0x0BAE33 ∧ (t.cell.th u).link = 0 ∧
        (t.cell.th u).fmt = 0x2E00 ∧ (t.cell.th u).rseed = Thread.seed u s.cell.name ∧ (t.cell.th u).fcause = 0) ∧
      (∀ i : Fin 4, t.cell.tile i = []) ∧ t.cell.mx.mlcap = 0x924924 ∧ t.cell.flt = 0 ∧ t.cell.msg.clmask = 0 := by
  obtain ⟨⟨l, e, hcell⟩, _⟩ := passCell_swap (p := p) hc hk hs
  obtain ⟨m, hpl⟩ := s.cell.doSwap_plane
  have hth := s.cell.doSwap_th
  refine ⟨_, execRoundEndToken_eq hp ht, ?_⟩
  rw [State.tokenDone_cell, hcell]
  obtain ⟨x, h0⟩ := hth 0
  refine ⟨by rw [hpl]; rfl, by rw [hpl]; rfl, by rw [hpl]; rfl, by rw [hpl]; rfl, by rw [hpl], by rw [hpl], ?_, ?_, ?_, ?_, fun u hu => ?_,
    fun u => ?_, s.cell.doSwap_tile, rfl, rfl, rfl⟩
  · exact congrArg Bank.code s.cell.doSwap_active
  · exact congrArg Thread.st h0
  · exact congrArg Thread.pc h0
  · exact congrArg Thread.lvl h0
  · obtain ⟨x, h⟩ := hth u
    exact (congrArg Thread.st h).trans (Thread.atStart_micro _ _ hu)
  · obtain ⟨x, h⟩ := hth u
    show (s.cell.doSwap.th u).g = _ ∧ (s.cell.doSwap.th u).q = _ ∧ (s.cell.doSwap.th u).p = _ ∧ (s.cell.doSwap.th u).y0 = _ ∧
      (s.cell.doSwap.th u).y1 = _ ∧ (s.cell.doSwap.th u).mshape = _ ∧ (s.cell.doSwap.th u).link = _ ∧ (s.cell.doSwap.th u).fmt = _ ∧
      (s.cell.doSwap.th u).rseed = _ ∧ (s.cell.doSwap.th u).fcause = _
    rw [h]
    exact ⟨rfl, rfl, rfl, rfl, rfl, rfl, rfl, rfl, rfl, rfl⟩
/-- PAUSE. -/
theorem token_pauses (hk : k.act = .pause) (hl : s.cell.plane.loaded = true) :
    ∃ t, exec (.roundEndToken c) s = .next t ∧ t.cell.plane.inRound = false ∧ t.cell.plane.round = s.cell.plane.round ∧
      t.cell.thr = s.cell.thr ∧ t.cell.pad = s.cell.pad := by
  obtain ⟨_, _, hround⟩ := s.cell.plane.takeStaged_keeps
  obtain ⟨hcell, _⟩ := passCell_pause (p := p) hc hk
  rw [if_pos hl] at hcell
  refine ⟨_, execRoundEndToken_eq hp ht, ?_⟩
  rw [State.tokenDone_cell, hcell]
  exact ⟨rfl, hround, rfl, rfl⟩
/-- SWAP at a cell with a READY bank of an image that has not ended. -/
theorem token_isHeld (hk : k.act = .swap) (hr : s.cell.plane.idle = .ready) (he : s.cell.plane.ended = false) :
    ∃ (t : State) (r : Part), exec (.roundEndToken c) s = .next t ∧ t.cell = s.cell ∧ part t p = some r ∧
      r.token = some { k with left := k.left.filter (· != c.toNat), held := c.toNat :: k.held } := by
  obtain ⟨q, hq, hqk⟩ := State.tokenAt_token ht
  have hpass := passCell_held (p := p) hc hk (by simp [Plane.wantsSwap, hr]) (by simp [Plane.canSwap, he])
  have hpart := State.modToken_part (fun k => { k with held := c.toNat :: k.held }) (State.tokenLeft_part (n := c.toNat) hq hqk) rfl
  refine ⟨_, { q with token := some { k with left := k.left.filter (· != c.toNat), held := c.toNat :: k.held } },
    execRoundEndToken_eq hp ht, ?_, ?_, rfl⟩
  · rw [State.tokenDone_cell, hpass]
    exact (modPart_cell ..).trans (State.tokenLeft_cell ..)
  · rw [hpass, State.tokenDone_goesOn hpart rfl (.inr (List.cons_ne_nil _ _))]
    exact hpart
/-- A cell without a load is passed by. -/
theorem token_passesBy (hl : s.cell.plane.loaded = false) (hw : k.act = .swap → s.cell.plane.idle ≠ .ready) :
    ∃ t, exec (.roundEndToken c) s = .next t ∧
      (k.act = .pause → t.cell = s.cell) ∧
      (k.act = .repeat_ → t.cell = { s.cell with
        inbox := { s.cell.inbox with sent := 0, recv := 0 }, red := { drop := s.cell.red.drop, tout := s.cell.red.tout }
        tim := s.cell.tim.newRound }) ∧
      (k.act = .swap → t.cell = { s.cell with
        inbox := { s.cell.inbox with sent := 0, recv := 0 }, red := {}, tim := s.cell.tim.newRound.swapped
        msg := { s.cell.msg with circ := [] } }) := by
  refine ⟨_, execRoundEndToken_eq hp ht, fun hk => ?_, fun hk => ?_, fun hk => ?_⟩
  · rw [State.tokenDone_cell, (passCell_pause hc hk).1, hl]
    rfl
  · rw [State.tokenDone_cell, (passCell_repeat_empty hc hk hl).1]
    rfl
  · have hn : s.cell.plane.wantsSwap = false := by simp [Plane.wantsSwap, hl, hw hk]
    rw [State.tokenDone_cell, (passCell_swap_empty hc hk hn).1]
    rfl

end

end Sys2Proof.Stated

/-- Settles O40: what the token does at a cell, for each action (`token_repeats`, `token_swaps`, `token_pauses`), and at a cell that holds it
(`token_isHeld`) or has no load (`token_passesBy`). -/
theorem tokensPass : Obligations.TokensPass := fun _ _ _ _ hc hp ht =>
  ⟨Sys2Proof.Stated.token_repeats hc hp ht, Sys2Proof.Stated.token_swaps hc hp ht, Sys2Proof.Stated.token_pauses hc hp ht,
    fun hk hr he _ => Sys2Proof.Stated.token_isHeld hc hp ht hk hr he, Sys2Proof.Stated.token_passesBy hc hp ht⟩

/-! SUPPORT. How rounds start and complete in a partition (R38, R39, R88, R89, R382): the report of a round end, a held SWAP, the start command and
the completion waves. -/

namespace Sys2Proof.Machine

/-- A bank that is cleared. -/
theorem Plane.setIdle_empty (p : Plane) : ({ p.setIdle {} with clearing := false } : Plane).idleBank = {} ∧
    ({ p.setIdle {} with clearing := false } : Plane).active = p.active ∧ (p.setIdle {}).idle = p.idle := by
  unfold Plane.setIdle Plane.active Plane.idleBank
  cases p.act <;> exact ⟨rfl, rfl, rfl⟩

section
variable {s : State} {p : Nat}

/-- The passage of a token that the cell does not hold. -/
theorem passCell_keepsRound {n : Nat} {k : Token} (hn : s.cur = n)
    (hs : k.act = .swap → s.cell.plane.wantsSwap = true → s.cell.plane.canSwap = true) :
    (s.tokenLeft p n).KeepsRound p (s.passCell p n k) := by
  cases hk : k.act with
  | repeat_ =>
    cases hl : s.cell.plane.loaded with
    | true => exact (passCell_repeat hn hk hl).2
    | false => exact (passCell_repeat_empty hn hk hl).2
  | pause => exact (passCell_pause hn hk).2
  | swap =>
    cases hw : s.cell.plane.wantsSwap with
    | true => exact (passCell_swap hn hk (hs hk hw)).2
    | false => exact (passCell_swap_empty hn hk hw).2
/-- REPORT of a round end. -/
theorem Report.word256_round (p : Nat) (n : BitVec 16) : ({ code := 0, part := p, round := n.toNat } : Report).word256 =
    BitVec.ofNat 256 (2 ^ 8 * (p % 64) + 2 ^ 16 * n.toNat) := by
  simp [Report.word256, Nat.mod_eq_of_lt n.isLt]
/-- A partition whose token, or start command, sets out to some cells. -/
def Part.sentOut (q : Part) (act : Action) (left : List Nat) (ends : Bool) : Part :=
  { q with token := some { act := act, left := left, ends := ends }, swapDue := act == .swap, startAct := none,
           wave := none, lastTot := none, srcs := [], combs := [], count := if ends then q.count + 1 else 0,
           gvt := none, faults := [] }
theorem State.sendToken_eq (s : State) (p : Nat) (act : Action) (ends : Bool) :
    s.sendToken p act ends = (modPart s p fun q => q.sentOut act (partCells s p) ends).tokenDone p := rfl
theorem sendToken_part {q : Part} (hq : part s p = some q) (act : Action) (ends : Bool) (hc : partCells s p ≠ []) :
    part (s.sendToken p act ends) p = some (q.sentOut act (partCells s p) ends) := by
  have h := part_modPart (fun q => q.sentOut act (partCells s p) ends) hq
  rw [State.sendToken_eq, State.tokenDone_goesOn h rfl (.inl hc), h]

end

end Sys2Proof.Machine

namespace Sys2Proof.Stated
open Machine

theorem roundEndsAreReported : RoundEndsAreReported := by
  intro c s p k q hc hp hq ht hs hl hh he
  obtain ⟨q', hq', hk⟩ := State.tokenAt_token ht
  obtain rfl : q = q' := Option.some.inj (hq.symm.trans hq')
  obtain ⟨hka, hkb, hkp⟩ := passCell_keepsRound (p := p) (k := k) hc hs
  obtain ⟨hta, htb⟩ := s.tokenLeft_ports p c.toNat
  obtain ⟨y, hy, hyt, hyn, hyp⟩ := hkp _ (State.tokenLeft_part (n := c.toNat) hq hk)
  obtain ⟨r, hr, hrt, hrp, hrn, hport⟩ := State.tokenDone_reports hy hyt (by simp [hl]) hh he
  have hsame := State.port_congr (hka.trans hta) (hkb.trans htb) q.port
  rw [hyp, hyn] at hport
  refine ⟨_, r, execRoundEndToken_eq hp ht, hr, hrt, hrp, by rw [hrn, hyn], ?_⟩
  rw [hport, hsame, Report.word256_round]
  exact ⟨rfl, rfl, rfl, rfl⟩

/-! ### Rounds start and complete (R38, R39, R88, R89) -/

theorem heldSwap_applies {c : Name} {s : State} {p : Nat} {q : Part} {k : Token} (hc : s.cur = c.toNat) (hp : partOfName s c.toNat = some p)
    (hq : part s p = some q) (hk : q.token = some k) (hh : k.held.contains c.toNat = true) (hs : s.cell.plane.canSwap = true)
    (hst : s.still c.toNat = true) :
    ∃ t, exec (.heldSwapApply c) s = .next t ∧ t.cell.plane.act = !s.cell.plane.act ∧ t.cell.plane.round = 0 ∧
      (t.cell.th 0).st = .running ∧ (t.cell.th 0).pc = s.cell.plane.idleBank.entry := by
  obtain ⟨u, hu⟩ : ∃ u, u = s.modToken p fun k => { k with held := k.held.filter (· != c.toNat) } := ⟨_, rfl⟩
  have hcell : u.cell = s.cell := by rw [hu]; exact modPart_cell ..
  have hcur : u.cur = c.toNat := by rw [hu]; exact (modPart_cur ..).trans hc
  obtain ⟨⟨l, e, hsw⟩, _⟩ := swapCell_slots hcur p
  have he : exec (.heldSwapApply c) s = .next ((u.swapCell p c.toNat).tokenDone p) := by
    show execHeldSwapApply c s = _
    unfold execHeldSwapApply
    simp only [hp, Option.getD_some, hq, Option.bind_some, hk, hh, getCell_cur hc, hs, hst, Bool.and_self, if_true, hu]
  obtain ⟨m, hpl⟩ := s.cell.doSwap_plane
  obtain ⟨x, h0⟩ := s.cell.doSwap_th 0
  refine ⟨_, he, ?_⟩
  rw [State.tokenDone_cell, hsw, hcell]
  exact ⟨by rw [hpl]; rfl, by rw [hpl]; rfl, congrArg Thread.st h0, congrArg Thread.pc h0⟩
theorem bank_isCleared {c : Name} {s : State} (hc : s.cur = c.toNat) (hcl : s.cell.plane.clearing = true) :
    ∃ t, exec (.bankClear c) s = .next t ∧ t.cell.plane.idleBank = {} ∧ t.cell.plane.active = s.cell.plane.active ∧
      t.cell.plane.clearing = false ∧ t.cell.plane.idle = s.cell.plane.idle := by
  obtain ⟨hidle, hactive, hst⟩ := s.cell.plane.setIdle_empty
  have he : exec (.bankClear c) s = .next (modCell s c.toNat _) := rfl
  rw [modCell_in_hand hc, if_pos hcl] at he
  exact ⟨_, he, hidle, hactive, rfl, hst⟩
theorem start_setsOut {p : PartIdx} {s : State} {q : Part} {a : Action} (hq : part s p.toNat = some q) (ha : q.startAct = some a)
    (hl : q.loaded = true) (hpa : q.paused = true) (ht : q.token = none) (hpr : q.preempt = none) (haw : s.awake p.toNat = true)
    (hc : partCells s p.toNat ≠ []) :
    ∃ (t : State) (r : Part), exec (.startCommand p) s = .next t ∧ part t p.toNat = some r ∧ r.startAct = none ∧
      r.token = some { act := a, left := partCells s p.toNat, held := [], ends := false } := by
  have he : exec (.startCommand p) s = .next (s.sendToken p.toNat a false) := by
    show execStartCommand p s = _
    unfold execStartCommand
    simp only [hq, ha, hl, hpa, ht, hpr, haw, Option.isNone_none, Bool.and_self, if_true]
  exact ⟨_, _, he, sendToken_part hq a false hc, rfl, rfl⟩
theorem wave_setsOut {p : PartIdx} {s : State} {q : Part} {n : Nat} (hq : part s p.toNat = some q) (hr : partRoot s p.toNat = some n)
    (hrun : q.running = true) (hw : q.wave = none) (hd : s.doneAt n = true) (hh : s.heldAt n = false) :
    exec (.completionWaveStart p) s = .next { s with
      parts := KM.put s.parts p.toNat { q with wave := some { left := partCells s p.toNat, sent := 0, recv := 0 } } } := by
  show execCompletionWaveStart p s = _
  unfold execCompletionWaveStart
  simp only [hq, hr, hrun, hw, hd, hh, Option.isNone_none, Bool.not_false, Bool.and_self, if_true, modPart_eq _ hq]
theorem wave_isAnswered {c : Name} {s : State} {p : Nat} {q : Part} {w : Wave} (hp : partOfName s c.toNat = some p) (hq : part s p = some q)
    (hw : q.wave = some w) (hl : w.left.contains c.toNat = true) (hd : s.doneAt c.toNat = true) (hh : s.rootHeld p c.toNat = false) :
    exec (.completionWaveAnswer c) s = .next { s with
      parts := KM.put s.parts p { q with
        wave := some
          { left := w.left.filter (· != c.toNat)
            sent := w.sent + (getCell s c.toNat).inbox.sent
            recv := w.recv + (getCell s c.toNat).inbox.recv } } } := by
  show execCompletionWaveAnswer c s = _
  unfold execCompletionWaveAnswer
  simp only [hp, Option.getD_some, hq, Option.bind_some, hw, hl, hd, hh, Bool.not_false, Bool.and_self, if_true, modPart_eq _ hq]

section
variable {p : PartIdx} {s : State} {q : Part} {w : Wave} (hq : part s p.toNat = some q) (hw : q.wave = some w) (hl : w.left = [])
  (hlq : q.lightQuiet = true) (hg : q.gvt = none) (hrun : q.running = true) (hm : s.rootMoves p.toNat = false)
include hq hw hl hlq hg hrun hm

/-- A wave that is complete: what its sums and the partition decide (R88). -/
theorem execCompletionWaveResult_eq : execCompletionWaveResult p s = .next
    (if w.sent = w.recv ∧ q.lastTot = some (w.sent, w.recv) then
      if !s.settled p.toNat then modPart s p.toNat fun q => { q with wave := none, lastTot := none }
      else if q.timed && !q.finalDone then s.gvtBegin p.toNat true else s.sendToken p.toNat q.nextAction true
    else modPart s p.toNat fun q => { q with wave := none, lastTot := some (w.sent, w.recv) }) := by
  unfold execCompletionWaveResult
  simp only [hq, hw, hl, hlq, hg, hrun, hm, List.isEmpty_nil, Bool.not_true, Option.isSome_none, Bool.or_self, if_false, Bool.false_eq_true]
theorem wave_isRemembered (h : w.sent ≠ w.recv ∨ q.lastTot ≠ some (w.sent, w.recv)) :
    exec (.completionWaveResult p) s = .next { s with
      parts := KM.put s.parts p.toNat { q with wave := none, lastTot := some (w.sent, w.recv) } } := by
  refine (execCompletionWaveResult_eq hq hw hl hlq hg hrun hm).trans (congrArg _ ?_)
  rw [if_neg (fun ⟨h1, h2⟩ => h.elim (· h1) (· h2)), modPart_eq _ hq]
theorem waves_beginAnew (h1 : w.sent = w.recv) (h2 : q.lastTot = some (w.sent, w.recv)) (hs : s.settled p.toNat = false) :
    exec (.completionWaveResult p) s = .next { s with parts := KM.put s.parts p.toNat { q with wave := none, lastTot := none } } := by
  refine (execCompletionWaveResult_eq hq hw hl hlq hg hrun hm).trans (congrArg _ ?_)
  rw [if_pos ⟨h1, h2⟩, if_pos (by rw [hs]; rfl), modPart_eq _ hq]
theorem token_isSent (h1 : w.sent = w.recv) (h2 : q.lastTot = some (w.sent, w.recv)) (hs : s.settled p.toNat = true) (ht : q.timed = false)
    (hc : partCells s p.toNat ≠ []) :
    ∃ (t : State) (r : Part), exec (.completionWaveResult p) s = .next t ∧ part t p.toNat = some r ∧
      r.token = some
        { act := if q.rounds ≠ 0 ∧ q.rounds.toNat ≤ q.count + 1 then .pause else q.action
          left := partCells s p.toNat
          held := []
          ends := true } := by
  have he : execCompletionWaveResult p s = .next (s.sendToken p.toNat q.nextAction true) := by
    refine (execCompletionWaveResult_eq hq hw hl hlq hg hrun hm).trans (congrArg _ ?_)
    rw [if_pos ⟨h1, h2⟩, if_neg (by rw [hs]; decide), if_neg (by simp [ht])]
  exact ⟨_, _, he, sendToken_part hq _ true hc, rfl⟩
theorem finalGvt_begins (h1 : w.sent = w.recv) (h2 : q.lastTot = some (w.sent, w.recv)) (hs : s.settled p.toNat = true) (ht : q.timed = true)
    (hf : q.finalDone = false) :
    ∃ (t : State) (r : Part) (g : GvtRun), exec (.completionWaveResult p) s = .next t ∧ part t p.toNat = some r ∧
      r.token = q.token ∧ r.gvt = some g ∧ g.final = true ∧ g.left = partCells s p.toNat := by
  have he : execCompletionWaveResult p s = .next (s.gvtBegin p.toNat true) := by
    refine (execCompletionWaveResult_eq hq hw hl hlq hg hrun hm).trans (congrArg _ ?_)
    rw [if_pos ⟨h1, h2⟩, if_neg (by rw [hs]; decide), if_pos (by rw [ht, hf]; rfl)]
  exact ⟨_, _, _, he, part_modPart _ hq, rfl, rfl, rfl, rfl⟩

end

theorem roundsComplete : RoundsComplete :=
  ⟨fun _ _ _ _ _ hc hp hq hk hh hs hst => heldSwap_applies hc hp hq hk hh hs hst, fun _ _ hc hcl => bank_isCleared hc hcl,
    fun _ _ _ _ hq ha hl hpa ht hpr haw hc => start_setsOut hq ha hl hpa ht hpr haw hc,
    fun _ _ _ _ hq hr hrun hw hd hh => wave_setsOut hq hr hrun hw hd hh,
    fun _ _ _ _ _ hp hq hw hl hd hh => wave_isAnswered hp hq hw hl hd hh,
    fun _ _ _ _ hq hw hl hlq hg hrun hm => ⟨wave_isRemembered hq hw hl hlq hg hrun hm, waves_beginAnew hq hw hl hlq hg hrun hm,
      token_isSent hq hw hl hlq hg hrun hm, finalGvt_begins hq hw hl hlq hg hrun hm⟩⟩

end Sys2Proof.Stated

/-- Settles O41: the report of a round end (`roundEndsAreReported`); held SWAPs, cleared banks, start commands and waves
(`roundsComplete`). -/
theorem roundsComplete : Obligations.RoundsComplete :=
  ⟨Sys2Proof.Stated.roundEndsAreReported, Sys2Proof.Stated.roundsComplete⟩

open Sys2Proof Sys2Proof.Machine Sys2Proof.Stated in
/-- Settles O53: `decodeTableWord` is run on each of the words. -/
theorem wordsOfTheManual : Obligations.WordsOfTheManual := ⟨by decide, by decide, by decide⟩

/-! SUPPORT. The choice among the eligible threads (R63): the first in an order of those whose count is the largest. -/

namespace Sys2Proof.Machine

/-- What is found first in a list that is in order comes before every other that meets the test. -/
theorem find?_before {α : Type} {r : α → α → Prop} {p : α → Bool} {l : List α} {a b : α} (hl : l.Pairwise r) (ha : l.find? p = some a)
    (hb : b ∈ l) (hp : p b = true) : a = b ∨ r a b := by
  obtain ⟨_, as, bs, rfl, hno⟩ := List.find?_eq_some_iff_append.mp ha
  rw [List.pairwise_append, List.pairwise_cons] at hl
  obtain ⟨_, ⟨hr, _⟩, _⟩ := hl
  simp only [List.mem_append, List.mem_cons] at hb
  rcases hb with hb | rfl | hb
  · have := hno b hb
    rw [hp] at this
    cases this
  · exact .inl rfl
  · exact .inr (hr b hb)

section
variable {α : Type} (f : α → Nat)

theorem foldl_max_ge_start : ∀ (l : List α) (n : Nat), n ≤ l.foldl (fun a t => Nat.max a (f t)) n
  | [], _ => Nat.le_refl _
  | t :: l, n => (Nat.le_max_left n (f t)).trans (foldl_max_ge_start l _)
theorem foldl_max_ge : ∀ (l : List α) (n : Nat), ∀ t ∈ l, f t ≤ l.foldl (fun a t => Nat.max a (f t)) n
  | u :: l, n, t, ht => by
    rcases List.mem_cons.mp ht with rfl | ht
    · exact (Nat.le_max_right n (f t)).trans (foldl_max_ge_start f l _)
    · exact foldl_max_ge l _ t ht
theorem foldl_max_attained : ∀ (l : List α) (n : Nat),
    l.foldl (fun a t => Nat.max a (f t)) n = n ∨ ∃ t ∈ l, f t = l.foldl (fun a t => Nat.max a (f t)) n
  | [], _ => .inl rfl
  | u :: l, n => by
    rcases foldl_max_attained l (Nat.max n (f u)) with h | ⟨t, ht, h⟩
    · rcases Nat.le_total n (f u) with hn | hn
      · exact .inr ⟨u, List.mem_cons_self .., (Nat.max_eq_right hn).symm.trans h.symm⟩
      · exact .inl (h.trans (Nat.max_eq_left hn))
    · exact .inr ⟨t, List.mem_cons_of_mem _ ht, h⟩
/-- The largest of some counts is one of them. -/
theorem exists_eq_foldl_max {l : List α} (hl : l ≠ []) : ∃ t ∈ l, f t = l.foldl (fun a t => Nat.max a (f t)) 0 := by
  rcases foldl_max_attained f l 0 with h | h
  · obtain ⟨t, ht⟩ := List.exists_mem_of_ne_nil l hl
    exact ⟨t, ht, (Nat.le_zero.mp (h ▸ foldl_max_ge f l 0 t ht)).trans h.symm⟩
  · exact h

end

theorem mem_tids : ∀ t : TIdx, t ∈ tids := by decide
theorem tids_increasing : tids.Pairwise (· < ·) := by decide
theorem mem_turnOrder : ∀ last t : TIdx, t ∈ turnOrder last := by decide
/-- The order of the threads goes round from the one after the last (R63). -/
theorem turnOrder_increasing : ∀ last : TIdx,
    (turnOrder last).Pairwise fun t u => (t.val + 15 - last.val) % 8 < (u.val + 15 - last.val) % 8 := by decide

section
variable {c : Cell} {l : List TIdx} {t : TIdx}

theorem Cell.choice_starved (h : ∃ u ∈ l, 16 ≤ (c.th u).starve) : c.choice l =
    tids.find? fun t => (l.filter fun t => decide (16 ≤ (c.th t).starve)).contains t &&
      (c.th t).starve == c.topStarve (l.filter fun t => decide (16 ≤ (c.th t).starve)) := by
  obtain ⟨u, hu, h16⟩ := h
  refine if_neg fun he => ?_
  have hm : u ∈ l.filter fun t => decide (16 ≤ (c.th t).starve) := List.mem_filter.mpr ⟨hu, decide_eq_true h16⟩
  rw [List.isEmpty_iff.mp he] at hm
  cases hm
theorem Cell.choice_fed (h : ∀ u ∈ l, (c.th u).starve < 16) : c.choice l =
    (turnOrder c.last).find? fun t => l.contains t && (c.th t).lvl.toNat == c.topLevel l := by
  refine if_pos (List.isEmpty_iff.mpr (List.filter_eq_nil_iff.mpr fun u hu => ?_))
  rw [decide_eq_true_eq]
  exact Nat.not_le.mpr (h u hu)
/-- Of the threads that have starved for long, the one that has starved longest, the lowest of several. -/
theorem Cell.choice_of_starved (hs : ∃ u ∈ l, 16 ≤ (c.th u).starve) (h : c.choice l = some t) : 16 ≤ (c.th t).starve ∧
    ∀ u ∈ l, (c.th u).starve ≤ (c.th t).starve ∧ ((c.th u).starve = (c.th t).starve → t ≤ u) := by
  rw [Cell.choice_starved hs] at h
  have ht := List.find?_some h
  simp only [Bool.and_eq_true, List.contains_iff_mem, List.mem_filter, decide_eq_true_eq, beq_iff_eq] at ht
  obtain ⟨⟨_, h16⟩, htop⟩ := ht
  have hle : ∀ u ∈ l, 16 ≤ (c.th u).starve → (c.th u).starve ≤ (c.th t).starve := fun u hu hu16 => by
    rw [htop]
    exact foldl_max_ge (fun t => (c.th t).starve) _ 0 u (List.mem_filter.mpr ⟨hu, decide_eq_true hu16⟩)
  refine ⟨h16, fun u hu => ⟨?_, fun he => ?_⟩⟩
  · rcases Nat.lt_or_ge (c.th u).starve 16 with hlt | hge
    · omega
    · exact hle u hu hge
  · refine (find?_before tids_increasing h (mem_tids u) ?_).elim le_of_eq le_of_lt
    simp only [Bool.and_eq_true, List.contains_iff_mem, List.mem_filter, decide_eq_true_eq, beq_iff_eq]
    exact ⟨⟨hu, he ▸ h16⟩, he.trans htop⟩
/-- Where none has, one of the highest level, the first after the thread that issued last. -/
theorem Cell.choice_of_fed (hs : ∀ u ∈ l, (c.th u).starve < 16) (h : c.choice l = some t) : ∀ u ∈ l,
    (c.th u).lvl.toNat ≤ (c.th t).lvl.toNat ∧ ((c.th u).lvl = (c.th t).lvl → (t.val + 15 - c.last.val) % 8 ≤ (u.val + 15 - c.last.val) % 8) := by
  rw [Cell.choice_fed hs] at h
  have ht := List.find?_some h
  simp only [Bool.and_eq_true, List.contains_iff_mem, beq_iff_eq] at ht
  obtain ⟨_, htop⟩ := ht
  refine fun u hu => ⟨?_, fun he => ?_⟩
  · rw [htop]
    exact foldl_max_ge (fun t => (c.th t).lvl.toNat) l 0 u hu
  · refine (find?_before (turnOrder_increasing c.last) h (mem_turnOrder _ u) ?_).elim (fun e => by rw [e]) le_of_lt
    simp only [Bool.and_eq_true, List.contains_iff_mem, beq_iff_eq]
    exact ⟨hu, he ▸ htop⟩
/-- Some thread is chosen where one is eligible. -/
theorem Cell.choice_eq_none : c.choice l = none ↔ l = [] := by
  refine ⟨fun h => Classical.not_not.mp fun hl => ?_, fun h => by subst h; exact Cell.choice_fed nofun⟩
  by_cases hs : ∃ u ∈ l, 16 ≤ (c.th u).starve
  · rw [Cell.choice_starved hs] at h
    obtain ⟨u, hu, h16⟩ := hs
    have hne : (l.filter fun t => decide (16 ≤ (c.th t).starve)) ≠ [] := List.ne_nil_of_mem (List.mem_filter.mpr ⟨hu, decide_eq_true h16⟩)
    obtain ⟨t, ht, htop⟩ := exists_eq_foldl_max (fun t => (c.th t).starve) hne
    exact List.find?_eq_none.mp h t (mem_tids t) (by simpa [Cell.topStarve] using ⟨List.mem_filter.mp ht |>.imp_right of_decide_eq_true, htop⟩)
  · have hs : ∀ u ∈ l, (c.th u).starve < 16 := fun u hu => Nat.not_le.mp fun h16 => hs ⟨u, hu, h16⟩
    rw [Cell.choice_fed hs] at h
    obtain ⟨t, ht, htop⟩ := exists_eq_foldl_max (fun t => (c.th t).lvl.toNat) hl
    exact List.find?_eq_none.mp h t (mem_turnOrder _ t) (by simpa [Cell.topLevel] using ⟨ht, htop⟩)

end

end Sys2Proof.Machine

open Sys2Proof Sys2Proof.Machine Sys2Proof.Stated in
/-- Settles O55: the choice is found in an order of the threads (`find?_before`), among those whose count is the largest (`foldl_max_ge`). -/
theorem threadChoice : Obligations.ThreadChoice := fun _ _ =>
  ⟨Cell.choice_eq_none, fun _ h => ⟨Cell.choice_mem h, fun hs => Cell.choice_of_starved hs h, fun hs => Cell.choice_of_fed hs h⟩⟩

/-! SUPPORT. Transfers of control (R91 to R93). -/

namespace Sys2Proof.Machine

theorem State.target_eq {s : State} {o : BitVec 18} {t : BitVec 10} (h : (t.toNat : Int) = s.me.pc.toNat + o.toInt) : s.target o = some t := by
  have ht := t.isLt
  unfold State.target
  dsimp only
  rw [← h, if_pos (by omega), Int.toNat_natCast, BitVec.ofNat_toNat, BitVec.setWidth_eq]

section
variable {a : Spec} {link : State → State} {s : State} {t : BitVec 10} (ha : s.anyBound [a] = false) (hc : s.me.cuts = [])
  (ht : (lane0 (s.cell.reg s.cell.last a)).toNat = t.toNat)
include ha hc ht

/-- A jump to an address of code (R92). -/
theorem jumpsTo_address : jumpsTo a link s = .goto t (link s) := by
  have hsrc : s.src0 a = lane0 (s.cell.reg s.cell.last a) := congrArg lane0 (src_reg (anyBound_false ha (List.mem_cons_self ..)) hc)
  have hlow : (lane0 (s.cell.reg s.cell.last a)).extractLsb' 0 10 = t := BitVec.eq_of_toNat_eq (by
    rw [BitVec.extractLsb'_toNat, Nat.shiftRight_zero, ht, Nat.mod_eq_of_lt t.isLt])
  have hle : ¬1023 < (lane0 (s.cell.reg s.cell.last a)).toNat := by
    have := t.isLt
    omega
  simp only [jumpsTo, streamNeed_none ha (anyBound_nil s), popAll_same ha, hsrc, hlow, if_neg hle]

end

end Sys2Proof.Machine

namespace Sys2Proof.Stated

open Machine

/-- A level that a transfer of control leaves becomes inactive, level 1 with level 0 (R93). -/
theorem sent_eq (t : BitVec 10) (w : Bool) (x : Thread) : (({ x with pp := false } : Thread).jump t).marker w = sent t w x := by
  have h0 : (if x.lp0.active && !x.lp0.holds t.toNat then ({ x.lp0 with active := false } : Loop) else x.lp0) =
      { x.lp0 with active := x.lp0.active && x.lp0.holds t.toNat } := by
    cases h : x.lp0.active <;> cases h' : x.lp0.holds t.toNat <;> simp [← h]
  have h1 : (if (x.lp1.active && !x.lp1.holds t.toNat) || (x.lp0.active && !(x.lp0.active && x.lp0.holds t.toNat)) then
      ({ x.lp1 with active := false } : Loop) else x.lp1) =
      { x.lp1 with active := x.lp1.active && x.lp1.holds t.toNat && (!x.lp0.active || (x.lp0.active && x.lp0.holds t.toNat)) } := by
    cases h : x.lp1.active <;> cases x.lp1.holds t.toNat <;> cases x.lp0.active <;> cases x.lp0.holds t.toNat <;> simp [← h]
  unfold Thread.jump
  dsimp only
  rw [h0]
  dsimp only
  rw [h1]
  rfl

section
variable {h : Hdr} {s : State}

theorem after_goto_sent (t : BitVec 10) : s.after h 1 (.goto t s) = s.modMe (sent t h.w) :=
  (after_goto ..).trans (modTh_congr (sent_eq ..))
/-- The return address is that of the next word (R91, R92). -/
theorem linkReturn_eq (x : Thread) (hx : x = s.me) : x.setReg 31 (setLane0 x.g[31] (zx64 x.pc + 1)) = linked s x := by
  have hpc : zx64 x.pc + 1 = BitVec.ofNat 64 (s.me.pc.toNat + 1) := by
    rw [hx, zx64, ← BitVec.ofNat_toNat]
    exact (BitVec.ofNat_add ..).symm
  have hg : x.g[31] = s.cell.reg s.cell.last 31 := by rw [hx]; rfl
  rw [hpc, hg]
  rfl
theorem after_goto_linked (t : BitVec 10) : s.after h 1 (.goto t s.linkReturn) = s.modMe fun x => sent t h.w (linked s x) := by
  rw [after_goto, State.linkReturn, modMe_modMe]
  exact modTh_congr ((sent_eq ..).trans (congrArg (sent t h.w) (linkReturn_eq _ rfl)))

variable (hp : Passes s h) (hb : s.inBlock = false)
include hp hb

theorem exec_offset {o : BitVec 18} {t : BitVec 10} (ht : (t.toNat : Int) = s.me.pc.toNat + o.toInt) :
    exec (.br h o) s = .next (s.modMe (sent t h.w)) ∧ exec (.call h o) s = .next (s.modMe fun x => sent t h.w (linked s x)) := by
  obtain ⟨hg, hpp, _⟩ := hp
  have hi : (s.inBlock || (s.target o).isNone) = false := by rw [hb, State.target_eq ht]; rfl
  constructor
  · refine (issue_passes hi (.inr hpp) hg).trans ?_
    rw [State.target_eq ht]
    exact congrArg _ (after_goto_sent t)
  · refine (issue_passes hi (.inr hpp) hg).trans ?_
    rw [State.target_eq ht]
    exact congrArg _ (after_goto_linked t)
theorem exec_register {a : Spec} {t : BitVec 10} (hs : srcOk a = true) (ha : s.anyBound [a] = false) (ht : (lane s a).toNat = t.toNat) :
    exec (.jmp h a) s = .next (s.modMe (sent t h.w)) ∧ exec (.ret h a) s = .next (s.modMe (sent t h.w)) ∧
      exec (.callr h a) s = .next (s.modMe fun x => sent t h.w (linked s x)) := by
  obtain ⟨hg, hpp, hc⟩ := hp
  have hi : (s.inBlock || !srcOk a) = false := by rw [hb, hs]; rfl
  have hj : issue h 1 false (fun s => s.inBlock || !srcOk a) (jumpsTo a id) s = .next (s.modMe (sent t h.w)) := by
    rw [issue_passes hi (.inr hpp) hg, jumpsTo_address ha hc ht]
    exact congrArg _ (after_goto_sent t)
  refine ⟨hj, hj, (issue_passes hi (.inr hpp) hg).trans ?_⟩
  rw [jumpsTo_address ha hc ht]
  exact congrArg _ (after_goto_linked t)

end

end Sys2Proof.Stated

open Sys2Proof Sys2Proof.Machine Sys2Proof.Stated in
/-- Settles O6: BR and CALL by their offset (`exec_offset`), JMP, RET and CALLR by their register (`exec_register`). -/
theorem branches : Obligations.Branches := fun _ _ hp hb =>
  ⟨fun _ _ ht => exec_offset hp hb ht, fun _ _ hs ha ht => exec_register hp hb hs ha ht⟩

/-! SUPPORT. An operation on the cell in hand leaves that cell in hand; the events that find their own cell (R65, R70, R79, R80, R83,
R99, R182, R350). -/

namespace Sys2Proof.Machine

/-! ### The cell in hand stays in hand -/

section
variable (s : State)

@[simp] theorem State.modInbox_cur (f : Inbox → Inbox) : (s.modInbox f).cur = s.cur := rfl
@[simp] theorem State.inject_cur (p : Pkt) (vc : BitVec 2) : (s.inject p vc).cur = s.cur := by
  unfold State.inject
  split <;> rfl
@[simp] theorem State.dispose_cur (p : Pkt) (d : Disposal) : (s.dispose p d).cur = s.cur := by
  cases d with
  | refuse => exact State.inject_cur ..
  | _ => rfl
@[simp] theorem State.raise_cur (ch : BitVec 6) (v : V256) : (s.raise ch v).cur = s.cur := by
  unfold State.raise
  dsimp only
  split
  · exact State.dispose_cur ..
  split
  · exact State.dispose_cur ..
  split
  · exact State.dispose_cur ..
  · rfl
@[simp] theorem State.raise61_cur (v : V256) : (s.raise61 v).cur = s.cur := by
  unfold State.raise61
  split
  · exact State.raise_cur ..
  · rfl
@[simp] theorem State.further61_cur (v : V256) : (s.further61 v).cur = s.cur := by
  unfold State.further61
  split <;> exact State.raise61_cur ..
@[simp] theorem State.eccEvent_cur : s.eccEvent.cur = s.cur := State.further61_cur ..
@[simp] theorem State.reportFault_cur (t : TIdx) (r : FaultRec) : (s.reportFault t r).cur = s.cur := by
  unfold State.reportFault
  split
  · rfl
  split
  · rfl
  · exact State.raise_cur ..
@[simp] theorem State.takeFault_cur (t : TIdx) (r : FaultRec) : (s.takeFault t r).cur = s.cur := State.reportFault_cur ..
@[simp] theorem State.enterFault_cur (t : TIdx) (r : FaultRec) : (s.enterFault t r).cur = s.cur := by
  unfold State.enterFault
  dsimp only
  split
  · split
    · exact (State.takeFault_cur ..).trans (State.takeFault_cur ..)
    · exact State.takeFault_cur ..
  · exact State.takeFault_cur ..
theorem foldl_cur {α : Type} {f : State → α → State} (hf : ∀ s a, (f s a).cur = s.cur) : ∀ (l : List α) (s : State), (l.foldl f s).cur = s.cur
  | [], _ => rfl
  | a :: l, s => (foldl_cur hf l (f s a)).trans (hf s a)
@[simp] theorem State.forgetStreams_cur (t : TIdx) : (s.forgetStreams t).cur = s.cur :=
  foldl_cur (fun s n => by split <;> rfl) _ s
@[simp] theorem State.finish_cur (t : TIdx) (f : Finish) : (s.finish t f).cur = s.cur := by
  cases f with
  | fault r => exact State.enterFault_cur ..
  | kill clear =>
    cases clear
    · rfl
    · exact State.forgetStreams_cur ..
  | blockEnd =>
    unfold State.finish
    dsimp only
    split <;> simp_all [apply_ite State.cur]
  | _ =>
    unfold State.finish
    dsimp only
    split <;> simp_all
@[simp] theorem State.leadOn_cur (f : Finish) : (s.leadOn f).cur = s.cur := by
  unfold State.leadOn
  split
  · split
    · exact State.finish_cur ..
    · rfl
  · rfl
@[simp] theorem State.settle_cur (t : TIdx) : (s.settle t).cur = s.cur := by
  unfold State.settle
  split
  · split
    · exact (State.leadOn_cur ..).trans (State.finish_cur ..)
    · rfl
  · split <;> rfl
  · rfl
@[simp] theorem State.settleAll_cur (l : List TIdx) : (s.settleAll l).cur = s.cur := foldl_cur (fun s t => State.settle_cur s t) l s
@[simp] theorem State.padStore_cur (a n v : Nat) : (s.padStore a n v).cur = s.cur := State.settleAll_cur ..
@[simp] theorem State.fault_cur (t : TIdx) (r : FaultRec) : (s.fault t r).cur = s.cur := State.settle_cur ..
@[simp] theorem State.fall_cur (t : TIdx) (len : Nat) (w : Bool) : (s.fall t len w).cur = s.cur := State.settle_cur ..

end

/-! ### Events of a cell -/

section
variable (s : State)

@[simp] theorem State.fromBuffer_cur (l : List Pkt) {drop : State → State} (h : (drop s).cur = s.cur) : (s.fromBuffer l drop).cur = s.cur := by
  cases l with
  | nil => rfl
  | cons p l =>
    unfold State.fromBuffer
    dsimp only
    split
    · rfl
    · exact (State.dispose_cur ..).trans h
@[simp] theorem State.depositOne_cur : s.depositOne.cur = s.cur := by
  unfold State.depositOne
  split
  · exact State.padStore_cur ..
  · rfl
@[simp] theorem State.grantLease_cur (r : LeaseReq) : (s.grantLease r).cur = s.cur := State.settle_cur ..
@[simp] theorem State.grantAll_cur (l : List LeaseReq) (older : List (BitVec 4)) : (s.grantAll l older).cur = s.cur := by
  induction l generalizing s older with
  | nil => rfl
  | cons r l ih =>
    unfold State.grantAll
    split
    · exact (ih ..).trans (State.grantLease_cur ..)
    · exact ih ..

end

theorem focus_n_cur (s : State) (n : Nat) : (focus s n).cur = n := by
  unfold focus
  split
  · assumption
  · rfl

/-- What an event does with its cell in hand leaves that cell in hand. -/
def StaysAt (e : Instr) (c : Name) : Prop := ∃ f : State → State, (∀ s, exec e s = .next (within s c.toNat f)) ∧ ∀ s, (f s).cur = s.cur

/-- Such an event takes effect as if its cell were in hand. -/
theorem StaysAt.finds_cell {e : Instr} {c : Name} (h : StaysAt e c) (s : State) :
    ∃ t, exec e (focus s c.toNat) = .next t ∧ exec e s = .next (focus t s.cur) := by
  obtain ⟨f, he, hf⟩ := h
  refine ⟨f (focus s c.toNat), (he _).trans (congrArg _ ?_), he s⟩
  have hc := within_cur (hf (focus s c.toNat))
  rwa [focus_n_cur] at hc

section
variable (c : Name) (u : TIdx) (k : Nat)

theorem longLatencyWriteback_staysAt : StaysAt (Instr.longLatencyWriteback c u k) c := by
  refine ⟨_, fun s => rfl, fun s => ?_⟩
  dsimp only
  split
  · exact (State.settle_cur ..).trans (State.settle_cur ..)
  · split
    · rfl
    · refine ((State.settle_cur ..).trans (State.settle_cur ..)).trans ?_
      split <;> rfl
theorem bcastDelivery_staysAt : StaysAt (Instr.bcastDelivery c) c := by
  refine ⟨_, fun s => rfl, fun s => ?_⟩
  dsimp only
  split
  · split
    · rfl
    split
    · exact State.fault_cur ..
    split
    · exact State.fall_cur ..
    · rfl
  · rfl
theorem joinmComplete_staysAt : StaysAt (Instr.joinmComplete c) c := by
  refine ⟨_, fun s => rfl, fun s => ?_⟩
  split
  · split
    · exact State.fall_cur ..
    · rfl
  · rfl
theorem spillQueueBind_staysAt : StaysAt (Instr.spillQueueBind c) c := by
  refine ⟨_, fun s => rfl, fun s => ?_⟩
  dsimp only
  split
  · rfl
  split
  · exact State.dispose_cur ..
  split
  · split
    · exact State.eccEvent_cur _
    · rfl
  · rfl
theorem ingressToSpill_staysAt : StaysAt (Instr.ingressToSpill c) c := by
  refine ⟨_, fun s => rfl, fun s => ?_⟩
  split
  · exact State.depositOne_cur s
  split
  · rfl
  split
  · split <;> exact State.fromBuffer_cur s _ rfl
  · exact State.fromBuffer_cur s _ rfl
theorem latchedEventEntry_staysAt : StaysAt (Instr.latchedEventEntry c) c := by
  refine ⟨_, fun s => rfl, fun s => ?_⟩
  split
  · rfl
  · split <;> rfl
theorem depositComplete_staysAt : StaysAt (Instr.depositComplete c u) c := ⟨_, fun _ => rfl, fun _ => rfl⟩
theorem leaseGrant_staysAt : StaysAt (Instr.leaseGrant c) c := by
  refine ⟨_, fun s => rfl, fun s => (State.grantAll_cur ..).trans ?_⟩
  split
  · exact State.fault_cur ..
  · rfl
theorem drowsyEntry_staysAt : StaysAt (Instr.drowsyEntry c) c := by
  refine ⟨_, fun s => rfl, fun s => ?_⟩
  split <;> rfl

end

end Sys2Proof.Machine

open Sys2Proof Sys2Proof.Machine in
/-- Settles O60: what each of the nine events does with its cell in hand leaves that cell in hand. -/
theorem eventsFindTheirCell : Obligations.EventsFindTheirCell := by
  intro c u k s e he
  refine StaysAt.finds_cell ?_ s
  simp only [List.mem_cons, List.not_mem_nil, or_false] at he
  rcases he with rfl | rfl | rfl | rfl | rfl | rfl | rfl | rfl | rfl
  · exact longLatencyWriteback_staysAt ..
  · exact bcastDelivery_staysAt ..
  · exact joinmComplete_staysAt ..
  · exact spillQueueBind_staysAt ..
  · exact ingressToSpill_staysAt ..
  · exact latchedEventEntry_staysAt ..
  · exact depositComplete_staysAt ..
  · exact leaseGrant_staysAt ..
  · exact drowsyEntry_staysAt ..

/-! SUPPORT. Blocks and joins (R70, R97 to R99): the threads of a mask, each changed once; what BCAST, FETCHB, JOINM and their deliveries
leave. -/

namespace Sys2Proof.Machine

/-! ### An event whose cell is in hand -/

theorem within_inHand {s : State} {n : Nat} {f : State → State} (hn : s.cur = n) (h : (f s).cur = s.cur) : within s n f = f s := by
  rw [← hn, within_cur h]

/-! ### The threads of a mask (R97, R99) -/

theorem mem_maskThreads {m : BitVec 7} {u : TIdx} : u ∈ maskThreads m ↔ inMask m u = true := by
  have hm : ∀ u : TIdx, u ≠ 0 → u ∈ micro := by decide
  rw [maskThreads, List.mem_filter]
  exact ⟨And.right, fun h => ⟨hm u (by rintro rfl; cases h), h⟩⟩
theorem maskThreads_nodup (m : BitVec 7) : (maskThreads m).Nodup := List.Nodup.filter _ (by decide)
theorem maskThreads_any {m : BitVec 7} {p : TIdx → Bool} (h : ∀ u : TIdx, inMask m u = true → p u = false) : (maskThreads m).any p = false :=
  List.any_eq_false.mpr fun u hu => by rw [h u (mem_maskThreads.mp hu)]; decide
theorem maskThreads_all {m : BitVec 7} {p : TIdx → Bool} : (maskThreads m).all p = true ↔ ∀ u : TIdx, inMask m u = true → p u = true := by
  rw [List.all_eq_true]
  exact forall_congr' fun u => by rw [mem_maskThreads]
theorem Cell.joined_iff {c : Cell} {m : BitVec 7} : c.joined m = true ↔
    ∀ u : TIdx, inMask m u = true → (c.th u).st = .free ∨ (c.th u).st = .stopped ∨ (c.th u).st = .faulted := by
  rw [Cell.joined, maskThreads_all]
  simp only [Bool.or_eq_true, beq_iff_eq, or_assoc]

section
variable {f : Thread → Thread}

/-- Some threads take a change, each once; the others stay. -/
theorem Cell.th_foldl_modTh (u : TIdx) : ∀ (l : List TIdx) (c : Cell), l.Nodup →
    (l.foldl (fun c t => c.modTh t f) c).th u = if u ∈ l then f (c.th u) else c.th u
  | [], _, _ => by simp
  | t :: r, c, hl => by
    obtain ⟨ht, hr⟩ := List.nodup_cons.mp hl
    rw [List.foldl_cons, Cell.th_foldl_modTh u r (c.modTh t f) hr]
    by_cases e : t = u
    · subst e
      simp [ht]
    · rw [Cell.th_modTh_other _ _ e]
      simp [Ne.symm e]
theorem Cell.th_maskThreads (c : Cell) (m : BitVec 7) (u : TIdx) :
    ((maskThreads m).foldl (fun c t => c.modTh t f) c).th u = if inMask m u = true then f (c.th u) else c.th u := by
  rw [Cell.th_foldl_modTh u _ _ (maskThreads_nodup m)]
  simp only [mem_maskThreads]
theorem Cell.foldl_modTh_last : ∀ (l : List TIdx) (c : Cell), (l.foldl (fun c t => c.modTh t f) c).last = c.last
  | [], _ => rfl
  | _ :: r, _ => Cell.foldl_modTh_last r _

end

/-- The delivery changes no plane, so that each target takes its block from the same one (R70). -/
theorem Cell.foldl_delivered (b : BitVec 10) (len : BitVec 3) (p : Plane) : ∀ (l : List TIdx) (c : Cell), c.plane = p →
    l.foldl (fun c t => c.modTh t (·.delivered c.plane.active.code b len c.plane.active.lprio)) c =
      l.foldl (fun c t => c.modTh t (·.delivered p.active.code b len p.active.lprio)) c
  | [], _, _ => rfl
  | t :: r, c, h => by
    subst h
    exact Cell.foldl_delivered b len _ r _ rfl

section
variable {c : Cell} {m : BitVec 7} {d : Spec}

/-- What a join leaves of T0 (R99). -/
theorem Cell.join_lead (free : Bool) (hd : c.bound 0 d = none) : (c.join m d free).th 0 =
    (c.th 0).setReg d (setLane0 (if d = 0x2E then 0 else c.reg 0 d) (BitVec.ofNat 64 (c.faultedMask m))) := by
  simp only [Cell.join, Cell.write, Cell.resVal, hd]
  cases free
  · exact (congrArg (Cell.th · 0) (if_neg Bool.false_ne_true)).trans (Cell.th_modTh_same ..)
  · exact (Cell.th_maskThreads ..).trans (Cell.th_modTh_same ..)
/-- What it leaves of the others: with FREE, those of the mask that were stopped are free. -/
theorem Cell.join_other (free : Bool) (hd : c.bound 0 d = none) {u : TIdx} (hu : u ≠ 0) : (c.join m d free).th u =
    if free = true ∧ inMask m u = true ∧ (c.th u).st = .stopped then { c.th u with st := .free } else c.th u := by
  simp only [Cell.join, Cell.write, Cell.resVal, hd]
  cases free
  · simpa using Cell.th_modTh_other _ _ hu.symm
  · refine (Cell.th_maskThreads ..).trans ?_
    rw [Cell.th_modTh_other _ _ hu.symm]
    by_cases hm : inMask m u = true <;> by_cases hs : (c.th u).st = .stopped <;> simp [hm, hs]
theorem Cell.join_last (free : Bool) (hd : c.bound 0 d = none) : (c.join m d free).last = c.last := by
  simp only [Cell.join, Cell.write, hd]
  cases free
  · rfl
  · exact Cell.foldl_modTh_last ..

end

end Sys2Proof.Machine

namespace Sys2Proof.Stated

open Machine

/-! ### BCAST, JOINM and FETCHB as they issue -/

theorem after_hold (s s' : State) (h : Hdr) (len : Nat) (st : TState) (w : Wait) :
    s.after h len (.hold st w s') = s'.modMe fun x => { x with pp := false, st := st, wait := w, wmark := h.w } := by
  simp [State.after, State.usePfx, State.modMe]

section
variable {h : Hdr} {s : State} (hp : Passes s h)
include hp

theorem bcast_parks {m : BitVec 7} {len : BitVec 3} {off : BitVec 8} (hl : s.cell.last = 0) (hm : m ≠ 0) (ho : off ≠ 0)
    (hpc : s.me.pc.toNat + off.toNat + len.toNat ≤ 1023) (hf : ∀ u : TIdx, inMask m u = true → (s.cell.th u).st ≠ .faulted) :
    exec (.bcast h m len off) s = .next (s.modMe fun x =>
      { x with pp := false, st := .parked, wait := .bcast m (x.pc + BitVec.ofNat 10 off.toNat) len, wmark := h.w }) := by
  obtain ⟨hg, hpp, _⟩ := hp
  have hi : (!s.isLead || m == 0 || off == 0 || decide (1023 < s.me.pc.toNat + off.toNat + len.toNat)) = false := by
    simp [State.isLead, hl, Nat.not_lt.mpr hpc]
    exact ⟨hm, ho⟩
  have hn : (maskThreads m).any (fun t => (s.cell.th t).st == .faulted) = false :=
    maskThreads_any fun u hu => beq_eq_false_iff_ne.mpr (hf u hu)
  refine (issue_passes hi (.inr hpp) hg).trans (congrArg _ ?_)
  simp only [hn, Bool.false_eq_true, if_false]
  rw [after_hold]
  refine modTh_congr ?_
  rw [BitVec.ofNat_toNat]
  rfl
theorem fetchb_takesBlock {a : Spec} {b : BitVec 10} {len : BitVec 3} (hl : s.cell.last ≠ 0) (hb : s.me.inb = true) (ha : srcOk a = true)
    (hab : s.anyBound [a] = false) (hpc : s.me.pc.toNat = s.me.blkAt.toNat + s.me.blkLen.toNat) (hlo : (lane s a).setWidth 10 = b)
    (hhi : (lane s a).extractLsb' 10 3 = len) (hle : b.toNat + len.toNat ≤ 1023) :
    exec (.fetchb h a) s = .next (s.modMe fun x =>
      (({ x.takeBlock s.cell.plane.active.code b len with pp := false } : Thread).jump b).marker h.w) := by
  obtain ⟨hg, hpp, hc⟩ := hp
  have hi : (!s.inBlock || !srcOk a || s.me.pc.toNat != s.me.blkAt.toNat + s.me.blkLen.toNat) = false := by
    simp [State.inBlock, hl, hb, ha, hpc]
  have hsrc : s.src0 a = lane s a := congrArg lane0 (src_reg (anyBound_false hab (List.mem_cons_self ..)) hc)
  have hlo' : (lane s a).extractLsb' 0 10 = b := hlo
  refine (issue_passes hi (.inr hpp) hg).trans (congrArg _ ?_)
  simp only [streamNeed_none hab (anyBound_nil s), popAll_same hab, hsrc, hlo', hhi, if_neg (Nat.not_lt.mpr hle)]
  rw [after_goto, modMe_modMe]

section
variable {d a : Spec} {m : BitVec 7} (hl : s.cell.last = 0) (hd : dstOk d = true) (ha : srcOk a = true) (hab : s.anyBound [d, a] = false)
  (hm : (lane s a).setWidth 7 = m)
include hl hd ha hab hm

/-- What JOINM and JOINM.F do: join at once, or park. -/
theorem joins_eq (free : Bool) : joins h d a free s = .next (s.after h 1
    (if s.cell.joined m then .done (modFocus s (·.join m d free)) else .hold .parked (.joinm m d free) s)) := by
  obtain ⟨hg, hpp, hc⟩ := hp
  have hi : (!s.isLead || !okSpecs [d] [a]) = false := by simp [State.isLead, hl, okSpecs, hd, ha]
  have hba : s.anyBound [a] = false := by
    simp only [State.anyBound, List.any_cons, Bool.or_eq_false_iff] at hab ⊢
    exact hab.2
  have hbd : s.anyBound [d] = false := by
    simp only [State.anyBound, List.any_cons, Bool.or_eq_false_iff, List.any_nil] at hab ⊢
    exact ⟨hab.1, trivial⟩
  have hsrc : (s.src0 a).extractLsb' 0 7 = m := by
    rw [← hm]
    exact congrArg (fun v => (lane0 v).extractLsb' 0 7) (src_reg (anyBound_false hba (List.mem_cons_self ..)) hc)
  refine (issue_passes hi (.inr hpp) hg).trans ?_
  simp only [streamNeed_none hba hbd, popAll_same hba, hsrc]
theorem joins_parks (free : Bool)
    (hu : ∃ u : TIdx, inMask m u = true ∧ (s.cell.th u).st ≠ .free ∧ (s.cell.th u).st ≠ .stopped ∧ (s.cell.th u).st ≠ .faulted) :
    joins h d a free s = .next (s.modMe fun x => { x with pp := false, st := .parked, wait := .joinm m d free, wmark := h.w }) := by
  have hj : ¬s.cell.joined m = true := by
    obtain ⟨u, hu, h1, h2, h3⟩ := hu
    rw [Cell.joined_iff]
    exact fun h => (h u hu).elim h1 fun h => h.elim h2 h3
  rw [joins_eq hp hl hd ha hab hm, if_neg hj, after_hold]
theorem joins_goesOn {pc : BitVec 10} {l0 l1 : Loop} (free : Bool) (hf : Follows s 1 pc l0 l1)
    (hu : ∀ u : TIdx, inMask m u = true → (s.cell.th u).st = .free ∨ (s.cell.th u).st = .stopped ∨ (s.cell.th u).st = .faulted) :
    ∃ t, joins h d a free s = .next t ∧
      t.me = goes pc l0 l1 h.w (s.me.setReg d (setLane0 (held s d) (BitVec.ofNat 64 (s.cell.faultedMask m)))) ∧
      ∀ u : TIdx, u ≠ 0 → t.cell.th u =
        if free = true ∧ inMask m u = true ∧ (s.cell.th u).st = .stopped then { s.cell.th u with st := .free } else s.cell.th u := by
  have hbd : s.cell.bound 0 d = none := hl ▸ anyBound_false hab (List.mem_cons_self ..)
  have hlast : (s.cell.join m d free).last = 0 := (Cell.join_last free hbd).trans hl
  have hme : (modFocus s (·.join m d free)).me = s.me.setReg d (setLane0 (held s d) (BitVec.ofNat 64 (s.cell.faultedMask m))) := by
    simp only [State.me, held, hl]
    exact (congrArg (s.cell.join m d free).th hlast).trans (Cell.join_lead free hbd)
  have hn : (modFocus s (·.join m d free)).me.next ((modFocus s (·.join m d free)).me.pc.toNat + 1 - 1) = .at_ pc l0 l1 := by
    rw [hme, setReg_next, Thread.setReg_pc]
    exact hf
  refine ⟨_, joins_eq hp hl hd ha hab hm free, ?_⟩
  rw [if_pos (Cell.joined_iff.mpr hu), after_done (hlast.trans hl.symm) hn]
  refine ⟨(modMe_me ..).trans ?_, fun u hu => (Cell.th_modTh_other _ _ ?_).trans (Cell.join_other free hbd hu)⟩
  · rw [hme]
    rfl
  · exact fun e => hu (e.symm.trans hlast)

end

end

theorem blockControl : Sys2Proof.Stated.BlockControl := by
  intro h s hp
  refine ⟨fun m len off hl hm ho hpc hf => bcast_parks hp hl hm ho hpc hf, fun d a m pc l0 l1 hl hd ha hab hm hf => ⟨fun hu => ⟨?_, ?_⟩, fun hu => ?_⟩,
    fun a b len hl hb ha hab hpc hlo hhi hle => ?_⟩
  · obtain ⟨t, he, hme, ho⟩ := joins_goesOn hp hl hd ha hab hm false hf hu
    exact ⟨t, he, hme, fun u hu => (ho u hu).trans (if_neg fun h => nomatch h.1)⟩
  · obtain ⟨t, he, hme, ho⟩ := joins_goesOn hp hl hd ha hab hm true hf hu
    exact ⟨t, he, hme, fun u hu => (ho u hu).trans (by simp only [true_and])⟩
  · exact ⟨joins_parks hp hl hd ha hab hm false hu, joins_parks hp hl hd ha hab hm true hu⟩
  · refine ⟨_, fetchb_takesBlock hp hl hb ha hab hpc hlo hhi hle, ?_⟩
    rw [modMe_me]
    refine ⟨by simp [Thread.takeBlock], by simp [Thread.takeBlock], by simp [Thread.jump], by simp [Thread.takeBlock, hb], by simp [Thread.takeBlock], fun i hi => ?_,
      fun u hu => Cell.th_modTh_other _ _ hu.symm⟩
    simp [Thread.takeBlock, hi]

/-! ### The delivery of a block, the completion of a join -/

section
variable {c : Name} {s : State} {pc : BitVec 10} {l0 l1 : Loop} (hc : s.cur = c.toNat)
  (hn : (s.cell.th 0).next ((s.cell.th 0).pc.toNat) = .at_ pc l0 l1)
include hc hn

theorem block_isDelivered {m : BitVec 7} {b : BitVec 10} {len : BitVec 3} (hh : s.heldAt c.toNat = false) (hw : (s.cell.th 0).wait = .bcast m b len)
    (hu : ∀ u : TIdx, inMask m u = true → (s.cell.th u).st = .free ∨ (s.cell.th u).st = .stopped) :
    ∃ t, exec (.bcastDelivery c) s = .next t ∧
      t.cell.th 0 = ({ s.cell.th 0 with pc := pc, lp0 := l0, lp1 := l1 } : Thread).marker (s.cell.th 0).wmark ∧
      ∀ u : TIdx, u ≠ 0 → t.cell.th u =
        if inMask m u = true then (s.cell.th u).delivered s.cell.plane.active.code b len s.cell.plane.active.lprio else s.cell.th u := by
  have hany : (maskThreads m).any (fun t => (s.cell.th t).st == .faulted) = false :=
    maskThreads_any fun u hm => by rcases hu u hm with h | h <;> rw [h] <;> rfl
  have hall : (maskThreads m).all (fun t => (s.cell.th t).st == .free || (s.cell.th t).st == .stopped) = true :=
    maskThreads_all.mpr fun u hm => by rcases hu u hm with h | h <;> rw [h] <;> rfl
  let t := modFocus s fun c => (maskThreads m).foldl (fun c t => c.modTh t (·.delivered s.cell.plane.active.code b len s.cell.plane.active.lprio)) c
  have ht (u : TIdx) : t.cell.th u = if inMask m u = true then
      (s.cell.th u).delivered s.cell.plane.active.code b len s.cell.plane.active.lprio else s.cell.th u := Cell.th_maskThreads ..
  have h0 : t.cell.th 0 = s.cell.th 0 := ht 0
  have he : exec (.bcastDelivery c) s = .next (t.fall 0 1 (s.cell.th 0).wmark) := by
    refine congrArg Host.Outcome.next ((within_inHand hc ?_).trans ?_)
    · simp only [hw, hh, hany, hall, Bool.false_eq_true, if_false, if_true]
      exact State.fall_cur ..
    · simp only [hw, hh, hany, hall, Bool.false_eq_true, if_false, if_true]
      exact congrArg (fun c => ({ s with cell := c } : State).fall 0 1 (s.cell.th 0).wmark) (Cell.foldl_delivered b len _ _ s.cell rfl)
  refine ⟨_, he, ?_⟩
  rw [fall_at (pc := pc) (l0 := l0) (l1 := l1) (by rw [h0]; exact hn), State.modTh_cell]
  refine ⟨(Cell.th_modTh_same ..).trans (by rw [h0]), fun u hu => (Cell.th_modTh_other _ _ hu.symm).trans (ht u)⟩
theorem join_completes {m : BitVec 7} {d : Spec} {free : Bool} (hw : (s.cell.th 0).wait = .joinm m d free) (hd : s.cell.bound 0 d = none)
    (hu : ∀ u : TIdx, inMask m u = true → (s.cell.th u).st = .free ∨ (s.cell.th u).st = .stopped ∨ (s.cell.th u).st = .faulted) :
    ∃ t, exec (.joinmComplete c) s = .next t ∧
      t.cell.th 0 = (({ (s.cell.th 0).setReg d (setLane0 (if d = 0x2E then 0 else s.cell.reg 0 d)
          (BitVec.ofNat 64 (s.cell.faultedMask m))) with pc := pc, lp0 := l0, lp1 := l1 } : Thread).marker (s.cell.th 0).wmark) ∧
      ∀ u : TIdx, u ≠ 0 → t.cell.th u =
        if free = true ∧ inMask m u = true ∧ (s.cell.th u).st = .stopped then { s.cell.th u with st := .free } else s.cell.th u := by
  have h0 := Cell.join_lead (m := m) free hd
  have he : exec (.joinmComplete c) s = .next ((modFocus s (·.join m d free)).fall 0 1 (s.cell.th 0).wmark) := by
    refine congrArg Host.Outcome.next ((within_inHand hc ?_).trans ?_)
    · simp only [hw, Cell.joined_iff.mpr hu, if_true]
      exact State.fall_cur ..
    · simp only [hw, Cell.joined_iff.mpr hu, if_true]
  refine ⟨_, he, ?_⟩
  rw [fall_at (pc := pc) (l0 := l0) (l1 := l1) (by rw [modFocus_cell, h0, setReg_next, Thread.setReg_pc]; exact hn), State.modTh_cell]
  refine ⟨(Cell.th_modTh_same ..).trans (by rw [modFocus_cell, h0]), fun u hu => (Cell.th_modTh_other _ _ hu.symm).trans (Cell.join_other free hd hu)⟩

end

theorem blocksAndJoins : Sys2Proof.Stated.BlocksAndJoins := by
  intro c s pc l0 l1 hc hh hn
  refine ⟨fun m b len hw hu => ?_, fun m d free hw hd hu => join_completes hc hn hw hd hu⟩
  obtain ⟨t, he, h0, ho⟩ := block_isDelivered hc hn hh hw hu
  refine ⟨t, he, h0, fun u hu => ⟨fun hm => (ho u hu).trans (if_neg (by rw [hm]; decide)), fun hm => ?_⟩⟩
  rw [ho u hu, if_pos hm]
  refine ⟨rfl, rfl, rfl, rfl, rfl, rfl, rfl, fun i hi => ?_, rfl, rfl, rfl⟩
  simp [Thread.delivered, Thread.takeBlock, hi]

end Sys2Proof.Stated

/-- Settles O9: BCAST, JOINM and FETCHB as they issue (`blockControl`); the delivery and the completion (`blocksAndJoins`). -/
theorem blocksAndJoins : Obligations.BlocksAndJoins := ⟨Sys2Proof.Stated.blockControl, Sys2Proof.Stated.blocksAndJoins⟩

/-! SUPPORT. Taking an exception (R97, R365 to R371): the record and the payload as numbers, what the report of a fault leaves of a thread. -/

namespace Sys2Proof.Machine

/-! ### The record and the payload of channel 62 (Table 16.2, R369) -/

theorem FaultRec.word_eq (r : FaultRec) : r.word = BitVec.ofNat 17
    (r.cause.toNat + 2 ^ 8 * r.info.toNat + 2 ^ 14 * (if r.defer then 1 else 0) + 2 ^ 15 + 2 ^ 16 * (if r.endd then 1 else 0)) := by
  have hc := r.cause.isLt
  have hi := r.info.isLt
  apply BitVec.eq_of_toNat_eq
  simp only [FaultRec.word, append_toNat, BitVec.toNat_ofNat, BitVec.toNat_ofBool]
  cases r.endd <;> cases r.defer <;> simp only [Bool.toNat_true, Bool.toNat_false, if_true, if_false, Bool.false_eq_true] <;> omega
theorem FaultRec.event_eq (r : FaultRec) (t : TIdx) : r.event t = Stated.faultPayload t r := by
  have hc := r.cause.isLt
  have hi := r.info.isLt
  have hp := r.fpc.isLt
  have ha := r.faddr.isLt
  have ht := t.isLt
  apply BitVec.eq_of_toNat_eq
  simp only [FaultRec.event, Stated.faultPayload, ofLanes, BitVec.toNat_setWidth, append_toNat, BitVec.toNat_ofNat]
  cases r.endd <;> cases r.defer <;> simp only [if_true, if_false, Bool.false_eq_true] <;> omega

/-! ### What the report leaves -/

/-- A fault that is held, in its thread and in the timed unit (R340). -/
def Cell.faultHeld (c : Cell) (t : TIdx) : Cell :=
  { c.modTh t (fun x => { x with ftid := BitVec.ofNat 3 t.val }) with
    tim := { c.tim with run := c.tim.run.map fun x => { x with held := true } } }
theorem Cell.faultHeld_th (c : Cell) (t : TIdx) : (c.faultHeld t).th t = { c.th t with ftid := BitVec.ofNat 3 t.val } :=
  c.th_modTh_same t fun x => { x with ftid := BitVec.ofNat 3 t.val }
theorem Cell.faultHeld_th_other (c : Cell) {t w : TIdx} (h : t ≠ w) : (c.faultHeld t).th w = c.th w :=
  c.th_modTh_other (fun x => { x with ftid := BitVec.ofNat 3 t.val }) h

section
variable {s : State} {t : TIdx} {r : FaultRec}

/-- A fault that is not held, the lead's: to the controller (R370). -/
theorem State.takeFault_lead (hh : s.cell.holdsFault t = false) (hl : t = 0 ∨ r.cause = 0x07 ∨ (r.cause = 0x09 ∧ s.debug = true)) :
    s.takeFault t r = modFocus (s.recording t r) (·.leadFault t r) := by
  show (s.recording t r).reportFault t r = _
  rw [State.reportFault, if_neg (show ¬(s.recording t r).cell.holdsFault t = true from fun e => nomatch hh.symm.trans e)]
  exact if_pos hl
/-- Any other that is not held: an event on channel 62 (R369). -/
theorem State.takeFault_event (hh : s.cell.holdsFault t = false) (hl : ¬(t = 0 ∨ r.cause = 0x07 ∨ (r.cause = 0x09 ∧ s.debug = true))) :
    s.takeFault t r = modFocus ((s.recording t r).raise 62 (r.event t)) (·.stopFault) := by
  show (s.recording t r).reportFault t r = _
  rw [State.reportFault, if_neg (show ¬(s.recording t r).cell.holdsFault t = true from fun e => nomatch hh.symm.trans e)]
  exact if_neg hl
/-- One that is held (R340). -/
theorem State.takeFault_held (hh : s.cell.holdsFault t = true) : s.takeFault t r = modFocus (s.recording t r) (·.faultHeld t) := by
  show (s.recording t r).reportFault t r = _
  rw [State.reportFault]
  exact if_pos hh
theorem State.leadFault_keeps (w : TIdx) : s.Keeps (modFocus s (·.leadFault t r)) w := by
  unfold Cell.leadFault modFocus
  dsimp only
  split <;> exact ⟨rfl, rfl⟩
theorem State.stopFault_keeps (w : TIdx) : s.Keeps (modFocus s (·.stopFault)) w := ⟨Cell.stopFault_last _, Cell.stopFault_th _ _⟩
theorem State.recording_last : (s.recording t r).cell.last = s.cell.last := rfl
/-- What taking an exception leaves of its thread: its record; FTID is set where it is held. -/
theorem State.takeFault_th : (s.takeFault t r).cell.last = s.cell.last ∧
    ∃ i, (s.takeFault t r).cell.th t = { (s.cell.th t).faulted r with ftid := i } := by
  have hst : ((s.recording t r).cell.th t).st ≠ .free := by rw [State.recording_th]; nofun
  by_cases hh : s.cell.holdsFault t = true
  · rw [State.takeFault_held hh]
    exact ⟨rfl, _, (Cell.faultHeld_th ..).trans (by rw [State.recording_th])⟩
  have hh := Bool.eq_false_iff.mpr hh
  by_cases hl : t = 0 ∨ r.cause = 0x07 ∨ (r.cause = 0x09 ∧ s.debug = true)
  · rw [State.takeFault_lead hh hl]
    obtain ⟨h1, h2⟩ := State.leadFault_keeps (s := s.recording t r) (t := t) (r := r) t
    exact ⟨h1, _, h2.trans (State.recording_th ..)⟩
  · rw [State.takeFault_event hh hl]
    obtain ⟨h1, h2⟩ := (State.raise_keeps (s := s.recording t r) (.inr hst)).trans (State.stopFault_keeps t)
    exact ⟨h1, _, h2.trans (State.recording_th ..)⟩
/-- It leaves every other thread that is not free, and T0. -/
theorem State.takeFault_keeps {w : TIdx} (hw : t ≠ w) (hst : w = 0 ∨ (s.cell.th w).st ≠ .free) : s.Keeps (s.takeFault t r) w := by
  have hr := s.recording_keeps r hw
  have hst' : w = 0 ∨ ((s.recording t r).cell.th w).st ≠ .free := by rwa [hr.2]
  by_cases hh : s.cell.holdsFault t = true
  · rw [State.takeFault_held hh]
    exact hr.trans ⟨rfl, Cell.faultHeld_th_other _ hw⟩
  have hh := Bool.eq_false_iff.mpr hh
  by_cases hl : t = 0 ∨ r.cause = 0x07 ∨ (r.cause = 0x09 ∧ s.debug = true)
  · rw [State.takeFault_lead hh hl]
    exact hr.trans (State.leadFault_keeps w)
  · rw [State.takeFault_event hh hl]
    exact hr.trans ((State.raise_keeps hst').trans (State.stopFault_keeps w))

end

end Sys2Proof.Machine

namespace Sys2Proof.Stated

open Machine

section
variable {s : State} {r : FaultRec}

/-- The record that a fault leaves, the thread having stopped for it. -/
theorem recording_eq_faulting (s : State) (r : FaultRec) :
    (s.modTh s.cell.last (·.finishing (.fault r))).recording s.cell.last r = faulting s r := by
  simp only [State.recording, faulting, ← FaultRec.word_eq, modFocus, State.modTh_cell, Cell.modTh_modTh]
  rfl
theorem faulting_me (s : State) (r : FaultRec) : (faulting s r).me = (s.me.finishing (.fault r)).faulted r := by
  rw [← recording_eq_faulting]
  refine (State.recording_th ..).trans ?_
  rw [State.modTh_cell, Cell.th_modTh_same]
  rfl
theorem holdsFault_finishing (t : TIdx) : (s.modTh s.cell.last (·.finishing (.fault r))).cell.holdsFault t = s.cell.holdsFault t := rfl
/-- Whether T0 awaits the thread does not turn on the thread's own stop: T0 awaits no lead (R97). -/
theorem bcastAwaits_finishing : (s.modTh s.cell.last (·.finishing (.fault r))).cell.bcastAwaits s.cell.last = s.cell.bcastAwaits s.cell.last := by
  by_cases h : s.cell.last = 0
  · rw [h]
    unfold Cell.bcastAwaits
    split <;> split <;> rfl
  · unfold Cell.bcastAwaits
    rw [State.modTh_cell, Cell.th_modTh_other _ _ h]
section
variable (ho : s.me.outs = []) (hb : s.cell.bcastAwaits s.cell.last = false)
include ho hb

theorem fault_taken : s.fault s.cell.last r = (s.modTh s.cell.last (·.finishing (.fault r))).takeFault s.cell.last r := by
  rw [fault_now ho, State.enterFault, bcastAwaits_finishing, hb]
  exact if_neg Bool.false_ne_true
theorem fault_leadFault (hh : s.cell.holdsFault s.cell.last = false)
    (hl : s.cell.last = 0 ∨ r.cause = 0x07 ∨ (r.cause = 0x09 ∧ s.debug = true)) :
    s.fault s.cell.last r = modFocus (faulting s r) (·.leadFault s.cell.last r) := by
  rw [fault_taken ho hb, State.takeFault_lead (s := s.modTh _ _) hh hl, recording_eq_faulting]
theorem fault_eq_taken (hh : s.cell.holdsFault s.cell.last = false)
    (hl : s.cell.last = 0 ∨ ¬(r.cause = 0x07 ∨ (r.cause = 0x09 ∧ s.debug = true))) : s.fault s.cell.last r = taken s r := by
  by_cases h0 : s.cell.last = 0
  · rw [fault_leadFault ho hb hh (.inl h0), taken, if_pos h0, h0]
  · rw [fault_taken ho hb, State.takeFault_event (s := s.modTh _ _) hh (fun e => e.elim h0 (hl.resolve_left h0)), recording_eq_faulting, FaultRec.event_eq, taken, if_neg h0]
/-- The thread as it enters faulted. -/
theorem fault_me : ∃ i, (s.fault s.cell.last r).me = { (s.me.finishing (.fault r)).faulted r with ftid := i } := by
  obtain ⟨hl, i, hi⟩ := State.takeFault_th (s := s.modTh s.cell.last (·.finishing (.fault r))) (t := s.cell.last) (r := r)
  refine ⟨i, ?_⟩
  rw [fault_taken ho hb]
  refine ((congrArg _ hl).trans hi).trans ?_
  rw [State.modTh_cell, Cell.th_modTh_same]
  rfl

end

/-! ### TRAP and BRK -/

section
variable {h : Hdr} {a : Spec} (hp : Passes s h) (ha : srcOk a = true) (hab : s.anyBound [a] = false)
include hp ha hab

theorem exec_trap (code : BitVec 6) : exec (.trap h a code) s = .next (s.fault s.cell.last
    ⟨0x08, code, false, s.noNextWord, if s.noNextWord then s.me.pc else s.me.pc + 1, lane s a⟩) := by
  obtain ⟨hg, hpp, hc⟩ := hp
  have hsrc : s.src0 a = lane s a := congrArg lane0 (src_reg (anyBound_false hab (List.mem_cons_self ..)) hc)
  refine (issue_passes (by rw [ha]; rfl) (.inr hpp) hg).trans (congrArg _ ?_)
  simp only [unbound, hab, Bool.false_eq_true, if_false, hsrc, State.after]
theorem exec_brk (code : BitVec 6) : exec (.brk h a code) s = .next (s.fault s.cell.last ⟨0x09, code, false, false, s.me.pc, lane s a⟩) := by
  obtain ⟨hg, hpp, hc⟩ := hp
  have hsrc : s.src0 a = lane s a := congrArg lane0 (src_reg (anyBound_false hab (List.mem_cons_self ..)) hc)
  refine (issue_passes (by rw [ha]; rfl) (.inr hpp) hg).trans (congrArg _ ?_)
  simp only [unbound, hab, Bool.false_eq_true, if_false, hsrc, State.after]

end

end

theorem trapsAreTaken : Sys2Proof.Stated.TrapsAreTaken := by
  intro h a code s hp ha hab ho hh hb
  have ht {e : Bool} {n : BitVec 10} : s.fault s.cell.last ⟨0x08, code, false, e, n, lane s a⟩ = taken s ⟨0x08, code, false, e, n, lane s a⟩ :=
    fault_eq_taken ho hb hh (.inr fun h => h.elim (fun h => absurd (show (0x08 : BitVec 8) = 0x07 from h) (by decide))
      fun h => absurd (show (0x08 : BitVec 8) = 0x09 from h.1) (by decide))
  refine ⟨fun hn => ?_, fun hn => ?_, fun hd => ?_, fun hd => ?_⟩
  · rw [exec_trap hp ha hab, hn]
    exact congrArg _ ht
  · rw [exec_trap hp ha hab, hn]
    exact congrArg _ ht
  · refine (exec_brk hp ha hab code).trans (congrArg _ (fault_eq_taken ho hb hh ?_))
    refine hd.symm.imp_right fun hd => ?_
    rintro (h | ⟨_, h⟩)
    · exact absurd (show (0x09 : BitVec 8) = 0x07 from h) (by decide)
    · exact nomatch hd.symm.trans h
  · exact (exec_brk hp ha hab code).trans (congrArg _ (fault_leadFault ho hb hh (.inr (.inr ⟨rfl, hd⟩))))

/-! ### Faults -/

/-- A fault of a thread that T0 awaits faults T0 as well (R97). -/
theorem awaited_faultsLead {s : State} {r : FaultRec} (ho : s.me.outs = []) (hb : s.cell.bcastAwaits s.cell.last = true) (hl : s.cell.last ≠ 0)
    (h0 : (s.cell.th 0).outs = []) :
    ∃ i j, (s.fault s.cell.last r).cell.th 0 = { (s.cell.th 0).faulted (faultAt 0x07 (s.cell.th 0).pc 0) with ftid := i } ∧
      (s.fault s.cell.last r).me = { (s.me.finishing (.fault r)).faulted r with ftid := j } := by
  let s1 := s.modTh s.cell.last (·.finishing (.fault r))
  let s2 := s1.takeFault s.cell.last r
  obtain ⟨hl2, j, hj⟩ : s2.cell.last = s.cell.last ∧ ∃ j, s2.cell.th s.cell.last = { (s1.cell.th s.cell.last).faulted r with ftid := j } :=
    State.takeFault_th
  obtain ⟨_, hk⟩ : s.Keeps s2 0 := (s.modTh_keeps _ hl).trans (State.takeFault_keeps hl (.inl rfl))
  have hx : s.fault s.cell.last r = s2.takeFault 0 (faultAt 0x07 (s.cell.th 0).pc 0) := by
    rw [fault_now ho, State.enterFault, bcastAwaits_finishing, hb, if_pos rfl]
    show (if (s2.cell.th 0).outs.isEmpty = true then s2.takeFault 0 (faultAt 0x07 (s2.cell.th 0).pc 0) else _) = _
    rw [hk, h0]
    rfl
  obtain ⟨hl3, i, hi⟩ : _ ∧ ∃ i, (s2.takeFault 0 (faultAt 0x07 (s.cell.th 0).pc 0)).cell.th 0 = _ := State.takeFault_th
  have hst : (s2.cell.th s.cell.last).st ≠ .free := by rw [hj]; nofun
  obtain ⟨_, hm⟩ := State.takeFault_keeps (s := s2) (t := 0) (r := faultAt 0x07 (s.cell.th 0).pc 0) hl.symm (.inr hst)
  rw [hx]
  refine ⟨i, j, hi.trans (by rw [hk]), ?_⟩
  refine ((congrArg _ (hl3.trans hl2)).trans (hm.trans hj)).trans ?_
  rw [State.modTh_cell, Cell.th_modTh_same]
  rfl

theorem faultsAreTaken : Sys2Proof.Stated.FaultsAreTaken := by
  intro s r
  refine ⟨fun ho hh hb h7 h9 => ?_, fun ho => endWith_waits (f := .fault r) ho, fun ho hb _ _ hl h0 => ?_, fun ho hh hb => ?_⟩
  · obtain ⟨i, hi⟩ := fault_me (r := r) ho hb
    refine ⟨fault_eq_taken ho hb hh (.inr ?_), by rw [hi]; rfl, by rw [hi]; rfl⟩
    rintro (h | ⟨h, hd⟩)
    · exact h7 h
    · exact nomatch (h9 h).symm.trans hd
  · obtain ⟨i, j, hi, hj⟩ := awaited_faultsLead (r := r) ho hb hl h0
    rw [hi, hj]
    refine ⟨rfl, ?_, rfl, rfl⟩
    show (faultAt 0x07 (s.cell.th 0).pc 0).word.toNat % 2 ^ 8 = 0x07
    simp [FaultRec.word_eq, faultAt]
  · have hx := (fault_taken (r := r) ho hb).trans (State.takeFault_held hh)
    rw [recording_eq_faulting] at hx
    have hme : (modFocus (faulting s r) (·.faultHeld s.cell.last)).me = { (faulting s r).me with ftid := BitVec.ofNat 3 s.cell.last.val } :=
      Cell.faultHeld_th ..
    have hf := faulting_me s r
    refine ⟨_, hx, by rw [hme, hf]; rfl, ?_, by rw [hme], by rw [hme, hf]; rfl, rfl, rfl, fun x hx => ?_⟩
    · rw [hme]
      exact Nat.mod_eq_of_lt s.cell.last.isLt
    · obtain ⟨y, _, rfl⟩ := Option.map_eq_some_iff.mp hx
      rfl

end Sys2Proof.Stated

/-- Settles O10: TRAP and BRK (`trapsAreTaken`), and what a fault comes to (`faultsAreTaken`). -/
theorem exceptionsAreTaken : Obligations.ExceptionsAreTaken := ⟨Sys2Proof.Stated.trapsAreTaken, Sys2Proof.Stated.faultsAreTaken⟩

/-! SUPPORT. Long-latency results (R65 to R68): one that is in, written; a read meanwhile. -/

namespace Sys2Proof.Machine

theorem Cell.modTh_congr {c : Cell} {t : TIdx} {f g : Thread → Thread} (h : f (c.th t) = g (c.th t)) : c.modTh t f = c.modTh t g := by
  simp only [Cell.modTh, h]

section
variable {c : Cell} {u : TIdx} {o : LongRes} (f : List LongRes → List LongRes)

/-- What a register holds does not turn on which results are outstanding. -/
theorem Cell.reg_modOuts (a : Spec) : (c.modTh u fun x => { x with outs := f x.outs }).reg u a = c.reg u a := by
  have hth (v : TIdx) : ((c.modTh u fun x => { x with outs := f x.outs }).th v).g = (c.th v).g := by
    by_cases h : u = v
    · subst h
      rw [Cell.th_modTh_same]
    · rw [Cell.th_modTh_other _ _ h]
  simp only [Cell.reg, hth, Cell.th_modTh_same, Cell.modTh_plane]
/-- A late result that no stream takes: over the low bits of its register, or of what that held before a short-latency write met it. -/
theorem Cell.writeLate_reg (ix : Nat) (hb : c.bound u o.d = none) : (c.modTh u fun x => { x with outs := f x.outs }).writeLate u o ix =
    c.modTh u fun x => ({ x with outs := f x.outs } : Thread).putReg o.d
      (insBits (o.base.getD (if o.d = 0x2E then 0 else c.reg u o.d)) 0 o.bits o.val.toNat) := by
  have hb' : (c.modTh u fun x => { x with outs := f x.outs }).bound u o.d = none := hb
  simp only [Cell.writeLate, hb', Cell.reg_modOuts, Cell.modTh_modTh, overLow]

end

/-! ### LONG_LATENCY_WRITEBACK -/

/-- A thread on the wait marker goes on once nothing of it is outstanding (R66). -/
theorem settle_marker_done {s : State} {t : TIdx} (h : (s.cell.th t).wait = .marker) (ho : (s.cell.th t).outs = []) :
    s.settle t = s.modTh t fun x => { x with st := .running, wait := .none } := by
  simp [State.settle, h, ho]

/-- The state with the `k`-th outstanding result of a thread written (R65, R68). -/
def State.writtenBack (s : State) (u : TIdx) (k : Nat) (o : LongRes) : State :=
  fresh (s.modTh u fun x => ({ x with outs := dropAt x.outs k } : Thread).putReg o.d
    (insBits (o.base.getD (if o.d = 0x2E then 0 else s.cell.reg u o.d)) 0 o.bits o.val.toNat))
theorem State.writtenBack_th (s : State) (u : TIdx) (k : Nat) (o : LongRes) : (s.writtenBack u k o).cell.th u =
    ({ s.cell.th u with outs := dropAt (s.cell.th u).outs k } : Thread).putReg o.d
      (insBits (o.base.getD (if o.d = 0x2E then 0 else s.cell.reg u o.d)) 0 o.bits o.val.toNat) := Cell.th_modTh_same s.cell ..
/-- It changes no thread's wait. -/
theorem State.writtenBack_wait (s : State) (u : TIdx) (k : Nat) (o : LongRes) (v : TIdx) :
    ((s.writtenBack u k o).cell.th v).wait = (s.cell.th v).wait := by
  by_cases h : u = v
  · subst h
    rw [State.writtenBack_th, Thread.putReg_wait]
  · exact congrArg Thread.wait (Cell.th_modTh_other s.cell _ h)

section
variable {c : Name} {u : TIdx} {k : Nat} {s : State} {o : LongRes} (hc : s.cur = c.toNat) (ho : (s.cell.th u).outs[k]? = some o)
  (hr : o.ready = true)
include hc ho hr

/-- A result that is written: its thread, and T0, go on to what they wait for (R66). -/
theorem writeback_eq (hbad : o.bad = none) (hb : s.cell.bound u o.d = none) :
    exec (.longLatencyWriteback c u k) s = .next (((s.writtenBack u k o).settle u).settle 0) := by
  refine congrArg Host.Outcome.next ((within_inHand hc ?_).trans ?_)
  all_goals simp only [ho, hr, hbad, Bool.not_true, Bool.false_eq_true, if_false]
  · rw [State.settle_cur, State.settle_cur]
    rfl
  · exact congrArg (fun x => (State.settle (fresh { s with cell := x }) u).settle 0) (Cell.writeLate_reg (dropAt · k) s.freeIx hb)
/-- A load that met an uncorrectable word writes nothing (Table 08.2). -/
theorem writeback_bad {a : W64} (hbad : o.bad = some a) (hu : (s.cell.th u).wait = .none) (h0 : (s.cell.th 0).wait = .none) :
    exec (.longLatencyWriteback c u k) s = .next (s.modTh u fun x =>
      { x with outs := dropAt x.outs k, deferred := x.deferred.or (some a) }) := by
  let t := s.modTh u fun x => { x with outs := dropAt x.outs k, deferred := x.deferred.or (some a) }
  have hu' : (t.cell.th u).wait = .none := by rw [State.modTh_cell, Cell.th_modTh_same]; exact hu
  have h0' : (t.cell.th 0).wait = .none := by
    by_cases h : u = 0
    · subst h
      exact hu'
    · rw [State.modTh_cell, Cell.th_modTh_other _ _ h]
      exact h0
  have hs : (s.modTh u fun x => { x with outs := dropAt x.outs k }).modTh u (·.defers a) = t := by
    simp only [State.modTh, Cell.modTh_modTh, Thread.defers]
    rfl
  refine congrArg Host.Outcome.next ((within_inHand hc ?_).trans ?_)
  all_goals simp only [ho, hr, hbad, Bool.not_true, Bool.false_eq_true, if_false, hs]
  · rw [State.settle_cur, State.settle_cur]
    rfl
  · rw [settle_none hu', settle_none h0']

end

/-! ### A read meanwhile (R67) -/

section
variable {s : State} {a : Spec} (hb : s.cell.bound s.cell.last a = none)
include hb

theorem srcAfter_cut (l : List Spec) {k : Cut} (hc : s.me.cuts = [k]) :
    s.srcAfter l a = if k.d = a ∧ k.stale.getLsbD (min (l.count a) 3) = true then k.old else s.cell.reg s.cell.last a := by
  simp only [State.srcAfter, hb, hc, asOf, ite_and]
/-- The first read. -/
theorem src_eq_srcAfter : s.src a = s.srcAfter [] a := by
  simp only [State.src, State.srcAfter, hb, List.count_nil]

end

/-- The matrix unit writes no register of a thread that its oldest instruction is not of. -/
theorem State.unitLands_other {s : State} (hq : ∀ e ∈ s.cell.mx.queue.head?, e.t ≠ s.cell.last) : s.unitLands = s := by
  unfold State.unitLands
  split
  · rfl
  · next e r he =>
    have het : (e.t == s.cell.last) = false := beq_eq_false_iff_ne.mpr (hq e (by rw [he]; rfl))
    split
    · rw [het, Bool.false_and]
      rfl
    · rfl

section
variable {s : State} {o : LongRes} (hd : o.d.toNat < 42) (hb : s.cell.bound s.cell.last o.d = none)
include hd hb

/-- A result written within the instruction: its register, and what the reads before it still return. -/
theorem State.lands_eq (ho : s.me.outs = [o]) (st : BitVec 4) : (fresh s).lands 0 o st = fresh (fresh (s.modMe fun x =>
    { ({ x with outs := [] } : Thread).putReg o.d (insBits (o.base.getD (s.cell.reg s.cell.last o.d)) 0 o.bits o.val.toNat) with
      cuts := ⟨o.d, s.cell.reg s.cell.last o.d, st⟩ :: x.cuts })) := by
  have hz : o.d ≠ 0x2E := fun h => by
    rw [h] at hd
    exact absurd hd (by decide)
  have hw := Cell.writeLate_reg (c := s.cell) (u := s.cell.last) (dropAt · 0) (fresh s).freeIx hb
  simp only [if_neg hz] at hw
  have he : (fresh s).lands 0 o st = fresh (fresh (modFocus s fun c =>
      ((c.modTh c.last fun x => { x with outs := dropAt x.outs 0 }).writeLate c.last o (fresh s).freeIx).modTh c.last (·.cutAt s st [o.d]))) := rfl
  have hx : (s.cell.modTh s.cell.last fun x => ({ x with outs := dropAt x.outs 0 } : Thread).putReg o.d
      (insBits (o.base.getD (s.cell.reg s.cell.last o.d)) 0 o.bits o.val.toNat)).modTh s.cell.last (·.cutAt s st [o.d]) =
      s.cell.modTh s.cell.last fun x =>
        { ({ x with outs := [] } : Thread).putReg o.d (insBits (o.base.getD (s.cell.reg s.cell.last o.d)) 0 o.bits o.val.toNat) with
          cuts := ⟨o.d, s.cell.reg s.cell.last o.d, st⟩ :: x.cuts } := by
    rw [Cell.modTh_modTh]
    refine Cell.modTh_congr ?_
    have ho' : dropAt (s.cell.th s.cell.last).outs 0 = [] := congrArg (dropAt · 0) ho
    simp only [ho', Thread.cutAt, List.map_cons, List.map_nil, List.singleton_append, Thread.putReg_cuts]
  rw [he]
  exact congrArg (fun c => fresh (fresh { s with cell := c })) ((congrArg (Cell.modTh · s.cell.last (·.cutAt s st [o.d])) hw).trans hx)
/-- A result on its way into its register (R67). -/
theorem during_one (ho : s.me.outs = [o]) (hr : o.ready = true) (hbad : o.bad = none) (hq : ∀ e ∈ s.cell.mx.queue.head?, e.t ≠ s.cell.last) :
    s.during = s.perhaps fun st s => s.lands 0 o st := by
  have hz : (o.d != 0x2E) = true := bne_iff_ne.mpr fun h => by
    rw [h] at hd
    exact absurd hd (by decide)
  have hl : s.landable = [(0, o)] := by
    simp only [State.landable, ho, List.zipIdx_cons, List.zipIdx_nil, List.filterMap_cons, List.filterMap_nil, hr, hbad, hz, hb,
      Option.isNone_none, Bool.and_self, if_true]
  unfold State.during
  rw [hl]
  refine State.unitLands_other (s := s.perhaps fun st s => s.lands 0 o st) ?_
  unfold State.perhaps
  split
  · exact hq
  · dsimp only
    rw [State.lands_eq hd hb ho]
    exact hq

end

end Sys2Proof.Machine

namespace Sys2Proof.Stated

open Machine

theorem longResultsAreWritten : Sys2Proof.Stated.LongResultsAreWritten := by
  intro c u k s o hc ho hr h0
  refine ⟨fun hbad hb hu => ?_, fun hbad hb hu hlen hne => ?_, fun a hbad hu => writeback_bad hc ho hr hbad hu h0⟩
  · rw [writeback_eq hc ho hr hbad hb, settle_none ((s.writtenBack_wait ..).trans hu), settle_none ((s.writtenBack_wait ..).trans h0)]
    rfl
  · have hk : ((s.writtenBack u k o).cell.th u).outs = [] := by
      obtain ⟨o', hl⟩ := List.length_eq_one_iff.mp hlen
      rw [State.writtenBack_th, Thread.putReg_outs]
      rw [hl] at ho ⊢
      cases k with
      | zero => rfl
      | succ k => cases ho
    refine ⟨_, writeback_eq hc ho hr hbad hb, ?_⟩
    rw [settle_marker_done ((s.writtenBack_wait ..).trans hu) hk, settle_none]
    · rw [State.modTh_cell, Cell.th_modTh_same]
      exact ⟨rfl, rfl, hk, by rw [State.writtenBack_th, Thread.putReg_pc]⟩
    · rw [State.modTh_cell, Cell.th_modTh_other _ _ hne]
      exact (s.writtenBack_wait ..).trans h0

/-- SUB of a register from itself (R67): the two reads, each by itself. -/
theorem sub_twice {h : Hdr} {d a : Spec} {s : State} {pc : BitVec 10} {l0 l1 : Loop} {k : Cut} (hd : dstOk d = true) (ha : srcOk a = true)
    (hab : s.anyBound [d, a] = false) (hg : s.me.guard h = true) (hp : s.me.pp = false) (hf : Follows s 1 pc l0 l1) (hc : s.me.cuts = [k])
    (hk : k.d = a) :
    exec (.sub h d a a 0) s = .next (s.modMe fun x =>
      let w := (if k.stale.getLsbD 0 = true then lane0 k.old else lane s a) - (if k.stale.getLsbD 1 = true then lane0 k.old else lane s a)
      goes pc l0 l1 h.w ((x.setReg d (setLane0 (held s d) w)).last d (setLane0 (held s d) w))) := by
  have hb : s.cell.bound s.cell.last a = none := anyBound_false hab (by simp)
  have hba : s.anyBound [a] = false := by simp [State.anyBound, hb]
  have hdaa : s.anyBound [d, a, a] = false := by
    simp only [State.anyBound, List.any_cons, Bool.or_eq_false_iff] at hab ⊢
    exact ⟨hab.1, hab.2.1, hab.2⟩
  have hread (l : List Spec) (i : Nat) (hi : min (l.count a) 3 = i) :
      lane0 (s.srcAfter l a) = if k.stale.getLsbD i = true then lane0 k.old else lane s a := by
    rw [srcAfter_cut hb l hc, hi]
    simp only [hk, true_and, apply_ite lane0, lane, reg]
  have h1 := hread [] 0 rfl
  have h2 := hread [a] 1 (by simp)
  have hi : (!okSpecs [d] (srcsI a a 0) || (0 : BitVec 2) == 3) = false := by simp [okSpecs, srcsI, hd, ha]
  refine (issue_passes hi (.inr hp) hg).trans (congrArg _ ?_)
  have hs0 : s.src0 a = lane0 (s.srcAfter [] a) := congrArg lane0 (src_eq_srcAfter hb)
  have hs1 : s.opB a a 0 = lane0 (s.srcAfter [a] a) := by simp [State.opB, State.src0Next, State.srcNext, popAll_same hba]
  rw [show srcsI a a 0 = [a, a] from rfl, produces_plain hdaa, hs0, hs1, h1, h2]
  exact after_done_modMe (by rw [last_next, setReg_next, Thread.last_pc, Thread.setReg_pc]; exact hf)

theorem readsMeetLateResults : Sys2Proof.Stated.ReadsMeetLateResults := by
  refine ⟨fun s ho hq => during_nothing ho hq, fun s o ho hr hbad hd hb hq => ?_, fun s a l hb => ⟨fun hc => ⟨src_reg hb hc, srcAfter_reg hb hc⟩,
    fun k hc => ⟨?_, srcAfter_cut hb l hc⟩⟩, fun h d a s pc l0 l1 k u v w hd ha hab hg hpp hf hc hk hu hv hw => ?_⟩
  · rw [during_one hd hb ho hr hbad hq, State.perhaps]
    split
    · rfl
    · exact State.lands_eq hd hb ho _
  · rw [src_eq_srcAfter hb]
    exact srcAfter_cut hb [] hc
  · have huv : w = u - v := by rw [hw]; exact BitVec.eq_of_toInt_eq (by rw [BitVec.toInt_sub, BitVec.toInt_ofInt])
    rw [sub_twice hd ha hab hg hpp hf hc hk, ← hu, ← hv, huv]

end Sys2Proof.Stated

/-- Settles O32: an outstanding result written (`longResultsAreWritten`), a read meanwhile (`readsMeetLateResults`). -/
theorem longResultsAreWritten : Obligations.LongResultsAreWritten :=
  ⟨Sys2Proof.Stated.longResultsAreWritten, Sys2Proof.Stated.readsMeetLateResults⟩

/-! SUPPORT. Leases as their instructions issue (R179 to R184, R197): the tiles of a mask, what a thread holds, the queue. -/

namespace Sys2Proof.Machine

/-! ### The tiles of a mask -/

theorem mem_tilesOf {m : BitVec 4} {i : Fin 4} : i ∈ tilesOf m ↔ m.getLsbD i.val = true := by
  have h : ∀ i : Fin 4, i ∈ ([0, 1, 2, 3] : List (Fin 4)) := by decide
  rw [tilesOf, List.mem_filter]
  exact ⟨And.right, fun hi => ⟨h i, hi⟩⟩
theorem tilesOf_length : ∀ m : BitVec 4, (tilesOf m).length = Stated.tiles m := by decide

section
variable {c : Cell} {t : TIdx} {m : BitVec 4}

theorem Cell.holds_iff {i : Fin 4} : c.holds t i = true ↔ c.mx.owner[i] = some t ∧ c.mx.leaving[i] = false := by
  simp [Cell.holds]
theorem Cell.holdsAll_iff : c.holdsAll t m = true ↔
    ∀ i : Fin 4, m.getLsbD i.val = true → c.mx.owner[i] = some t ∧ c.mx.leaving[i] = false := by
  rw [Cell.holdsAll, List.all_eq_true]
  exact forall_congr' fun i => by rw [mem_tilesOf, Cell.holds_iff]
theorem Cell.holdsAny_iff : c.holdsAny t = true ↔ ¬∀ i : Fin 4, c.mx.owner[i] ≠ some t ∨ c.mx.leaving[i] = true := by
  have hall : ∀ i : Fin 4, i ∈ ([0, 1, 2, 3] : List (Fin 4)) := by decide
  rw [Cell.holdsAny, List.any_eq_true]
  constructor
  · rintro ⟨i, _, hi⟩ h
    obtain ⟨ho, hl⟩ := Cell.holds_iff.mp hi
    exact (h i).elim (· ho) fun e => nomatch hl.symm.trans e
  · intro h
    obtain ⟨i, hi⟩ := not_forall.mp h
    rw [not_or, Bool.not_eq_true, ne_eq, not_not] at hi
    exact ⟨i, hall i, Cell.holds_iff.mpr hi⟩
/-- A request can be granted when its tiles are free and no request is older than it. -/
theorem Cell.grantable_free (h : ∀ i : Fin 4, m.getLsbD i.val = true → c.mx.owner[i] = none) : c.grantable [] m = true := by
  have ht : (tilesOf m).all (fun i => c.mx.owner[i].isNone) = true :=
    List.all_eq_true.mpr fun i hi => by rw [h i (mem_tilesOf.mp hi)]; rfl
  rw [Cell.grantable, ht]
  rfl
/-- And never while one of them is held. -/
theorem Cell.grantable_held {older : List (BitVec 4)} (h : ∃ i : Fin 4, m.getLsbD i.val = true ∧ c.mx.owner[i] ≠ none) : c.grantable older m = false := by
  obtain ⟨i, hi, ho⟩ := h
  have ht : (tilesOf m).all (fun i => c.mx.owner[i].isNone) = false :=
    List.all_eq_false.mpr ⟨i, mem_tilesOf.mpr hi, by rwa [Option.isNone_iff_eq_none]⟩
  rw [Cell.grantable, ht, Bool.false_and]
theorem Cell.takeTiles_owner (i : Fin 4) : (c.takeTiles t m).mx.owner[i] = if m.getLsbD i.val then some t else c.mx.owner[i] := by
  simp [Cell.takeTiles]

end

end Sys2Proof.Machine

namespace Sys2Proof.Stated

open Machine

theorem enqueue_eq_queued (s : State) (op : MOp) : s.enqueue op = queued op s := rfl
theorem leaseCap_eq_cap (s : State) : s.cell.leaseCap s.cell.last = cap s := rfl
theorem queueNeed_free {c : Cell} (h : c.mx.queue.length < 4) : c.queueNeed = none := if_neg (Nat.not_le.mpr h)
theorem queueNeed_full {c : Cell} (h : 4 ≤ c.mx.queue.length) : c.queueNeed = some .matrixRoom := if_pos h
theorem queued_me (op : MOp) (s : State) : (queued op s).me =
    { s.me with outs := s.me.outs ++ [{ d := 0x2E, bits := 0, val := 0, ready := false, kind := .matrix s.cell.mx.nextId }] } :=
  (congrArg State.me (enqueue_eq_queued s op)).symm.trans (modMe_me ..)

/-! ### A matrix instruction as it issues (R62, R179, R180) -/

section
variable {h : Hdr} {len : Nat} {pfx : Bool} {ill : State → Bool} {body : State → Ctl} {s : State}

theorem matrixIssue_full (hq : 4 ≤ s.cell.mx.queue.length) : matrixIssue h len pfx ill body s = .next (parked .matrixRoom s) :=
  eligible_taken (lacks := fun s => s.cell.queueNeed) (queueNeed_full hq)

variable (hq : s.cell.mx.queue.length < 4) (hp : Passes s h) (hi : ill s = false)
include hq hp hi

theorem matrixIssue_timed (ht : s.me.tmd = true) : matrixIssue h len pfx ill body s = .next (s.fault s.cell.last (faultAt 0x06 s.me.pc 0)) := by
  obtain ⟨hg, hpp, _⟩ := hp
  refine (eligible_free (lacks := fun s => s.cell.queueNeed) (queueNeed_free hq)).trans ((issue_passes hi (.inr hpp) hg).trans ?_)
  rw [if_pos ht]
  rfl
theorem matrixIssue_passes (ht : s.me.tmd = false) : matrixIssue h len pfx ill body s = .next (s.after h len (body s)) := by
  obtain ⟨hg, hpp, _⟩ := hp
  refine (eligible_free (lacks := fun s => s.cell.queueNeed) (queueNeed_free hq)).trans ((issue_passes hi (.inr hpp) hg).trans ?_)
  rw [if_neg (by rw [ht]; decide)]

end

/-! ### MLEASE and MLEASE.TRY -/

section
variable {h : Hdr} {d : Spec} {m : BitVec 4} {s : State} (hp : Passes s h) (hu : UnitFree s) (hd : dstOk d = true) (hm : m ≠ 0)

theorem mlease_specs (hd : dstOk d = true) (hm : m ≠ 0) : (!dstOk d || m == 0) = false := by
  rw [hd, beq_eq_false_iff_ne.mpr hm]
  rfl
/-- The thread holds no tile and asks for no more than its cap (R183, R184). -/
theorem mayLease (hn : holdsNone s) (hc : tiles m ≤ cap s) :
    ¬(s.cell.holdsAny s.cell.last = true ∨ s.cell.leaseCap s.cell.last < (tilesOf m).length) := by
  rw [leaseCap_eq_cap, tilesOf_length, not_or, Nat.not_lt]
  exact ⟨fun e => Cell.holdsAny_iff.mp e hn, hc⟩

section
include hp hu hd hm

theorem lease_isIllegal (hx : ¬holdsNone s ∨ cap s < tiles m) :
    exec (.mlease h d m) s = .next s.illegal ∧ exec (.mleaseTry h d m) s = .next s.illegal := by
  have hx' : s.cell.holdsAny s.cell.last = true ∨ s.cell.leaseCap s.cell.last < (tilesOf m).length := by
    rw [leaseCap_eq_cap, tilesOf_length]
    exact hx.imp_left Cell.holdsAny_iff.mpr
  have hi := mlease_specs hd hm
  exact ⟨(matrixIssue_passes hu.1 hp hi hu.2).trans (by rw [if_pos hx']; rfl), (matrixIssue_passes hu.1 hp hi hu.2).trans (by rw [if_pos hx']; rfl)⟩

variable (hb : s.anyBound [d] = false) (hn : holdsNone s) (hc : tiles m ≤ cap s)
include hb hn hc

theorem mlease_isQueued : exec (.mlease h d m) s = .next ((queued (.lease m d) s).modMe fun x =>
    { x with pp := false, st := .parked, wait := .lease m d, wmark := h.w }) := by
  refine (matrixIssue_passes hu.1 hp (mlease_specs hd hm) hu.2).trans (congrArg _ ?_)
  rw [if_neg (mayLease hn hc)]
  simp only [streamNeed_none (anyBound_nil s) hb]
  rw [after_hold, enqueue_eq_queued]
/-- What MLEASE.TRY does: its tiles at once, or none. -/
theorem mleaseTry_eq : exec (.mleaseTry h d m) s = .next (s.after h 1
    (if s.cell.grantable s.cell.olderMasks m then .done ((modFocus s fun c => c.takeTiles c.last m).putRes d (.low (zx64 m)))
      else .done (s.putRes d (.low 0)))) := by
  refine (matrixIssue_passes hu.1 hp (mlease_specs hd hm) hu.2).trans (congrArg _ ?_)
  rw [if_neg (mayLease hn hc)]
  simp only [streamNeed_none (anyBound_nil s) hb]

section
variable {pc : BitVec 10} {l0 l1 : Loop} (hf : Follows s 1 pc l0 l1)
include hf

theorem mleaseTry_refused (ho : ∃ i : Fin 4, m.getLsbD i.val = true ∧ s.cell.mx.owner[i] ≠ none) :
    exec (.mleaseTry h d m) s = .next (s.modMe fun x => goes pc l0 l1 h.w (x.setReg d (setLane0 (held s d) 0))) := by
  rw [mleaseTry_eq hp hu hd hm hb hn hc, Cell.grantable_held ho, if_neg Bool.false_ne_true,
    putRes_plain _ (anyBound_false hb (List.mem_cons_self ..))]
  exact congrArg _ (after_done_modMe (by rw [setReg_next, Thread.setReg_pc]; exact hf))
theorem mleaseTry_granted (ho : ∀ i : Fin 4, m.getLsbD i.val = true → s.cell.mx.owner[i] = none) (hl : s.cell.mx.leaseQ = [])
    (hq : s.cell.mx.queue = []) : exec (.mleaseTry h d m) s = .next ((modFocus s fun c => c.takeTiles c.last m).modMe fun x =>
      goes pc l0 l1 h.w (x.setReg d (setLane0 (held s d) (BitVec.ofNat 64 m.toNat)))) := by
  have hold : s.cell.olderMasks = [] := by rw [Cell.olderMasks, hl, hq]; rfl
  let t := modFocus s fun c => c.takeTiles c.last m
  have hbt : t.cell.bound t.cell.last d = none := anyBound_false hb (List.mem_cons_self ..)
  have hft : (t.me.setReg d (setLane0 (held s d) (zx64 m))).next ((t.me.setReg d (setLane0 (held s d) (zx64 m))).pc.toNat + 1 - 1) = .at_ pc l0 l1 := by
    rw [setReg_next, Thread.setReg_pc]
    exact hf
  have hx : s.after h 1 (.done (t.putRes d (.low (zx64 m)))) =
      t.modMe fun x => goes pc l0 l1 h.w (x.setReg d (setLane0 (held s d) (zx64 m))) := by
    rw [putRes_plain _ hbt]
    exact after_done_modMe (s := t) (f := fun x => x.setReg d (setLane0 (held s d) (zx64 m))) hft
  rw [mleaseTry_eq hp hu hd hm hb hn hc, hold, Cell.grantable_free ho, if_pos rfl, hx, zx64, ← BitVec.ofNat_toNat]

end

end

end

/-! ### MREL and MZERO -/

section
variable {h : Hdr} {m : BitVec 4} {s : State} (hp : Passes s h) (hm : m ≠ 0)
include hp hm

/-- A body that queues an instruction of a thread that holds its tiles. -/
theorem queues_held {pc : BitVec 10} {l0 l1 : Loop} (op : MOp) (hu : UnitFree s) (hf : Follows s 1 pc l0 l1) (hh : holds s m) :
    matrixIssue h 1 false (fun _ => m == 0) (fun s => if !s.cell.holdsAll s.cell.last m then .fault 0x05 0 else .done (s.enqueue op)) s =
      .next ((queued op s).modMe (goes pc l0 l1 h.w)) := by
  have hz : (m == 0) = false := beq_eq_false_iff_ne.mpr hm
  refine (matrixIssue_passes hu.1 hp hz hu.2).trans (congrArg _ ?_)
  rw [Cell.holdsAll_iff.mpr hh, if_neg (by decide)]
  exact after_done (s := s) rfl (by rw [enqueue_eq_queued, queued_me]; exact hf)
theorem queues_unheld (op : MOp) (hu : UnitFree s) (hh : ¬holds s m) :
    matrixIssue h 1 false (fun _ => m == 0) (fun s => if !s.cell.holdsAll s.cell.last m then .fault 0x05 0 else .done (s.enqueue op)) s =
      .next (s.fault s.cell.last (faultAt 0x05 s.me.pc 0)) := by
  have hn : s.cell.holdsAll s.cell.last m = false := Bool.eq_false_iff.mpr fun e => hh (Cell.holdsAll_iff.mp e)
  have hz : (m == 0) = false := beq_eq_false_iff_ne.mpr hm
  refine (matrixIssue_passes hu.1 hp hz hu.2).trans ?_
  rw [hn, Bool.not_false, if_pos rfl]
  rfl

end

end Sys2Proof.Stated

open Sys2Proof Sys2Proof.Machine Sys2Proof.Stated in
/-- Settles O22: MLEASE and MLEASE.TRY (`mlease_isQueued`, `mleaseTry_eq`, `lease_isIllegal`), MREL and MZERO (`queues_held`,
`queues_unheld`), a full queue (`matrixIssue_full`) and a timed handler (`matrixIssue_timed`). -/
theorem leases : Obligations.Leases := by
  intro h d m s pc l0 l1 hp hf hd hb hm
  have hi := mlease_specs hd hm
  have hz : (m == 0) = false := beq_eq_false_iff_ne.mpr hm
  refine ⟨fun hu hn hc => ⟨mlease_isQueued hp hu hd hm hb hn hc, fun ho hl hq => ?_, fun ho => mleaseTry_refused hp hu hd hm hb hn hc hf ho⟩,
    fun hu hx => lease_isIllegal hp hu hd hm hx, fun hu hh => ⟨queues_held hp hm (.zero m) hu hf hh, queues_held hp hm (.rel m) hu hf hh⟩,
    fun hu hh => ⟨queues_unheld hp hm (.zero m) hu hh, queues_unheld hp hm (.rel m) hu hh⟩,
    fun hq => ⟨matrixIssue_full hq, matrixIssue_full hq⟩, fun hq ht => ⟨matrixIssue_timed hq hp hi ht, matrixIssue_timed hq hp hz ht⟩⟩
  refine ⟨_, mleaseTry_granted hp hu hd hm hb hn hc hf ho hl hq, modMe_me .., fun i => Cell.takeTiles_owner i, hq, rfl, rfl⟩

/-! SUPPORT. Arrivals (R75 to R80, R83, R252): what becomes of one, the head of a buffer, an entry of the spill ring, a deposit. -/

namespace Sys2Proof.Machine

/-! ### The disposal of an arrival -/

theorem Cell.bindable_usable {c : Cell} {ch : Nat} {u : TIdx} (h : c.bindable ch = some u) : c.usable ch = true := by
  have hf := List.find?_some h
  simp only [Bool.and_eq_true] at hf
  exact hf.1.1.1
theorem Cell.bind_st (c : Cell) (u : TIdx) (p : Pkt) : ((c.bind u p).th u).st = .bound := by
  rw [Cell.bind, Cell.th_modTh_same]
theorem Cell.bind_other (c : Cell) {u v : TIdx} (p : Pkt) (h : v ≠ u) : (c.bind u p).th v = c.th v := by
  rw [Cell.bind, Cell.th_modTh_other _ _ h.symm]
/-- With nothing spilled, a message that is not masked binds where its channel is untimed and a thread of its mask is free (R76, R79). -/
theorem Cell.disposal_binds {c : Cell} {p : Pkt} {u : TIdx} (hp : c.pausing = false) (ht : hTimed (c.hword p.chan.toNat) = false)
    (hm : c.masked p = false) (ho : c.inbox.occ = 0) (hb : c.bindable p.chan.toNat = some u) : c.disposal p = .bind u := by
  have hu := Cell.bindable_usable hb
  have hpass : c.mayPass p = true := by rw [Cell.mayPass, ho]; rfl
  simp [Cell.disposal, hu, hp, ht, hm, hpass, hb]
/-- Its cell takes it at once where nothing waits ahead of it. -/
theorem Cell.takes_binds {c : Cell} {p : Pkt} {u : TIdx} (hk : p.kind = 0) (hl : c.inbox.latches = []) (hi : c.inbox.ibuf = [])
    (hd : c.disposal p = .bind u) : c.takes p = some (.bind u) := by
  simp [Cell.takes, hk, hl, hi, hd]

/-- The one granule that is due is written (R209). -/
theorem State.depositOne_single {s : State} {a : Nat} {v : V256} (hd : s.cell.inbox.dep = [(a, v)]) (hs : s.cell.sleepers = []) :
    s.depositOne = modFocus (fresh s) fun c =>
      (({ c with inbox := { c.inbox with dep := [] } } : Cell).modPad (·.write a 32 v.toNat)).awake := by
  have hdue : s.cell.inbox.dues = [(a, v)] := by simp [Inbox.dues, hd]
  have hdrop : dropFirst (· == (a, v)) [(a, v)] = [] := if_pos (beq_self_eq_true (a, v))
  have hn : choose s 1 = 0 := if_pos (Nat.le_refl 1)
  simp only [State.depositOne, hdue, List.length_singleton, hn, List.getElem?_cons_zero]
  refine (State.padStore_awake (s := (fresh s).modInbox _) _ _ _ hs).trans ?_
  simp only [State.modInbox, modFocus, fresh_cell, hd, hdrop]

/-! ### A message that binds (R79, R252) -/

theorem Cell.stampClass_bind (c : Cell) (u : TIdx) (p q : Pkt) : ((c.received p).bind u p).stampClass q = c.stampClass q := by
  unfold Cell.received
  split <;> rfl
/-- The acknowledgement of a message that has bound: at the router of its cell, or of the cell that started the flood. -/
theorem State.ackFrom_bound {s : State} {f : Flight} {u : TIdx} {q : Pos} (hc : s.cur = f.p.dest.toNat) (hq : curPos s f.p.dest.toNat = some q) (k : Nat) :
    (modFocus (s.dropFlight k) fun c => (c.received f.p).bind u f.p).ackFrom f = { modFocus s (fun c => (c.received f.p).bind u f.p) with
      mnet := dropAt s.mnet k ++ [match f.flood with
        | none => { p := s.cell.stampClass (ackOf f.p), pos := routerOf q, vc := 2 }
        | some z => { p := ackOf f.p, pos := z, vc := 2 }] } := by
  unfold State.ackFrom
  cases f.flood with
  | some z => rfl
  | none =>
    have hq' : curPos (modFocus (s.dropFlight k) fun c => (c.received f.p).bind u f.p) (ackOf f.p).src.toNat = some q := hq
    have hg : getCell (modFocus (s.dropFlight k) fun c => (c.received f.p).bind u f.p) (ackOf f.p).src.toNat = (s.cell.received f.p).bind u f.p :=
      getCell_cur hc
    simp only [State.inject, hq', hg, Cell.stampClass_bind]
    rfl

section
variable {c : Name} {s : State} (hc : s.cur = c.toNat) (hh : s.heldAt c.toNat = false)
include hc hh

theorem messageArrival_binds {k : Nat} {f : Flight} {u : TIdx} {q : Pos} (hr : s.ready k [0, 2] = some f) (hq : curPos s c.toNat = some q)
    (hd : f.p.dest = c) (hk : f.p.kind = 0) (ha : f.p.anti = false) (ht : f.p.tmd = false) (hca : f.p.causal = none) (hch : f.p.chan ≠ 57)
    (htk : s.cell.takes f.p = some (.bind u)) :
    exec (.messageArrival k) s = .next ((modFocus (s.dropFlight k) fun c => (c.received f.p).bind u f.p).ackFrom f) := by
  subst hd
  have hg : getCell s f.p.dest.toNat = s.cell := getCell_cur hc
  have hb : (f.p.anti || s.heldAt f.p.dest.toNat || ((Disposal.bind u) == .refuse && s.windowFull f.p.dest.toNat f.p.src.toNat)) = false := by
    rw [ha, hh]
    rfl
  have herr (c : Cell) : (c.errorReply f.p).modTim (·.received f.p) = c := by
    have hkk : ¬(f.p.kind = 2 ∧ f.p.chan = 61) := by
      rw [hk]
      exact fun h => absurd h.1 (by decide)
    have htt : ¬f.p.tmd = true := by rw [ht]; decide
    simp only [Cell.errorReply, if_neg hkk, Timed.received, if_neg htt, Cell.modTim]
  have htake (s : State) : s.takeIn f.p (.bind u) = modFocus s fun c => (c.received f.p).bind u f.p := by
    have hkk : ¬(f.p.kind = 2 ∧ Disposal.bind u = .stay) := fun h => nomatch h.2
    rw [State.takeIn, if_neg hkk]
    rfl
  have happ (s : State) : s.applied f = s := by rw [State.applied, hca]
  have hx : exec (.messageArrival k) s = .next (within (s.dropFlight k) f.p.dest.toNat fun s =>
      ((modFocus s fun c => (c.received f.p).bind u f.p).ackFrom f)) := by
    show Host.Outcome.next _ = _
    simp only [hr, hg, htk, hb, Bool.false_eq_true, if_false, herr, htake, happ, if_pos (And.intro hk hch)]
    rfl
  refine hx.trans (congrArg _ (within_inHand hc ?_))
  rw [State.ackFrom_bound hc hq]
  rfl

/-! ### What moves on of itself (R79, R80, R83, R209) -/

omit hh in
theorem ingress_deposits {a : Nat} {v : V256} (hr : s.cell.inbox.rbuf = []) (hi : s.cell.inbox.ibuf = []) (hd : s.cell.inbox.dep = [(a, v)]) :
    exec (.ingressToSpill c) s = .next s.depositOne := by
  refine congrArg Host.Outcome.next ((within_inHand hc ?_).trans ?_)
  all_goals simp only [hd, hr, hi, List.isEmpty_nil, List.isEmpty_cons, Bool.not_false, Bool.and_self, Bool.or_true, Bool.true_or, if_true]
  exact State.depositOne_cur s

section
variable {p : Pkt} {r : List Pkt} (hd : s.cell.inbox.dep = []) (hr : s.cell.inbox.rbuf = []) (hi : s.cell.inbox.ibuf = p :: r)
include hd hr hi

/-- The oldest entry of the ingress buffer, once it can bind or spill. -/
theorem ingress_disposes (hs : s.cell.disposal p ≠ .stay) (hf : s.cell.disposal p ≠ .refuse) :
    exec (.ingressToSpill c) s = .next ((s.modInbox fun i => { i with ibuf := r }).dispose p (s.cell.disposal p)) := by
  have hx : s.fromBuffer (p :: r) (·.modInbox fun i => { i with ibuf := i.ibuf.drop 1 }) =
      (s.modInbox fun i => { i with ibuf := r }).dispose p (s.cell.disposal p) := by
    simp only [State.fromBuffer, decide_eq_false hs, beq_eq_false_iff_ne.mpr hf, Bool.false_and, Bool.or_self, Bool.false_eq_true, if_false,
      State.modInbox, modFocus, hi, List.drop_one, List.tail_cons]
  refine congrArg Host.Outcome.next ((within_inHand hc ?_).trans ?_)
  all_goals simp only [hd, hr, hi, hh, List.isEmpty_nil, Bool.not_true, Bool.false_and, Bool.false_eq_true, if_false, hx]
  exact State.dispose_cur ..

end

omit hh in
theorem latch_enters {p : Pkt} {r : List Pkt} (hl : s.cell.inbox.latches = p :: r) (hi : s.cell.inbox.ibuf.length < 4)
    (hp : s.cell.pausing = false) : exec (.latchedEventEntry c) s = .next (modFocus s fun c =>
      { c with inbox := { c.inbox with latches := r, ibuf := c.inbox.ibuf ++ [p] } }) := by
  refine congrArg Host.Outcome.next ((within_inHand hc ?_).trans ?_)
  all_goals simp only [hl, if_pos (And.intro hi hp)]
  all_goals rfl
/-- The oldest entry of the spill ring binds. -/
theorem spilled_binds {u : TIdx} (ho : s.cell.inbox.occ ≠ 0) (ha : s.cell.arrivalBinds = false) (hd : s.cell.depositing s.cell.sqHead = false)
    (hm : s.cell.masked (s.cell.entryPkt s.cell.sqHead) = false) (hb : s.cell.bindable (s.cell.entryPkt s.cell.sqHead).chan.toNat = some u)
    (hbad : s.cell.badRead s.cell.sqHead 160 = none) : exec (.spillQueueBind c) s = .next (modFocus s fun c =>
      let d := c.touched s.cell.sqHead 160
      { (d.received (s.cell.entryPkt s.cell.sqHead)).bind u (s.cell.entryPkt s.cell.sqHead) with
        inbox := (d.received (s.cell.entryPkt s.cell.sqHead)).inbox.popSpill d.sqEnt }) := by
  have hu := Cell.bindable_usable hb
  have hno : ¬(s.cell.inbox.occ = 0 ∨ s.cell.arrivalBinds = true ∨ s.heldAt c.toNat = true ∨ s.cell.depositing s.cell.sqHead = true) := by
    rw [ha, hh, hd]
    simpa using ho
  refine congrArg Host.Outcome.next ((within_inHand hc ?_).trans ?_)
  all_goals simp only [if_neg hno, hu, hm, hb, hbad, Bool.not_true, Bool.false_eq_true, if_false, Option.isSome_none]
  all_goals rfl

omit hh in
theorem deposit_completes (u : TIdx) : exec (.depositComplete c u) s = .next (s.modTh u Thread.deposited) :=
  congrArg Host.Outcome.next (within_inHand hc rfl)

end

/-! ### The deposit (R77, Table 03.9) -/

/-- One payload register of a deposit. -/
theorem Thread.depositReg_g (x : Thread) {n : Nat} (hn : n < 32) (len : BitVec 2) (v : V256) (i : Fin 32) :
    (if n ≤ len.toNat then x.setReg (BitVec.ofNat 6 n) v else x).g[i] = if i.val = n ∧ n ≤ len.toNat then v else x.g[i] := by
  by_cases h : n ≤ len.toNat
  · rw [if_pos h, Thread.setReg_g, Thread.putReg_g hn]
    by_cases e : i.val = n
    · subst e
      simp [h]
    · simp [e, Ne.symm e]
  · rw [if_neg h, if_neg fun e => h e.2]
/-- The payload of a handler's message in its registers. -/
theorem Thread.deposit_g (x : Thread) (p : Pkt) (pc : BitVec 10) (prio : BitVec 2) (timed : Bool) (len : BitVec 2) (i : Fin 32) :
    (x.deposit p pc prio timed len).g[i] = if i.val ≤ len.toNat then (p.pay[i.val]?).getD 0 else x.g[i] := by
  have hlen := len.isLt
  have h0 := (x.heads p).depositReg_g (n := 0) (by decide) len ((p.pay[0]?).getD 0) i
  rw [if_pos (Nat.zero_le _)] at h0
  refine (Thread.depositReg_g _ (n := 3) (by decide) len _ i).trans ?_
  have h2 := Thread.depositReg_g (if 1 ≤ len.toNat then ((x.heads p).setReg 0 ((p.pay[0]?).getD 0)).setReg 1 ((p.pay[1]?).getD 0)
    else (x.heads p).setReg 0 ((p.pay[0]?).getD 0)) (n := 2) (by decide) len ((p.pay[2]?).getD 0) i
  have h1 := Thread.depositReg_g ((x.heads p).setReg 0 ((p.pay[0]?).getD 0)) (n := 1) (by decide) len ((p.pay[1]?).getD 0) i
  refine (congrArg (ite _ _) (h2.trans (congrArg (ite _ _) (h1.trans (congrArg (ite _ _) h0))))).trans ?_
  have hx : (x.heads p).g[i] = x.g[i] := rfl
  rw [hx]
  obtain e | e | e | e | e : i.val = 0 ∨ i.val = 1 ∨ i.val = 2 ∨ i.val = 3 ∨ 3 < i.val := by omega
  · simp [e]
  · simp [e]
  · simp [e]
  · simp [e]
  · rw [if_neg (by omega), if_neg (by omega), if_neg (by omega), if_neg (by omega), if_neg (by omega)]

section
variable (x : Thread) (p : Pkt) (pc : BitVec 10) (prio : BitVec 2) (timed : Bool) (len : BitVec 2)

theorem Thread.deposit_q : (x.deposit p pc prio timed len).q = x.q := by
  have h (y : Thread) {n : Nat} (hn : n < 32) (v : V256) : (y.setReg (BitVec.ofNat 6 n) v).q = y.q := by
    rw [Thread.setReg_q, Thread.putReg_g hn]
  have hif (y : Thread) {n : Nat} (hn : n < 32) (v : V256) : (if n ≤ len.toNat then y.setReg (BitVec.ofNat 6 n) v else y).q = y.q := by
    split
    · exact h y hn v
    · rfl
  exact (hif _ (n := 3) (by decide) _).trans ((hif _ (n := 2) (by decide) _).trans ((hif _ (n := 1) (by decide) _).trans
    (h (x.heads p) (n := 0) (by decide) _)))
/-- The head registers (Table 03.9). -/
theorem Thread.deposit_heads : (x.deposit p pc prio timed len).hsrc = BitVec.ofNat 64 (p.src.toNat + 2 ^ 20 * bit p.loc) ∧
    (x.deposit p pc prio timed len).hvrt = BitVec.ofNat 64 p.vrt.toNat ∧
    (x.deposit p pc prio timed len).hreply = BitVec.ofNat 64 p.rch.toNat := by
  have hsrc : (0#43 ++ BitVec.ofBool p.loc ++ p.src : BitVec 64) = BitVec.ofNat 64 (p.src.toNat + 2 ^ 20 * bit p.loc) := by
    have := p.src.isLt
    apply BitVec.eq_of_toNat_eq
    simp only [append_toNat, BitVec.toNat_ofNat, BitVec.toNat_ofBool]
    cases p.loc <;> simp only [bit, Bool.toNat_true, Bool.toNat_false, if_true, if_false, Bool.false_eq_true] <;> omega
  have hvrt : (0#16 ++ p.vrt : BitVec 64) = BitVec.ofNat 64 p.vrt.toNat := by
    have := p.vrt.isLt
    apply BitVec.eq_of_toNat_eq
    simp only [append_toNat, BitVec.toNat_ofNat]
    omega
  have hreply : (0#58 ++ p.rch : BitVec 64) = BitVec.ofNat 64 p.rch.toNat := by
    have := p.rch.isLt
    apply BitVec.eq_of_toNat_eq
    simp only [append_toNat, BitVec.toNat_ofNat]
    omega
  unfold Thread.deposit
  dsimp only
  split_ifs <;> simp only [Thread.setReg_hsrc, Thread.setReg_hvrt, Thread.setReg_hreply] <;> exact ⟨hsrc, hvrt, hreply⟩

end

end Sys2Proof.Machine

open Sys2Proof Sys2Proof.Machine Sys2Proof.Stated in
/-- Settles O33: a message that binds (`messageArrival_binds`), a granule of a spill entry (`ingress_deposits`), the head of a buffer
(`ingress_disposes`), a latch (`latch_enters`), the oldest spill entry (`spilled_binds`), a deposit (`deposit_completes`). -/
theorem arrivalsBind : Obligations.ArrivalsBind := by
  intro c s hc hh
  refine ⟨fun k f u q hr hq hd hk ha ht hca _ hch _ hp hth hm ho hi hl hb => ?_, fun a v hr hi hd hs => ?_, fun p r u hd hr hi hb => ?_,
    fun p r hd hr hi hsp => ?_, fun p r hl hi hp => latch_enters hc hl hi hp, fun u ho ha hd hm hb hbad => ?_,
    fun u p pc prio timed len hw => ?_⟩
  · have htk := Cell.takes_binds hk hl hi (Cell.disposal_binds hp hth hm ho hb)
    have hcd : s.cur = f.p.dest.toNat := by rw [hd]; exact hc
    have hqd : curPos s f.p.dest.toNat = some q := by rw [hd]; exact hq
    exact (messageArrival_binds hc hh hr hq hd hk ha ht hca hch htk).trans (congrArg _ (State.ackFrom_bound hcd hqd k))
  · refine ⟨_, ingress_deposits hc hr hi hd, ?_⟩
    rw [State.depositOne_single hd hs]
    exact ⟨rfl, rfl, rfl⟩
  · refine (ingress_disposes hc hh hd hr hi (by rw [hb]; nofun) (by rw [hb]; nofun)).trans ?_
    rw [hb]
    rfl
  · refine ⟨_, ingress_disposes hc hh hd hr hi (by rw [hsp]; nofun) (by rw [hsp]; nofun), ?_⟩
    rw [hsp]
    exact ⟨rfl, rfl, rfl, congrArg (· ++ _) hd⟩
  · have hsame (d : Cell) (p : Pkt) : (d.received p).inbox.occ = d.inbox.occ ∧ (d.received p).inbox.head = d.inbox.head := by
      unfold Cell.received
      split <;> exact ⟨rfl, rfl⟩
    obtain ⟨hocc, hhead⟩ := hsame (s.cell.touched s.cell.sqHead 160) (s.cell.entryPkt s.cell.sqHead)
    refine ⟨_, spilled_binds hc hh ho ha hd hm hb hbad, ?_, congrArg (· - 1) hocc,
      congrArg (fun i => BitVec.ofNat 8 ((BitVec.toNat i + 1) % Nat.max 1 s.cell.sqEnt)) hhead, fun v hv => ?_⟩
    · exact ((s.cell.touched s.cell.sqHead 160).received (s.cell.entryPkt s.cell.sqHead)).bind_st u _
    · exact (((s.cell.touched s.cell.sqHead 160).received (s.cell.entryPkt s.cell.sqHead)).bind_other _ hv).trans (Cell.received_th ..)
  · refine ⟨(s.cell.th u).deposit p pc prio timed len, (deposit_completes hc u).trans (congrArg _ (modTh_congr ?_)), rfl, rfl, rfl, rfl, rfl, rfl,
      rfl, rfl, rfl, rfl, rfl, ?_⟩
    · simp only [Thread.deposited, hw]
    · obtain ⟨h1, h2, h3⟩ := (s.cell.th u).deposit_heads p pc prio timed len
      exact ⟨h1, h2, h3, (s.cell.th u).deposit_q .., fun i => (s.cell.th u).deposit_g ..⟩

/-! SUPPORT. Late results and special functions (R65, R103, R112, R173 to R175). -/

namespace Sys2Proof.Machine

/-! ### Elements of a register -/

/-- An element of a packed register, within 256 bits. -/
theorem el_pack {w : Nat} (l : List Nat) {j : Nat} (hj : w * j + w ≤ 256) : el (pack w l) w j = l.getD j 0 % 2 ^ w := by
  rw [← packNat_digit, el, pack, BitVec.toNat_ofNat]
  have h256 : (2 : Nat) ^ 256 = 2 ^ (w * j) * 2 ^ (256 - w * j) := by rw [← Nat.pow_add]; congr 1; omega
  have hdvd : (2 : Nat) ^ w ∣ 2 ^ (256 - w * j) := Nat.pow_dvd_pow 2 (by omega)
  rw [h256, Nat.mod_mul_right_div_self, Nat.mod_mod_of_dvd _ hdvd]
/-- A function on every element. -/
theorem el_map1 {f : BitVec 4} (g : Nat → Nat) (a : V256) {j : Nat} (hj : j < 256 / fmtBits f) :
    el (map1 f g a) (fmtBits f) j = g (el a (fmtBits f) j) % 2 ^ fmtBits f := by
  have hle : fmtBits f * j + fmtBits f ≤ 256 :=
    (Nat.mul_le_mul_left (fmtBits f) hj).trans (Nat.mul_div_le 256 (fmtBits f))
  rw [map1, el_pack _ hle]
  congr 1
  simp [els, count, List.getD_eq_getElem?_getD, hj]

end Sys2Proof.Machine

namespace Sys2Proof.Stated

open Machine

/-! ### Quotient and remainder (R112) -/

theorem div64_eq_quot (x : BitVec 1) (u v : W64) : div64 x u v = quot x u v := by
  unfold div64 quot
  split_ifs with hv hx h
  · rfl
  · obtain ⟨hu, hv⟩ := h
    rw [hu, hv]
    exact (BitVec.eq_of_toInt_eq (by rw [hu]; rfl) : u = BitVec.ofInt 64 (-2 ^ 63)).symm ▸ rfl
  · rfl
  · exact BitVec.eq_of_toNat_eq (by
      rw [BitVec.toNat_udiv, BitVec.toNat_ofNat, Nat.mod_eq_of_lt (Nat.lt_of_le_of_lt (Nat.div_le_self ..) u.isLt)])
theorem rem64_eq_remd (x : BitVec 1) (u v : W64) : rem64 x u v = remd x u v := by
  unfold rem64 remd
  split_ifs with hv hx
  · rfl
  · rw [Int.tmod_def, mul_comm]
  · refine BitVec.eq_of_toNat_eq ?_
    have h : u.toNat - u.toNat / v.toNat * v.toNat = u.toNat % v.toNat := by rw [Nat.mod_eq_sub, Nat.mul_comm]
    rw [h, BitVec.toNat_umod, BitVec.toNat_ofNat, Nat.mod_eq_of_lt (Nat.lt_of_le_of_lt (Nat.mod_le ..) u.isLt)]

/-! ### Late results as their instructions issue -/

section
variable {h : Hdr} {d a b : Spec} {s : State} {pc : BitVec 10} {l0 l1 : Loop} (hf : Follows s 1 pc l0 l1) (hd : dstOk d = true)
  (ha : srcOk a = true) (hg : s.me.guard h = true) (hc : s.me.cuts = []) (hab : s.anyBound [d, a, b] = false)
include hf hd ha hg hc hab

theorem divides_goesOn {f : W64 → W64 → W64} (hb : srcOk b = true) (hp : s.me.pp = false) (hn : ¬DividerBusy s) :
    divides h d a b f s = .next (s.modMe fun y => goes pc l0 l1 h.w (awaitsDivider d (f (lane s a) (lane s b)) y)) := by
  have hda : s.cell.bound s.cell.last d = none := anyBound_false hab (by simp)
  have hsa : s.anyBound [a, b] = false := by
    simp [State.anyBound, anyBound_false hab (show a ∈ [d, a, b] by simp), anyBound_false hab (show b ∈ [d, a, b] by simp)]
  have hsd : s.anyBound [d] = false := by simp [State.anyBound, hda]
  have hs1 : s.anyBound [a] = false := by simp [State.anyBound, anyBound_false hab (show a ∈ [d, a, b] by simp)]
  have h0 : s.src0 a = lane s a := congrArg lane0 (src_reg (anyBound_false hsa (by simp)) hc)
  have h1 : s.src0Next [a] b = lane s b := by
    rw [State.src0Next, State.srcNext, popAll_same hs1]
    exact congrArg lane0 (srcAfter_reg (anyBound_false hsa (by simp)) hc)
  have hi : (!okSpecs [d] [a, b]) = false := by simp [okSpecs, hd, ha, hb]
  refine (eligible_free (lacks := fun s => s.cell.dividerNeed) ((Cell.dividerNeed_eq _).trans (if_neg hn))).trans
    ((issue_passes hi (.inr hp) hg).trans (congrArg _ ?_))
  simp only [streamNeed_none hsa hsd, popAll_same hsa, h0, h1]
  exact after_done_modMe (s := s) (f := awaitsDivider d (f (lane s a) (lane s b))) hf
theorem vspec_goesOn {fn : BitVec 6} (hfn : fn.toNat < 8) (hF : isF s.ef = true) : exec (.vspec h d a fn) s = .next (s.modMe fun y =>
    goes pc l0 l1 h.w (awaits d 256 (map1 s.ef (specEl s.ef (fn.setWidth 3)) (reg s a)) none y)) := by
  have hsa : s.anyBound [a] = false := by simp [State.anyBound, anyBound_false hab (show a ∈ [d, a, b] by simp)]
  have hsd : s.anyBound [d] = false := by simp [State.anyBound, anyBound_false hab (show d ∈ [d, a, b] by simp)]
  have h0 : s.src a = reg s a := src_reg (anyBound_false hsa (by simp)) hc
  have hi : (!okSpecs [d] [a] || !isF s.ef || decide (7 < fn.toNat)) = false := by
    rw [hF, decide_eq_false (by omega)]
    simp [okSpecs, hd, ha]
  refine (issue_passes hi (.inl rfl) hg).trans (congrArg _ ?_)
  simp only [streamNeed_none hsa hsd, popAll_same hsa, h0]
  exact after_done_modMe (s := s) (f := awaits d 256 (map1 s.ef (specEl s.ef (fn.setWidth 3)) (reg s a)) none) hf

end

theorem lateResults : Sys2Proof.Stated.LateResults := by
  intro h d a b s pc l0 l1 hf hd ha hg hc hab
  refine ⟨fun x hb hp => ⟨fun hn => ⟨?_, ?_⟩, fun hbusy => ?_⟩, fun fn hfn hF => ⟨_, vspec_goesOn hf hd ha hg hc hab hfn hF, fun j hj => el_map1 _ _ hj⟩⟩
  · rw [← div64_eq_quot]
    exact divides_goesOn hf hd ha hg hc hab hb hp hn
  · rw [← rem64_eq_remd]
    exact divides_goesOn hf hd ha hg hc hab hb hp hn
  · have hx := (Cell.dividerNeed_eq s.cell).trans (if_pos hbusy)
    exact ⟨eligible_taken (lacks := fun s => s.cell.dividerNeed) hx, eligible_taken (lacks := fun s => s.cell.dividerNeed) hx⟩

end Sys2Proof.Stated

namespace Sys2Proof.Machine

/-! ### FP32 codes (R130, R142) -/

theorem valueOf_32 (v : Nat) : valueOf 0 v =
    if v / 2 ^ 23 % 2 ^ 8 = 255 then (if v % 2 ^ 23 = 0 then .inf (bitOf v 31) else .nan)
    else if v / 2 ^ 23 % 2 ^ 8 = 0 then .fin (bitOf v 31) (v % 2 ^ 23) (-149)
    else .fin (bitOf v 31) (2 ^ 23 + v % 2 ^ 23) ((v / 2 ^ 23 % 2 ^ 8 : Nat) - 150) := by
  have hm : manBits 0 = 23 := rfl
  have he : expBits 0 = 8 := rfl
  have hb : bias 0 = 127 := rfl
  have hf : fmtBits 0 - 1 = 31 := rfl
  have ht : ieeeTop 0 = true := rfl
  have h3 : ¬(0 : BitVec 4) = 3 := by decide
  have hx (n : Nat) : ((n : Int) - 127 - (23 : Nat)) = n - 150 := by omega
  simp only [valueOf, hm, he, hb, hf, ht, h3, false_and, and_true, if_false, hx]
  rfl
theorem signed_32 (neg : Bool) (v : Nat) : signed 0 neg v = v + 2 ^ 31 * bit neg := by
  cases neg
  · rfl
  · exact congrArg (v + ·) (by decide)
/-- A positive value, packed, has a code without a sign. -/
theorem packF_positive_lt (q : Nat) (g : Int) : packF 0 .rne false q g < 2 ^ 31 := by
  have h (v : Nat) : (if v ≤ maxCode 0 then v else overflowCode 0 .rne false) < 2 ^ 31 := by
    split
    · next hv => exact Nat.lt_of_le_of_lt hv (by decide)
    · decide
  exact h _
theorem roundF_positive_lt (m : Nat) (e : Int) : roundF 0 .rne (.fin false m e) < 2 ^ 31 := by
  unfold roundF
  dsimp only
  split
  · decide
  · exact packF_positive_lt ..

/-- The other sign. -/
theorem valueOf_sign {x : Nat} (hx : x < 2 ^ 31) : valueOf 0 (x + 2 ^ 31) = (valueOf 0 x).negate := by
  have h1 : (x + 2 ^ 31) / 2 ^ 23 % 2 ^ 8 = x / 2 ^ 23 % 2 ^ 8 := by omega
  have h2 : (x + 2 ^ 31) % 2 ^ 23 = x % 2 ^ 23 := by omega
  have h3 : bitOf (x + 2 ^ 31) 31 = true := bitOf_eq (b := true) (by show _ = 1; omega)
  have h4 : bitOf x 31 = false := bitOf_eq (b := false) (by show _ = 0; omega)
  rw [valueOf_32, valueOf_32, h1, h2, h3, h4]
  split_ifs <;> rfl
section
variable {x m : Nat} {neg : Bool} {e : Int}

theorem valueOf_zero (h : valueOf 0 x = .fin neg 0 e) : x % 2 ^ 31 = 0 := by
  rw [valueOf_32] at h
  split_ifs at h with _ _ h0
  · have := (FVal.fin.inj h).2.1
    omega
  · have := (FVal.fin.inj h).2.1
    omega
theorem valueOf_positive (hx : x < 2 ^ 31) (h : valueOf 0 x = .fin neg m e) : neg = false := by
  have h4 : bitOf x 31 = false := bitOf_eq (b := false) (by show _ = 0; omega)
  rw [valueOf_32, h4] at h
  split_ifs at h
  · exact (FVal.fin.inj h).1.symm
  · exact (FVal.fin.inj h).1.symm
theorem valueOf_infinite (hx : x < 2 ^ 31) (h : valueOf 0 x = .inf neg) : neg = false := by
  have h4 : bitOf x 31 = false := bitOf_eq (b := false) (by show _ = 0; omega)
  rw [valueOf_32, h4] at h
  split_ifs at h
  exact (FVal.inf.inj h).symm
theorem valueOf_negative (hlo : 2 ^ 31 < x) (hhi : x < 0xFF800000) : ∃ m e, m ≠ 0 ∧ valueOf 0 x = .fin true m e := by
  have h3 : bitOf x 31 = true := bitOf_eq (b := true) (by show _ = 1; omega)
  rw [valueOf_32, h3, if_neg (by omega)]
  split_ifs
  · exact ⟨_, _, by omega, rfl⟩
  · exact ⟨_, _, by omega, rfl⟩
theorem valueOf_number (hx : x ≤ 0x7F800000) : valueOf 0 x ≠ .nan := by
  rw [valueOf_32]
  split_ifs
  · nofun
  · omega
  · nofun
  · nofun

end

/-! ### Special functions, case by case (Table 06.5) -/

section
variable {x m : Nat} {neg : Bool} {e : Int}

theorem spec32_nan (fn : BitVec 3) (h : valueOf 0 x = .nan) : spec32 fn x = 0x7FC00000 := by
  rw [spec32, h]
  generalize fn.toNat = n
  obtain _ | _ | _ | _ | _ | _ | _ | _ := n <;> rfl
/-- LOG2, RSQRT and SQRT of a negative value. -/
theorem spec32_negative (h : valueOf 0 x = .fin true m e) (hm : m ≠ 0) :
    spec32 1 x = 0x7FC00000 ∧ spec32 3 x = 0x7FC00000 ∧ spec32 4 x = 0x7FC00000 := by
  simp only [spec32, h]
  exact ⟨if_neg hm, if_neg hm, if_neg hm⟩
theorem spec32_exp2 (h : valueOf 0 x = .fin neg m e) : spec32 0 x = if m = 0 then one32
    else match asInt neg m e with
      | some k => if 128 ≤ k then inf32 else if k < -149 then 0 else pow2F k
      | none => freeSpec 0 x inf32 false := by
  simp only [spec32, h]
  rfl
theorem spec32_exp (h : valueOf 0 x = .fin neg m e) : spec32 5 x = if m = 0 then one32 else freeSpec 5 x inf32 false := by
  simp only [spec32, h]
  rfl
theorem spec32_tanh (h : valueOf 0 x = .fin neg m e) : spec32 6 x = if m = 0 then x else freeSpec 6 (x % 2 ^ 31) one32 neg := by
  simp only [spec32, h]
  rfl
theorem spec32_sigm (h : valueOf 0 x = .fin neg m e) : spec32 7 x = if m = 0 then 0x3F000000 else freeSpec 7 x one32 false := by
  simp only [spec32, h]
  rfl
theorem spec32_tanh_inf (h : valueOf 0 x = .inf neg) : spec32 6 x = signed 0 neg one32 := by
  simp only [spec32, h]
  rfl
theorem spec32_inf (fn : BitVec 3) (hfn : fn = 0 ∨ fn = 5) (h : valueOf 0 x = .inf neg) : spec32 fn x = if neg then 0 else inf32 := by
  rcases hfn with rfl | rfl
  · simp only [spec32, h]
    rfl
  · simp only [spec32, h]
    rfl
theorem spec32_sigm_inf (h : valueOf 0 x = .inf neg) : spec32 7 x = if neg then 0 else one32 := by
  simp only [spec32, h]
  rfl

end

/-! ### Free results stay within their bounds -/

theorem freeSpec_le (fn : BitVec 3) (x top : Nat) : freeSpec fn x top false ≤ top := Nat.min_le_left ..
/-- The sign of TANH's result is its input's alone. -/
theorem freeSpec_tanh (x : Nat) (neg : Bool) : freeSpec 6 x one32 neg = Nat.min one32 (specCode 6 x) + 2 ^ 31 * bit neg := signed_32 ..
theorem pow2F_lt (k : Int) : pow2F k < 2 ^ 31 := roundF_positive_lt ..

/-! ### EXP2 at an integer -/

/-- A normal value that is a multiple of its last place (R142). -/
theorem packF_exact (neg : Bool) {q l : Nat} (hlo : 2 ^ 23 ≤ q) (hhi : q < 2 ^ 24) (hl : l < 24) :
    packF 0 .rne neg q ((l : Int) - 23) = (l + 127) * 2 ^ 23 + (q - 2 ^ 23) + 2 ^ 31 * bit neg := by
  have hx : ((l : Int) - 23 + (23 : Nat) + 127).toNat = l + 127 := by omega
  have hmax : (l + 127) * 2 ^ 23 + (q - 2 ^ 23) ≤ maxCode 0 := by
    show _ ≤ 0x7F7FFFFF
    omega
  rw [packF, show manBits 0 = 23 from rfl, show bias 0 = 127 from rfl]
  have h1 : ¬2 ^ (23 + 1) ≤ q := Nat.not_le.mpr hhi
  rw [if_neg h1, if_neg h1, if_neg (Nat.not_lt.mpr hlo), hx, if_pos hmax, signed_32]
/-- The bits of a number from its highest on, as those of a normal value. -/
theorem normal_bounds {m : Nat} (h0 : m ≠ 0) (hl : Nat.log2 m < 24) :
    2 ^ 23 ≤ m * 2 ^ (23 - Nat.log2 m) ∧ m * 2 ^ (23 - Nat.log2 m) < 2 ^ 24 := by
  constructor
  · calc 2 ^ 23 = 2 ^ Nat.log2 m * 2 ^ (23 - Nat.log2 m) := by rw [← pow_add]; congr 1; omega
      _ ≤ m * 2 ^ (23 - Nat.log2 m) := Nat.mul_le_mul_right _ (Nat.log2_self_le h0)
  · calc m * 2 ^ (23 - Nat.log2 m) < 2 ^ (Nat.log2 m + 1) * 2 ^ (23 - Nat.log2 m) :=
          Nat.mul_lt_mul_of_pos_right Nat.lt_log2_self (Nat.two_pow_pos _)
      _ = 2 ^ 24 := by rw [← pow_add]; congr 1; omega
/-- An integer below 2^24 is a code: its bits from the highest on. -/
theorem valueOf_integer (neg : Bool) {m : Nat} (h0 : m ≠ 0) (h24 : m < 2 ^ 24) :
    valueOf 0 (roundF 0 .rne (.fin neg m 0)) = .fin neg (m * 2 ^ (23 - Nat.log2 m)) ((Nat.log2 m : Int) - 23) := by
  have hl : Nat.log2 m < 24 := (Nat.log2_lt h0).mpr h24
  obtain ⟨hlo, hhi⟩ := normal_bounds h0 hl
  generalize hq : m * 2 ^ (23 - Nat.log2 m) = q at hlo hhi
  have hr : roundF 0 .rne (.fin neg m 0) = (Nat.log2 m + 127) * 2 ^ 23 + (q - 2 ^ 23) + 2 ^ 31 * bit neg := by
    have hg : (if (Nat.log2 m : Int) + 0 < 1 - bias 0 then 1 - bias 0 else (Nat.log2 m : Int) + 0) - (manBits 0 : Nat) = (Nat.log2 m : Int) - 23 := by
      rw [show bias 0 = 127 from rfl, show manBits 0 = 23 from rfl, if_neg (by omega)]
      omega
    have hmag : roundMag .rne neg m 0 ((Nat.log2 m : Int) - 23) = q := by
      rw [roundMag, if_pos (by omega), ← hq]
      exact congrArg (m * 2 ^ ·) (by omega)
    rw [roundF]
    dsimp only
    rw [if_neg h0, hg, hmag]
    exact packF_exact neg hlo hhi (by omega)
  have hb := bit_lt neg
  have hneg : bitOf ((Nat.log2 m + 127) * 2 ^ 23 + (q - 2 ^ 23) + 2 ^ 31 * bit neg) 31 = neg := bitOf_eq (by omega)
  have hex : ((Nat.log2 m + 127) * 2 ^ 23 + (q - 2 ^ 23) + 2 ^ 31 * bit neg) / 2 ^ 23 % 2 ^ 8 = Nat.log2 m + 127 := by omega
  have hfr : 2 ^ 23 + ((Nat.log2 m + 127) * 2 ^ 23 + (q - 2 ^ 23) + 2 ^ 31 * bit neg) % 2 ^ 23 = q := by omega
  rw [hr, valueOf_32, hex, hfr, hneg, if_neg (by omega), if_neg (by omega)]
  exact congrArg (FVal.fin neg q) (by omega)

theorem log2_normal {q : Nat} (hlo : 2 ^ 23 ≤ q) (hhi : q < 2 ^ 24) : Nat.log2 q = 23 :=
  (Nat.log2_eq_iff (by omega)).mpr ⟨hlo, hhi⟩
theorem asInt_integer (neg : Bool) {m l : Nat} (hl : l < 24) (hlo : 2 ^ 23 ≤ m * 2 ^ (23 - l)) (hhi : m * 2 ^ (23 - l) < 2 ^ 24) :
    asInt neg (m * 2 ^ (23 - l)) ((l : Int) - 23) = some (if neg then -(m : Int) else m) := by
  rw [asInt, log2_normal hlo hhi, if_neg (by omega)]
  by_cases h : l = 23
  · subst h
    rw [if_pos (by omega), scaleTo]
    simp
  · have he : (-((l : Int) - 23)).toNat = 23 - l := by omega
    rw [if_neg (by omega), he, Nat.mul_mod_left, if_pos rfl, Nat.mul_div_cancel _ (Nat.two_pow_pos _)]
/-- EXP2 at an integer of which it has a result (R174). -/
theorem spec32_exp2_integer {k : Int} (hlo : -149 ≤ k) (hhi : k ≤ 127) : spec32 0 (roundF 0 .rne (ofInt k)) = pow2F k := by
  by_cases h0 : k = 0
  · subst h0
    decide
  have hm0 : k.natAbs ≠ 0 := Int.natAbs_ne_zero.mpr h0
  have hm : k.natAbs < 2 ^ 24 := by omega
  have hl : Nat.log2 k.natAbs < 24 := (Nat.log2_lt hm0).mpr hm
  obtain ⟨h23, h24⟩ := normal_bounds hm0 hl
  rw [ofInt, spec32_exp2 (valueOf_integer _ hm0 hm), if_neg (by omega), asInt_integer _ hl h23 h24]
  have hk : (if decide (k < 0) = true then -(k.natAbs : Int) else k.natAbs) = k := by
    split
    · next h => have := of_decide_eq_true h; omega
    · next h => have := of_decide_eq_false (Bool.eq_false_iff.mpr h); omega
  dsimp only
  rw [hk, if_neg (by omega), if_neg (by omega)]

end Sys2Proof.Machine

namespace Sys2Proof.Stated

open Machine

/-- EXP2 and EXP are never negative. -/
theorem exp2_nonneg (x : Nat) : spec32 0 x < 2 ^ 31 := by
  cases hv : valueOf 0 x with
  | nan => rw [spec32_nan 0 hv]; decide
  | inf neg => rw [spec32_inf 0 (.inl rfl) hv]; cases neg <;> decide
  | fin neg m e =>
    rw [spec32_exp2 hv]
    split
    · decide
    split
    · split
      · decide
      split
      · decide
      · exact pow2F_lt _
    · exact Nat.lt_of_le_of_lt (freeSpec_le ..) (by decide)
theorem exp_nonneg (x : Nat) : spec32 5 x < 2 ^ 31 := by
  cases hv : valueOf 0 x with
  | nan => rw [spec32_nan 5 hv]; decide
  | inf neg => rw [spec32_inf 5 (.inr rfl) hv]; cases neg <;> decide
  | fin neg m e =>
    rw [spec32_exp hv]
    split
    · decide
    · exact Nat.lt_of_le_of_lt (freeSpec_le ..) (by decide)
/-- SIGM and TANH stay within 1. -/
theorem sigm_le_one {x : Nat} (hn : nanF 0 x = false) : spec32 7 x ≤ 0x3F800000 := by
  cases hv : valueOf 0 x with
  | nan => rw [nanF, hv] at hn; cases hn
  | inf neg => rw [spec32_sigm_inf hv]; cases neg <;> decide
  | fin neg m e =>
    rw [spec32_sigm hv]
    split
    · decide
    · exact freeSpec_le ..
theorem tanh_le_one {x : Nat} (hn : nanF 0 x = false) : spec32 6 x % 2 ^ 31 ≤ 0x3F800000 := by
  cases hv : valueOf 0 x with
  | nan => rw [nanF, hv] at hn; cases hn
  | inf neg => rw [spec32_tanh_inf hv]; cases neg <;> decide
  | fin neg m e =>
    rw [spec32_tanh hv]
    split
    · next hm =>
      rw [valueOf_zero (hm ▸ hv)]
      decide
    · have hle : Nat.min one32 (specCode 6 (x % 2 ^ 31)) ≤ 0x3F800000 := Nat.min_le_left ..
      rw [freeSpec_tanh]
      omega
/-- TANH is odd. -/
theorem tanh_odd {x : Nat} (hx : x ≤ 0x7F800000) : spec32 6 (x + 2 ^ 31) = spec32 6 x + 2 ^ 31 := by
  have hlt : x < 2 ^ 31 := by omega
  have hs := valueOf_sign hlt
  cases hv : valueOf 0 x with
  | nan => exact absurd hv (valueOf_number hx)
  | inf neg =>
    rw [hv, valueOf_infinite hlt hv] at hs
    rw [spec32_tanh_inf hs, spec32_tanh_inf hv, valueOf_infinite hlt hv]
    decide
  | fin neg m e =>
    rw [hv, valueOf_positive hlt hv] at hs
    rw [spec32_tanh hs, spec32_tanh hv, valueOf_positive hlt hv]
    split
    · rfl
    · rw [freeSpec_tanh, freeSpec_tanh, Nat.add_mod_right]
      rfl

theorem specialFunctions : Sys2Proof.Stated.SpecialFunctions := by
  intro x _
  refine ⟨fun fn hn => spec32_nan fn ?_, by decide, by decide, by decide, by decide, fun hlo hhi => ?_, fun k => spec32_exp2_integer,
    exp2_nonneg x, exp_nonneg x, fun hn => ⟨sigm_le_one hn, tanh_le_one hn⟩, tanh_odd⟩
  · unfold nanF at hn
    cases hv : valueOf 0 x with
    | nan => rfl
    | inf neg => rw [hv] at hn; cases hn
    | fin neg m e => rw [hv] at hn; cases hn
  · obtain ⟨m, e, hm, hv⟩ := valueOf_negative hlo hhi
    exact spec32_negative hv hm

end Sys2Proof.Stated

/-- Settles O15: DIV, REM and VSPEC (`lateResults`), the special functions (`specialFunctions`). -/
theorem lateResultsAndSpecialFunctions : Obligations.LateResultsAndSpecialFunctions :=
  ⟨Sys2Proof.Stated.lateResults, Sys2Proof.Stated.specialFunctions⟩

/-! SUPPORT. The head of the matrix unit's queue, finished (R179). -/

namespace Sys2Proof.Machine

/-- The head leaves the queue, and its thread has one result fewer outstanding, where neither it nor T0 waits for anything. -/
theorem State.finishHead_eq {s : State} {e : MEntry} (hw : (s.cell.th e.t).wait = .none) (h0 : (s.cell.th 0).wait = .none) :
    s.finishHead e = s.popHead.modTh e.t fun x => { x with outs := x.outs.filter fun o => o.kind != .matrix e.id } := by
  have hkeeps : ∀ u, ((s.popHead.modTh e.t fun x => { x with outs := x.outs.filter fun o => o.kind != .matrix e.id }).cell.th u).wait =
      (s.cell.th u).wait := by
    intro u
    by_cases hu : e.t = u
    · subst hu
      exact (congrArg Thread.wait (Cell.th_modTh_same s.popHead.cell _ _)).trans rfl
    · exact (congrArg Thread.wait (Cell.th_modTh_other s.popHead.cell _ hu)).trans rfl
  rw [State.finishHead, State.unmark, settle_none ((hkeeps _).trans hw), settle_none ((hkeeps 0).trans h0)]

end Sys2Proof.Machine

open Sys2Proof Sys2Proof.Machine in
/-- Refutes O26: what it says of MRED (R200) leaves out that the epochs of the tags are in canonical form, which for CBLOAD it asks of the
codebooks. Of epochs that list tag 0 twice, the step from 0xFFFF to zero takes the first listing away and uncovers the second, so that the
tag's next epoch reads as 1, not as 0. -/
theorem not_matrixUnitWorks : ¬Obligations.MatrixUnitWorks := by
  unfold Obligations.MatrixUnitWorks
  rintro ⟨-, -, hexec⟩
  let e : MEntry := { id := 0, t := 1, op := .mred 0 0 false false }
  let s : State := { cell := { mx := { queue := [e] }, red := { epochs := [(0, 0xFFFF), (0, 1)] } } }
  obtain ⟨-, hdo⟩ := hexec 0 s e [] rfl rfl rfl rfl
  obtain ⟨t, ht, -, -, -, -, -, -, hmred⟩ := hdo rfl
  obtain ⟨-, hepoch, -⟩ := hmred 0 0 false false rfl rfl
  have hstep : s.unitStep e = (modFocus s fun c => c.contribute 0 false (c.tileGrans 0)).finishHead e := rfl
  have hs : t.cell.red.epochs = [(0, 1)] := by
    have hin : exec (.matrixExecute 0) s = .next (s.unitStep e) := congrArg Host.Outcome.next (within_inHand rfl rfl)
    injection hin.symm.trans ht with ht
    rw [← ht, hstep, State.finishHead_eq rfl rfl]
    show (s.cell.contribute 0 false (s.cell.tileGrans 0)).red.epochs = _
    decide
  rw [hs] at hepoch
  exact absurd hepoch (by decide)

/-! SUPPORT. What the scalar and vector instructions compute, as arithmetic on numbers and bits (R111 to R116, R123 to R125, R132).
A fact about the few values of a field is decided by the kernel. -/

namespace Sys2Proof.Machine

/-! ### Two's complement (R132) -/

/-- A code's value in two's complement is its balanced remainder. -/
theorem sintOf_eq_bmod {w : Nat} (hw : 0 < w) (v : Nat) : sintOf w v = Int.bmod v (2 ^ w) := by
  obtain ⟨n, rfl⟩ : ∃ n, w = n + 1 := ⟨w - 1, by omega⟩
  rw [sintOf, Int.bmod_def, Nat.add_sub_cancel]
  have h2 : (2 : Nat) ^ (n + 1) = 2 * 2 ^ n := by rw [pow_succ, Nat.mul_comm]
  generalize (2 : Nat) ^ (n + 1) = m at h2 ⊢
  have hiff : v % m < 2 ^ n ↔ (v : Int) % m < ((m : Int) + 1) / 2 := by omega
  by_cases h : v % m < 2 ^ n
  · rw [if_pos h, if_pos (hiff.mp h)]
    rfl
  · rw [if_neg h, if_neg fun e => h (hiff.mpr e)]
    rfl
theorem wrapOf_eq (w : Nat) (z : Int) : wrapOf w z = (z % 2 ^ w).toNat := by rw [wrapOf]; norm_cast
theorem wrapOf_lt (w : Nat) (z : Int) : wrapOf w z < 2 ^ w := by
  have hpos : (0 : Int) < (2 ^ w : Nat) := by exact_mod_cast Nat.two_pow_pos w
  have h0 := Int.emod_nonneg z hpos.ne'
  have h1 := Int.emod_lt_of_pos z hpos
  rw [wrapOf]
  omega
theorem bitOf_eq_testBit (v i : Nat) : bitOf v i = v.testBit i := by
  rw [bitOf, Nat.testBit_eq_decide_div_mod_eq]
  rfl
theorem bitOf_toNat {n : Nat} (v : BitVec n) (i : Nat) : bitOf v.toNat i = v.getLsbD i := bitOf_eq_testBit ..

/-! ### Sums and products (R111, R112) -/

section
variable (u v : W64)

theorem add_eq_ofInt : u + v = BitVec.ofInt 64 (u.toInt + v.toInt) :=
  BitVec.eq_of_toInt_eq (by rw [BitVec.toInt_add, BitVec.toInt_ofInt])
theorem sub_eq_ofInt : u - v = BitVec.ofInt 64 (u.toInt - v.toInt) :=
  BitVec.eq_of_toInt_eq (by rw [BitVec.toInt_sub, BitVec.toInt_ofInt])
theorem mul_eq_ofInt : u * v = BitVec.ofInt 64 (u.toInt * v.toInt) :=
  BitVec.eq_of_toInt_eq (by rw [BitVec.toInt_mul, BitVec.toInt_ofInt])
/-- The high half of a number's low 128 bits. -/
theorem high_ofInt (z : Int) : (BitVec.ofInt 128 z).extractLsb' 64 64 = BitVec.ofInt 64 (z / 2 ^ 64) := by
  refine BitVec.eq_of_toNat_eq ?_
  rw [BitVec.extractLsb'_toNat, BitVec.toNat_ofInt, BitVec.toNat_ofInt, Nat.shiftRight_eq_div_pow]
  omega
/-- The high half of the exact product (R112). -/
theorem mulh64_eq (x : BitVec 1) :
    mulh64 x u v = if x = 0 then BitVec.ofInt 64 (u.toInt * v.toInt / 2 ^ 64) else BitVec.ofNat 64 (u.toNat * v.toNat / 2 ^ 64) := by
  unfold mulh64
  split
  · rw [BitVec.signExtend, BitVec.signExtend, ← BitVec.ofInt_mul, high_ofInt]
  · rw [← BitVec.ofNat_toNat, ← BitVec.ofNat_toNat, ← BitVec.ofNat_mul, ← BitVec.ofInt_natCast, high_ofInt, ← BitVec.ofInt_natCast]
    norm_cast

end

/-! ### Shifts (R111, R113) -/

theorem shl64_eq (u n : W64) : shl64 u n = BitVec.ofNat 64 (u.toNat * 2 ^ n.toNat) := by
  refine BitVec.eq_of_toNat_eq ?_
  unfold shl64
  split
  case isTrue h => rw [BitVec.toNat_shiftLeft, Nat.shiftLeft_eq, BitVec.toNat_ofNat]
  case isFalse h =>
    have hdvd : 2 ^ 64 ∣ u.toNat * 2 ^ n.toNat := Dvd.dvd.mul_left (Nat.pow_dvd_pow 2 (Nat.not_lt.mp h)) _
    rw [BitVec.toNat_ofNat, Nat.mod_eq_zero_of_dvd hdvd]
    rfl
theorem shr64_eq (u n : W64) : shr64 u n = BitVec.ofNat 64 (u.toNat / 2 ^ n.toNat) := by
  refine BitVec.eq_of_toNat_eq ?_
  have hlt : u.toNat / 2 ^ n.toNat < 2 ^ 64 := Nat.lt_of_le_of_lt (Nat.div_le_self ..) u.isLt
  rw [BitVec.toNat_ofNat, Nat.mod_eq_of_lt hlt]
  unfold shr64
  split
  case isTrue h => rw [BitVec.toNat_ushiftRight, Nat.shiftRight_eq_div_pow]
  case isFalse h =>
    have hpow : 2 ^ 64 ≤ 2 ^ n.toNat := Nat.pow_le_pow_right (by decide) (Nat.not_lt.mp h)
    exact (Nat.div_eq_of_lt (Nat.lt_of_lt_of_le u.isLt hpow)).symm
theorem sar64_eq (u n : W64) : sar64 u n = BitVec.ofInt 64 (u.toInt / 2 ^ min n.toNat 63) := by
  rw [sar64, BitVec.sshiftRight, Int.shiftRight_eq_div_pow]
  norm_cast

end Sys2Proof.Machine

namespace Sys2Proof.Stated

open Machine

/-! ### Fields and immediates (R116, R124, R125) -/

/-- The low bits of a word, extended. -/
theorem extend_eq (sgn : Bool) {w : Nat} (v : W64) :
    extend sgn w v.toNat = if sgn then sx64 (v.setWidth w) else zx64 (v.setWidth w) := by
  cases sgn
  · refine BitVec.eq_of_toNat_eq ?_
    simp [extend, zx64]
  · show BitVec.ofInt 64 (Int.bmod v.toNat (2 ^ w)) = BitVec.ofInt 64 (v.setWidth w).toInt
    rw [BitVec.toInt_eq_toNat_bmod, BitVec.toNat_setWidth, Int.natCast_emod, Int.emod_bmod]
/-- The bits of an extended field. -/
theorem getLsbD_extend (sgn : Bool) {w i : Nat} (v : W64) (hw : 0 < w) (hi : i < 64) :
    (extend sgn w v.toNat).getLsbD i = if i < w then v.getLsbD i else sgn && v.getLsbD (w - 1) := by
  have hmsb : (v.setWidth w).msb = v.getLsbD (w - 1) := by
    rw [BitVec.msb_eq_getLsbD_last, BitVec.getLsbD_setWidth, decide_eq_true (by omega), Bool.true_and]
  rw [extend_eq]
  cases sgn
  · by_cases h : i < w <;> simp [zx64, hi, h]
  · rw [if_pos rfl, sx64, BitVec.getLsbD_signExtend, hmsb]
    by_cases h : i < w <;> simp [hi, h]
theorem ext64_eq {e : BitVec 6} (he : e.toNat ≤ 1) {x : BitVec 2} (hx : x ≠ 3) (v : W64) :
    ext64 e x v = extend (e == 1) (8 * 2 ^ x.toNat) v.toNat := by
  have hx3 : x = 0 ∨ x = 1 ∨ x = 2 := by revert x; decide +kernel
  have he2 : e = 0 ∨ e = 1 := by
    rcases Nat.le_one_iff_eq_zero_or_eq_one.mp he with h | h
    · exact .inl (BitVec.eq_of_toNat_eq h)
    · exact .inr (BitVec.eq_of_toNat_eq h)
  rw [extend_eq]
  rcases hx3 with rfl | rfl | rfl <;> rcases he2 with rfl | rfl <;> simp [ext64, ← BitVec.setWidth_eq_extractLsb']
theorem bfx64_eq {x : BitVec 2} (hx : ¬1 < x.toNat) (l w : Nat) (u : W64) :
    bfx64 x l (w + 1) u = extend (x == 1) (w + 1) (u.toNat / 2 ^ l) := by
  have hx2 : x = 0 ∨ x = 1 := by revert x; decide +kernel
  rcases hx2 with rfl | rfl
  · exact BitVec.ofInt_natCast ..
  · show BitVec.ofInt 64 (sintOf (w + 1) (bits u.toNat l (w + 1))) = BitVec.ofInt 64 (Int.bmod (u.toNat / 2 ^ l : Nat) (2 ^ (w + 1)))
    rw [sintOf_eq_bmod (Nat.succ_pos w), bits, Int.natCast_emod, Int.emod_bmod]
theorem imm_zx64 (v : W32) : zx64 v = imm64 false v := (BitVec.ofNat_toNat ..).symm
theorem movi64_eq {x : BitVec 2} (hx : x ≠ 3) (v : W32) (old : W64) :
    movi64 x v old = if x = 2 then BitVec.ofNat 64 (2 ^ 32 * v.toNat + old.toNat % 2 ^ 32) else imm64 (x == 1) v := by
  have hx3 : x = 0 ∨ x = 1 ∨ x = 2 := by revert x; decide +kernel
  rcases hx3 with rfl | rfl | rfl
  · exact imm_zx64 v
  · rfl
  · have hv := v.isLt
    refine BitVec.eq_of_toNat_eq ?_
    show (v ++ old.extractLsb' 0 32 : W64).toNat = (BitVec.ofNat 64 (2 ^ 32 * v.toNat + old.toNat % 2 ^ 32)).toNat
    rw [append_toNat, BitVec.extractLsb'_toNat, Nat.shiftRight_zero, BitVec.toNat_ofNat]
    omega
/-- ADDI extends with the sign where X is zero, ANDI and ORI where X is one (R124). -/
theorem imm_signed_zero (x : BitVec 2) (v : W32) : (if x = 0 then sx64 v else zx64 v) = imm64 (x == 0) v := by
  by_cases h : x = 0
  · rw [if_pos h, beq_iff_eq.mpr h]
    rfl
  · rw [if_neg h, beq_eq_false_iff_ne.mpr h]
    exact imm_zx64 v
theorem imm_signed_one {x : BitVec 2} (hx : ¬1 < x.toNat) (v : W32) : (if x = 0 then zx64 v else sx64 v) = imm64 (x == 1) v := by
  have hx2 : x = 0 ∨ x = 1 := by revert x; decide +kernel
  rcases hx2 with rfl | rfl
  · exact imm_zx64 v
  · rfl
theorem preds_number (x : Thread) : zx64 x.preds = BitVec.ofNat 64 (2 * (x.p.toNat / 2) + 1) := by
  have hp := x.p.isLt
  refine BitVec.eq_of_toNat_eq ?_
  simp only [zx64, Thread.preds, BitVec.toNat_setWidth, append_toNat, BitVec.extractLsb'_toNat, Nat.shiftRight_eq_div_pow, BitVec.toNat_ofNat]
  omega

end Sys2Proof.Stated

/-! SUPPORT. Result producers as they issue (R47, R48, R105), and the scalar instructions (R111 to R114, R116, R117, R123 to R125). -/

namespace Sys2Proof.Stated

open Machine

/-! ### Operands that are no bound stream registers (R48, R233) -/

theorem anyBound_subset {s : State} {l m : List Spec} (h : s.anyBound l = false) (hm : m ⊆ l) : s.anyBound m = false := by
  simp only [State.anyBound, List.any_eq_false]
  intro a ha
  rw [anyBound_false h (hm ha)]
  exact Bool.false_ne_true

section
variable {s : State} {l m : List Spec} {a b : Spec} {x : BitVec 2} (hb : s.anyBound l = false) (hc : s.me.cuts = [])
include hb hc

theorem src_unbound (ha : a ∈ l) : s.src a = reg s a := src_reg (anyBound_false hb ha) hc
theorem srcAfter_unbound (ha : a ∈ l) : s.srcAfter m a = reg s a := srcAfter_reg (anyBound_false hb ha) hc
theorem src0_unbound (ha : a ∈ l) : s.src0 a = lane s a := congrArg lane0 (src_unbound hb hc ha)
theorem src0After_unbound (ha : a ∈ l) : s.src0After m a = lane s a := congrArg lane0 (srcAfter_unbound hb hc ha)
theorem src0Next_unbound (hm : m ⊆ l) (ha : a ∈ l) : s.src0Next m a = lane s a := by
  rw [State.src0Next, State.srcNext, popAll_same (anyBound_subset hb hm)]
  exact src0After_unbound hb hc ha
theorem opB_unbound (ha : a ∈ l) (hx : x = 0 → b ∈ l) : s.opB a b x = opI s b x := by
  unfold State.opB opI
  split
  case isTrue h => exact src0Next_unbound hb hc (List.cons_subset.mpr ⟨ha, List.nil_subset _⟩) (hx h)
  case isFalse => rw [zx64, ← BitVec.ofNat_toNat]; rfl

end

/-! ### What a result producer leaves (R105) -/

section
variable {h : Hdr} {len : Nat} {pfx : Bool} {ill : State → Bool} {srcs : List Spec} {d : Spec} {f : State → Res} {s : State} {pc : BitVec 10}
  {l0 l1 : Loop}

/-- A thread that has its result goes on where it would have gone. -/
theorem after_result {v : V256} (hf : Follows s len pc l0 l1) :
    s.after h len (.done (s.modMe fun x => (x.setReg d v).last d v)) =
      s.modMe fun x => goes pc l0 l1 h.w ((x.setReg d v).last d v) :=
  after_done_modMe (f := fun x => (x.setReg d v).last d v) (by rw [last_next, setReg_next, Thread.last_pc, Thread.setReg_pc]; exact hf)
/-- It leaves its result in its destination and in the last-result file, and goes on. -/
theorem issue_produces {v : V256} (hi : ill s = false) (hp : pfx = true ∨ s.me.pp = false) (hg : s.me.guard h = true)
    (hb : s.anyBound (d :: srcs) = false) (hf : Follows s len pc l0 l1) (hv : (f s).over (held s d) = v) :
    issue h len pfx ill (produces srcs d f) s = .next (s.modMe fun x => goes pc l0 l1 h.w ((x.setReg d v).last d v)) := by
  refine (issue_passes hi hp hg).trans (congrArg _ ?_)
  rw [produces_plain hb, show (f s).over (s.held d) = v from hv]
  exact after_result hf

end

/-! ### The scalar forms (R111 to R114, R116, R117, R123 to R125) -/

/-- The instruction issues alone, only its specifiers make it ILLEGAL, and it produces the value of its form. -/
def Produces (i : Instr) (f : Form) (s : State) : Prop :=
  ∃ ill g, exec i s = issue f.h f.len f.pfx ill (produces f.srcs f.d g) s ∧ ill s = (!okSpecs [f.d] f.srcs) ∧ g s = f.val s

section
variable {i : Instr} {h : Hdr} {d a : Spec} {b : BitVec 6} {x : BitVec 2} {f : Form} {s : State} (hr : f.Ready s)
include hr

/-- One that produces its form's value leaves it. -/
theorem Produces.goesOn {pc : BitVec 10} {l0 l1 : Loop} (hi : Produces i f s) (hf : Follows s f.len pc l0 l1) :
    exec i s = .next (s.modMe fun x => goes pc l0 l1 f.h.w ((x.setReg f.d (f.result s)).last f.d (f.result s))) := by
  obtain ⟨ill, g, hx, hill, hg⟩ := hi
  obtain ⟨hd, hs, hb, hgd, hp, -⟩ := hr
  rw [hx]
  refine issue_produces ?_ hp hgd hb hf (by rw [hg]; rfl)
  simp [hill, okSpecs, hd, hs]

theorem produces_formI {u v : W64 → W64 → W64} (hx : exec i s = scalarI h d a b x u s) (huv : ∀ p q, u p q = v p q)
    (hf : formI h d a b x v = some f) : Produces i f s := by
  unfold formI at hf
  split at hf
  case isTrue => nomatch hf
  case isFalse hx3 =>
    cases hf
    obtain ⟨-, -, hb, -, -, hc⟩ := hr
    have ha : a ∈ d :: regsI a b x := by unfold regsI; split <;> simp
    have hbx : x = 0 → b ∈ d :: regsI a b x := fun h0 => by simp [regsI, h0]
    refine ⟨_, _, hx, ?_, ?_⟩
    · rw [beq_eq_false_iff_ne.mpr hx3, Bool.or_false]
      rfl
    · rw [src0_unbound hb hc ha, opB_unbound hb hc ha hbx, huv]
theorem produces_formR {u v : W64 → W64 → W64} (hx : exec i s = scalarR h d a b u s) (huv : ∀ p q, u p q = v p q)
    (hf : formR h d a b v = some f) : Produces i f s := by
  cases hf
  obtain ⟨-, -, hb, -, -, hc⟩ := hr
  refine ⟨_, _, hx, rfl, ?_⟩
  rw [src0_unbound hb hc (by simp), src0Next_unbound (m := [a]) hb hc (by simp) (by simp), huv]
/-- One register operand, and field values that its encoding admits. -/
theorem produces_formU {u : W64 → W64} {len : Nat} {bad : Bool} {v : State → Res} (hx : exec i s = scalarU h len d a bad u s)
    (hbad : bad = false) (hv : .low (u (lane s a)) = v s) (hf : some ⟨h, len, false, [a], d, v⟩ = some f) : Produces i f s := by
  cases hf
  obtain ⟨-, -, hb, -, -, hc⟩ := hr
  refine ⟨_, _, hx, by rw [hbad, Bool.or_false], ?_⟩
  rw [src0_unbound hb hc (by simp)]
  exact hv
theorem produces_formW {u v : W64 → W64} {bad : Bool} (hx : exec i s = scalarU h 2 d a bad u s) (hbad : bad = false)
    (huv : ∀ p, u p = v p) (hf : formW h d a v = some f) : Produces i f s :=
  produces_formU hr (v := fun s => .low (v (lane s a))) hx hbad (congrArg Res.low (huv _)) hf

end

section
variable {h : Hdr} {d a b : Spec} {s : State} {f : Form}

/-- The greater of two, asked either way: the two that are equal are the same. -/
theorem greater_of_lt {α : Type} [LinearOrder α] {f : W64 → α} (hf : Function.Injective f) (p q : W64) :
    (if f p < f q then q else p) = if f p ≤ f q then q else p := by
  rcases lt_trichotomy (f p) (f q) with h | h | h
  · rw [if_pos h, if_pos h.le]
  · rw [if_neg h.not_lt, if_pos h.le]
    exact hf h
  · rw [if_neg h.not_gt, if_neg h.not_ge]
theorem greater_swap {α : Type} [LinearOrder α] {f : W64 → α} (hf : Function.Injective f) (p q : W64) :
    (if f p ≤ f q then q else p) = if f q ≤ f p then p else q := by
  rw [← greater_of_lt hf]
  simp only [← not_lt, ite_not]
theorem toInt_injective : Function.Injective (BitVec.toInt : W64 → Int) := fun _ _ => BitVec.eq_of_toInt_eq
theorem toNat_injective : Function.Injective (BitVec.toNat : W64 → Nat) := fun _ _ => BitVec.eq_of_toNat_eq
theorem min_by_order (p q : W64) : (if q.slt p then q else p) = if p.toInt ≤ q.toInt then p else q := by
  simp only [BitVec.slt_iff_toInt_lt, ← not_le, ite_not]
theorem max_by_order (p q : W64) : (if p.slt q then q else p) = if p.toInt ≤ q.toInt then q else p := by
  simp only [BitVec.slt_iff_toInt_lt]
  exact greater_of_lt toInt_injective p q
theorem minu_by_order (p q : W64) : (if q.ult p then q else p) = if p.toNat ≤ q.toNat then p else q := by
  simp only [BitVec.ult_iff_toNat_lt, ← not_le, ite_not]
theorem maxu_by_order (p q : W64) : (if p.ult q then q else p) = if p.toNat ≤ q.toNat then q else p := by
  simp only [BitVec.ult_iff_toNat_lt]
  exact greater_of_lt toNat_injective p q

/-- SHR (R113), of a count in a register or of an immediate one. -/
theorem exec_shr (x : BitVec 2) : exec (.shr h d a b x) s =
    issue h 1 false (fun _ => !okSpecs [d] (if x = 0 ∨ x = 3 then [a, b] else [a]))
      (produces (if x = 0 ∨ x = 3 then [a, b] else [a]) d fun s =>
        .low (if x = 0 ∨ x = 1 then shr64 (s.src0 a) (if x = 0 ∨ x = 3 then s.src0Next [a] b else zx64 b)
          else sar64 (s.src0 a) (if x = 0 ∨ x = 3 then s.src0Next [a] b else zx64 b))) s := by
  show execShr h d a b x s = _
  simp only [execShr, Bool.or_eq_true, beq_iff_eq]
theorem produces_shr {x : BitVec 2} (hf : scalarForm (.shr h d a b x) = some f) (hr : f.Ready s) : Produces (.shr h d a b x) f s := by
  cases hf
  obtain ⟨-, -, hb, -, -, hc⟩ := hr
  refine ⟨_, _, exec_shr x, rfl, ?_⟩
  have ha : s.src0 a = lane s a := src0_unbound hb hc (by dsimp only; split <;> simp)
  have hn : (if x = 0 ∨ x = 3 then s.src0Next [a] b else zx64 b).toNat = if x = 0 ∨ x = 3 then (lane s b).toNat else b.toNat := by
    dsimp only at hb
    split
    case isTrue hx =>
      rw [if_pos hx] at hb
      rw [src0Next_unbound (m := [a]) hb hc (by simp) (by simp)]
    case isFalse => exact BitVec.toNat_setWidth_of_le (by decide)
  simp only [shr64_eq, sar64_eq, ha, hn]
/-- MOV (R117). -/
theorem produces_mov {x : BitVec 2} (hf : scalarForm (.mov h d a x) = some f) (hr : f.Ready s) : Produces (.mov h d a x) f s := by
  obtain ⟨hx, hf⟩ := Option.ite_none_left_eq_some.mp hf
  cases hf
  obtain ⟨-, -, hb, -, -, hc⟩ := hr
  refine ⟨_, _, rfl, by rw [decide_eq_false hx, Bool.or_false], ?_⟩
  rw [src_unbound hb hc (by simp), src0_unbound hb hc (by simp)]
/-- MOVI (R124): its high form reads D. -/
theorem produces_movi {x : BitVec 2} {v : W32} (hf : scalarForm (.movi h d x v) = some f) (hr : f.Ready s) : Produces (.movi h d x v) f s := by
  obtain ⟨hx, hf⟩ := Option.ite_none_left_eq_some.mp hf
  cases hf
  obtain ⟨hd, hs, hb, -, -, hc⟩ := hr
  refine ⟨_, _, rfl, ?_, ?_⟩
  · dsimp only at hd hs ⊢
    rw [beq_eq_false_iff_ne.mpr hx, Bool.or_false, okSpecs, hs, Bool.and_true, List.all_cons, List.all_nil, Bool.and_true]
  · rw [src0_unbound hb hc List.mem_cons_self, movi64_eq hx]

end

/-- Every scalar form is produced by its instruction, shape by shape. -/
theorem scalarForm_produces {i : Instr} {f : Form} {s : State} (hf : scalarForm i = some f) (hr : f.Ready s) : Produces i f s := by
  cases i
  case add => exact produces_formI hr rfl add_eq_ofInt hf
  case sub => exact produces_formI hr rfl sub_eq_ofInt hf
  case mul => exact produces_formI hr rfl mul_eq_ofInt hf
  case and | or | xor => exact produces_formI hr rfl (fun _ _ => rfl) hf
  case andn => exact produces_formI hr (u := fun p q => p &&& ~~~q) rfl (fun _ _ => rfl) hf
  case shl => exact produces_formI hr rfl shl64_eq hf
  case shr => exact produces_shr hf hr
  case mulh h d a b x => exact produces_formR hr rfl (fun p q => mulh64_eq p q x) hf
  case min => exact produces_formR hr (u := fun p q => if q.slt p then q else p) rfl min_by_order hf
  case max => exact produces_formR hr (u := fun p q => if p.slt q then q else p) rfl max_by_order hf
  case minu => exact produces_formR hr (u := fun p q => if q.ult p then q else p) rfl minu_by_order hf
  case maxu => exact produces_formR hr (u := fun p q => if p.ult q then q else p) rfl maxu_by_order hf
  case mov => exact produces_mov hf hr
  case movi => exact produces_movi hf hr
  case prd =>
    cases hf
    exact ⟨_, _, rfl, by simp [okSpecs], congrArg Res.low (preds_number _)⟩
  case ext =>
    obtain ⟨hx, hf⟩ := Option.ite_none_left_eq_some.mp hf
    obtain ⟨hs, hx3⟩ := not_or.mp hx
    exact produces_formU hr rfl (by rw [decide_eq_false hs, beq_eq_false_iff_ne.mpr hx3]; rfl)
      (congrArg Res.low (ext64_eq (Nat.not_lt.mp hs) hx3 _)) hf
  case addi h d a x v =>
    obtain ⟨hx, hf⟩ := Option.ite_none_left_eq_some.mp hf
    exact produces_formW hr (u := fun p => p + if x = 0 then sx64 v else zx64 v) rfl (decide_eq_false hx)
      (fun p => congrArg (p + ·) (imm_signed_zero ..)) hf
  case andi h d a x v =>
    obtain ⟨hx, hf⟩ := Option.ite_none_left_eq_some.mp hf
    exact produces_formW hr (u := fun p => p &&& if x = 0 then zx64 v else sx64 v) rfl (decide_eq_false hx)
      (fun p => congrArg (p &&& ·) (imm_signed_one hx _)) hf
  case ori h d a x v =>
    obtain ⟨hx, hf⟩ := Option.ite_none_left_eq_some.mp hf
    exact produces_formW hr (u := fun p => p ||| if x = 0 then zx64 v else sx64 v) rfl (decide_eq_false hx)
      (fun p => congrArg (p ||| ·) (imm_signed_one hx _)) hf
  case bfx =>
    obtain ⟨hx, hf⟩ := Option.ite_none_left_eq_some.mp hf
    obtain ⟨hx, hw⟩ := not_or.mp hx
    exact produces_formW hr rfl (by rw [decide_eq_false hx, decide_eq_false hw]; rfl) (bfx64_eq hx _ _) hf
  all_goals cases hf

end Sys2Proof.Stated

/-- Settles O4: every scalar form is produced by its instruction (`scalarForm_produces`), and a producer goes on with its result. -/
theorem scalarResults : Obligations.ScalarResults := fun _ _ _ _ _ _ hf hr hn =>
  Sys2Proof.Stated.Produces.goesOn hr (Sys2Proof.Stated.scalarForm_produces hf hr) hn

/-! SUPPORT. BITC and BFI (R115, R125), and the instructions that set predicates (R118, R119, R121, R122). -/

namespace Sys2Proof.Machine

/-! ### Counts of bits (R115) -/

section
variable (v : W64)

/-- The zeros above the highest one. -/
theorem clz_bits {k : Nat} (hk : k = clz 64 v.toNat) :
    k ≤ 64 ∧ (∀ i, 64 - k ≤ i → v.getLsbD i = false) ∧ (k < 64 → v.getLsbD (63 - k) = true) := by
  unfold clz at hk
  split at hk
  case isTrue h0 =>
    refine ⟨hk.le, fun i _ => ?_, fun hlt => absurd hk hlt.ne⟩
    rw [BitVec.getLsbD, h0, Nat.zero_testBit]
  case isFalse h0 =>
    have hlog : Nat.log2 v.toNat < 64 := (Nat.log2_lt h0).mpr v.isLt
    refine ⟨by omega, fun i hi => ?_, fun _ => ?_⟩
    · have hpow : 2 ^ (Nat.log2 v.toNat + 1) ≤ 2 ^ i := Nat.pow_le_pow_right (by decide) (by omega)
      exact Nat.testBit_lt_two_pow (Nat.lt_of_lt_of_le Nat.lt_log2_self hpow)
    · rw [show 63 - k = Nat.log2 v.toNat by omega]
      exact Nat.testBit_log2 h0
/-- The zeros below the lowest one. -/
theorem ctz_bits {k : Nat} (hk : k = ctz 64 v.toNat) : k ≤ 64 ∧ (∀ i, i < k → v.getLsbD i = false) ∧ (k < 64 → v.getLsbD k = true) := by
  unfold ctz at hk
  cases hf : (List.range 64).find? fun i => bitOf v.toNat i with
  | none =>
    obtain rfl : k = 64 := hk.trans (congrArg (·.getD 64) hf)
    exact ⟨le_rfl, fun i hi => by simpa [bitOf_toNat] using List.find?_range_eq_none.mp hf i hi, fun hlt => absurd hlt (lt_irrefl _)⟩
  | some j =>
    rw [hf] at hk
    obtain rfl : k = j := hk
    obtain ⟨hbit, hmem, hlow⟩ := List.find?_range_eq_some.mp hf
    rw [bitOf_toNat] at hbit
    exact ⟨(List.mem_range.mp hmem).le, fun i hi => by simpa [bitOf_toNat] using hlow i hi, fun _ => hbit⟩
theorem popc_le : popc 64 v.toNat ≤ 64 := (List.length_filter_le _ _).trans List.length_range.le
theorem popc_eq : popc 64 v.toNat = ((List.range 64).filter fun i => v.getLsbD i).length := by simp only [popc, bitOf_toNat]
/-- A count of BITC is held in 64 bits. -/
theorem toNat_count {k : Nat} (hk : k ≤ 64) : (BitVec.ofNat 64 k).toNat = k := by
  rw [BitVec.toNat_ofNat]
  omega
theorem bitc64_clz : (bitc64 0 v).toNat = clz 64 v.toNat := toNat_count (clz_bits v rfl).1
theorem bitc64_ctz : (bitc64 1 v).toNat = ctz 64 v.toNat := toNat_count (ctz_bits v rfl).1
theorem bitc64_popc : (bitc64 2 v).toNat = ((List.range 64).filter fun i => v.getLsbD i).length := (toNat_count (popc_le v)).trans (popc_eq v)
theorem bitc64_reverse {i : Nat} (hi : i < 64) : (bitc64 3 v).getLsbD i = v.getLsbD (63 - i) := by
  rw [show bitc64 3 v = v.reverse from rfl, BitVec.getLsbD_reverse, BitVec.getMsbD_eq_getLsbD, decide_eq_true hi, Bool.true_and]

end

/-! ### Predicates (R47, R122) -/

theorem Thread.setPred_only (x : Thread) (n : BitVec 3) (b : Bool) : x.setPred n b = { x with p := (x.setPred n b).p } := by
  unfold Thread.setPred
  split <;> rfl
/-- Only the predicate named takes the value. -/
theorem Thread.setPred_same (x : Thread) {n : BitVec 3} (hn : n ≠ 0) (b : Bool) : (x.setPred n b).p.getLsbD n.toNat = b := by
  rw [Thread.setPred, if_neg hn, getLsbD_insBits, decide_eq_true n.isLt, if_neg (lt_irrefl _), if_pos (Nat.lt_succ_self _), Nat.sub_self]
  cases b <;> rfl
theorem Thread.setPred_other (x : Thread) {n : BitVec 3} {j : Nat} (hj : n = 0 ∨ j ≠ n.toNat) (b : Bool) :
    (x.setPred n b).p.getLsbD j = x.p.getLsbD j := by
  unfold Thread.setPred
  split
  case isTrue => rfl
  case isFalse hn =>
    have hj : j ≠ n.toNat := hj.resolve_left hn
    rw [getLsbD_insBits]
    by_cases h8 : j < 8
    · rw [decide_eq_true h8, Bool.true_and]
      rcases Nat.lt_or_gt_of_ne hj with hlt | hgt
      · rw [if_pos hlt]
      · rw [if_neg (Nat.lt_asymm hgt), if_neg (by omega)]
    · rw [decide_eq_false h8, Bool.false_and, BitVec.getLsbD_of_ge _ _ (Nat.not_lt.mp h8)]
theorem Thread.setPreds_bits (x : Thread) (v : W64) {j : Nat} (h1 : 1 ≤ j) (h8 : j < 8) :
    (x.setPreds (v.extractLsb' 0 8)).p.getLsbD j = v.getLsbD j := by
  show (((v.extractLsb' 0 8).extractLsb' 1 7 ++ 0#1 : BitVec 8)).getLsbD j = _
  rw [BitVec.getLsbD_append, if_neg (by omega), BitVec.getLsbD_extractLsb', BitVec.getLsbD_extractLsb', decide_eq_true (by omega),
    decide_eq_true (by omega), Bool.true_and, Bool.true_and, show 0 + (1 + (j - 1)) = j by omega]

/-! ### Conditions (Tables 04.8, 04.9) -/

/-- The NaNs are above the infinities in magnitude. -/
theorem isNaN32_iff (v : W32) : isNaN32 v = true ↔ 0xFF000000 < 2 * (v.toNat % 2 ^ 31) := by
  have he : (v.extractLsb' 23 8).toNat = v.toNat / 2 ^ 23 % 2 ^ 8 := by rw [BitVec.extractLsb'_toNat, Nat.shiftRight_eq_div_pow]
  have hf : (v.extractLsb' 0 23).toNat = v.toNat % 2 ^ 23 := by rw [BitVec.extractLsb'_toNat, Nat.shiftRight_zero]
  simp only [isNaN32, Bool.and_eq_true, beq_iff_eq, bne_iff_ne, ne_eq, ← BitVec.toNat_inj, he, hf]
  show _ = 255 ∧ ¬_ = 0 ↔ _
  omega

end Sys2Proof.Machine

namespace Sys2Proof.Stated

open Machine

theorem bv2_cases (x : BitVec 2) : x = 0 ∨ x = 1 ∨ x = 2 ∨ x = 3 := by revert x; decide +kernel
theorem bv3_cases (c : BitVec 3) : c = 0 ∨ c = 1 ∨ c = 2 ∨ c = 3 ∨ c = 4 ∨ c = 5 ∨ c = 6 ∨ c = 7 := by revert c; decide +kernel
theorem cmpCond_iff (cond : BitVec 3) (u v : W64) : cmpCond cond u v = true ↔ compares cond u v := by
  unfold compares
  rcases bv3_cases cond with rfl | rfl | rfl | rfl | rfl | rfl | rfl | rfl <;>
    simp [cmpCond, BitVec.slt_eq_decide, BitVec.sle_eq_decide, BitVec.ult_eq_decide, BitVec.ule_eq_decide]
theorem ord32_eq (v : W32) : ord32 v = place32 v := by
  have hv := v.isLt
  have hm : (v.extractLsb' 0 31).toNat = v.toNat % 2 ^ 31 := by rw [BitVec.extractLsb'_toNat, Nat.shiftRight_zero]
  have hs : v.getLsbD 31 = decide (2 ^ 31 ≤ v.toNat) := by
    rw [BitVec.getLsbD, Nat.testBit_eq_decide_div_mod_eq, decide_eq_decide]
    omega
  unfold ord32 place32
  rw [hs, hm]
  simp only [decide_eq_true_eq]
  split_ifs <;> omega
theorem fcmpCond_iff (cond : BitVec 3) (u v : W32) : fcmpCond cond u v = true ↔ fcompares cond u v := by
  have hnan : (isNaN32 u || isNaN32 v) = true ↔ 0xFF000000 < 2 * (u.toNat % 2 ^ 31) ∨ 0xFF000000 < 2 * (v.toNat % 2 ^ 31) := by
    rw [Bool.or_eq_true, isNaN32_iff, isNaN32_iff]
  unfold fcmpCond fcompares
  by_cases h : (isNaN32 u || isNaN32 v) = true
  · rw [if_pos h, if_pos (hnan.mp h), Bool.or_eq_true, beq_iff_eq, beq_iff_eq]
  · rw [if_neg h, if_neg fun e => h (hnan.mpr e), ord32_eq, ord32_eq]
    rcases bv3_cases cond with rfl | rfl | rfl | rfl | rfl | rfl | rfl | rfl <;> simp

/-! ### BITC and BFI as they issue (R115, R125) -/

section
variable {h : Hdr} {d a : Spec} {s : State} {pc : BitVec 10} {l0 l1 : Loop} (hd : dstOk d = true) (ha : srcOk a = true)
  (hb : s.anyBound [d, a] = false) (hp : Passes s h)
include hd ha hb hp

theorem bitc_gives (x : BitVec 2) (hf : Follows s 1 pc l0 l1) : Gives (.bitc h d a x) h d s pc l0 l1 (bitc64 x (lane s a)) := by
  obtain ⟨hg, hpp, hc⟩ := hp
  refine issue_produces (by simp [okSpecs, hd, ha]) (.inr hpp) hg hb hf ?_
  rw [src0_unbound hb hc (by simp)]
  rfl
theorem bfi_gives {lsb wm1 : BitVec 6} (hf : Follows s 2 pc l0 l1) (hw : lsb.toNat + wm1.toNat + 1 ≤ 64) :
    Gives (.bfi h d a lsb wm1) h d s pc l0 l1 (insBits (lane s d) lsb.toNat (wm1.toNat + 1) (lane s a).toNat) := by
  obtain ⟨hg, hpp, hc⟩ := hp
  have hdad : s.anyBound (d :: [a, d]) = false := anyBound_subset hb (by simp)
  refine issue_produces ?_ (.inr hpp) hg hdad hf ?_
  · rw [decide_eq_false (Nat.not_lt.mpr hw)]
    simp [okSpecs, hd, ha]
  · rw [src0_unbound hb hc (by simp), src0Next_unbound (m := [a]) hb hc (by simp) (by simp)]
    rfl

end

theorem bitOperations : Sys2Proof.Stated.BitOperations := by
  refine fun h d a s pc l0 l1 hd ha hb hp => ⟨fun x hf => ⟨_, bitc_gives hd ha hb hp x hf, ?_, ?_, ?_, ?_⟩, fun lsb wm1 hf hw =>
    ⟨_, bfi_gives hd ha hb hp hf hw, fun i hi => ?_⟩⟩
  · rintro rfl
    exact clz_bits _ (bitc64_clz _)
  · rintro rfl
    exact ctz_bits _ (bitc64_ctz _)
  · rintro rfl
    exact bitc64_popc _
  · rintro rfl i hi
    exact bitc64_reverse _ hi
  · rw [getLsbD_insBits, decide_eq_true hi, Bool.true_and]
    by_cases hlo : i < lsb.toNat
    · rw [if_pos hlo, if_neg fun hin => Nat.not_le.mpr hlo hin.1]
    · simp only [if_neg hlo, Nat.not_lt.mp hlo, true_and, ← Nat.add_assoc]
      rfl

/-! ### The instructions that set predicates (R118, R119, R121, R122) -/

section
variable {h : Hdr} {s : State} {pc : BitVec 10} {l0 l1 : Loop} (hp : Passes s h) (hf : Follows s 1 pc l0 l1)
include hp hf

/-- One whose effect is on the predicates alone. -/
theorem issue_putsPred {ill : State → Bool} {srcs : List Spec} {f : State → Thread → Thread} {p' : BitVec 8} (hi : ill s = false)
    (hb : s.anyBound srcs = false) (hset : f s s.me = { s.me with p := p' }) :
    issue h 1 false ill (putsPred srcs f) s = .next (s.modMe fun y => goes pc l0 l1 h.w { y with p := p' }) := by
  obtain ⟨hg, hpp, -⟩ := hp
  refine (issue_passes hi (.inr hpp) hg).trans (congrArg _ ?_)
  have hsame : s.modMe (f s) = s.modMe fun y => { y with p := p' } := modTh_congr hset
  rw [putsPred_plain hb, hsame]
  exact after_done_modMe (f := fun y => { y with p := p' }) hf
/-- One that sets one predicate to its condition. -/
theorem setsPred_issue {i : Instr} {n : BitVec 3} {c : Prop} {ill : State → Bool} {srcs : List Spec} {g : State → Thread → Bool} (hn : n ≠ 0)
    (hx : exec i s = issue h 1 false ill (putsPred srcs fun s t => t.setPred n (g s t)) s) (hi : ill s = false)
    (hb : s.anyBound srcs = false) (hc : g s s.me = true ↔ c) : SetsPred i s pc l0 l1 h.w n c :=
  ⟨_, hx.trans (issue_putsPred hp hf hi hb (Thread.setPred_only ..)), by rw [Thread.setPred_same _ hn]; exact hc,
    fun _ hj => Thread.setPred_other _ (.inr hj) _⟩

section
variable {cond pd : BitVec 3} (hpd : pd ≠ 0)
include hpd

theorem cmp_setsPred {a b : BitVec 6} {x : BitVec 2} (hx : x ≠ 3) (ha : (regsI a b x).all srcOk = true)
    (hb : s.anyBound (regsI a b x) = false) :
    SetsPred (.cmp h cond pd a b x) s pc l0 l1 h.w pd (compares cond (lane s a) (opI s b x)) := by
  refine setsPred_issue hp hf hpd rfl ?_ hb ?_
  · rw [beq_eq_false_iff_ne.mpr hx, beq_eq_false_iff_ne.mpr hpd, okSpecs, show srcsI a b x = regsI a b x from rfl, ha]
    rfl
  · have hm : a ∈ regsI a b x := by unfold regsI; split <;> simp
    rw [src0_unbound hb hp.2.2 hm, opB_unbound hb hp.2.2 hm fun h0 => by simp [regsI, h0]]
    exact cmpCond_iff ..
theorem fcmp_setsPred {a b : Spec} (ha : srcOk a = true) (hbs : srcOk b = true) (hb : s.anyBound [a, b] = false) :
    SetsPred (.fcmp h cond pd a b) s pc l0 l1 h.w pd (fcompares cond ((lane s a).setWidth 32) ((lane s b).setWidth 32)) := by
  refine setsPred_issue hp hf hpd rfl ?_ hb ?_
  · rw [beq_eq_false_iff_ne.mpr hpd]
    simp [okSpecs, ha, hbs]
  · rw [src0_unbound hb hp.2.2 (by simp), src0Next_unbound (m := [a]) hb hp.2.2 (by simp) (by simp), ← BitVec.setWidth_eq_extractLsb' (by decide),
      ← BitVec.setWidth_eq_extractLsb' (by decide)]
    exact fcmpCond_iff ..

end

end

/-- A predicate or its complement, as PLOG takes it. -/
theorem pred_xor_iff (s : State) (n : BitVec 3) (neg : BitVec 1) : (s.me.pred n != (neg == 1)) = true ↔ (pred s n ↔ neg = 0) := by
  have hneg : neg = 0 ∨ neg = 1 := by revert neg; decide +kernel
  have hpred : s.me.pred n = true ↔ pred s n := by rw [Thread.pred, Bool.or_eq_true, beq_iff_eq, pred]
  rcases hneg with rfl | rfl <;> simp [← hpred]
theorem plogOp_iff (x : BitVec 2) {p q : Bool} {u v : Prop} (hu : p = true ↔ u) (hv : q = true ↔ v) :
    plogOp x p q = true ↔ if x = 0 then u ∧ v else if x = 1 then u ∨ v else if x = 2 then ¬(u ↔ v) else u ∧ ¬v := by
  rcases bv2_cases x with rfl | rfl | rfl | rfl <;> simp [plogOp, ← hu, ← hv]

theorem predicateResults : Sys2Proof.Stated.PredicateResults := by
  refine fun h s pc l0 l1 hp hf => ⟨fun cond pd a b x hpd => cmp_setsPred hp hf hpd, fun cond pd a b hpd => fcmp_setsPred hp hf hpd,
    fun pd pa pb na nb x hpd => ?_, fun pd v hpd => ?_, fun pd a n hpd ha hb => ?_, fun a ha hb => ?_⟩
  · refine setsPred_issue hp hf hpd rfl (beq_eq_false_iff_ne.mpr hpd) (anyBound_nil s) ?_
    exact plogOp_iff x (pred_xor_iff s pa na) (pred_xor_iff s pb nb)
  · refine setsPred_issue hp hf hpd rfl (beq_eq_false_iff_ne.mpr hpd) (anyBound_nil s) beq_iff_eq
  · refine setsPred_issue hp hf hpd rfl (by rw [beq_eq_false_iff_ne.mpr hpd, ha]; rfl) hb ?_
    rw [src0_unbound hb hp.2.2 (by simp)]
  · refine ⟨_, issue_putsPred hp hf (by rw [ha]; rfl) hb rfl, fun j h1 h8 => ?_⟩
    rw [src0_unbound hb hp.2.2 (by simp)]
    exact s.me.setPreds_bits _ h1 h8

end Sys2Proof.Stated

/-- Settles O5: BITC and BFI (`bitOperations`), the instructions that set predicates (`predicateResults`). -/
theorem bitsAndPredicates : Obligations.BitsAndPredicates := ⟨Sys2Proof.Stated.bitOperations, Sys2Proof.Stated.predicateResults⟩

/-! SUPPORT. The words of the scalar and compare instructions, and their rules as wholes (R113 to R116, R118, R119). -/

namespace Sys2Proof.Stated

open Machine Decode Encode

/-! ### Words by their fields (Tables 02.4, 02.6) -/

theorem wordOf_eq (h : Hdr) (o : BitVec 7) (d a b : BitVec 6) (x : BitVec 2) :
    wordOf h o.toNat d.toNat a.toNat b.toNat x.toNat = word0 h o d a b x := by
  obtain ⟨hw, hgn, hgp⟩ := h
  have hbit (b : Bool) : b.toNat = bit b := by cases b <;> rfl
  have hlt := (word0 ⟨hw, hgn, hgp⟩ o d a b x).isLt
  refine BitVec.eq_of_toNat_eq ?_
  simp only [word0, append_toNat, BitVec.toNat_ofBool, hbit] at hlt ⊢
  rw [wordOf, BitVec.toNat_ofNat]
  dsimp only
  omega
/-- A word of the scalar group (Table 02.8) whose guard is not the reserved one. -/
theorem decode_scalar {h : Hdr} (hg : ¬(h.gn = true ∧ h.gp = 0)) {o : BitVec 7} (hlo : 0x10 ≤ o.toNat) (hhi : o.toNat < 0x28) (d a b : BitVec 6)
    (x : BitVec 2) : decode (wordOf h o.toNat d.toNat a.toNat b.toNat x.toNat) 0 = decScalar o.toNat h d a b x := by
  rw [wordOf_eq]
  simp only [decode, hdr_word0, op_word0, fieldD_word0, fieldA_word0, fieldB_word0, fieldX_word0]
  rw [if_neg hg, if_neg (Nat.not_lt.mpr hlo), if_pos hhi]
/-- A word that raises an error is no instruction. -/
theorem isNone_error {w : W32} {e : DecodeError} (h : decode w 0 = .error e) : IsNone w := fun _ hi => nomatch hi.symm.trans h

section
variable {h : Hdr} (hg : ¬(h.gn = true ∧ h.gp = 0)) (d a b : BitVec 6) (x : BitVec 2)
include hg

theorem shr_word : Is (wordOf h 0x1B d.toNat a.toNat b.toNat x.toNat) (.shr h d a b x) :=
  decode_scalar hg (o := 0x1B) (by decide +kernel) (by decide +kernel) d a b x
theorem minmax_word : Is (wordOf h 0x1C d.toNat a.toNat b.toNat x.toNat)
    (if x = 0 then .min h d a b else if x = 1 then .max h d a b else if x = 2 then .minu h d a b else .maxu h d a b) := by
  refine (decode_scalar hg (o := 0x1C) (by decide +kernel) (by decide +kernel) d a b x).trans ?_
  rcases bv2_cases x with rfl | rfl | rfl | rfl <;> rfl
theorem bitc_word : decode (wordOf h 0x1D d.toNat a.toNat b.toNat x.toNat) 0 = unusedZero (b = 0) (.ok (.bitc h d a x)) :=
  decode_scalar hg (o := 0x1D) (by decide +kernel) (by decide +kernel) d a b x
theorem ext_word : decode (wordOf h 0x1E d.toNat a.toNat b.toNat x.toNat) 0 = allowed (b ≤ 1 ∧ x ≠ 3) (.ok (.ext h d a b x)) :=
  decode_scalar hg (o := 0x1E) (by decide +kernel) (by decide +kernel) d a b x

end

/-- The condition and PD stand side by side in D (Table 02.6). -/
theorem condition_field (cond pd : BitVec 3) : 8 * cond.toNat + pd.toNat = (cond ++ pd).toNat := by
  rw [append_toNat]
  omega

section
variable {h : Hdr} (hg : ¬(h.gn = true ∧ h.gp = 0)) (cond pd : BitVec 3) (a b : BitVec 6) (x : BitVec 2)
include hg

theorem cmp_word : decode (wordOf h 0x20 (8 * cond.toNat + pd.toNat) a.toNat b.toNat x.toNat) 0 =
    allowed (x ≠ 3) (.ok (.cmp h cond pd a b x)) := by
  rw [condition_field]
  refine (decode_scalar hg (o := 0x20) (by decide +kernel) (by decide +kernel) (cond ++ pd) a b x).trans ?_
  show allowed (x ≠ 3) (.ok (.cmp h ((cond ++ pd).extractLsb' 3 3) ((cond ++ pd).extractLsb' 0 3) a b x)) = _
  rw [part_f3_f3_at3, part_f3_f3_at0]
theorem fcmp_word : decode (wordOf h 0x21 (8 * cond.toNat + pd.toNat) a.toNat b.toNat x.toNat) 0 =
    allowed (x = 0) (.ok (.fcmp h cond pd a b)) := by
  rw [condition_field]
  refine (decode_scalar hg (o := 0x21) (by decide +kernel) (by decide +kernel) (cond ++ pd) a b x).trans ?_
  show allowed (x = 0) (.ok (.fcmp h ((cond ++ pd).extractLsb' 3 3) ((cond ++ pd).extractLsb' 0 3) a b)) = _
  rw [part_f3_f3_at3, part_f3_f3_at0]

end

/-! ### The rules of SHR, MIN, MAX, MINU, MAXU and EXT as they issue (R113, R114, R116) -/

section
variable {h : Hdr} {d a : Spec} {s : State} {pc : BitVec 10} {l0 l1 : Loop} (hd : dstOk d = true) (hab : s.anyBound [d, a] = false)
  (hp : Passes s h) (hf : Follows s 1 pc l0 l1)
include hd hab hp hf

/-- A scalar form of one word gives its number. -/
theorem gives_of_form {i : Instr} {srcs : List Spec} {val : State → Res} {v : W64} (hi : scalarForm i = some ⟨h, 1, false, srcs, d, val⟩)
    (hv : val s = .low v) (hs : srcs.all srcOk = true) (hb : s.anyBound srcs = false) : Gives i h d s pc l0 l1 v := by
  obtain ⟨hg, hpp, hc⟩ := hp
  have hdb : s.anyBound (d :: srcs) = false := by
    rw [State.anyBound, List.any_cons, anyBound_false hab List.mem_cons_self]
    exact hb
  have hres : Form.result ⟨h, 1, false, srcs, d, val⟩ s = setLane0 (held s d) v := congrArg (Res.over · (held s d)) hv
  have hx := scalarResults i _ s pc l0 l1 hi ⟨hd, hs, hdb, hg, .inr hpp, hc⟩ hf
  rw [hres] at hx
  exact hx

variable (ha : srcOk a = true)
include ha

theorem shr_gives {b : Spec} {x : BitVec 2} {n : Nat} (hr : x = 0 ∨ x = 3 → srcOk b = true ∧ s.anyBound [b] = false ∧ n = (lane s b).toNat)
    (hn : x = 1 ∨ x = 2 → n = b.toNat) :
    Gives (.shr h d a b x) h d s pc l0 l1
      (if x = 0 ∨ x = 1 then (if n < 64 then BitVec.ofNat 64 ((lane s a).toNat / 2 ^ n) else 0)
       else BitVec.ofInt 64 ((lane s a).toInt / 2 ^ min n 63)) := by
  have hba : s.anyBound [a] = false := anyBound_subset hab (by simp)
  have hg := gives_of_form hd hab hp hf (i := .shr h d a b x) rfl rfl
  have hcount : (if x = 0 ∨ x = 3 then (lane s b).toNat else b.toNat) = n := by
    split
    case isTrue h03 => exact (hr h03).2.2.symm
    case isFalse h03 => exact (hn (by have := bv2_cases x; tauto)).symm
  have hzero : BitVec.ofNat 64 ((lane s a).toNat / 2 ^ n) = if n < 64 then BitVec.ofNat 64 ((lane s a).toNat / 2 ^ n) else 0 := by
    split
    case isTrue => rfl
    case isFalse h64 =>
      have hpow : 2 ^ 64 ≤ 2 ^ n := Nat.pow_le_pow_right (by decide) (Nat.not_lt.mp h64)
      rw [Nat.div_eq_of_lt (Nat.lt_of_lt_of_le (lane s a).isLt hpow)]
      rfl
  rw [← hzero, ← hcount]
  refine hg ?_ ?_ <;> split
  case refine_1.isTrue h03 => simp [ha, (hr h03).1]
  case refine_1.isFalse => simp [ha]
  case refine_2.isTrue h03 =>
    rw [State.anyBound, List.any_cons, anyBound_false hba List.mem_cons_self]
    exact (hr h03).2.1
  case refine_2.isFalse => exact hba
/-- MIN, MAX, MINU and MAXU: the lesser or the greater (R114). -/
theorem minmax_gives {b : Spec} (hbs : srcOk b = true) (hb : s.anyBound [b] = false) :
    Gives (.min h d a b) h d s pc l0 l1 (if (lane s a).toInt ≤ (lane s b).toInt then lane s a else lane s b) ∧
    Gives (.max h d a b) h d s pc l0 l1 (if (lane s b).toInt ≤ (lane s a).toInt then lane s a else lane s b) ∧
    Gives (.minu h d a b) h d s pc l0 l1 (if (lane s a).toNat ≤ (lane s b).toNat then lane s a else lane s b) ∧
    Gives (.maxu h d a b) h d s pc l0 l1 (if (lane s b).toNat ≤ (lane s a).toNat then lane s a else lane s b) := by
  have hs : [a, b].all srcOk = true := by simp [ha, hbs]
  have hab2 : s.anyBound [a, b] = false := by
    rw [State.anyBound, List.any_cons, anyBound_false hab (List.mem_cons_of_mem _ List.mem_cons_self)]
    exact hb
  rw [← greater_swap toInt_injective, ← greater_swap toNat_injective]
  exact ⟨gives_of_form hd hab hp hf rfl rfl hs hab2, gives_of_form hd hab hp hf rfl rfl hs hab2, gives_of_form hd hab hp hf rfl rfl hs hab2,
    gives_of_form hd hab hp hf rfl rfl hs hab2⟩
theorem ext_gives {e : BitVec 6} {x : BitVec 2} (he : e.toNat ≤ 1) (hx : x ≠ 3) :
    Gives (.ext h d a e x) h d s pc l0 l1 (extend (e == 1) (8 * 2 ^ x.toNat) (lane s a).toNat) := by
  have hform : scalarForm (.ext h d a e x) =
      some ⟨h, 1, false, [a], d, fun s => .low (extend (e == 1) (8 * 2 ^ x.toNat) (lane s a).toNat)⟩ := by
    simp only [scalarForm]
    rw [if_neg (not_or.mpr ⟨Nat.not_lt.mpr he, hx⟩)]
  exact gives_of_form hd hab hp hf hform rfl (by simp [ha]) (anyBound_subset hab (by simp))

end

end Sys2Proof.Stated

open Sys2Proof Sys2Proof.Machine Sys2Proof.Stated in
/-- Settles O1: the words by their opcodes (`decode_scalar`), SHR (`shr_gives`), the minima and maxima (`minmax_gives`), the counts of BITC
(`bitc_gives`), EXT (`ext_gives`). -/
theorem scalarRulesInFull : Obligations.ScalarRulesInFull := by
  refine ⟨fun h d a b x hg => ⟨shr_word hg .., minmax_word hg .., fun hb => (bitc_word hg ..).trans (if_pos hb),
    fun hb => isNone_error ((bitc_word hg ..).trans (if_neg hb)), fun hb hx => (ext_word hg ..).trans (if_pos ⟨hb, hx⟩),
    fun hbx => isNone_error ((ext_word hg ..).trans (if_neg fun hin => hbx.elim (Nat.not_lt.mpr hin.1) hin.2))⟩, ?_⟩
  intro h d a b x s pc l0 l1 hd ha hab hp hf
  have hbitc (x : BitVec 2) := bitc_gives hd ha hab hp x hf
  refine ⟨fun n => shr_gives hd hab hp hf ha, minmax_gives hd hab hp hf ha, ⟨_, hbitc 0, clz_bits _ (bitc64_clz _)⟩,
    ⟨_, hbitc 1, ctz_bits _ (bitc64_ctz _)⟩, ?_, ⟨_, hbitc 3, fun i hi => ?_⟩,
    fun e he hx => ⟨_, ext_gives hd hab hp hf ha he hx, fun i hi => ?_⟩⟩
  · rw [← popc_eq]
    exact hbitc 2
  · rw [bitc64_reverse _ (by omega), show 63 - (63 - i) = i by omega]
  · exact getLsbD_extend _ _ (Nat.mul_pos (by decide) (Nat.two_pow_pos _)) hi

open Sys2Proof Sys2Proof.Machine Sys2Proof.Stated in
/-- Settles O2: the words by their opcodes (`decode_scalar`), ILLEGAL for p0 before the guard is asked, the conditions (`cmp_setsPred`,
`fcmp_setsPred`). -/
theorem compareRulesInFull : Obligations.CompareRulesInFull := by
  refine ⟨fun h cond pd a b x hg => ⟨fun hx => (cmp_word hg ..).trans (if_pos hx),
    fun hx => isNone_error ((cmp_word hg ..).trans (if_neg (not_not.mpr hx))),
    fun hx => (fcmp_word hg ..).trans (if_pos hx), fun hx => isNone_error ((fcmp_word hg ..).trans (if_neg hx))⟩,
    fun h cond a b x s _ => ⟨?_, ?_⟩,
    fun h cond pd a b x s pc l0 l1 hpd hp hf => ⟨cmp_setsPred hp hf hpd, fcmp_setsPred hp hf hpd⟩⟩
  · exact issue_illegal (.inl (Bool.or_true _))
  · exact issue_illegal (.inl (Bool.or_true _))

/-! SUPPORT. Elements of registers (R129, R132), and the vector instructions element by element (R150, R153 to R161, R164 to R166, R169). -/

namespace Sys2Proof.Machine

/-! ### Elements in their places (R129) -/

theorem el_lt (v : V256) (w i : Nat) : el v w i < 2 ^ w := Nat.mod_lt _ (Nat.two_pow_pos w)
section
variable {f : BitVec 4} {j : Nat} (hj : j < count f)
include hj

theorem place_le : fmtBits f * j + fmtBits f ≤ 256 := (Nat.mul_le_mul_left (fmtBits f) hj).trans (Nat.mul_div_le 256 (fmtBits f))
/-- A register built place by place. -/
theorem el_places (g : Nat → Nat) : el (pack (fmtBits f) ((List.range (count f)).map g)) (fmtBits f) j = g j % 2 ^ fmtBits f := by
  rw [el_pack _ (place_le hj)]
  simp [List.getD_eq_getElem?_getD, hj]
theorem el_map2 (vs : Bool) (g : Nat → Nat → Nat) (a b : V256) :
    el (map2 f vs g a b) (fmtBits f) j = g (el a (fmtBits f) j) (el b (fmtBits f) (if vs then 0 else j)) % 2 ^ fmtBits f :=
  el_places hj _
theorem el_replicate (v : Nat) : el (pack (fmtBits f) (List.replicate (count f) v)) (fmtBits f) j = v % 2 ^ fmtBits f := by
  rw [el_pack _ (place_le hj)]
  simp [List.getD_eq_getElem?_getD, hj]

end

/-! ### Ranges (R132) -/

theorem clamp_eq {lo hi : Int} (h : lo ≤ hi) (z : Int) : clamp (lo, hi) z = max lo (min hi z) := by
  unfold clamp
  split_ifs <;> omega
theorem fmtBits_pos_of_isN {f : BitVec 4} (h : isN f = true) : 0 < fmtBits f := by revert f; decide +kernel
theorem fmtBits_pos_of_isShift {f : BitVec 4} (h : isShift f = true) : 0 < fmtBits f := by revert f; decide +kernel
theorem fmtBits_pos_of_isF {f : BitVec 4} (h : isF f = true) : 0 < fmtBits f := by revert f; decide +kernel
theorem fmtBits_ge_of_isFN {f : BitVec 4} (h : isFN f = true) : 8 ≤ fmtBits f := by revert f; decide +kernel
theorem isN_of_isFN {f : BitVec 4} (h : isFN f = true) (hF : isF f = false) : isN f = true := by
  rw [isFN, hF, Bool.false_or] at h
  exact h

end Sys2Proof.Machine

namespace Sys2Proof.Stated

open Machine

/-! ### What the element functions compute (R154 to R160, R169) -/

/-- An integer result, wrapped or saturated (R154). -/
theorem intEl_eq (f : BitVec 4) (sat : Bool) (z : Int) : intEl f sat z = (held_ f sat z % 2 ^ fmtBits f).toNat := by
  have hrange : clamp (intRange f) z = held_ f true z := by
    unfold intRange held_
    split
    case isTrue => exact clamp_eq (by decide +kernel) z
    case isFalse =>
      have hpos : (0 : Int) < (2 ^ (fmtBits f - 1) : Nat) := by exact_mod_cast Nat.two_pow_pos _
      rw [clamp_eq (by omega)]
      norm_cast
  rw [intEl, wrapOf_eq]
  cases sat
  · rfl
  · rw [if_pos rfl, hrange]
/-- An element times a power of two (R160). -/
theorem scaleEl_eq {f : BitVec 4} (u v : Nat) (h : isF f = true) : scaleEl f u v =
    roundF f .rne (match valueOf f u with
      | .fin n m e => .fin n m (e + max (-600) (min 600 (Int.bmod v (2 ^ fmtBits f)))) | w => w) := by
  rw [← sintOf_eq_bmod (fmtBits_pos_of_isF h), ← clamp_eq (by decide +kernel)]
  rfl

section
variable {f : BitVec 4} {u v : Nat} (hu : u < 2 ^ fmtBits f)
include hu

/-- The key of an integer code is its number. -/
theorem keyN_eq_num (hw : 0 < fmtBits f) : keyN f u = num f u := by
  unfold keyN num
  split
  case isTrue h9 =>
    subst h9
    rw [Nat.mod_eq_of_lt (show u < 256 from hu)]
  case isFalse => exact sintOf_eq_bmod hw u
variable (hv : v < 2 ^ fmtBits f)
include hv

/-- A sum, difference or product of two elements (R154, R156). -/
theorem arithEl_eq (h : isFN f = true) (sat : Bool) (ff : FVal → FVal → FVal) (fi : Int → Int → Int) :
    arithEl f sat ff fi u v = arithAt f sat ff fi u v := by
  unfold arithEl arithAt
  cases hF : isF f
  · have hw := fmtBits_pos_of_isN (isN_of_isFN h hF)
    rw [if_neg (by decide), if_neg (of_decide_eq_false hF), intEl_eq, keyN_eq_num hu hw, keyN_eq_num hv hw]
  · rw [if_pos rfl, if_pos (of_decide_eq_true hF)]
/-- The lesser or the greater of two elements (R158). -/
theorem minmaxEl_eq (h : isFN f = true) (mx : Bool) : minmaxEl f mx u v =
    if (isF f && (nanF f u || nanF f v)) = true then canonNaN f
    else
      let less (m n : Nat) : Bool := if isF f then decide (keyF f m < keyF f n) else decide (num f m < num f n)
      if mx then (if less u v then v else u) else (if less v u then v else u) := by
  unfold minmaxEl
  cases hF : isF f
  · have hw := fmtBits_pos_of_isN (isN_of_isFN h hF)
    simp [keyN_eq_num hu hw, keyN_eq_num hv hw]
  · simp

end

theorem unEl_integer {f : BitVec 4} {u : Nat} (hu : u < 2 ^ fmtBits f) (hF : isF f = false) (hN : isN f = true) (x : BitVec 2) :
    unEl f x u = ((if x = 0 then ((num f u).natAbs : Int) else if x = 1 then -(num f u) else (num f u).sign) % 2 ^ fmtBits f).toNat := by
  unfold unEl
  rw [hF, if_neg (by decide), keyN_eq_num hu (fmtBits_pos_of_isN hN), wrapOf_eq]
/-- A shift or a rotation of an element (R169), in its place. -/
theorem shEl_mod {w u n : Nat} (hw : 0 < w) (hu : u < 2 ^ w) (x : BitVec 2) : shEl w x u n % 2 ^ w =
    (if x = 0 then u * 2 ^ n
     else if x = 1 then u / 2 ^ n
     else if x = 2 then (Int.bmod u (2 ^ w) / 2 ^ min n (w - 1) % 2 ^ w).toNat
     else u * 2 ^ (n % w) + u / 2 ^ (w - n % w)) % 2 ^ w := by
  rcases bv2_cases x with rfl | rfl | rfl | rfl
  · show (if n < w then u * 2 ^ n % 2 ^ w else 0) % 2 ^ w = u * 2 ^ n % 2 ^ w
    split
    case isTrue => exact Nat.mod_mod ..
    case isFalse h => exact (Nat.mod_eq_zero_of_dvd (Dvd.dvd.mul_left (Nat.pow_dvd_pow 2 (Nat.not_lt.mp h)) u)).symm
  · show (if n < w then u / 2 ^ n else 0) % 2 ^ w = u / 2 ^ n % 2 ^ w
    split
    case isTrue => rfl
    case isFalse h => rw [Nat.div_eq_of_lt (Nat.lt_of_lt_of_le hu (Nat.pow_le_pow_right (by decide) (Nat.not_lt.mp h)))]
  · show wrapOf w (sintOf w u / (2 ^ min n (w - 1) : Nat)) % 2 ^ w = _
    rw [sintOf_eq_bmod hw, wrapOf_eq]
    norm_cast
  · exact Nat.mod_mod ..

end Sys2Proof.Stated

/-! SUPPORT. The vector instructions with an element for each place, as they issue (R150, R153 to R161, R164 to R166, R169). -/

namespace Sys2Proof.Stated

open Machine

/-- The instruction leaves the form's elements in D, enters the last-result file with them, and goes on. -/
def VForm.Leaves (f : VForm) (i : Instr) (s : State) : Prop :=
  ∀ (pc : BitVec 10) (l0 l1 : Loop), Follows s 1 pc l0 l1 →
    ∃ v : V256, exec i s = .next (s.modMe fun x => goes pc l0 l1 f.h.w ((x.setReg f.d v).last f.d v)) ∧
      ∀ j, j < count s.ef → el v (fmtBits s.ef) j = f.elem j % 2 ^ fmtBits s.ef

section
variable {h : Hdr} {d : Spec} {srcs : List Spec} {s : State} {pc : BitVec 10} {l0 l1 : Loop}

theorem anyBound_eraseDups (hb : s.anyBound (d :: srcs) = false) : s.anyBound (d :: srcs.eraseDups) = false :=
  anyBound_subset hb (List.cons_subset_cons d fun _ ha => List.mem_eraseDups.mp ha)
/-- A vector instruction that issues leaves its register. -/
theorem vector_goesOn {bad : State → Bool} {g : State → V256} {v : V256} (hd : dstOk d = true) (hs : srcs.all srcOk = true)
    (hb : s.anyBound (d :: srcs) = false) (hg : s.me.guard h = true) (hbad : bad s = false) (hf : Follows s 1 pc l0 l1) (hv : g s = v) :
    vector h d srcs bad g s = .next (s.modMe fun x => goes pc l0 l1 h.w ((x.setReg d v).last d v)) :=
  issue_produces (by simp [okSpecs, hd, hs, hbad]) (.inl rfl) hg (anyBound_eraseDups hb) hf hv
theorem leaves_vector {i : Instr} {e : Nat → Nat} {bad : State → Bool} {g : State → V256} (hx : exec i s = vector h d srcs bad g s)
    (hr : VForm.Ready ⟨h, srcs, d, e⟩ s) (hbad : bad s = false)
    (he : ∀ j, j < count s.ef → el (g s) (fmtBits s.ef) j = e j % 2 ^ fmtBits s.ef) : VForm.Leaves ⟨h, srcs, d, e⟩ i s := by
  obtain ⟨hd, hs, hb, hg, -⟩ := hr
  exact fun pc l0 l1 hf => ⟨_, hx.trans (vector_goesOn hd hs hb hg hbad hf rfl), he⟩

end

/-- A result that draws nothing. -/
theorem producesSeeded_keeps {srcs : List Spec} {d : Spec} {f : State → Res × W64} {s : State} {v : V256} (hb : s.anyBound (d :: srcs) = false)
    (hv : f s = (.whole v, s.me.rseed)) : producesSeeded srcs d f s = .done (s.modMe fun x => (x.setReg d v).last d v) := by
  have hb' := anyBound_eraseDups hb
  have hsame : (s.modMe fun x => { x with rseed := s.me.rseed }) = s := State.modTh_same rfl
  refine Eq.trans ?_ (produces_plain (f := fun _ => .whole v) hb')
  unfold producesSeeded produces
  rw [hv, popAll_same (anyBound_subset hb' (List.subset_cons_self ..)), hsame]

section
variable {i : Instr} {h : Hdr} {d a b : Spec} {f : VForm} {s : State} (hr : f.Ready s)
include hr

/-- VADD, VSUB and VMUL (R155, R156). -/
theorem leaves_arith {x : BitVec 2} {ff : FVal → FVal → FVal} {fi : Int → Int → Int} (hx : exec i s = arith h d a b x ff fi s)
    (hf : arithForm s h d a b x ff fi = some f) : f.Leaves i s := by
  obtain ⟨⟨hFN, hsat⟩, hf⟩ := Option.ite_none_right_eq_some.mp hf
  cases hf
  refine leaves_vector hx hr ?_ fun j hj => ?_
  · simpa [hFN, isF] using hsat
  · obtain ⟨-, -, hb, -, hc⟩ := hr
    rw [el_map2 hj, src_unbound hb hc (by simp), srcAfter_unbound hb hc (by simp), arithEl_eq (el_lt ..) (el_lt ..) hFN]
    rfl
theorem leaves_vfma {x : BitVec 2} (hf : vectorForm s (.vfma h d a b x) = some f) : f.Leaves (.vfma h d a b x) s := by
  obtain ⟨⟨hF, hx3⟩, hf⟩ := Option.ite_none_right_eq_some.mp hf
  cases hf
  refine leaves_vector (i := .vfma h d a b x) rfl hr ?_ fun j hj => ?_
  · rw [hF, beq_eq_false_iff_ne.mpr hx3]
    rfl
  · obtain ⟨-, -, hb, -, hc⟩ := hr
    rw [el_places hj, src_unbound hb hc (by simp), srcAfter_unbound hb hc (by simp), srcAfter_unbound hb hc (by simp)]
    rcases bv2_cases x with rfl | rfl | rfl | rfl
    · rfl
    · rfl
    · rfl
    · exact absurd rfl hx3
theorem leaves_vminmax {x : BitVec 2} (hf : vectorForm s (.vminmax h d a b x) = some f) : f.Leaves (.vminmax h d a b x) s := by
  obtain ⟨hFN, hf⟩ := Option.ite_none_right_eq_some.mp hf
  cases hf
  refine leaves_vector (i := .vminmax h d a b x) rfl hr (by rw [hFN]; rfl) fun j hj => ?_
  obtain ⟨-, -, hb, -, hc⟩ := hr
  rw [el_map2 hj, src_unbound hb hc (by simp), srcAfter_unbound hb hc (by simp), minmaxEl_eq (el_lt ..) (el_lt ..) hFN]
  rfl
theorem leaves_vun {x : BitVec 2} (hf : vectorForm s (.vun h d a x) = some f) : f.Leaves (.vun h d a x) s := by
  change ite .. = _ at hf
  split at hf
  case isTrue hF =>
    cases hf
    refine leaves_vector (i := .vun h d a x) rfl hr (by rw [isFN, hF, Bool.not_true, Bool.and_false]; rfl) fun j hj => ?_
    obtain ⟨-, -, hb, -, hc⟩ := hr
    rw [el_map1 _ _ hj, src_unbound hb hc (by simp)]
    rfl
  case isFalse hF =>
    obtain ⟨⟨hN, hx3⟩, hf⟩ := Option.ite_none_right_eq_some.mp hf
    cases hf
    refine leaves_vector (i := .vun h d a x) rfl hr ?_ fun j hj => ?_
    · rw [isFN, hN, beq_eq_false_iff_ne.mpr hx3, Bool.or_true]
      rfl
    · obtain ⟨-, -, hb, -, hc⟩ := hr
      rw [el_map1 _ _ hj, src_unbound hb hc (by simp), unEl_integer (el_lt ..) (Bool.eq_false_iff.mpr hF) hN]
      rfl
theorem leaves_vsel {x : BitVec 1} (hf : vectorForm s (.vsel h d a b x) = some f) : f.Leaves (.vsel h d a b x) s := by
  obtain ⟨h15, hf⟩ := Option.ite_none_left_eq_some.mp hf
  cases hf
  refine leaves_vector (i := .vsel h d a b x) rfl hr (by simpa [isW] using h15) fun j hj => ?_
  obtain ⟨-, -, hb, -, hc⟩ := hr
  rw [el_places hj, src_unbound hb hc (by simp), srcAfter_unbound hb hc (by simp), src0After_unbound hb hc (by simp), bitOf_toNat]
  rfl
theorem leaves_vshuf {x : BitVec 1} (hf : vectorForm s (.vshuf h d a b x) = some f) : f.Leaves (.vshuf h d a b x) s := by
  obtain ⟨hbad, hf⟩ := Option.ite_none_left_eq_some.mp hf
  cases hf
  refine leaves_vector (i := .vshuf h d a b x) rfl hr (by simpa [isW] using hbad) fun j hj => ?_
  obtain ⟨-, -, hb, -, hc⟩ := hr
  rw [el_places hj, src_unbound hb hc (by dsimp only; split <;> simp), srcAfter_unbound hb hc (by dsimp only; split <;> simp),
    srcAfter_unbound hb hc List.mem_cons_self]
  rfl
theorem leaves_vbc {x : BitVec 1} (hf : vectorForm s (.vbc h d a b x) = some f) : f.Leaves (.vbc h d a b x) s := by
  obtain ⟨hbad, hf⟩ := Option.ite_none_left_eq_some.mp hf
  cases hf
  refine leaves_vector (i := .vbc h d a b x) rfl hr (by simpa [isW] using hbad) fun j hj => ?_
  obtain ⟨-, -, hb, -, hc⟩ := hr
  have hk : (if x = 1 then (s.src0After [a] b).toNat else b.toNat) = if x = 1 then (lane s b).toNat else b.toNat :=
    ite_congr rfl (fun hx => congrArg _ (src0After_unbound hb hc (by simp [hx]))) fun _ => rfl
  rw [el_replicate hj, src_unbound hb hc (by dsimp only; split <;> simp), hk]
  rfl
theorem leaves_vsh {x : BitVec 2} (hf : vectorForm s (.vsh h d a b x) = some f) : f.Leaves (.vsh h d a b x) s := by
  obtain ⟨hS, hf⟩ := Option.ite_none_right_eq_some.mp hf
  cases hf
  refine leaves_vector (i := .vsh h d a b x) rfl hr (by rw [hS]; rfl) fun j hj => ?_
  obtain ⟨-, -, hb, -, hc⟩ := hr
  rw [el_map2 hj, src_unbound hb hc (by simp), srcAfter_unbound hb hc (by simp), shEl_mod (fmtBits_pos_of_isShift hS) (el_lt ..)]
  rfl
theorem leaves_vscale {x : BitVec 1} (hf : vectorForm s (.vscale h d a b x) = some f) : f.Leaves (.vscale h d a b x) s := by
  obtain ⟨hF, hf⟩ := Option.ite_none_right_eq_some.mp hf
  cases hf
  refine leaves_vector (i := .vscale h d a b x) rfl hr (by rw [hF]; rfl) fun j hj => ?_
  obtain ⟨-, -, hb, -, hc⟩ := hr
  rw [el_map2 hj, src_unbound hb hc (by simp), srcAfter_unbound hb hc (by simp), scaleEl_eq _ _ hF]
  simp only [beq_iff_eq]
  rfl
/-- VRINT with a rounding of its own draws nothing (R161). -/
theorem leaves_vrint {x : BitVec 2} (hf : vectorForm s (.vrint h d a x) = some f) : f.Leaves (.vrint h d a x) s := by
  obtain ⟨⟨hF, hx3⟩, hf⟩ := Option.ite_none_right_eq_some.mp hf
  cases hf
  obtain ⟨hd, hs, hb, hg, hc⟩ := hr
  refine fun pc l0 l1 hn => ⟨map1 s.ef (rintEl s.ef (if x = 0 then .rne else if x = 1 then .rz else .rd)) (reg s a), ?_,
    fun j hj => el_map1 _ _ hj⟩
  refine (issue_passes ?_ (.inl rfl) hg).trans (congrArg _ ?_)
  · simp [okSpecs, hd, show srcOk a = true by simpa using hs, hF]
  · rw [producesSeeded_keeps hb (if_neg hx3), src_unbound hb hc (by simp)]
    exact after_result hn

end

/-- Every vector form is left by its instruction. -/
theorem vectorForm_leaves {i : Instr} {f : VForm} {s : State} (hf : vectorForm s i = some f) (hr : f.Ready s) : f.Leaves i s := by
  cases i
  case vadd => exact leaves_arith hr rfl hf
  case vsub => exact leaves_arith hr rfl hf
  case vmul => exact leaves_arith hr rfl hf
  case vfma => exact leaves_vfma hr hf
  case vminmax => exact leaves_vminmax hr hf
  case vun => exact leaves_vun hr hf
  case vsel => exact leaves_vsel hr hf
  case vshuf => exact leaves_vshuf hr hf
  case vbc => exact leaves_vbc hr hf
  case vsh => exact leaves_vsh hr hf
  case vscale => exact leaves_vscale hr hf
  case vrint => exact leaves_vrint hr hf
  all_goals cases hf

theorem vectorResults : Sys2Proof.Stated.VectorResults := fun _ _ _ pc l0 l1 hf hr hn => vectorForm_leaves hf hr pc l0 l1 hn

end Sys2Proof.Stated

/-! SUPPORT. Reductions, compares, lanes and bitwise instructions (R162, R163, R167, R168). -/

namespace Sys2Proof.Machine

/-! ### Bits of elements and of masks (R129, R163) -/

theorem fmtBits_pos {f : BitVec 4} (h : f ≠ 15) : 0 < fmtBits f := by revert f; decide +kernel
theorem testBit_el (v : V256) (w j i : Nat) : (el v w j).testBit i = (decide (i < w) && v.getLsbD (w * j + i)) := by
  rw [el, Nat.testBit_mod_two_pow, Nat.testBit_div_two_pow, Nat.add_comm i]
  rfl
/-- An element put in a register: the others stay. -/
theorem el_insBits {f : BitVec 4} {j k : Nat} (v u : V256) (hj : j < count f) :
    el (insBits v (fmtBits f * k) (fmtBits f) u.toNat) (fmtBits f) j = if j = k then el u (fmtBits f) 0 else el v (fmtBits f) j := by
  refine Nat.eq_of_testBit_eq fun i => ?_
  rw [testBit_el, getLsbD_insBits]
  by_cases hi : i < fmtBits f
  swap
  · rw [decide_eq_false hi, apply_ite (Nat.testBit · i), testBit_el, testBit_el, decide_eq_false hi]
    simp
  have h256 : fmtBits f * j + i < 256 := Nat.lt_of_lt_of_le (Nat.add_lt_add_left hi _) (place_le hj)
  rw [decide_eq_true hi, decide_eq_true h256, Bool.true_and, Bool.true_and]
  rcases lt_trichotomy j k with hjk | rfl | hjk
  · have hle : fmtBits f * j + fmtBits f ≤ fmtBits f * k := Nat.mul_le_mul_left (fmtBits f) hjk
    rw [if_pos (by omega), if_neg hjk.ne, testBit_el, decide_eq_true hi, Bool.true_and]
  · rw [if_neg (by omega), if_pos (by omega), if_pos rfl, testBit_el, decide_eq_true hi, Bool.true_and, Nat.add_sub_cancel_left, Nat.mul_zero,
      Nat.zero_add]
    rfl
  · have hle : fmtBits f * k + fmtBits f ≤ fmtBits f * j := Nat.mul_le_mul_left (fmtBits f) hjk
    rw [if_neg (by omega), if_neg (by omega), if_neg hjk.ne', testBit_el, decide_eq_true hi, Bool.true_and]
/-- A compare's mask has a bit for each element. -/
theorem testBit_vcmpMask (f : BitVec 4) (x : BitVec 2) (a b : V256) (i : Nat) : (vcmpMask f x a b).testBit i =
    (decide (i < count f) && vcmpEl f x (el a (fmtBits f) i) (el b (fmtBits f) i)) := by
  have hdigit := packNat_digit 1 ((List.range (count f)).map fun i => if vcmpEl f x (el a (fmtBits f) i) (el b (fmtBits f) i) then 1 else 0) i
  rw [Nat.one_mul, Nat.pow_one] at hdigit
  rw [vcmpMask, Nat.testBit_eq_decide_div_mod_eq, hdigit]
  by_cases hi : i < count f
  · cases hv : vcmpEl f x (el a (fmtBits f) i) (el b (fmtBits f) i) <;> simp [List.getD_eq_getElem?_getD, hi, hv]
  · simp [List.getD_eq_getElem?_getD, hi]
theorem vcmpMask_lt {f : BitVec 4} (hf : isFN f = true) (x : BitVec 2) (a b : V256) : vcmpMask f x a b < 2 ^ 64 := by
  have hc : count f ≤ 32 := Nat.div_le_of_le_mul (by have := fmtBits_ge_of_isFN hf; omega)
  refine (packNat_lt 1 _).trans_le (Nat.pow_le_pow_right (by decide) ?_)
  rw [List.length_map, List.length_range]
  omega

/-- A predicate set after other effects that leave the predicates. -/
theorem Thread.setPred_preds {x y : Thread} (hp : x.p = y.p) (n : BitVec 3) (b : Bool) : x.setPred n b = { x with p := (y.setPred n b).p } := by
  unfold Thread.setPred
  split
  · rw [← hp]
  · rw [← hp]

end Sys2Proof.Machine

namespace Sys2Proof.Stated

open Machine

/-- g0 to g7 are no stream registers. -/
theorem bound_mask (s : State) (m : BitVec 3) : s.cell.bound s.cell.last (0#3 ++ m) = none := by
  have hm : (0#3 ++ m : BitVec 6).toNat < 36 := by revert m; decide +kernel
  exact dif_neg fun h => Nat.not_le.mpr hm h.1
/-- What the mask register held, and what a read of it gives: it is no zero. -/
theorem held_mask (s : State) (m : BitVec 3) : held s (0#3 ++ m) = reg s (0#3 ++ m) := if_neg (by revert m; decide +kernel)

section
variable {h : Hdr} {d a b : Spec} {s : State} {pc : BitVec 10} {l0 l1 : Loop} (hg : s.me.guard h = true) (hc : s.me.cuts = [])
  (hf : Follows s 1 pc l0 l1) (ha : srcOk a = true)
include hg hc hf ha

theorem vred_gives {x : BitVec 2} (hd : dstOk d = true) (hFN : isFN s.ef = true) (hb : s.anyBound [d, a] = false) :
    exec (.vred h d a x) s = .next (s.modMe fun y =>
      let v : V256 := BitVec.ofNat 256 (redEls s.ef x ((List.range (256 / fmtBits s.ef)).map (at_ s a)) % 2 ^ fmtBits s.ef)
      goes pc l0 l1 h.w ((y.setReg d v).last d v)) :=
  vector_goesOn hd (by simp [ha]) hb hg (by rw [hFN]; rfl) hf (by rw [src_unbound hb hc (by simp)]; rfl)

/-- VCMP as it issues: the mask register enters the last-result file, and the predicate is set after it. -/
theorem vcmp_gives {pd m : BitVec 3} {x : BitVec 2} {k : Nat} {v : V256} (hFN : isFN s.ef = true) (hbs : srcOk b = true)
    (hb : s.anyBound [a, b] = false) (hk : vcmpMask s.ef x (reg s a) (reg s b) = k) (hv : setLane0 (reg s (0#3 ++ m)) (BitVec.ofNat 64 k) = v) :
    exec (.vcmp h pd m a b x) s = .next (s.modMe fun y => goes pc l0 l1 h.w (((y.setReg (0#3 ++ m) v).last (0#3 ++ m) v).setPred pd (k != 0))) := by
  refine (issue_passes (by simp [okSpecs, ha, hbs, hFN]) (.inl rfl) hg).trans (congrArg _ ?_)
  have hdup : s.anyBound [a, b].eraseDups = false := anyBound_subset hb fun _ hm => List.mem_eraseDups.mp hm
  have hheld : (Res.low (BitVec.ofNat 64 k)).over (s.held (0#3 ++ m)) = v := (congrArg (setLane0 · _) (held_mask s m)).trans hv
  rw [streamNeed_none hdup (anyBound_nil s), popAll_same hdup, src_unbound hb hc (by simp), srcAfter_unbound hb hc (by simp), hk]
  dsimp only
  rw [produce_plain _ (bound_mask s m), modMe_modMe, hheld]
  refine after_done_modMe ?_
  rw [setPred_next, last_next, setReg_next, Thread.setPred_pc, Thread.last_pc, Thread.setReg_pc]
  exact hf
/-- The mask's bits and the predicate that VCMP leaves (R163). -/
theorem vcmp_mask {pd m : BitVec 3} {x : BitVec 2} (hFN : isFN s.ef = true) (hbs : srcOk b = true) (hb : s.anyBound [a, b] = false) :
    ∃ (k : W64) (p' : BitVec 8), exec (.vcmp h pd m a b x) s = .next (s.modMe fun y =>
        let v := setLane0 (reg s (0#3 ++ m)) k
        goes pc l0 l1 h.w { (y.setReg (0#3 ++ m) v).last (0#3 ++ m) v with p := p' }) ∧
      (∀ i, i < 64 → k.getLsbD i = (decide (i < 256 / fmtBits s.ef) && vcmpEl s.ef x (at_ s a i) (at_ s b i))) ∧
      (pd ≠ 0 → p'.getLsbD pd.toNat = (k != 0)) ∧ ∀ j, pd = 0 ∨ j ≠ pd.toNat → p'.getLsbD j = s.me.p.getLsbD j := by
  have hk : (BitVec.ofNat 64 (vcmpMask s.ef x (reg s a) (reg s b)) != 0) = (vcmpMask s.ef x (reg s a) (reg s b) != 0) := by
    rw [Bool.eq_iff_iff, bne_iff_ne, bne_iff_ne, ne_eq, ne_eq, ← BitVec.toNat_inj, BitVec.toNat_ofNat, Nat.mod_eq_of_lt (vcmpMask_lt hFN ..)]
    rfl
  refine ⟨BitVec.ofNat 64 (vcmpMask s.ef x (reg s a) (reg s b)), (s.me.setPred pd (vcmpMask s.ef x (reg s a) (reg s b) != 0)).p,
    (vcmp_gives hg hc hf ha hFN hbs hb rfl rfl).trans (congrArg _ (modTh_congr (congrArg (goes pc l0 l1 h.w) ?_))), fun i hi => ?_,
    fun hpd => by rw [Thread.setPred_same _ hpd, hk], fun j hj => Thread.setPred_other _ hj _⟩
  · exact Thread.setPred_preds (by rw [Thread.last_p, Thread.setReg_p]; rfl) ..
  · rw [BitVec.getLsbD_ofNat, decide_eq_true hi, Bool.true_and]
    exact testBit_vcmpMask ..
/-- VLANE as it issues: it reads D too where it keeps D's other elements. -/
theorem vlane_gives {k : BitVec 6} {x : BitVec 2} {r : Res} {v : V256} (hd : dstOk d = true) (h15 : s.ef ≠ 15) (hk : k.toNat < count s.ef)
    (hb : s.anyBound [d, a] = false) (hx : x ≠ 3) (hr : (if x = 0 then .low (BitVec.ofNat 64 (at_ s a k.toNat))
      else if x = 1 then .low (BitVec.ofInt 64 (Int.bmod (at_ s a k.toNat) (2 ^ fmtBits s.ef)))
      else .whole (insBits (reg s d) (fmtBits s.ef * k.toNat) (fmtBits s.ef) (reg s a).toNat)) = r) (hv : r.over (held s d) = v) :
    exec (.vlane h d a k x) s = .next (s.modMe fun y => goes pc l0 l1 h.w ((y.setReg d v).last d v)) := by
  have hsrcs : s.anyBound (d :: if x = 2 then [a, d] else [a]) = false := anyBound_subset hb (by split <;> simp)
  have hds : srcOk d = true := by simpa [hd] using dstOk_srcOk d
  have hW : isW s.ef = true := bne_iff_ne.mpr h15
  refine issue_produces ?_ (.inl rfl) hg (anyBound_eraseDups hsrcs) hf ?_
  · rw [beq_eq_false_iff_ne.mpr hx, decide_eq_false (Nat.not_le.mpr hk)]
    split <;> simp [okSpecs, hd, ha, hds, hW]
  · rw [src_unbound hb hc (by simp), srcAfter_unbound hb hc (by simp)]
    dsimp only
    rw [sintOf_eq_bmod (fmtBits_pos h15)]
    exact (congrArg (Res.over · _) hr).trans hv
theorem vlog_gives {x : BitVec 2} (hd : dstOk d = true) (hbs : srcOk b = true) (hp : s.me.pp = false) (hb : s.anyBound [d, a, b] = false) :
    exec (.vlog h d a b x) s = .next (s.modMe fun y =>
      let v : V256 := if x = 0 then reg s a &&& reg s b else if x = 1 then reg s a ||| reg s b else if x = 2 then reg s a ^^^ reg s b
        else reg s a &&& ~~~(reg s b)
      goes pc l0 l1 h.w ((y.setReg d v).last d v)) := by
  refine issue_produces (by simp [okSpecs, hd, ha, hbs]) (.inr hp) hg (anyBound_eraseDups hb) hf ?_
  rw [src_unbound hb hc (by simp), srcAfter_unbound hb hc (by simp)]
  rfl

end

theorem vectorReductions : Sys2Proof.Stated.VectorReductions := by
  intro h d a b s pc l0 l1 hg hc hf ha hbs hb
  have hda : s.anyBound [d, a] = false := anyBound_subset hb (by simp)
  have hab : s.anyBound [a, b] = false := anyBound_subset hb (by simp)
  refine ⟨fun x hd hFN => vred_gives hg hc hf ha hd hFN hda, fun pd m x hFN => ?_, fun k hd h15 hk => ?_,
    fun x hd hp => vlog_gives hg hc hf ha hd hbs hp hb⟩
  · exact vcmp_mask hg hc hf ha hFN hbs hab
  · have hplace := vlane_gives (x := 2) hg hc hf ha hd h15 hk hda (by decide) rfl rfl
    exact ⟨vlane_gives hg hc hf ha hd h15 hk hda (by decide) rfl rfl, vlane_gives hg hc hf ha hd h15 hk hda (by decide) rfl rfl,
      _, hplace, fun j hj => el_insBits _ _ hj⟩

end Sys2Proof.Stated

/-- Settles O12: each element of a vector result (`vectorForm_leaves`), the reductions, masks and lanes (`vectorReductions`). -/
theorem vectorResults : Obligations.VectorResults := ⟨Sys2Proof.Stated.vectorResults, Sys2Proof.Stated.vectorReductions⟩

/-! SUPPORT. The effective formats and the rounding selector (R139, R144), the modes and the generator (R144, Table 05.6), and magnitudes
rounded (R141, R142). -/

namespace Sys2Proof.Stated

open Machine

-- One lemma after another, once those before are checked: with more workers at once, their stacks would go past the check's memory.
set_option Elab.async false

/-! ### The effective formats (R139, R144) -/

theorem extract_toNat {w : Nat} (v : BitVec w) (lo n : Nat) : (v.extractLsb' lo n).toNat = v.toNat / 2 ^ lo % 2 ^ n := by
  rw [BitVec.extractLsb'_toNat, Nat.shiftRight_eq_div_pow]
/-- A field at the top of a word. -/
theorem extract_top {w lo n : Nat} (v : BitVec w) (hw : w = lo + n) : (v.extractLsb' lo n).toNat = v.toNat / 2 ^ lo := by
  subst hw
  rw [extract_toNat, Nat.mod_eq_of_lt (Nat.div_lt_of_lt_mul (pow_add 2 lo n ▸ v.isLt))]
/-- The format code that PFX gives; 15 gives none (R139). -/
theorem given_format {u v : BitVec 4} {k : Nat} (hu : u.toNat = k) :
    (k ≠ 15 → (if true && u != 15 then u else v).toNat = k) ∧ (k = 15 → (if true && u != 15 then u else v).toNat = v.toNat) := by
  have h15 : (true && u != 15) = true ↔ k ≠ 15 := by rw [Bool.true_and, bne_iff_ne, ne_eq, ← BitVec.toNat_inj, hu]; rfl
  exact ⟨fun h => by rw [if_pos (h15.mpr h), hu], fun h => by rw [if_neg fun e => h15.mp e h]⟩

theorem effectiveFormats : Sys2Proof.Stated.EffectiveFormats := by
  intro x own
  have hef : (x.fmt.extractLsb' 0 4).toNat = x.fmt.toNat % 16 := by rw [extract_toNat, pow_zero, Nat.div_one]; rfl
  have hrf : (x.fmt.extractLsb' 4 4).toNat = x.fmt.toNat / 16 % 16 := extract_toNat ..
  refine ⟨fun hp => ?_, fun hp => ?_⟩
  · simp only [Thread.efEff, Thread.rfEff, Thread.rsEff, hp, Bool.false_and, Bool.false_eq_true, if_false]
    refine ⟨hef, hrf, ?_, ?_⟩
    · rintro rfl
      exact extract_top _ rfl
    · rintro r rfl
      rfl
  · obtain ⟨hef1, hef0⟩ := given_format (v := x.fmt.extractLsb' 0 4) (extract_top (lo := 16) (n := 4) x.pfx rfl)
    obtain ⟨hrf1, hrf0⟩ := given_format (v := x.fmt.extractLsb' 4 4) (extract_toNat x.pfx 12 4)
    simp only [Thread.efEff, Thread.rfEff, Thread.rsEff, hp, if_true]
    exact ⟨extract_toNat .., hef1, fun h => (hef0 h).trans hef, hrf1, fun h => (hrf0 h).trans hrf⟩

/-! ### The modes and the generator (R144, Table 05.6) -/

theorem modeOf_stochastic (drnd : BitVec 3) (seed : W64) :
    modeOf 2 drnd seed = (.sr (BitVec.ofNat 32 ((rngStep seed).toNat / 2 ^ 32)), rngStep seed) := by
  have hdraw : (rngStep seed).extractLsb' 32 32 = BitVec.ofNat 32 ((rngStep seed).toNat / 2 ^ 32) :=
    BitVec.eq_of_toNat_eq (by rw [extract_toNat, BitVec.toNat_ofNat])
  rw [← hdraw]
  rfl

theorem roundingSelectors : Sys2Proof.Stated.RoundingSelectors := fun drnd seed =>
  ⟨rfl, rfl, ⟨_, modeOf_stochastic drnd seed, _, _, _, rfl, rfl, rfl, rfl⟩, rfl, rfl, rfl, rfl, rfl⟩

/-! ### Magnitudes (R141, R142) -/

/-- A magnitude cut to units: one is added where its rest rounds up. -/
theorem roundMag_units (mo : Mode) (neg : Bool) (m k : Nat) (e : Int) : roundMag mo neg m e (e + (k + 1)) =
    m / 2 ^ (k + 1) + (if roundUp mo neg (m / 2 ^ (k + 1)) (m % 2 ^ (k + 1)) (k + 1) then 1 else 0) := by
  have hsh : (e + (k + 1) - e).toNat = k + 1 := by omega
  rw [roundMag, if_neg (by omega), hsh]
  exact (apply_ite (m / 2 ^ (k + 1) + ·) _ 1 0).symm
/-- Rounding up adds one where a rest is left. -/
theorem ceil_eq (m : Nat) {n : Nat} (hn : 0 < n) : (m + n - 1) / n = m / n + (if m % n ≠ 0 then 1 else 0) := by
  have hm : m + n - 1 = m % n + n - 1 + n * (m / n) := by have := Nat.mod_add_div m n; omega
  have hlt : m % n < n := Nat.mod_lt m hn
  rw [hm, Nat.add_mul_div_left _ _ hn, Nat.add_comm]
  congr 1
  split
  case isTrue h => rw [show m % n + n - 1 = m % n - 1 + n by omega, Nat.add_div_right _ hn, Nat.div_eq_of_lt (by omega)]
  case isFalse h => exact Nat.div_eq_of_lt (by omega)
/-- To nearest: within half a unit, and even at half a unit. -/
theorem nearest_within (m : Nat) {n : Nat} (hn : 0 < n) {q : Nat}
    (hq : q = m / n + (if n < 2 * (m % n) ∨ 2 * (m % n) = n ∧ m / n % 2 = 1 then 1 else 0)) :
    2 * m ≤ 2 * q * n + n ∧ 2 * q * n ≤ 2 * m + n ∧ (2 * m = 2 * q * n + n ∨ 2 * q * n = 2 * m + n → q % 2 = 0) := by
  have hm : m % n + m / n * n = m := Nat.mod_add_div' m n
  have hlt : m % n < n := Nat.mod_lt m hn
  split at hq
  case isTrue h =>
    rw [show 2 * q * n = 2 * (m / n * n) + 2 * n by rw [hq]; ring]
    omega
  case isFalse h =>
    rw [show 2 * q * n = 2 * (m / n * n) by rw [hq]; ring]
    omega

theorem roundsByTheModes : Sys2Proof.Stated.RoundsByTheModes := by
  intro neg m k e
  have hn : 0 < 2 ^ (k + 1) := Nat.two_pow_pos _
  refine ⟨fun mo g hg => ?_, fun q hq => nearest_within m hn ?_, roundMag_units .., ?_, ?_, fun r => ?_⟩
  · rw [roundMag, if_pos hg]
    norm_cast
  · simpa [roundUp] using hq.trans (roundMag_units ..)
  · rw [roundMag_units, ceil_eq m hn]
    cases neg <;> simp [roundUp]
  · rw [roundMag_units, ceil_eq m hn]
    cases neg <;> simp [roundUp]
  · rw [roundMag_units]
    simp [roundUp]

end Sys2Proof.Stated

/-- Settles O11: the effective formats (`effectiveFormats`), the modes of a selector (`roundingSelectors`), and what each mode makes of a
magnitude (`roundsByTheModes`). -/
theorem effectiveFormatsAndRounding : Obligations.EffectiveFormatsAndRounding :=
  ⟨Sys2Proof.Stated.effectiveFormats, Sys2Proof.Stated.roundingSelectors, Sys2Proof.Stated.roundsByTheModes⟩

/-! SUPPORT. What a register of a thread holds after another is written (R48, R68, R105), and fields of registers (R48, R129, R264). -/

namespace Sys2Proof.Machine

/-! ### A thread's own registers (R48, R68, R105) -/

section
variable {x : Thread} {d a : Spec} {v : V256}

/-- A specifier of g, q or y names a register of the thread. -/
theorem Cell.reg_own {c : Cell} {t : TIdx} (ha : a.toNat < 42) : c.reg t a = (c.th t).ownReg a := by
  unfold Cell.reg Thread.ownReg
  dsimp only
  by_cases h40 : a.toNat = 40
  · simp [h40]
  · by_cases h41 : a.toNat = 41
    · simp [h41]
    · have hlt : a.toNat < 40 := by omega
      simp [hlt]
theorem Thread.ownReg_putReg_same (hd : d.toNat < 42) : (x.putReg d v).ownReg d = v := by
  unfold Thread.putReg Thread.ownReg
  dsimp only
  split_ifs
  · exact Vector.getElem_set_self ..
  · exact Vector.getElem_set_self ..
  · rfl
  · rfl
  · omega
theorem Thread.ownReg_putReg_other (ha : a.toNat < 42) (h : a ≠ d) : (x.putReg d v).ownReg a = x.ownReg a := by
  have hn : d.toNat ≠ a.toNat := fun e => h (BitVec.eq_of_toNat_eq e.symm)
  unfold Thread.putReg
  dsimp only
  split_ifs with h32 h40 hy0 hy1
  · simp [Thread.ownReg, hn]
  · unfold Thread.ownReg
    dsimp only
    split_ifs
    · rfl
    · exact Vector.getElem_set_ne _ _ (by omega)
    · rfl
    · rfl
  · simp [Thread.ownReg, show a.toNat ≠ 40 by omega]
  · unfold Thread.ownReg
    dsimp only
    split_ifs
    · rfl
    · rfl
    · rfl
    · omega
  · rfl
theorem Thread.ownReg_setReg_same (hd : d.toNat < 42) : (x.setReg d v).ownReg d = v := Thread.ownReg_putReg_same hd
theorem Thread.ownReg_setReg_other (ha : a.toNat < 42) (h : a ≠ d) : (x.setReg d v).ownReg a = x.ownReg a := Thread.ownReg_putReg_other ha h
/-- The last-result file is y0 and y1; a result whose destination is one of them does not enter it (R105). -/
theorem Thread.ownReg_last (ha : a.toNat < 42) (h : a.toNat < 40 ∨ a = d) : (x.last d v).ownReg a = x.ownReg a := by
  unfold Thread.last
  split
  case isTrue => rfl
  case isFalse hy =>
    obtain ⟨h0, h1⟩ : a ≠ 0x28 ∧ a ≠ 0x29 := by
      rcases h with h | rfl
      · exact ⟨by rintro rfl; exact absurd h (by decide), by rintro rfl; exact absurd h (by decide)⟩
      · exact not_or.mp hy
    rw [Thread.ownReg_setReg_other ha h0, Thread.ownReg_setReg_other ha h1]
theorem Thread.getD_g (ha : a.toNat < 32) : x.g.getD a.toNat 0 = x.ownReg a := by simp [Thread.ownReg, Vector.getD, ha]
@[simp] theorem Thread.ownReg_marker (w : Bool) : (x.marker w).ownReg a = x.ownReg a := by
  unfold Thread.marker
  split <;> rfl

end

/-- Zero is no register, and reads as zero. -/
theorem held_eq_reg (s : State) (d : Spec) : s.held d = s.cell.reg s.cell.last d := by
  unfold State.held
  split
  case isTrue h =>
    subst h
    rfl
  case isFalse => rfl
theorem dstOk_lt {d : Spec} (h : dstOk d = true) (h0 : d ≠ 0x2E) : d.toNat < 42 := by
  rcases Bool.or_eq_true_iff.mp h with h | h
  · exact of_decide_eq_true h
  · exact absurd (eq_of_beq h) h0

/-! ### Fields of registers (R48, R129, R264) -/

/-- Elements put side by side in a register: the others stay. -/
theorem el_insBits_run {w p n j : Nat} (v : V256) (x : Nat) (hj : w * j + w ≤ 256) :
    el (insBits v (w * p) (w * n) x) w j = if p ≤ j ∧ j < p + n then x / 2 ^ (w * (j - p)) % 2 ^ w else el v w j := by
  refine Nat.eq_of_testBit_eq fun i => ?_
  rw [testBit_el, getLsbD_insBits]
  by_cases hi : i < w
  swap
  · rw [apply_ite (Nat.testBit · i), testBit_el, Nat.testBit_mod_two_pow, decide_eq_false hi]
    simp
  rw [decide_eq_true hi, decide_eq_true (show w * j + i < 256 by omega), Bool.true_and, Bool.true_and]
  by_cases hp : j < p
  · have hle : w * j + w ≤ w * p := Nat.mul_le_mul_left w hp
    rw [if_pos (by omega), if_neg (by omega), testBit_el, decide_eq_true hi, Bool.true_and]
  obtain ⟨k, rfl⟩ := Nat.exists_eq_add_of_le (Nat.le_of_not_lt hp)
  have hk : w * (p + k) = w * p + w * k := Nat.mul_add ..
  rw [if_neg (by omega)]
  by_cases hn : k < n
  · have hle : w * k + w ≤ w * n := Nat.mul_le_mul_left w hn
    rw [if_pos (by omega), if_pos (by omega), Nat.testBit_mod_two_pow, decide_eq_true hi, Nat.testBit_div_two_pow, Bool.true_and]
    congr 1
    rw [Nat.add_sub_cancel_left]
    omega
  · have hle : w * n ≤ w * k := Nat.mul_le_mul_left w (Nat.le_of_not_lt hn)
    rw [if_neg (by omega), if_neg (by omega), testBit_el, decide_eq_true hi, Bool.true_and]
/-- Two lanes are the low half of a register. -/
theorem setLanes01_eq_insBits (v : V256) (x : Nat) : setLanes01 v (BitVec.ofNat 64 x) (BitVec.ofNat 64 (x / 2 ^ 64)) = insBits v 0 128 x := by
  refine BitVec.eq_of_getLsbD_eq fun i hi => ?_
  rw [getLsbD_insBits, decide_eq_true hi, setLanes01, BitVec.getLsbD_append, BitVec.getLsbD_append, BitVec.getLsbD_ofNat, BitVec.getLsbD_ofNat,
    BitVec.getLsbD_extractLsb', Nat.testBit_div_two_pow]
  by_cases h64 : i < 64
  · simp [h64, show i < 128 by omega]
  · by_cases h128 : i < 128
    · simp [h64, h128, show i - 64 < 64 by omega, show i - 64 + 64 = i by omega]
    · simp [h64, h128, show ¬i - 64 < 64 by omega, show i - 64 - 64 < 128 by omega, show 128 + (i - 64 - 64) = i by omega]

end Sys2Proof.Machine

/-! SUPPORT. Roundings in element order (R144), and VRINT and CVT as they issue (R161, R170). -/

namespace Sys2Proof.Stated

open Machine

/-! ### Roundings in order (R144) -/

section
variable {α : Type} {sel : BitVec 2} {drnd : BitVec 3} {f : Mode → α → Nat}

/-- The first rounding steps the generator for those after it. -/
theorem seedAt_step (seed : W64) : ∀ k, seedAt sel drnd (modeOf sel drnd seed).2 k = seedAt sel drnd seed (k + 1)
  | 0 => rfl
  | k + 1 => congrArg (fun t => (modeOf sel drnd t).2) (seedAt_step seed k)
theorem modeAt_step (seed : W64) (k : Nat) : modeAt sel drnd (modeOf sel drnd seed).2 k = modeAt sel drnd seed (k + 1) :=
  congrArg (fun t => (modeOf sel drnd t).1) (seedAt_step seed k)
/-- Each value is rounded by the mode of its turn. -/
theorem roundList_getElem? : ∀ (l : List α) (seed : W64) (j : Nat),
    (roundList sel drnd f l seed).1[j]? = l[j]?.map (f (modeAt sel drnd seed j))
  | [], _, _ => rfl
  | _ :: _, _, 0 => rfl
  | x :: r, seed, j + 1 => by
    rw [← modeAt_step]
    exact roundList_getElem? r _ j
/-- The generator steps once for each value. -/
theorem roundList_seed : ∀ (l : List α) (seed : W64), (roundList sel drnd f l seed).2 = seedAt sel drnd seed l.length
  | [], _ => rfl
  | _ :: r, seed => (roundList_seed r _).trans (seedAt_step seed r.length)
theorem roundList_getD {l : List α} {seed : W64} {j : Nat} (z : α) (hj : j < l.length) :
    (roundList sel drnd f l seed).1.getD j 0 = f (modeAt sel drnd seed j) (l.getD j z) := by
  rw [List.getD_eq_getElem?_getD, List.getD_eq_getElem?_getD, roundList_getElem?, List.getElem?_eq_getElem hj]
  rfl

end

/-- A change of a thread binds no stream register. -/
theorem bound_modMe {s : State} {f : Thread → Thread} {d : Spec} (h : s.cell.bound s.cell.last d = none) :
    (s.modMe f).cell.bound (s.modMe f).cell.last d = none := h
/-- A result that steps the generator: it enters D and the last-result file, the generator keeps its new state, and the thread goes on. -/
theorem after_seeded {h : Hdr} {d : Spec} {srcs : List Spec} {f : State → Res × W64} {s : State} {pc : BitVec 10} {l0 l1 : Loop} {v : V256}
    {k : W64} (hb : s.anyBound (d :: srcs) = false) (hf : Follows s 1 pc l0 l1) (hv : f s = (.whole v, k)) :
    s.after h 1 (producesSeeded srcs d f s) =
      s.modMe fun y => goes pc l0 l1 h.w ((({ y with rseed := k } : Thread).setReg d v).last d v) := by
  have hs : s.anyBound srcs.eraseDups = false := anyBound_subset hb fun _ ha => .tail _ (List.mem_eraseDups.mp ha)
  have hd : s.anyBound [d] = false := anyBound_subset hb (by simp)
  rw [producesSeeded, streamNeed_none hs hd, popAll_same hs, hv]
  dsimp only
  rw [produce_plain _ (bound_modMe (anyBound_false hb (List.mem_cons_self ..))), modMe_modMe]
  refine after_done_modMe ?_
  rw [last_next, setReg_next, Thread.last_pc, Thread.setReg_pc]
  exact hf

/-! ### VRINT by the effective selector (R161) -/

section
variable {h : Hdr} {d a : Spec} {s : State} {pc : BitVec 10} {l0 l1 : Loop} (hd : dstOk d = true) (ha : srcOk a = true)
  (hb : s.anyBound [d, a] = false) (hg : s.me.guard h = true) (hc : s.me.cuts = []) (hf : Follows s 1 pc l0 l1)
include hd ha hb hg hc hf

theorem vrint_gives (hF : isF s.ef = true) : ∃ v : V256, exec (.vrint h d a 3) s = .next (s.modMe fun y =>
      goes pc l0 l1 h.w ((({ y with rseed := seedAt (y.rsEff none) s.drnd y.rseed (256 / fmtBits s.ef) } : Thread).setReg d v).last d v)) ∧
    ∀ j, j < 256 / fmtBits s.ef →
      el v (fmtBits s.ef) j = rintEl s.ef (modeAt (s.me.rsEff none) s.drnd s.me.rseed j) (at_ s a j) % 2 ^ fmtBits s.ef := by
  let r := roundReg s.ef (s.me.rsEff none) s.drnd (rintEl s.ef) (reg s a) s.me.rseed
  have hlen : (els (reg s a) (fmtBits s.ef) (count s.ef)).length = count s.ef := by simp [els]
  have hseed : r.2 = seedAt (s.me.rsEff none) s.drnd s.me.rseed (count s.ef) := (roundList_seed ..).trans (by rw [hlen])
  refine ⟨r.1, (issue_passes ?_ (.inl rfl) hg).trans (congrArg _ ((after_seeded hb hf (v := r.1) (k := r.2) ?_).trans (modTh_congr ?_))),
    fun j hj => ?_⟩
  · simp [okSpecs, hd, ha, hF]
  · rw [src_unbound hb hc (by simp)]
    rfl
  · rw [hseed]
    rfl
  · rw [show r.1 = pack .. from rfl, el_pack _ (place_le hj), roundList_getD 0 (hlen.symm ▸ hj)]
    simp [els, at_, List.getD_eq_getElem?_getD, show j < count s.ef from hj]

end

/-! ### CVT (R170) -/

section
variable {f t : BitVec 4} {p : Nat}

theorem count_anti (h : fmtBits f ≤ fmtBits t) (hpos : 0 < fmtBits f) : count t ≤ count f := Nat.div_le_div_left h hpos
/-- A conversion that does not narrow takes a part of its source; one between formats of one width has one part. -/
theorem cvtEls_part (v : V256) (h : fmtBits f ≤ fmtBits t) (hp : p < cvtFactor f t) (hpos : 0 < fmtBits f) :
    cvtEls f t p v = (List.range (count t)).map fun i => el v (fmtBits f) (p * count t + i) := by
  unfold cvtEls
  rcases h.lt_or_eq with hlt | heq
  · exact if_pos hlt
  · have hone : cvtFactor f t = 1 := by
      rw [cvtFactor, ← heq]
      exact (congrArg₂ (· / ·) (Nat.max_self _) (Nat.min_self _)).trans (Nat.div_self hpos)
    have hp0 : p = 0 := Nat.lt_one_iff.mp (hone ▸ hp)
    rw [if_neg (by omega), hp0, Nat.zero_mul, count, heq]
    simp [els, count]
theorem cvtEls_all (v : V256) (h : fmtBits t < fmtBits f) : cvtEls f t p v = els v (fmtBits f) (count f) := if_neg (by omega)
/-- The widths of the scalar formats (Table 05.1). -/
theorem scalar_width : ∀ f : BitVec 4, f.toNat ≤ 10 → fmtBits f ∈ [4, 8, 16, 32] := by decide
theorem width_parts : ∀ w ∈ [4, 8, 16, 32], ∀ u ∈ [4, 8, 16, 32], u < w →
    256 / (Nat.max w u / Nat.min w u) = u * (256 / w) ∧ Nat.max w u / Nat.min w u * (256 / w) = 256 / u := by decide
/-- The parts of a narrowing conversion side by side. -/
theorem narrow_parts (hf : f.toNat ≤ 10) (ht : t.toNat ≤ 10) (h : fmtBits t < fmtBits f) :
    256 / cvtFactor f t = fmtBits t * count f ∧ cvtFactor f t * count f = count t :=
  width_parts _ (scalar_width f hf) _ (scalar_width t ht) h
theorem cvtPlace_narrow (old : V256) (l : List Nat) (hf : f.toNat ≤ 10) (ht : t.toNat ≤ 10) (h : fmtBits t < fmtBits f) :
    cvtPlace f t p old l = insBits old (fmtBits t * (p * count f)) (fmtBits t * count f) (packNat (fmtBits t) l) := by
  rw [cvtPlace, if_pos h, (narrow_parts hf ht h).1]
  congr 1
  ring
theorem cvtBad_false (hf : f.toNat ≤ 10) (ht : t.toNat ≤ 10) (h4 : fmtBits f ≤ 4 * fmtBits t) (h4' : fmtBits t ≤ 4 * fmtBits f)
    (hp : p < cvtFactor f t) : cvtBad f t p = false := by
  have hle : cvtFactor f t ≤ 4 := Nat.div_le_of_le_mul (by
    show max (fmtBits f) (fmtBits t) ≤ min (fmtBits f) (fmtBits t) * 4
    omega)
  simp [cvtBad, isScalarFmt, hf, ht, hle, hp]

end

section
variable {h : Hdr} {d a : Spec} {s : State} {pc : BitVec 10} {l0 l1 : Loop} (hd : dstOk d = true) (ha : srcOk a = true)
  (hb : s.anyBound [d, a] = false) (hg : s.me.guard h = true) (hc : s.me.cuts = []) (hf : Follows s 1 pc l0 l1)
  {t : BitVec 4} {r x : BitVec 2}

/-- The codes of the elements that CVT takes, with the generator after them. -/
def cvtRounded (s : State) (a : Spec) (t : BitVec 4) (r x : BitVec 2) : List Nat × W64 :=
  roundList (s.me.rsEff (some r)) s.drnd (fun mo v => roundAny t mo (valueAny s.ef v)) (cvtEls s.ef t x.toNat (reg s a)) s.me.rseed
theorem cvtRounded_getD {j : Nat} (hj : j < (cvtEls s.ef t x.toNat (reg s a)).length) : (cvtRounded s a t r x).1.getD j 0 =
    roundAny t (modeAt (s.me.rsEff (some r)) s.drnd s.me.rseed j) (valueAny s.ef ((cvtEls s.ef t x.toNat (reg s a)).getD j 0)) :=
  roundList_getD 0 hj

include hd ha hb hg hc hf

theorem cvt_gives {n : Nat} (hbad : cvtBad s.ef t x.toNat = false) (hn : (cvtEls s.ef t x.toNat (reg s a)).length = n) :
    exec (.cvt h d a t r x) s = .next (s.modMe fun y =>
      let v := cvtPlace s.ef t x.toNat (reg s d) (cvtRounded s a t r x).1
      goes pc l0 l1 h.w ((({ y with rseed := seedAt (y.rsEff (some r)) s.drnd y.rseed n } : Thread).setReg d v).last d v)) := by
  have hsrcs : s.anyBound (d :: if fmtBits t < fmtBits s.ef then [a, d] else [a]) = false := anyBound_subset hb (by split <;> simp)
  have hseed : (cvtRounded s a t r x).2 = seedAt (s.me.rsEff (some r)) s.drnd s.me.rseed n := (roundList_seed ..).trans (by rw [hn])
  refine (issue_passes ?_ (.inl rfl) hg).trans (congrArg _ ((after_seeded hsrcs hf (k := (cvtRounded s a t r x).2)
    (v := cvtPlace s.ef t x.toNat (reg s d) (cvtRounded s a t r x).1) ?_).trans (modTh_congr ?_)))
  · simp [okSpecs, hd, ha, hbad]
  · rw [src_unbound hb hc (by simp), srcAfter_unbound hb hc (by simp)]
    rfl
  · rw [hseed]
    rfl
theorem cvt_leaves (hef : s.ef.toNat ≤ 10) (ht : t.toNat ≤ 10) (h4 : fmtBits s.ef ≤ 4 * fmtBits t) (h4' : fmtBits t ≤ 4 * fmtBits s.ef)
    (hx : x.toNat < cvtFactor s.ef t) : ∃ (v : V256) (n : Nat), n = min (256 / fmtBits s.ef) (256 / fmtBits t) ∧
      exec (.cvt h d a t r x) s = .next (s.modMe fun y =>
        goes pc l0 l1 h.w ((({ y with rseed := seedAt (y.rsEff (some r)) s.drnd y.rseed n } : Thread).setReg d v).last d v)) ∧
      (fmtBits s.ef ≤ fmtBits t → ∀ j, j < n → el v (fmtBits t) j =
        roundAny t (modeAt (s.me.rsEff (some r)) s.drnd s.me.rseed j) (valueAny s.ef (at_ s a (x.toNat * n + j))) % 2 ^ fmtBits t) ∧
      (fmtBits t < fmtBits s.ef → (∀ j, j < n → el v (fmtBits t) (x.toNat * n + j) =
          roundAny t (modeAt (s.me.rsEff (some r)) s.drnd s.me.rseed j) (valueAny s.ef (at_ s a j)) % 2 ^ fmtBits t) ∧
        ∀ j, j < 256 / fmtBits t → ¬(x.toNat * n ≤ j ∧ j < x.toNat * n + n) → el v (fmtBits t) j = el (reg s d) (fmtBits t) j) := by
  have hpos : 0 < fmtBits s.ef := fmtBits_pos fun e => absurd (e ▸ hef) (by decide)
  have htpos : 0 < fmtBits t := fmtBits_pos fun e => absurd (e ▸ ht) (by decide)
  have hbad := cvtBad_false hef ht h4 h4' hx
  rcases Nat.lt_or_ge (fmtBits t) (fmtBits s.ef) with hlt | hle
  · have hels := cvtEls_all (p := x.toNat) (reg s a) hlt
    have hlen : (cvtEls s.ef t x.toNat (reg s a)).length = count s.ef := by simp [hels, els]
    refine ⟨_, count s.ef, (min_eq_left (count_anti hlt.le htpos)).symm, cvt_gives hd ha hb hg hc hf hbad hlen,
      fun h => absurd hlt (Nat.not_lt.mpr h), fun _ => ⟨fun j hj => ?_, fun j hj hout => ?_⟩⟩
    · have hin : x.toNat * count s.ef + j < count t := by
        rw [← (narrow_parts hef ht hlt).2]
        calc x.toNat * count s.ef + j
          _ < (x.toNat + 1) * count s.ef := by rw [Nat.succ_mul]; omega
          _ ≤ cvtFactor s.ef t * count s.ef := Nat.mul_le_mul_right _ hx
      rw [cvtPlace_narrow _ _ hef ht hlt, el_insBits_run _ _ (place_le hin), if_pos (by omega), Nat.add_sub_cancel_left, packNat_digit,
        cvtRounded_getD (hlen.symm ▸ hj), hels]
      simp [els, at_, List.getD_eq_getElem?_getD, hj]
    · rw [cvtPlace_narrow _ _ hef ht hlt, el_insBits_run _ _ (place_le hj), if_neg hout]
  · have hels := cvtEls_part (reg s a) hle hx hpos
    have hlen : (cvtEls s.ef t x.toNat (reg s a)).length = count t := by simp [hels]
    refine ⟨_, count t, (min_eq_right (count_anti hle hpos)).symm, cvt_gives hd ha hb hg hc hf hbad hlen, fun _ j hj => ?_,
      fun h => absurd h (Nat.not_lt.mpr hle)⟩
    rw [cvtPlace, if_neg (Nat.not_lt.mpr hle), el_pack _ (place_le hj), cvtRounded_getD (hlen.symm ▸ hj), hels]
    simp [at_, List.getD_eq_getElem?_getD, hj]

end

theorem roundedResults : Sys2Proof.Stated.RoundedResults := fun _ _ _ _ _ _ _ hd ha hb hg hc hf =>
  ⟨fun hF => vrint_gives hd ha hb hg hc hf hF, fun _ _ _ hef ht h4 h4' hx => cvt_leaves hd ha hb hg hc hf hef ht h4 h4' hx⟩

end Sys2Proof.Stated

/-! SUPPORT. QBLK as it issues: the values of a span, the scale code, the block and the scale byte that it leaves (R135, R136, R171). -/

namespace Sys2Proof.Machine

/-! ### Spans (R150, R171, R172) -/

/-- Places of registers side by side, counted through. -/
theorem flatMap_places {α : Type} (g : Nat → Nat → α) {n : Nat} (hn : 0 < n) : ∀ k : Nat,
    (List.range k).flatMap (fun i => (List.range n).map (g i)) = (List.range (k * n)).map fun i => g (i / n) (i % n)
  | 0 => by rw [Nat.zero_mul]; rfl
  | k + 1 => by
    have hlast : ∀ j ∈ List.range n, g k j = g ((k * n + j) / n) ((k * n + j) % n) := fun j hj => by
      have hj : j < n := List.mem_range.mp hj
      rw [Nat.mul_comm k n, Nat.mul_add_div hn, Nat.div_eq_of_lt hj, Nat.mul_add_mod, Nat.mod_eq_of_lt hj, Nat.add_zero]
    rw [List.range_succ, List.flatMap_append, flatMap_places g hn k, Nat.succ_mul, List.range_add, List.map_append, List.map_map,
      List.flatMap_singleton, List.map_congr_left hlast]
    rfl
/-- A span holds 32 elements. -/
theorem span_size {f : BitVec 4} (h : isF f = true) :
    32 * fmtBits f / 256 = spanLen f ∧ spanLen f * count f = 32 ∧ 0 < count f := by
  revert f
  decide
theorem add_ofNat_toNat {a : Spec} {i : Nat} (h : a.toNat + i < 64) : (a + BitVec.ofNat 6 i).toNat = a.toNat + i := by
  rw [BitVec.toNat_add, BitVec.toNat_ofNat]
  omega
/-- No stream register lies below q4 (Table 02.5). -/
theorem Cell.bound_low {c : Cell} {t : TIdx} {a : Spec} (h : a.toNat < 36) : c.bound t a = none := dif_neg fun e => Nat.not_le.mpr h e.1

/-! ### What QBLK writes (R171) -/

/-- A thread with byte `k` of a register replaced, where a byte is given. -/
def Thread.withByte (x : Thread) (b : Spec) : Option (Nat × Nat) → Thread
  | none => x
  | some (k, e) => x.setReg b (insBits (x.ownReg b) (8 * k) (8 * 1) e)

section
variable {x : Thread} {a b : Spec} {byte : Option (Nat × Nat)}

theorem Thread.withByte_pc : (x.withByte b byte).pc = x.pc := by cases byte <;> [rfl; exact Thread.setReg_pc ..]
theorem Thread.withByte_rseed : (x.withByte b byte).rseed = x.rseed := by cases byte <;> [rfl; exact Thread.setReg_rseed ..]
theorem Thread.withByte_next (n : Nat) : (x.withByte b byte).next n = x.next n := by cases byte <;> [rfl; exact setReg_next ..]
theorem Thread.ownReg_withByte_other (ha : a.toNat < 42) (h : a ≠ b) : (x.withByte b byte).ownReg a = x.ownReg a := by
  cases byte
  · rfl
  · exact Thread.ownReg_setReg_other ha h
theorem Thread.el_withByte {k e j : Nat} (hb : b.toNat < 32) (hj : j < 32) :
    el ((x.withByte b (some (k, e))).ownReg b) 8 j = if j = k then e % 256 else el (x.ownReg b) 8 j := by
  rw [Thread.withByte, Thread.ownReg_setReg_same (by omega), el_insBits_run _ _ (by omega)]
  by_cases h : j = k
  · subst h
    simp
  · rw [if_neg (by omega), if_neg h]

end

/-- The block goes to D, a computed scale code to B, and the block to the last-result file. -/
theorem qblkWrite_eq {d b : Spec} {r : Res} {byte : Option (Nat × Nat)} {s : State} (hd : s.cell.bound s.cell.last d = none)
    (hb : b.toNat < 32) (hbd : d ≠ b) : qblkWrite d b r byte s =
      s.modMe fun x => ((x.setReg d (r.over (s.held d))).withByte b byte).last d (r.over (s.held d)) := by
  have hval : s.cell.resVal s.cell.last s.freeIx d r = r.over (s.held d) := by
    rw [Cell.resVal, hd]
    rfl
  unfold qblkWrite
  rw [putRes_plain r hd, hval]
  cases byte with
  | none => exact modMe_modMe ..
  | some ke =>
    refine (modMe_modMe ..).trans (congrArg _ (funext fun x => ?_))
    dsimp only
    rw [Thread.getD_g hb, if_neg hbd.symm]
    rfl
/-- A scale code is a byte. -/
theorem qblkScale_lt (t : BitVec 4) (l : List FVal) : qblkScale t l < 256 := by
  unfold qblkScale
  dsimp only
  split
  · decide
  split
  · decide
  rw [clamp_eq (by decide)]
  omega
theorem scaleByte_eq (v : V256) (k : Nat) : scaleByte v k = v.toNat / 2 ^ (8 * k) % 256 := rfl

end Sys2Proof.Machine

namespace Sys2Proof.Stated

open Machine

/-! ### A thread that goes on -/

section
variable {x : Thread} {pc : BitVec 10} {l0 l1 : Loop} {w : Bool}

@[simp] theorem goes_pc : (goes pc l0 l1 w x).pc = pc := Thread.marker_pc ..
@[simp] theorem goes_pp : (goes pc l0 l1 w x).pp = false := Thread.marker_pp ..
@[simp] theorem goes_rseed : (goes pc l0 l1 w x).rseed = x.rseed := Thread.marker_rseed ..
@[simp] theorem goes_ownReg {a : Spec} : (goes pc l0 l1 w x).ownReg a = x.ownReg a := Thread.ownReg_marker _

end

theorem reg_eq_ownReg {s : State} {a : Spec} (ha : a.toNat < 42) : reg s a = s.me.ownReg a := Cell.reg_own ha
theorem reg_modMe {s : State} {f : Thread → Thread} {a : Spec} (ha : a.toNat < 42) :
    (s.modMe f).cell.reg s.cell.last a = (f s.me).ownReg a :=
  (Cell.reg_own ha).trans (congrArg (·.ownReg a) (Cell.th_modTh_same ..))
theorem th_modMe_other {s : State} {f : Thread → Thread} {u : TIdx} (hu : u ≠ s.cell.last) : (s.modMe f).cell.th u = s.cell.th u :=
  Cell.th_modTh_other _ _ hu.symm

/-! ### QBLK as it issues -/

/-- The 32 values of the span that begins at a register. -/
def spanVals (s : State) (a : Spec) : List FVal := (List.range 32).map fun i =>
  valueOf s.ef (el (reg s (a + BitVec.ofNat 6 (i / (256 / fmtBits s.ef)))) (fmtBits s.ef) (i % (256 / fmtBits s.ef)))
/-- The scale code of a block: the byte of B, or the one that the values need. -/
def blockScale (s : State) (a b : Spec) (x : BitVec 2) : Nat :=
  if x.getLsbD 1 then scaleByte (reg s b) (bit (x.getLsbD 0)) else qblkScale s.rf (spanVals s a)
/-- The codes of a block under a scale code, with the generator after them. -/
def blockCodes (s : State) (a b : Spec) (x : BitVec 2) : List Nat × W64 :=
  roundList (s.me.rsEff none) s.drnd (qblkEl (blockEl s.rf) (blockScale s a b x)) (spanVals s a) s.me.rseed
/-- The register that holds the block: all of D, or a half of it. -/
def blockInto (s : State) (d a b : Spec) (x : BitVec 2) : V256 :=
  if s.rf ≠ 13 then pack 8 (blockCodes s a b x).1
  else insBits (reg s d) (4 * (32 * bit (x.getLsbD 0))) (4 * 32) (packNat 4 (blockCodes s a b x).1)
/-- The block as the result of QBLK. -/
def blockRes (s : State) (d a b : Spec) (x : BitVec 2) : Res :=
  if s.rf ≠ 13 then .whole (pack 8 (blockCodes s a b x).1)
  else if bit (x.getLsbD 0) = 1 then .whole (insBits (reg s d) 128 128 (packNat 4 (blockCodes s a b x).1))
  else .low2 (BitVec.ofNat 64 (packNat 4 (blockCodes s a b x).1)) (BitVec.ofNat 64 (packNat 4 (blockCodes s a b x).1 / 2 ^ 64))
/-- The byte of B that takes a computed scale code. -/
def scaleWritten (s : State) (a b : Spec) (x : BitVec 2) : Option (Nat × Nat) :=
  if x.getLsbD 1 then none else some (bit (x.getLsbD 0), blockScale s a b x)

section
variable {s : State} {a b d : Spec} {x : BitVec 2}

theorem spanVals_length : (spanVals s a).length = 32 := (List.length_map _).trans (List.length_range ..)
theorem blockCodes_getD {j : Nat} (hj : j < 32) : (blockCodes s a b x).1.getD j 0 =
    qblkEl (blockEl s.rf) (blockScale s a b x) (modeAt (s.me.rsEff none) s.drnd s.me.rseed j) ((spanVals s a).getD j .nan) :=
  roundList_getD _ (spanVals_length.symm ▸ hj)
theorem blockCodes_seed : (blockCodes s a b x).2 = seedAt (s.me.rsEff none) s.drnd s.me.rseed 32 :=
  (roundList_seed ..).trans (by rw [spanVals_length])
theorem runAfter_vals (hc : s.me.cuts = []) (hF : isF s.ef = true) (ha : a.toNat + 32 * fmtBits s.ef / 256 ≤ 32) :
    ((s.runAfter [] a (spanLen s.ef)).flatMap fun v => els v (fmtBits s.ef) (count s.ef)).map (valueOf s.ef) = spanVals s a := by
  obtain ⟨hlen, h32, hpos⟩ := span_size hF
  rw [hlen] at ha
  have hrun : s.runAfter [] a (spanLen s.ef) = (List.range (spanLen s.ef)).map fun i => reg s (a + BitVec.ofNat 6 i) := by
    refine (List.map_map ..).trans (List.map_congr_left fun i hi => ?_)
    have hi : i < spanLen s.ef := List.mem_range.mp hi
    have hname : BitVec.ofNat 6 (a.toNat + i) = a + BitVec.ofNat 6 i := by rw [BitVec.ofNat_add, BitVec.ofNat_toNat, BitVec.setWidth_eq]
    rw [Function.comp_apply, hname, if_neg (by rintro rfl; have h46 : (0x2E : Spec).toNat = 46 := rfl; omega)]
    exact srcAfter_reg (Cell.bound_low (by rw [add_ofNat_toNat] <;> omega)) hc
  have hflat := flatMap_places (fun i j => el (reg s (a + BitVec.ofNat 6 i)) (fmtBits s.ef) j) hpos (spanLen s.ef)
  rw [h32] at hflat
  rw [hrun, List.flatMap_map]
  exact (congrArg (List.map (valueOf s.ef)) hflat).trans (List.map_map ..)
theorem held_seeded {k : W64} (hd : dstOk d = true) : (s.modMe fun y => { y with rseed := k }).held d = reg s d := by
  by_cases h0 : d = 0x2E
  · subst h0
    rfl
  · rw [held_eq_reg]
    exact (reg_modMe (dstOk_lt hd h0)).trans (reg_eq_ownReg (dstOk_lt hd h0)).symm

/-- The result of QBLK leaves the block in D. -/
theorem blockRes_over : (blockRes s d a b x).over (reg s d) = blockInto s d a b x := by
  unfold blockRes blockInto
  by_cases h13 : s.rf = 13
  · rw [if_neg (not_not.mpr h13), if_neg (not_not.mpr h13)]
    cases x.getLsbD 0
    · exact setLanes01_eq_insBits ..
    · rfl
  · rw [if_pos h13, if_pos h13]
    rfl

variable {h : Hdr} {pc : BitVec 10} {l0 l1 : Loop} (hg : s.me.guard h = true) (hc : s.me.cuts = []) (hf : Follows s 1 pc l0 l1)
  (hb : s.anyBound [d, a, b] = false) (hd : dstOk d = true) (hb32 : b.toNat < 32) (hdb : d ≠ b) (hF : isF s.ef = true)
  (hrf : s.rf = 13 ∨ (s.rf = 11 ∨ s.rf = 12) ∧ x.getLsbD 0 = false) (ha : a.toNat + 32 * fmtBits s.ef / 256 ≤ 32)
include hg hc hf hb hd hb32 hdb hF hrf ha

theorem qblk_gives : exec (.qblk h d a b x) s = .next (s.modMe fun y => goes pc l0 l1 h.w
    (((({ y with rseed := (blockCodes s a b x).2 } : Thread).setReg d (blockInto s d a b x)).withByte b (scaleWritten s a b x)).last d
      (blockInto s d a b x))) := by
  have hs : s.anyBound (if bit (x.getLsbD 0) = 1 then [d] else []) = false := anyBound_subset hb (by split <;> simp)
  have hd1 : s.anyBound [d] = false := anyBound_subset hb (by simp)
  have hspan : spanOk a (spanLen s.ef) = true := decide_eq_true ((span_size hF).1 ▸ ha)
  refine (issue_passes ?_ (.inl rfl) hg).trans (congrArg _ ?_)
  · have hfmt : (s.rf == 13 || ((s.rf == 11 || s.rf == 12) && bit (x.getLsbD 0) == 0)) = true := by
      rcases hrf with h13 | ⟨h11 | h12, hx⟩
      · rw [h13]
        rfl
      · rw [h11, hx]
        rfl
      · rw [h12, hx]
        rfl
    dsimp only
    rw [hd, hF, hspan, hfmt, isG, decide_eq_true hb32]
    rfl
  · dsimp only
    rw [streamNeed_none hs hd1]
    dsimp only
    rw [runAfter_vals hc hF ha, popAll_same hs, srcAfter_unbound hb hc (by simp), srcAfter_unbound hb hc (by simp)]
    change s.after h 1 (.done (qblkWrite d b (blockRes s d a b x) (scaleWritten s a b x)
      (s.modMe fun y => { y with rseed := (blockCodes s a b x).2 }))) = _
    rw [qblkWrite_eq (bound_modMe (anyBound_false hb (List.mem_cons_self ..))) hb32 hdb, modMe_modMe, held_seeded hd, blockRes_over]
    refine after_done_modMe ?_
    rw [last_next, Thread.withByte_next, setReg_next, Thread.last_pc, Thread.withByte_pc, Thread.setReg_pc]
    exact hf

/-- What QBLK leaves in D, B, the generator and the rest. -/
theorem qblk_leaves : ∃ t, exec (.qblk h d a b x) s = .next t ∧
    (d ≠ 0x2E → t.cell.reg s.cell.last d = blockInto s d a b x) ∧
    (∀ j, j < 32 → el (t.cell.reg s.cell.last b) 8 j =
      if j = bit (x.getLsbD 0) ∧ x.getLsbD 1 = false then blockScale s a b x else el (reg s b) 8 j) ∧
    t.me.rseed = seedAt (s.me.rsEff none) s.drnd s.me.rseed 32 ∧ t.me.pc = pc ∧ t.me.pp = false ∧ t.cell.pad = s.cell.pad ∧
    (∀ c : Spec, c.toNat < 40 → c ≠ d → c ≠ b → t.cell.reg s.cell.last c = reg s c) ∧
    ∀ u : TIdx, u ≠ s.cell.last → t.cell.th u = s.cell.th u := by
  have hb42 : b.toNat < 42 := by omega
  refine ⟨_, qblk_gives hg hc hf hb hd hb32 hdb hF hrf ha, fun h0 => ?_, fun j hj => ?_, ?_, ?_, ?_, rfl, fun c h40 hcd hcb => ?_,
    fun u hu => th_modMe_other hu⟩
  · have hd42 := dstOk_lt hd h0
    rw [reg_modMe hd42, goes_ownReg, Thread.ownReg_last hd42 (.inr rfl), Thread.ownReg_withByte_other hd42 hdb, Thread.ownReg_setReg_same hd42]
  · rw [reg_modMe hb42, goes_ownReg, Thread.ownReg_last hb42 (.inl (by omega)), scaleWritten]
    have hkeep (v : V256) : (({ s.me with rseed := (blockCodes s a b x).2 } : Thread).setReg d v).ownReg b = reg s b :=
      (Thread.ownReg_setReg_other hb42 hdb.symm).trans (reg_eq_ownReg hb42).symm
    cases hx : x.getLsbD 1
    · have he : blockScale s a b x < 256 := by
        rw [blockScale, if_neg (hx ▸ Bool.false_ne_true)]
        exact qblkScale_lt ..
      rw [if_neg Bool.false_ne_true, Thread.el_withByte hb32 hj, hkeep, Nat.mod_eq_of_lt he]
      simp
    · rw [if_pos rfl, if_neg (by simp), Thread.withByte, hkeep]
  · rw [modMe_me, goes_rseed, Thread.last_rseed, Thread.withByte_rseed, Thread.setReg_rseed]
    dsimp only
    exact blockCodes_seed
  · rw [modMe_me, goes_pc]
  · rw [modMe_me, goes_pp]
  · have hc42 : c.toNat < 42 := by omega
    rw [reg_modMe hc42, goes_ownReg, Thread.ownReg_last hc42 (.inl h40), Thread.ownReg_withByte_other hc42 hcb,
      Thread.ownReg_setReg_other hc42 hcd]
    exact (reg_eq_ownReg hc42).symm

end

/-! ### The elements of a block (R171) -/

section
variable {s : State} {a b d : Spec} {x : BitVec 2} {j : Nat}

theorem el_blockInto_bytes (h13 : s.rf ≠ 13) (hj : j < 32) : el (blockInto s d a b x) 8 j = qblkEl (blockEl s.rf) (blockScale s a b x)
    (modeAt (s.me.rsEff none) s.drnd s.me.rseed j) ((spanVals s a).getD j .nan) % 256 := by
  rw [blockInto, if_pos h13, el_pack _ (by omega), blockCodes_getD hj]
  rfl
/-- A block of 4-bit elements fills one half of D. -/
theorem el_blockInto_half (h13 : s.rf = 13) (hj : j < 32) : el (blockInto s d a b x) 4 (32 * bit (x.getLsbD 0) + j) =
    qblkEl 5 (blockScale s a b x) (modeAt (s.me.rsEff none) s.drnd s.me.rseed j) ((spanVals s a).getD j .nan) % 16 := by
  have hk : bit (x.getLsbD 0) ≤ 1 := by cases x.getLsbD 0 <;> decide
  rw [blockInto, if_neg (not_not.mpr h13), el_insBits_run _ _ (by omega), if_pos (by omega), Nat.add_sub_cancel_left, packNat_digit,
    blockCodes_getD hj, h13]
  rfl
theorem el_blockInto_rest (h13 : s.rf = 13) (hj : j < 64) (hk : j / 32 ≠ bit (x.getLsbD 0)) :
    el (blockInto s d a b x) 4 j = el (reg s d) 4 j := by
  rw [blockInto, if_neg (not_not.mpr h13), el_insBits_run _ _ (by omega), if_neg (by omega)]

end

end Sys2Proof.Stated

/-! SUPPORT. DQBLK as it issues (R136, R172), and the block formats as a whole. -/

namespace Sys2Proof.Machine

/-! ### Runs of registers (R150) -/

/-- A thread with registers from a g register upward replaced. -/
def Thread.setRun (x : Thread) (n : Nat) : List V256 → Thread
  | [] => x
  | v :: r => (x.setReg (BitVec.ofNat 6 n) v).setRun (n + 1) r

theorem foldl_setRun (d : Nat) : ∀ (l : List V256) (x : Thread) (k : Nat),
    (l.foldl (fun (p : Thread × Nat) v => (p.1.setReg (BitVec.ofNat 6 (d + p.2)) v, p.2 + 1)) (x, k)).1 = x.setRun (d + k) l
  | [], _, _ => rfl
  | _ :: r, _, k => foldl_setRun d r _ (k + 1)
theorem Thread.setRun_pc : ∀ (l : List V256) (x : Thread) (n : Nat), (x.setRun n l).pc = x.pc
  | [], _, _ => rfl
  | _ :: r, _, n => (Thread.setRun_pc r _ (n + 1)).trans (Thread.setReg_pc ..)
theorem Thread.setRun_rseed : ∀ (l : List V256) (x : Thread) (n : Nat), (x.setRun n l).rseed = x.rseed
  | [], _, _ => rfl
  | _ :: r, _, n => (Thread.setRun_rseed r _ (n + 1)).trans (Thread.setReg_rseed ..)
theorem Thread.setRun_next (k : Nat) : ∀ (l : List V256) (x : Thread) (n : Nat), (x.setRun n l).next k = x.next k
  | [], _, _ => rfl
  | _ :: r, _, n => (Thread.setRun_next k r _ (n + 1)).trans (setReg_next ..)
theorem Thread.ownReg_setRun_other {a : Spec} (ha : a.toNat < 42) : ∀ {l : List V256} {x : Thread} {n : Nat}, n + l.length ≤ 32 →
    a.toNat < n ∨ n + l.length ≤ a.toNat → (x.setRun n l).ownReg a = x.ownReg a
  | [], _, _, _, _ => rfl
  | v :: r, x, n, hn, h => by
    rw [List.length_cons] at hn h
    have hne : a ≠ BitVec.ofNat 6 n := by
      rintro rfl
      rw [BitVec.toNat_ofNat] at h
      omega
    rw [Thread.setRun, Thread.ownReg_setRun_other ha (by omega) (by omega), Thread.ownReg_setReg_other ha hne]
theorem Thread.ownReg_setRun {a : Spec} {l : List V256} {x : Thread} {n i : Nat} (hn : n + l.length ≤ 32) (hi : i < l.length)
    (h : a.toNat = n + i) : (x.setRun n l).ownReg a = l.getD i 0 := by
  induction l generalizing x n i with
  | nil => exact absurd hi (Nat.not_lt_zero i)
  | cons v r ih =>
    rw [List.length_cons] at hn hi
    cases i with
    | zero =>
      have ha : BitVec.ofNat 6 n = a := by rw [← show a.toNat = n from h, BitVec.ofNat_toNat, BitVec.setWidth_eq]
      rw [Thread.setRun, Thread.ownReg_setRun_other (by omega) (by omega) (by omega), ha, Thread.ownReg_setReg_same (by omega)]
      rfl
    | succ i => exact ih (by omega) (Nat.lt_of_succ_lt_succ hi) (by omega)

/-! ### The values of a block (R135, R136) -/

theorem blockVals_length (c : Cell) (f : BitVec 4) (k : Nat) (v : V256) : (c.blockVals f k v).length = 32 := by
  unfold Cell.blockVals
  split
  · simp [kc2, List.length_flatMap]
  · simp

end Sys2Proof.Machine

namespace Sys2Proof.Stated

open Machine

/-! ### DQBLK as it issues -/

/-- The codes of the values of a block under its scale byte, with the generator after them. -/
def spanCodes (s : State) (a b : Spec) (x : BitVec 2) : List Nat × W64 :=
  roundList (s.me.rsEff none) s.drnd (roundF s.rf)
    ((s.cell.blockVals s.ef x.toNat (reg s a)).map (scaled (scaleByte (reg s b) x.toNat))) s.me.rseed
/-- The registers of the span. -/
def spanRegs (s : State) (a b : Spec) (x : BitVec 2) : List V256 := (List.range (spanLen s.rf)).map fun i =>
  pack (fmtBits s.rf) (((spanCodes s a b x).1.drop (i * count s.rf)).take (count s.rf))

section
variable {s : State} {a b d : Spec} {x : BitVec 2}

theorem spanCodes_seed : (spanCodes s a b x).2 = seedAt (s.me.rsEff none) s.drnd s.me.rseed 32 :=
  (roundList_seed ..).trans (by rw [List.length_map, blockVals_length])
theorem spanCodes_getD {j : Nat} (hj : j < 32) : (spanCodes s a b x).1.getD j 0 = roundF s.rf
    (modeAt (s.me.rsEff none) s.drnd s.me.rseed j)
    (scaled (scaleByte (reg s b) x.toNat) ((s.cell.blockVals s.ef x.toNat (reg s a)).getD j .nan)) := by
  have hlen := blockVals_length s.cell s.ef x.toNat (reg s a)
  refine (roundList_getD .nan (by rw [List.length_map, hlen]; exact hj)).trans (congrArg _ ?_)
  rw [List.getD_eq_getElem?_getD, List.getD_eq_getElem?_getD, List.getElem?_map, List.getElem?_eq_getElem (hlen.symm ▸ hj)]
  rfl
theorem spanRegs_length : (spanRegs s a b x).length = spanLen s.rf := (List.length_map _).trans (List.length_range ..)
/-- An element of the span in its place of its register. -/
theorem el_spanRegs (hF : isF s.rf = true) {j : Nat} (hj : j < 32) :
    el ((spanRegs s a b x).getD (j / count s.rf) 0) (fmtBits s.rf) (j % count s.rf) = (spanCodes s a b x).1.getD j 0 % 2 ^ fmtBits s.rf := by
  obtain ⟨-, h32, hpos⟩ := span_size hF
  have hreg : j / count s.rf < spanLen s.rf := Nat.div_lt_of_lt_mul (by rw [Nat.mul_comm, h32]; exact hj)
  have hplace : j % count s.rf < count s.rf := Nat.mod_lt _ hpos
  have hj' : j / count s.rf * count s.rf + j % count s.rf = j := Nat.div_add_mod' ..
  rw [spanRegs, List.getD_eq_getElem?_getD, List.getElem?_map, List.getElem?_range hreg]
  dsimp only [Option.map_some, Option.getD_some]
  rw [el_pack _ (place_le hplace), List.getD_eq_getElem?_getD, List.getElem?_take_of_lt hplace, List.getElem?_drop, hj',
    ← List.getD_eq_getElem?_getD]

variable {h : Hdr} {pc : BitVec 10} {l0 l1 : Loop} (hg : s.me.guard h = true) (hc : s.me.cuts = []) (hf : Follows s 1 pc l0 l1)
  (hb : s.anyBound [d, a, b] = false) (ha : srcOk a = true) (hbs : srcOk b = true) (h11 : 11 ≤ s.ef.toNat) (h15 : s.ef ≠ 15)
  (hF : isF s.rf = true) (hx : x.toNat < blocksOf s.ef) (hd : d.toNat + 32 * fmtBits s.rf / 256 ≤ 32)
include hg hc hf hb ha hbs h11 h15 hF hx hd

theorem dqblk_gives : exec (.dqblk h d a b x) s = .next (s.modMe fun y => goes pc l0 l1 h.w
    ((({ y with rseed := (spanCodes s a b x).2 } : Thread).setRun d.toNat (spanRegs s a b x)).last d ((spanRegs s a b x).headD 0))) := by
  have hs : s.anyBound [a, b].eraseDups = false := anyBound_subset hb fun _ hm => .tail _ (List.mem_eraseDups.mp hm)
  have hspan : spanOk d (spanLen s.rf) = true := decide_eq_true ((span_size hF).1 ▸ hd)
  refine (issue_passes ?_ (.inl rfl) hg).trans (congrArg _ ?_)
  · have hW : isW s.ef = true := bne_iff_ne.mpr h15
    simp [okSpecs, ha, hbs, h11, hW, hF, hx, hspan]
  · dsimp only
    rw [streamNeed_none hs (anyBound_nil s)]
    dsimp only
    simp only [foldl_setRun]
    rw [popAll_same hs, src_unbound hb hc (by simp), srcAfter_unbound hb hc (by simp)]
    change s.after h 1 (.done (s.modMe fun y =>
      ((({ y with rseed := (spanCodes s a b x).2 } : Thread).setRun d.toNat (spanRegs s a b x)).last d ((spanRegs s a b x).headD 0)))) = _
    refine after_done_modMe ?_
    rw [last_next, Thread.setRun_next, Thread.last_pc, Thread.setRun_pc]
    exact hf
theorem dqblk_leaves : ∃ t, exec (.dqblk h d a b x) s = .next t ∧
    (∀ i, i < spanLen s.rf → t.cell.reg s.cell.last (d + BitVec.ofNat 6 i) = (spanRegs s a b x).getD i 0) ∧
    t.me.rseed = seedAt (s.me.rsEff none) s.drnd s.me.rseed 32 ∧ t.me.pc = pc ∧ t.me.pp = false ∧ t.cell.pad = s.cell.pad ∧
    ∀ c : Spec, c.toNat < d.toNat ∨ d.toNat + 32 * fmtBits s.rf / 256 ≤ c.toNat → c.toNat < 40 → t.cell.reg s.cell.last c = reg s c := by
  obtain ⟨hlen, -, -⟩ := span_size hF
  have hrun : d.toNat + (spanRegs s a b x).length ≤ 32 := by rw [spanRegs_length, ← hlen]; exact hd
  refine ⟨_, dqblk_gives hg hc hf hb ha hbs h11 h15 hF hx hd, fun i hi => ?_, ?_, ?_, ?_, rfl, fun c hout h40 => ?_⟩
  · have hname : (d + BitVec.ofNat 6 i).toNat = d.toNat + i := add_ofNat_toNat (by omega)
    have hlt : d.toNat + i < 32 := by omega
    rw [reg_modMe (by omega), goes_ownReg, Thread.ownReg_last (by omega) (.inl (by omega)),
      Thread.ownReg_setRun hrun (spanRegs_length.symm ▸ hi) hname]
  · rw [modMe_me, goes_rseed, Thread.last_rseed, Thread.setRun_rseed]
    dsimp only
    exact spanCodes_seed
  · rw [modMe_me, goes_pc]
  · rw [modMe_me, goes_pp]
  · have hc42 : c.toNat < 42 := by omega
    rw [reg_modMe hc42, goes_ownReg, Thread.ownReg_last hc42 (.inl h40),
      Thread.ownReg_setRun_other hc42 hrun (by rw [spanRegs_length, ← hlen]; exact hout)]
    exact (reg_eq_ownReg hc42).symm

end

/-! ### The block formats as a whole (R135, R136, R171, R172) -/

theorem blockScale_eq {s : State} {a b : Spec} {x : BitVec 2} {e k : Nat} (hk : k = if x.getLsbD 0 then 1 else 0)
    (he : e = if x.getLsbD 1 then (reg s b).toNat / 2 ^ (8 * k) % 256 else qblkScale s.rf (spanVals s a)) : blockScale s a b x = e := by
  subst hk he
  rfl

theorem blockFormats : Sys2Proof.Stated.BlockFormats := by
  intro h d a b s pc l0 l1 hg hc hf hb
  refine ⟨fun x e vals hd hb32 hdb hF hrf hx0 ha hvals he => ?_, fun x e k vals hd h0 hb32 hdb hF hrf hk ha hvals he => ?_,
    fun x ha hbs h11 h15 hF hx hd => ?_⟩
  · obtain rfl : vals = spanVals s a := hvals
    have hscale : blockScale s a b x = e :=
      blockScale_eq (k := 0) (hx0 ▸ rfl) (by rw [Nat.mul_zero, pow_zero, Nat.div_one]; exact he)
    have h13 : s.rf ≠ 13 := by rcases hrf with h11 | h12 <;> simp [*]
    obtain ⟨t, ht, htd, htb, hseed, hpc, hpp, hpad, hrest, hth⟩ := qblk_leaves hg hc hf hb hd hb32 hdb hF (.inr ⟨hrf, hx0⟩) ha
    rw [hscale, hx0] at htb
    refine ⟨t, ht, fun h0 j hj => ?_, ?_, fun j h1 hj => ?_, hseed, hpc, hpp, hpad, hrest, hth⟩
    · rw [htd h0, el_blockInto_bytes h13 hj, hscale]
    · rw [htb 0 (by decide)]
      cases x.getLsbD 1 <;> rfl
    · rw [htb j hj, if_neg fun e => absurd e.1 (Nat.ne_of_gt h1)]
  · obtain rfl : vals = spanVals s a := hvals
    obtain rfl : k = bit (x.getLsbD 0) := hk
    have hscale : blockScale s a b x = e := blockScale_eq rfl (hrf ▸ he)
    obtain ⟨t, ht, htd, htb, hseed, hpc, -⟩ := qblk_leaves hg hc hf hb hd hb32 hdb hF (.inl hrf) ha
    rw [hscale] at htb
    refine ⟨t, ht, fun j hj => ?_, fun j hj hk => ?_, ?_, fun j hk hj => ?_, hseed, hpc⟩
    · rw [htd h0, el_blockInto_half hrf hj, hscale]
    · rw [htd h0, el_blockInto_rest hrf hj hk]
    · rw [htb _ (by cases x.getLsbD 0 <;> decide)]
      cases x.getLsbD 1 <;> simp
    · rw [htb j hj, if_neg fun e => hk e.1]
  · obtain ⟨t, ht, htd, hseed, hpc, hpp, hpad, hrest⟩ := dqblk_leaves hg hc hf hb ha hbs h11 h15 hF hx hd
    refine ⟨t, ht, fun j hj => ?_, hseed, hpc, hpp, hpad, hrest⟩
    have hreg : j / count s.rf < spanLen s.rf := Nat.div_lt_of_lt_mul (by rw [Nat.mul_comm, (span_size hF).2.1]; exact hj)
    rw [show 256 / fmtBits s.rf = count s.rf from rfl, htd _ hreg, el_spanRegs hF hj, spanCodes_getD hj, scaleByte_eq]

end Sys2Proof.Stated

/-- Settles O13: VRINT and CVT round in element order (`roundedResults`); QBLK and DQBLK (`blockFormats`). -/
theorem roundedAndBlockResults : Obligations.RoundedAndBlockResults := ⟨Sys2Proof.Stated.roundedResults, Sys2Proof.Stated.blockFormats⟩
